-- ==== Sys2Proof/Word.lean ====
section
/-! DEFINITION. The words of the OX-7160: bytes, 16-, 32-, 64- and 128-bit words, and a list of bytes. -/

namespace Sys2Proof

/-- One byte. -/
abbrev Byte := BitVec 8
/-- One 16-bit word. -/
abbrev Half := BitVec 16
/-- One register: 32 bits, little-endian (R7). -/
abbrev Word := BitVec 32
/-- One 64-bit word: a sync word's VALUE, a counter, an address. -/
abbrev Dword := BitVec 64
/-- One 128-bit instruction word (R86). -/
abbrev Quad := BitVec 128
/-- A string of bytes, lowest address first. -/
abbrev Bytes := List Byte

end Sys2Proof
end

