-- ==== Sys2Proof/Syntax.lean ====
section
/-! DEFINITION. The commands of the OX-7160: one constructor of `Instr` for each row of the opcode table, with what the
environment says when it sends the command (which core, which port, what the host's memory answered, what was measured). -/

namespace Sys2Proof

/-- A matrix core MC_0 to MC_7. -/
abbrev CoreId := Fin 8
/-- A context CONTEXT_0 to CONTEXT_63 (R274). -/
abbrev CtxId := Fin 64
/-- A ring pair RING_0 to RING_15 (R275). -/
abbrev RingId := Fin 16
/-- A link port, indexed as R210: X+, X−, Y+, Y−, Z+, Z−. -/
abbrev PortId := Fin 6
/-- A cord of a port (R210). -/
abbrev CordId := Fin 12
/-- A leaf: 0 is A, 1 is B (R9). -/
abbrev LeafId := Fin 2
/-- What the host's memory answers to a read: its bytes, or `none` for an error completion or poisoned data. -/
abbrev HostRead := Option Bytes

/-- The queues of a core (R83). -/
inductive CoreUnit where
  | ar | ex | vu | se | cx | rg
deriving DecidableEq, Repr

/-- The two MCTP media (R377). -/
inductive Medium where
  | i3c | vdm
deriving DecidableEq, Repr

/-- What carries an SPDM message: DOE of the physical function, or MCTP on a medium (R351, R377). -/
inductive Carrier where
  | doe
  | mctp (m : Medium)
deriving DecidableEq, Repr

/-- How an MCTP request comes: on which medium, and as a secured message of which session (R377, R378). -/
structure Mctp where
  medium : Medium
  session : Option Nat
deriving DecidableEq, Repr

/-- Who makes a register access (R395); the code of R362 is `Dev.originCode`. -/
inductive Origin where
  /-- The function of the context: 0 is the physical function. -/
  | fn (c : CtxId)
  /-- The management path (R378). -/
  | mgmt (m : Mctp)
  /-- The JTAG port (R360). -/
  | jtag
deriving DecidableEq, Repr

/-- The path by which a mailbox command arrives (R381): BAR0, or MCTP with its input words. -/
inductive MbxVia where
  | bar0
  | mctp (m : Mctp) (words : List Word)
deriving DecidableEq, Repr

/-- A register read of the management path (R378). -/
structure MgmtRead where
  via : Mctp
  offset : Nat
deriving DecidableEq, Repr

/-- A sync operation (R264, coded as FOP of R97). -/
inductive SyncOp where
  | writeFill | readEmpty | readPeek | fetchAddFull | clear | writeForce
deriving DecidableEq, Repr

/-- What arrives at a leaf's sync memory (R265). -/
inductive SyncArrival where
  /-- The oldest operation that crosses the spine towards the leaf (R264). -/
  | spine (leaf : LeafId)
  /-- An operation of another module of the board: its packet, and the port it came by (R240, R266). -/
  | board (port : PortId) (packet : Bytes)
deriving DecidableEq, Repr

/-- What the receiver's decoder made of a flit (R215): its 256 bytes, or more than 8 symbols wrong. -/
inductive FlitIn where
  | uncorrectable
  | decoded (corrected : Nat) (bytes : Bytes)
deriving DecidableEq, Repr

/-- An SPDM request (R351). -/
inductive SpdmReq where
  | getVersion
  | getCapabilities
  | negotiateAlgorithms
  | getDigests
  | getCertificate (slot : Nat)
  | challenge (slot : Nat)
  | getMeasurements (index : Nat)
  | keyExchange
  | heartbeat
  | endSession
deriving DecidableEq, Repr

/-- An SPDM request, what carries it, and the secure session it comes in (R351). -/
structure SpdmMsg where
  carrier : Carrier
  session : Option Nat
  req : SpdmReq
deriving DecidableEq, Repr

/-- A memory of the station as debug level 2 opens it, by byte addresses (R360): a core's buffer, GDDR7, the CXL tier, compare memory, the
values of the sync words. -/
inductive DebugMem where
  | buffer (core : CoreId)
  | gddr | cxl | cmem | sync
deriving DecidableEq, Repr

/-- An IDE_KM request (R358). -/
inductive IdeReq where
  | setKey (key : Bytes)
  | enable
  | disable
  | secureAgain
deriving DecidableEq, Repr

/-- A JTAG instruction (R409). -/
inductive JtagReq where
  | idcode | bypass
  | readReg (offset : Nat)
  | writeReg (offset : Nat) (value : Word)
  | boundaryScan
  | scanChain
  /-- A read of `n` bytes, or a write, at an address of a memory (R360). -/
  | readMem (mem : DebugMem) (addr n : Nat)
  | writeMem (mem : DebugMem) (addr : Nat) (data : Bytes)
deriving DecidableEq, Repr

/-- What a BAR4 access asks (R402): a read of `n` bytes, or a write. -/
inductive WinAccess where
  | read (n : Nat)
  | write (data : Bytes)
deriving DecidableEq, Repr

/-- What the target of a board access or the receiver of a transfer returns (R174, R238, R240): `fault` for an access that was not performed,
`marked` for a load whose data carries a mark. -/
inductive AckKind where
  | written | detached | refused | closed | fault (status : Byte) | marked (status : Byte)
deriving DecidableEq, Repr

/-- A memory error met by an access, told by the environment (R253, R262). -/
inductive MemEvent where
  | corrected | uncorrectable
deriving DecidableEq, Repr

/-- A memory error that the checks of a read find (R248, R253, R140, R263): what decays in a memory is told by the environment
with the command that reads. -/
inductive Found where
  /-- A 64-byte sector of a GDDR7 frame (R253). -/
  | gddr (frame sector : Nat) (e : MemEvent)
  /-- Bus CRC retries on a channel (R253). -/
  | crcRetry (count : Nat)
  /-- A 64-byte line of the CXL tier read poisoned from its device (R263). -/
  | cxlPoison (line : Nat)
  /-- A CMEM row, by its row index (R140). -/
  | cmemRow (row : Nat) (e : MemEvent)
  /-- A line of a core buffer read uncorrectable (R248). -/
  | bufLine (core line : Nat)
  /-- A sync word read uncorrectable (R248). -/
  | syncWord (word : Nat)
  /-- A decoder of a core consumes or produces a wrong count in a record of the next folded tile it decodes (R121, check 5). -/
  | decoder (core record : Nat)
deriving DecidableEq, Repr

/-- Voltage (mV), current (10 mA) and power (W) of one rail in one sample (R306). -/
structure RailSample where
  mv : Nat := 0
  ma10 : Nat := 0
  watts : Nat := 0
deriving DecidableEq, Repr, Inhabited

/-- The commands. The names are the rows of the opcode table in lower camel case. -/
inductive Instr where
  -- the core program: the sequencer of the core executes or issues the instruction at its pc
  /-- R98. -/ | nop (core : CoreId)
  /-- R98. -/ | halt (core : CoreId)
  /-- R77. -/ | phase (core : CoreId)
  /-- R98. -/ | bar (core : CoreId)
  /-- R48. -/ | mxm (core : CoreId)
  /-- R63. -/ | dist (core : CoreId)
  /-- R51. -/ | ldw (core : CoreId) (found : List Found)
  /-- R100. -/ | vec (core : CoreId) (found : List Found)
  /-- R93. -/ | cvt (core : CoreId) (found : List Found)
  /-- R94. -/ | mov (core : CoreId) (found : List Found)
  /-- R105. -/ | fsc (core : CoreId)
  /-- R106: the iteration of one stage of the `run`-th running fused command of the core; of an MXM or DIST stage, `gap` empty slots
  stood before its block and runs of consecutive `bubbles` arise within it (R66, R68). -/
  | fusedStageIteration (core : CoreId) (run : Fin 4) (stage : Fin 8) (gap : Nat) (bubbles : List Nat) (found : List Found)
  /-- R136. -/ | topkCmem (core : CoreId) (found : List Found)
  /-- R141. -/ | topkScan (core : CoreId) (found : List Found)
  /-- R143. -/ | topkMerge (core : CoreId) (found : List Found)
  /-- R96. -/ | send (core : CoreId) (found : List Found)
  /-- R176. -/ | recv (core : CoreId)
  /-- R264, issued by FE (R97). -/ | writeFill (core : CoreId)
  /-- R264. -/ | readEmpty (core : CoreId)
  /-- R264. -/ | readPeek (core : CoreId)
  /-- R264. -/ | fetchAddFull (core : CoreId)
  /-- R264. -/ | clear (core : CoreId)
  /-- R264. -/ | writeForce (core : CoreId)
  -- events of the cores
  /-- R265. -/ | syncOpArrival (arrival : SyncArrival) (found : List Found)
  /-- R265. -/ | heldOpRepresent (leaf : LeafId) (found : List Found)
  /-- R84. -/ | instructionComplete (core : CoreId) (unit : CoreUnit) (found : List Found)
  /-- R52. -/ | mxmLoadBegin (core : CoreId)
  /-- R52: runs of consecutive `bubbles` arise within the block (R66); `gap` empty slots stood before it, of which
  keep-warm filled its share (R68). -/
  | blockStreamBegin (core : CoreId) (gap : Nat) (bubbles : List Nat) (found : List Found)
  /-- R55: the next completed row of the array is drained. -/ | rowDrain (core : CoreId) (array : Fin 4)
  /-- R68: `slots` empty row slots have passed in the 4 µs. -/ | keepwarmTimeout (core : CoreId) (slots : Nat)
  /-- R68. -/ | keepwarmStepDown (core : CoreId)
  /-- R77. -/ | phaseBoundary
  /-- R78. -/ | runStart
  -- power, clocks and heat
  /-- R313. -/ | oppSwitchWindow
  /-- R314: the window resumes after a pause of `pausedNs`. -/ | oppWindowResume (pausedNs : Nat)
  /-- R314. -/ | oppChangeAbandon
  /-- R310. -/ | droopCrossing (core : CoreId) (level : Fin 4)
  /-- R310. -/ | stretchDecay (core : CoreId)
  /-- R306: input (10 mV, 10 mA, W) and the 20 rails of R304 in table order. -/
  | powerSample (inMv10 inMa10 inW : Nat) (rails : List RailSample)
  /-- R322: the 72 die sensors in °C. -/ | thermalSample (readings : List Nat)
  /-- R322. -/ | thermalStep
  /-- R322. -/ | thermalStepUndo
  /-- R323. -/ | thermalStop
  /-- R312. -/ | boostAccounting
  /-- R312. -/ | boostFlashUpdate
  /-- R327. -/ | coolantFaultLow
  /-- R327. -/ | coolantStop
  /-- R327: a write of PWR_STOP. -/ | pwrStopResume (org : Origin) (value : Word)
  /-- R326. -/ | idleEntry
  /-- R326. -/ | idleWake
  /-- R326. -/ | unannouncedWake
  -- host rings
  /-- R276, R279: a write of `size` bytes to BAR2 of function `fn`. -/
  | sqTailDoorbell (fn : CtxId) (offset size : Nat) (value : Dword)
  /-- R279. -/ | cqHeadDoorbell (fn : CtxId) (offset size : Nat) (value : Dword)
  /-- R280. -/ | descriptorFetch (ctx : CtxId) (ring : RingId) (resp : HostRead)
  /-- R282. -/ | descriptorAccept (ctx : CtxId)
  /-- R287. -/ | item (ctx : CtxId) (input : HostRead)
  /-- R288. -/ | run (ctx : CtxId)
  /-- R295. -/ | abort (ctx : CtxId) (ring : RingId)
  /-- R289. -/ | bindLoad (ctx : CtxId) (container : HostRead)
  /-- R289. -/ | bindSwitch (ctx : CtxId)
  /-- R236. -/ | gatherForm (ctx : CtxId) (record : HostRead)
  /-- R236. -/ | formationMessage (port : PortId) (packet : Bytes)
  /-- R236. -/ | gatherFormTimeout
  /-- R290. -/ | gatherRelease (ctx : CtxId)
  /-- R190. -/ | editionLoad (ctx : CtxId) (manifest image : HostRead)
  /-- R196. -/ | editionUnload (ctx : CtxId)
  /-- R292. -/ | digestInstall (ctx : CtxId) (entries : HostRead)
  /-- R292. -/ | digestRemove (ctx : CtxId)
  /-- R124. -/ | bindPassStart (ctx : CtxId)
  /-- R194. -/ | bindPassEnd (ctx : CtxId)
  /-- R201. -/ | stage (ctx : CtxId) (manifest image : HostRead)
  /-- R202. -/ | close (ctx : CtxId)
  /-- R202. -/ | barrierClosed (ctx : CtxId)
  /-- R204. -/ | commit (ctx : CtxId)
  /-- R204. -/ | commitWrite (ctx : CtxId)
  /-- R203. -/ | kettleOpen (ctx : CtxId)
  /-- R284. -/ | replace (ctx : CtxId)
  /-- R249. -/ | map (ctx : CtxId)
  /-- R250. -/ | mapFramesReady
  /-- R250. -/ | unmap (ctx : CtxId)
  /-- R250: tier (false GDDR7) and frame. -/ | frameClear (cxl : Bool) (frame : Nat)
  /-- R293. -/ | copy (ctx : CtxId) (data : HostRead) (found : List Found)
  /-- R366. -/ | colophonDrain (ctx : CtxId)
  /-- R333. -/ | itemResultCopy (found : List Found)
  /-- R297. -/ | irqModerationTimeout (ctx : CtxId) (ring : RingId)
  -- context registers and resets
  /-- R278: a write of CTX_ENABLE with ENABLE = 1. -/ | contextEnable (org : Origin) (ctx : CtxId) (value : Word)
  /-- R278. -/ | contextDisable (org : Origin) (ctx : CtxId) (value : Word)
  /-- R278. -/ | ringPairEnable (org : Origin) (ctx : CtxId) (ring : RingId) (value : Word)
  /-- R278. -/ | ringPairDisable (org : Origin) (ctx : CtxId) (ring : RingId) (value : Word)
  /-- R295. -/ | ctxAbort (org : Origin) (ctx : CtxId) (value : Word)
  /-- R278. -/ | functionLevelReset (fn : CtxId)
  /-- R394, R373: the level PERST_N takes. -/ | perstN (level : Bool)
  /-- R394. -/ | hotReset
  -- mailbox and management
  /-- R382. -/ | info (via : MbxVia) (arg : Half)
  /-- R384. -/ | fwBegin (via : MbxVia) (arg : Half)
  /-- R385: whether the flash write and compare succeed. -/ | fwEnd (via : MbxVia) (arg : Half) (flashOk : Bool)
  /-- R386. -/ | fwActivate (via : MbxVia) (arg : Half)
  /-- R386. -/ | restart (via : MbxVia) (arg : Half)
  /-- R383. -/ | logRead (via : MbxVia) (arg : Half)
  /-- R382. -/ | dumpRead (via : MbxVia) (arg : Half)
  /-- R382. -/ | telemetry (via : MbxVia) (arg : Half)
  /-- R388. -/ | shutdown (via : MbxVia) (arg : Half)
  /-- R388. -/ | shutdownFinish
  /-- R381. -/ | mbxDataWrite (org : Origin) (word : Word)
  /-- R381. -/ | mbxDataRead (org : Origin)
  /-- R386: whether the boot ROM could read the image from flash. -/ | finisherRestartDone (flashReadOk : Bool)
  /-- R371. -/ | finisherWatchdog (dump : Bytes)
  /-- R378. -/ | regRead (req : MgmtRead)
  /-- R378. -/ | regWrite (via : Mctp) (offset : Nat) (value : Word)
  /-- R378. -/ | mctpMailbox (via : Mctp) (cmd : Byte) (arg : Half) (words : List Word)
  /-- R377. -/ | setEndpointId (medium : Medium) (eid : Byte)
  /-- R380. -/ | requestFirmwareData (offset : Nat) (data : Bytes)
  /-- R380. -/ | activateFirmware
  /-- R379. -/ | setEventReceiver (medium : Medium) (eid : Byte)
  /-- R379. -/ | sensorRefresh
  -- security
  /-- R351. -/ | spdmRequest (msg : SpdmMsg)
  /-- R353. -/ | setContextKey (session : Nat) (ctx : CtxId) (key : Bytes)
  /-- R358. -/ | ideKm (session : Nat) (req : IdeReq)
  /-- R358. -/ | ideNotSecure
  /-- R359. -/ | unlockTokenWord (org : Origin) (word : Word)
  /-- R359. -/ | unlockLockoutExpiry
  /-- R409. -/ | jtagInstruction (req : JtagReq)
  /-- R355: a write of CTX_ANCHOR_SEL. -/ | anchorCommit (org : Origin) (ctx : CtxId) (value : Word)
  /-- R355. -/ | anchorRemove (org : Origin) (ctx : CtxId) (value : Word)
  -- links
  /-- R230: a write of LNK_PLAN_SELF. -/ | planApply (org : Origin) (value : Word)
  /-- R219, R224: of an optical cord in DETECT, with the host lanes and the Gbit/s of each that its module's CMIS pages show. -/
  | cordStateAdvance (port : PortId) (cord : CordId) (lanes gbps : Nat)
  /-- R219. -/ | cordTrainingTimeout (port : PortId) (cord : CordId)
  /-- R220. -/ | cordDrop (port : PortId) (cord : CordId)
  /-- R220. -/ | cordRetrain (port : PortId) (cord : CordId)
  /-- R220. -/ | cordSet (port : PortId) (msg : Bytes)
  /-- R221. -/ | cordPower (port : PortId) (msg : Bytes)
  /-- R221. -/ | cordWake (port : PortId)
  /-- R222. -/ | stopping (port : PortId) (msg : Bytes)
  /-- R222. -/ | portLost (port : PortId)
  /-- R228. -/ | helloSend (port : PortId)
  /-- R231. -/ | helloReceive (port : PortId) (msg : Bytes)
  /-- R228. -/ | helloTimeout (port : PortId)
  /-- R231. -/ | portAbsent (port : PortId)
  /-- R224. -/ | moduleFlag (port : PortId) (cord : CordId)
  /-- R356. -/ | keyCert (port : PortId) (msg : Bytes)
  /-- R356. -/ | keyShare (port : PortId) (msg : Bytes)
  /-- R357. -/ | keySwitch (port : PortId) (msg : Bytes)
  /-- R357. -/ | keyEpochRenewal (port : PortId)
  /-- R357. -/ | keyAgreementRetry (port : PortId)
  /-- R226. -/ | tagGroupClose (port : PortId)
  /-- R226. -/ | tagFlit (port : PortId) (flit : Bytes)
  /-- R235. -/ | transit (port : PortId) (msg : Bytes)
  /-- R241. -/ | timeSyncExchange
  /-- R241: the four times of the exchange, in ps. -/ | timeSync (port : PortId) (t1 t2 t3 t4 : Nat)
  /-- R241: rate in ppm and the timestamp from which it applies. -/ | timeSteer (port : PortId) (ppm : Int) (at_ : Nat)
  /-- R241. -/ | timeSteerApply
  /-- R215. -/ | flitReceive (port : PortId) (flit : FlitIn)
  /-- R215. -/ | nakReceive (port : PortId) (number : Half)
  /-- R215. -/ | ackTimer (port : PortId)
  -- circulation and stationed running
  /-- R159. -/ | signatureArrival (port : PortId) (packet : Bytes)
  /-- R166. -/ | signaturePlacement
  /-- R164. -/ | injectionBegin (found : List Found)
  /-- R177. -/ | signatureBuildDone (leaf : LeafId)
  /-- R174. -/ | activationMessage (port : PortId) (packet : Bytes)
  /-- R146. -/ | shortlistPacket (port : PortId) (packet : Bytes)
  /-- R240. -/ | boardStore (port : PortId) (packet : Bytes)
  /-- R240. -/ | boardLoadRequest (port : PortId) (packet : Bytes)
  /-- R240. -/ | boardLoadResponse (port : PortId) (packet : Bytes)
  /-- R174. -/ | acknowledgement (port : PortId) (packet : Bytes)
  /-- R174. -/ | lagExpiry (src : BitVec 12) (tag : Half)
  /-- R163. -/ | controlStart (port : PortId) (packet : Bytes)
  /-- R172. -/ | controlAbort (port : PortId) (packet : Bytes)
  /-- R179. -/ | passStart (mb : Fin 8)
  -- editions and memory
  /-- R198. -/ | scrubSweepStart (ctx : CtxId) (found : List Found)
  /-- R253. -/ | patrol (frame : Nat) (found : List Found)
  /-- R255. -/ | frameRetirement (frame : Nat)
  /-- R262. -/ | cxlTimeout (device : Fin 4) (ctx : CtxId) (va : Nat) (write : Bool)
  /-- R262. -/ | cxlLinkDown (device : Fin 4)
  /-- R261: a write of CXL_CFG with ENUM = 1. -/ | cxlEnumerate (org : Origin) (value : Word)
  /-- R375. -/ | cxlReadyTimeout
  /-- R263. -/ | cxlEventRecord (device : Fin 4) (record : Bytes)
  /-- R269: the `index`-th wait that the watchdog watches is older than SYNC_WDOG. -/ | stallDetected (index : Nat)
  /-- R269. -/ | stallListRead (org : Origin)
  /-- R364. -/ | checkpoint
  -- faults
  /-- R337: KIND of ERR_CORE, 1 to 6. -/ | coreFault (core : CoreId) (kind : Fin 8)
  /-- R338: a write of ERR_CORE_PARK. -/ | coreRetestRequest (org : Origin) (value : Word)
  /-- R338. -/ | coreRetest (core : CoreId) (passed : Bool)
  /-- R339. -/ | internalFault (leaf : LeafId) (unit : Byte)
  /-- R339. -/ | leafTestEnd (passed : Bool)
  -- start-up and supply
  /-- R372: the input passes 46 V, with the MODULE_POS pins as they stand and whether flash can be read. -/
  | powerUp (modulePos : BitVec 2) (flashReadOk : Bool)
  /-- R375: every channel trained, or one failed three times. -/ | gddr7Trained (ok : Bool)
  /-- R372. -/ | stationReady
  /-- R305. -/ | supplyCollapse
  /-- R405. -/ | moduleRemoval
  /-- R413. -/ | hotswapOpen
  /-- R413. -/ | hotswapClose (modulePos : BitVec 2) (flashReadOk : Bool)
  /-- R308. -/ | refclkLoss
  -- registers
  /-- R401: a write of GLB_RESET, bit 16. -/ | resetContexts (org : Origin) (value : Word)
  /-- R401. -/ | resetCxl (org : Origin) (value : Word)
  /-- R401. -/ | resetPorts (org : Origin) (value : Word)
  /-- R271: a write of DBG_SYNC_SET. -/ | dbgSyncSetForce (org : Origin) (value : Word)
  /-- R271. -/ | dbgSyncSetClear (org : Origin) (value : Word)
  /-- R183: a write of LNK_STAGE_OCC_n. -/ | lnkStagePeakReset (org : Origin) (leaf : LeafId) (value : Word)
  /-- R392, R398: a read at a BAR0 offset, of a function's standard registers from 2^24 on, or of the doorbell pages from 2^25 on
  (log 76); `wide` reads 8 bytes. -/ | loReadLatch (org : Origin) (offset : Nat) (wide : Bool)
  /-- R398. -/ | hiReadLatched (org : Origin) (offset : Nat)
  /-- R392: an access of unsupported size or alignment. -/
  | bar0BadAccess (org : Origin) (write : Bool) (offset size : Nat)
  /-- R402: an access at an offset of BAR4. -/ | boardWindowAccess (offset : Nat) (acc : WinAccess)
  /-- R392, R396: a write at a BAR0 offset, or of a function's standard registers from 2^24 on (log 76); `wide` writes 8 bytes. -/ | registerWrite (org : Origin) (offset : Nat) (wide : Bool) (value : Dword)
  -- pins and the remaining events
  /-- R327. -/ | coolantFaultHigh
  /-- R411. -/ | referenceClockReturn
  /-- R380. -/ | requestUpdate
  /-- R375: the link of a CXL device is up with media ready, with the capacity it reports, in MiB. -/
  | cxlMediaReady (device : Fin 4) (capacityMib : Nat)
deriving DecidableEq, Repr

end Sys2Proof
end

