-- ==== Sys2Proof/Decode.lean ====
section
/-! DEFINITION. The command a word of the opcode table spells. No row of the table gives bits: a command reaches the station as
an access, a message or an event, never as a word of the table. So no word spells one. (The words the station itself decodes,
the instruction words of R86 to R98, are decoded in Machine/Words.lean.) -/

namespace Sys2Proof

/-- The command that `nbits` bits of a word spell by the table: none, for the table gives no row any bits. -/
def decodeTableWord (_nbits _w : Nat) : Option Instr := none

end Sys2Proof
end

