-- ==== Sys2Proof/Config.lean ====
section
/-! DEFINITION. What an implementation fixes and what the manual leaves open: constants with no body, so that no proof can
see a value of theirs (logs 2, 10 to 13). -/

namespace Sys2Proof

/-- A fresh value the manual does not fix, for the `n`-th time one is needed (log 2). -/
opaque Config.freeNat : Nat → Nat
/-- The free FP32 result of a transcendental operation (R101 bounds its error, no rule states its value): the operation
code of R100 and the operand (log 10). -/
opaque Config.transc : Byte → Word → Word
/-- The free FP32 result of element `i` of a row operation of R100 on a row, with IMM and the column parameter (log 10). -/
opaque Config.rowOp : Byte → Word → List Word → List Word → Nat → Word
/-- Whether ROWSUMSQ of R100 adds the exact square with one rounding, or a square rounded first: R101 does not say (log 10). -/
opaque Config.sumSqFused : Bool
/-- AES-256-GCM opening of R119 and R192: key, nonce, additional data, cipher text, tag; `none` when the tag fails (log 11). -/
opaque Config.gcmOpen : Bytes → Bytes → Bytes → Bytes → Bytes → Option Bytes
/-- ECDSA P-256 verification: key (X then Y), SHA-256 of the message, signature (r then s) (log 11). -/
opaque Config.ecdsaVerify : Bytes → Bytes → Bytes → Bool
/-- The alias private key of R350, derived from UDS, the image's DIGEST and SVN (log 11). -/
opaque Config.aliasKey : Bytes → Bytes → Nat → Bytes
/-- ECDSA P-256 signature by an alias key of R350 over a SHA-256: the `n`-th signature (log 11). -/
opaque Config.aliasSign : Bytes → Nat → Bytes → Bytes
/-- Whether 64 bytes X then Y are a point of P-256 (R355) (log 11). -/
opaque Config.onCurve : Bytes → Bool
/-- The peer's certificate chain of R356: the DeviceID subject serial and the alias public key when it verifies to the
Abafoin root (log 11). -/
opaque Config.chainVerify : Bytes → Option (Dword × Bytes)
/-- The `n`-th ephemeral key pair's public key of R351 and R356 (log 11). -/
opaque Config.ephemeral : Nat → Bytes
/-- The x-coordinate of the ECDH result of the `n`-th ephemeral key with a peer's public key (R356) (log 11). -/
opaque Config.ecdhX : Nat → Bytes → Bytes
/-- AES-256-GCM sealing of a group of flits: key, nonce, additional data, plain text; gives cipher text and tag (R226). -/
opaque Config.gcmSeal : Bytes → Bytes → Bytes → Bytes → Bytes × Bytes
/-- The `n`-th draw of an on-die entropy source, 64 bits (R354, R359) (log 12). -/
opaque Config.entropy : Nat → Dword
/-- The DeviceID private key of R350, derived from UDS alone (log 11). -/
opaque Config.deviceIdKey : Bytes → Bytes
/-- The alias certificate of R350, signed by the DeviceID key: of the alias key, naming an image's DIGEST, SVN and BUILD (log 12). -/
opaque Config.aliasCert : Bytes → Bytes → Bytes → Nat → Nat → Bytes
/-- The key of the `n`-th secure session of R351 (log 12). -/
opaque Config.sessionKey : Nat → Bytes
/-- SHA-256 of the boot ROM: measurement 1 (R345, R352) (log 12). -/
opaque Config.bootRomDigest : Bytes
/-- The decision a detour search of R235 leaves to the finisher: gathering number and target, `n`-th search; the port to use
and the hops, `none` when it finds no path of at most 4 hops (log 13). -/
opaque Config.detourPort : Nat → Nat → Nat → Option (Nat × List Nat)

end Sys2Proof
end

