-- ==== Sys2Proof/Machine/Bits.lean ====
section
/-! DEFINITION. Bit fields, little-endian numbers in byte strings (R7), serial-number comparison (R159, R214) and alignment. -/

namespace Sys2Proof.Machine

/-- Bits [hi:lo] of a number. -/
def bitsOf (x hi lo : Nat) : Nat := (x / 2 ^ lo) % 2 ^ (hi + 1 - lo)
/-- Bit `i` of a number. -/
def bitOf (x i : Nat) : Bool := (x / 2 ^ i) % 2 = 1
/-- 1 for true. -/
def b2n (b : Bool) : Nat := if b then 1 else 0
/-- A number with bits [hi:lo] replaced. -/
def setBits (x hi lo v : Nat) : Nat :=
  (x / 2 ^ (hi + 1)) * 2 ^ (hi + 1) + (v % 2 ^ (hi + 1 - lo)) * 2 ^ lo + x % 2 ^ lo
/-- Bits [hi:lo] of a register. -/
def fld (w : Word) (hi lo : Nat) : Nat := bitsOf w.toNat hi lo
/-- Bit `i` of a register. -/
def flag (w : Word) (i : Nat) : Bool := bitOf w.toNat i
/-- A register with bits [hi:lo] replaced. -/
def setFld (w : Word) (hi lo v : Nat) : Word := BitVec.ofNat 32 (setBits w.toNat hi lo v)
/-- A register word from a number. -/
def word (n : Nat) : Word := BitVec.ofNat 32 n
/-- A byte from a number. -/
def byte (n : Nat) : Byte := BitVec.ofNat 8 n

/-- Byte `i` of a string as a number; 0 past its end. -/
def u8 (b : Bytes) (i : Nat) : Nat := (b.getD i 0).toNat
/-- The little-endian number in `n` bytes from offset `i`. -/
def le (b : Bytes) (i : Nat) : Nat → Nat
  | 0 => 0
  | n + 1 => u8 b i + 256 * le b (i + 1) n
/-- The little-endian 16-bit number at an offset. -/
def u16 (b : Bytes) (i : Nat) : Nat := le b i 2
/-- The little-endian 32-bit number at an offset. -/
def u32 (b : Bytes) (i : Nat) : Nat := le b i 4
/-- The little-endian 64-bit number at an offset. -/
def u64 (b : Bytes) (i : Nat) : Nat := le b i 8
/-- `n` bytes from an offset. -/
def sub (b : Bytes) (i n : Nat) : Bytes := (b.drop i).take n
/-- `n` little-endian bytes of a number. -/
def leBytes : Nat → Nat → Bytes
  | 0, _ => []
  | n + 1, x => byte x :: leBytes n (x / 256)
/-- `n` zero bytes. -/
def zeros (n : Nat) : Bytes := List.replicate n 0
/-- Whether every byte of a range is zero. -/
def zeroAt (b : Bytes) (i n : Nat) : Bool := (sub b i n).all (· == 0)
/-- A string made `n` bytes long, with zeros at its end. -/
def padTo (b : Bytes) (n : Nat) : Bytes := b.take n ++ zeros (n - b.length)
/-- The bytes of the codes in a list. -/
def ofNats (l : List Nat) : Bytes := l.map byte
/-- A 64-bit two's-complement value as an integer. -/
def signed64 (x : Nat) : Int := if x < 2 ^ 63 then (x : Int) else (x : Int) - 2 ^ 64
/-- A 64-bit two's-complement number for an integer. -/
def wrap64 (x : Int) : Nat := (x % 2 ^ 64).toNat
/-- Round up to a multiple. -/
def alignUp (x m : Nat) : Nat := (x + m - 1) / m * m
/-- Ceiling of a quotient. -/
def ceilDiv (x m : Nat) : Nat := (x + m - 1) / m
/-- `a - b` modulo `2 ^ w` (R159, R276). -/
def subMod (w a b : Nat) : Nat := (a + 2 ^ w - b % 2 ^ w) % 2 ^ w
/-- Serial-number order with a window of half the range: `a` comes before `b` (R159 with w = 32, R214 with w = 16). -/
def seqBefore (w a b : Nat) : Bool := a % 2 ^ w != b % 2 ^ w && decide (subMod w b a < 2 ^ (w - 1))
/-- Saturating 64-bit counter of R398. -/
def satAdd (c : Dword) (n : Nat) : Dword := BitVec.ofNat 64 (min (c.toNat + n) (2 ^ 64 - 1))
/-- Split a string into pieces of `k` bytes, `n` of them at most. -/
def chunks (k : Nat) : Nat → Bytes → List Bytes
  | 0, _ => []
  | n + 1, b => if b.isEmpty then [] else b.take k :: chunks k n (b.drop k)
/-- Whether all values of a list differ. -/
def distinct : List Nat → Bool
  | [] => true
  | x :: xs => !xs.contains x && distinct xs
/-- The first `some` of a list of options. -/
def firstSome {α : Type} : List (Option α) → Option α
  | [] => none
  | some a :: _ => some a
  | none :: t => firstSome t

end Sys2Proof.Machine
end

