-- ==== Sys2Proof/Machine/Digest.lean ====
section
/-! DEFINITION. CRC-32C with the parameters of R118, and SHA-256 and HMAC-SHA-256, which the manual uses by name (FIPS 180-4,
FIPS 198-1; log 11). -/

namespace Sys2Proof.Machine

/-- One bit of CRC-32C: polynomial 0x1EDC_6F41 reflected. -/
def crcBit (c : BitVec 32) : BitVec 32 :=
  if c.getLsbD 0 then (c >>> 1) ^^^ 0x82F63B78#32 else c >>> 1
/-- One byte of CRC-32C. -/
def crcByte (c : BitVec 32) (b : Byte) : BitVec 32 :=
  let c0 := c ^^^ b.setWidth 32
  crcBit (crcBit (crcBit (crcBit (crcBit (crcBit (crcBit (crcBit c0)))))))
/-- CRC-32C of a string (R118). -/
def crc32c (b : Bytes) : BitVec 32 := (b.foldl crcByte 0xFFFFFFFF#32) ^^^ 0xFFFFFFFF#32

/-- The 64 round constants of SHA-256. -/
def shaK : List (BitVec 32) := [
  0x428a2f98#32, 0x71374491#32, 0xb5c0fbcf#32, 0xe9b5dba5#32, 0x3956c25b#32, 0x59f111f1#32, 0x923f82a4#32, 0xab1c5ed5#32,
  0xd807aa98#32, 0x12835b01#32, 0x243185be#32, 0x550c7dc3#32, 0x72be5d74#32, 0x80deb1fe#32, 0x9bdc06a7#32, 0xc19bf174#32,
  0xe49b69c1#32, 0xefbe4786#32, 0x0fc19dc6#32, 0x240ca1cc#32, 0x2de92c6f#32, 0x4a7484aa#32, 0x5cb0a9dc#32, 0x76f988da#32,
  0x983e5152#32, 0xa831c66d#32, 0xb00327c8#32, 0xbf597fc7#32, 0xc6e00bf3#32, 0xd5a79147#32, 0x06ca6351#32, 0x14292967#32] ++ [
  0x27b70a85#32, 0x2e1b2138#32, 0x4d2c6dfc#32, 0x53380d13#32, 0x650a7354#32, 0x766a0abb#32, 0x81c2c92e#32, 0x92722c85#32,
  0xa2bfe8a1#32, 0xa81a664b#32, 0xc24b8b70#32, 0xc76c51a3#32, 0xd192e819#32, 0xd6990624#32, 0xf40e3585#32, 0x106aa070#32,
  0x19a4c116#32, 0x1e376c08#32, 0x2748774c#32, 0x34b0bcb5#32, 0x391c0cb3#32, 0x4ed8aa4a#32, 0x5b9cca4f#32, 0x682e6ff3#32,
  0x748f82ee#32, 0x78a5636f#32, 0x84c87814#32, 0x8cc70208#32, 0x90befffa#32, 0xa4506ceb#32, 0xbef9a3f7#32, 0xc67178f2#32]

/-- The working variables of SHA-256. -/
structure ShaState where
  a : BitVec 32
  b : BitVec 32
  c : BitVec 32
  d : BitVec 32
  e : BitVec 32
  f : BitVec 32
  g : BitVec 32
  h : BitVec 32

/-- The initial hash value. -/
def shaInit : ShaState :=
  ⟨0x6a09e667, 0xbb67ae85, 0x3c6ef372, 0xa54ff53a, 0x510e527f, 0x9b05688c, 0x1f83d9ab, 0x5be0cd19⟩

/-- The big-endian word at a byte offset. -/
def beWord (b : Bytes) (i : Nat) : BitVec 32 :=
  BitVec.ofNat 32 (u8 b i * 16777216 + u8 b (i + 1) * 65536 + u8 b (i + 2) * 256 + u8 b (i + 3))
/-- The big-endian bytes of a word. -/
def beBytes (w : BitVec 32) : Bytes := (leBytes 4 w.toNat).reverse

/-- The message schedule: `n` more words onto a reversed list of words. -/
def shaExpand : Nat → List (BitVec 32) → List (BitVec 32)
  | 0, r => r
  | n + 1, r =>
    let w2 := r.getD 1 0; let w7 := r.getD 6 0; let w15 := r.getD 14 0; let w16 := r.getD 15 0
    let s0 := w15.rotateRight 7 ^^^ w15.rotateRight 18 ^^^ (w15 >>> 3)
    let s1 := w2.rotateRight 17 ^^^ w2.rotateRight 19 ^^^ (w2 >>> 10)
    shaExpand n ((w16 + s0 + w7 + s1) :: r)

/-- One round. -/
def shaRound (s : ShaState) (kw : BitVec 32 × BitVec 32) : ShaState :=
  let s1 := s.e.rotateRight 6 ^^^ s.e.rotateRight 11 ^^^ s.e.rotateRight 25
  let ch := (s.e &&& s.f) ^^^ (~~~ s.e &&& s.g)
  let t1 := s.h + s1 + ch + kw.1 + kw.2
  let s0 := s.a.rotateRight 2 ^^^ s.a.rotateRight 13 ^^^ s.a.rotateRight 22
  let mj := (s.a &&& s.b) ^^^ (s.a &&& s.c) ^^^ (s.b &&& s.c)
  ⟨t1 + s0 + mj, s.a, s.b, s.c, s.d + t1, s.e, s.f, s.g⟩

/-- One 64-byte block. -/
def shaBlock (s : ShaState) (blk : Bytes) : ShaState :=
  let w0 := (List.range 16).map fun i => beWord blk (4 * i)
  let w := (shaExpand 48 w0.reverse).reverse
  let t := (shaK.zip w).foldl shaRound s
  ⟨s.a + t.a, s.b + t.b, s.c + t.c, s.d + t.d, s.e + t.e, s.f + t.f, s.g + t.g, s.h + t.h⟩

/-- The padded message. -/
def shaPad (b : Bytes) : Bytes :=
  let z := (119 - b.length % 64) % 64
  b ++ [0x80] ++ zeros z ++ (leBytes 8 (8 * b.length)).reverse

/-- SHA-256 of a string: 32 bytes. -/
def sha256 (b : Bytes) : Bytes :=
  let p := shaPad b
  let s := (chunks 64 (p.length / 64) p).foldl shaBlock shaInit
  beBytes s.a ++ beBytes s.b ++ beBytes s.c ++ beBytes s.d ++ beBytes s.e ++ beBytes s.f ++ beBytes s.g ++ beBytes s.h

/-- HMAC-SHA-256 (R353, R354, R356). -/
def hmac (key msg : Bytes) : Bytes :=
  let k := padTo (if key.length > 64 then sha256 key else key) 64
  sha256 (k.map (· ^^^ 0x5C) ++ sha256 (k.map (· ^^^ 0x36) ++ msg))

/-- The codes of a short ASCII label. -/
def ascii (s : List Nat) : Bytes := ofNats s

end Sys2Proof.Machine
end

