-- ==== Sys2Proof/Machine/Float.lean ====
section
/-! DEFINITION. The numbers of chapter 02: formats and special values (R24 to R27), exact products and sums with one rounding to
nearest even (R30), the fused output conversion (R34, R35), subnormal handling (R37) and the split of FP32 (R41). A number in
hand is an exact dyadic, an infinity or NaN; the formats are bit patterns. -/

namespace Sys2Proof.Machine

/-- An exact value: `fin neg m e` is ± m × 2^e. -/
inductive FVal where
  | nan
  | inf (neg : Bool)
  | fin (neg : Bool) (m : Nat) (e : Int)
deriving DecidableEq, Repr

/-- The format codes of R88. -/
inductive NumFmt where
  | fp32 | bf16 | fp16 | of8 | of4 | w19 | u32 | bytes
deriving DecidableEq, Repr

/-- Format of a descriptor FMT byte, `none` where reserved (R88). -/
def NumFmt.ofCode : Nat → Option NumFmt
  | 0 => some .fp32 | 1 => some .bf16 | 2 => some .fp16 | 3 => some .of8 | 4 => some .of4 | 5 => some .w19
  | 8 => some .u32 | 9 => some .bytes | _ => none
/-- Format of a 3-bit instruction code (R88). -/
def NumFmt.ofCode3 (n : Nat) : Option NumFmt := if n ≤ 5 then NumFmt.ofCode n else none
/-- Bits of one element in memory: a W19 value lies in a 32-bit container (R26). -/
def NumFmt.bits : NumFmt → Nat
  | .fp32 => 32 | .bf16 => 16 | .fp16 => 16 | .of8 => 8 | .of4 => 4 | .w19 => 32 | .u32 => 32 | .bytes => 8
/-- The 16-bit formats. -/
def NumFmt.is16 : NumFmt → Bool
  | .bf16 | .fp16 => true | _ => false
/-- The grouped formats (R25). -/
def NumFmt.grouped : NumFmt → Bool
  | .of8 | .of4 => true | _ => false

/-- Exponent and fraction widths of an IEEE-style layout (R24). -/
structure Layout where
  eb : Nat
  fb : Nat
deriving DecidableEq, Repr

/-- FP32 (R24). -/ def lay32 : Layout := ⟨8, 23⟩
/-- BF16 (R24). -/ def layBf16 : Layout := ⟨8, 7⟩
/-- FP16 (R24). -/ def layFp16 : Layout := ⟨5, 10⟩
/-- W19 (R24). -/ def layW19 : Layout := ⟨8, 10⟩
/-- The bias of a layout. -/
def Layout.bias (l : Layout) : Nat := 2 ^ (l.eb - 1) - 1
/-- The exponent of the lowest bit of a subnormal. -/
def Layout.emin (l : Layout) : Int := 1 - (l.bias : Int) - (l.fb : Int)
/-- The all-ones exponent field. -/
def Layout.top (l : Layout) : Nat := 2 ^ l.eb - 1

/-- The value of a bit pattern (R24, R27): any NaN pattern reads as NaN. -/
def Layout.decode (l : Layout) (x : Nat) : FVal :=
  let neg := bitOf x (l.eb + l.fb)
  let e := bitsOf x (l.eb + l.fb - 1) l.fb
  let f := x % 2 ^ l.fb
  if e = l.top then (if f = 0 then .inf neg else .nan)
  else if e = 0 then .fin neg f l.emin
  else .fin neg (2 ^ l.fb + f) (l.emin + (e : Int) - 1)

/-- The one NaN the device produces (R27). -/
def Layout.nanBits (l : Layout) : Nat := l.top * 2 ^ l.fb + 2 ^ (l.fb - 1)
/-- The infinity of a sign. -/
def Layout.infBits (l : Layout) (neg : Bool) : Nat := b2n neg * 2 ^ (l.eb + l.fb) + l.top * 2 ^ l.fb

/-- m × 2^e as a whole number of units 2^q, rounded to nearest, ties to even. -/
def rneUnits (m : Nat) (e q : Int) : Nat :=
  if e ≥ q then m * 2 ^ (e - q).toNat
  else
    let k := (q - e).toNat
    let d := m / 2 ^ k
    let r := m % 2 ^ k
    if 2 * r > 2 ^ k || (2 * r = 2 ^ k && d % 2 = 1) then d + 1 else d

/-- The unit of the last place that a value of magnitude m × 2^e has in a layout. -/
def Layout.unit (l : Layout) (m : Nat) (e : Int) : Int :=
  if m = 0 then l.emin else max l.emin ((Nat.log2 m : Int) + e - l.fb)

/-- Round to nearest even into a layout's bit pattern; overflow gives an infinity (R30, R34). -/
def Layout.encode (l : Layout) : FVal → Nat
  | .nan => l.nanBits
  | .inf neg => l.infBits neg
  | .fin neg m e =>
    let q := l.unit m e
    let u := rneUnits m e q
    let s := b2n neg * 2 ^ (l.eb + l.fb)
    if u < 2 ^ l.fb then s + u
    else
      let x := (q - l.emin).toNat * 2 ^ l.fb + u
      if x ≥ l.top * 2 ^ l.fb then l.infBits neg else s + x

/-- Whether a pattern is subnormal in its layout. -/
def Layout.isSub (l : Layout) (x : Nat) : Bool :=
  bitsOf x (l.eb + l.fb - 1) l.fb = 0 && x % 2 ^ l.fb != 0
/-- A subnormal pattern becomes a zero of the same sign (R37). -/
def Layout.flush (l : Layout) (x : Nat) : Nat :=
  if l.isSub x then b2n (bitOf x (l.eb + l.fb)) * 2 ^ (l.eb + l.fb) else x

namespace FVal

/-- Neither NaN nor infinite. -/
def isFinite : FVal → Bool
  | .fin .. => true | _ => false
/-- NaN. -/
def isNan : FVal → Bool
  | .nan => true | _ => false
/-- The sign changed. -/
def neg : FVal → FVal
  | .nan => .nan | .inf s => .inf !s | .fin s m e => .fin (!s) m e
/-- The magnitude. -/
def abs : FVal → FVal
  | .nan => .nan | .inf _ => .inf false | .fin _ m e => .fin false m e
/-- A finite value as a whole number of units 2^q (q not above its exponent). -/
def units (s : Bool) (m : Nat) (e q : Int) : Int :=
  let v : Int := m * 2 ^ (e - q).toNat
  if s then -v else v

/-- The exact product; an infinity times zero is NaN (R30). -/
def mul : FVal → FVal → FVal
  | .nan, _ => .nan
  | _, .nan => .nan
  | .inf s, .inf t => .inf (s != t)
  | .inf s, .fin t m _ => if m = 0 then .nan else .inf (s != t)
  | .fin t m _, .inf s => if m = 0 then .nan else .inf (s != t)
  | .fin s m e, .fin t n f => .fin (s != t) (m * n) (e + f)

/-- The exact sum; opposite infinities give NaN, +0 and −0 give +0 (R30). -/
def add : FVal → FVal → FVal
  | .nan, _ => .nan
  | _, .nan => .nan
  | .inf s, .inf t => if s = t then .inf s else .nan
  | .inf s, .fin .. => .inf s
  | .fin .., .inf t => .inf t
  | .fin s m e, .fin t n f =>
    let q := min e f
    let v := units s m e q + units t n f q
    if v = 0 then .fin (s && t && m = 0 && n = 0) 0 q
    else .fin (decide (v < 0)) v.natAbs q

/-- The exact difference. -/
def sub (a b : FVal) : FVal := add a b.neg

/-- `a < b`, +0 equal to −0; false with a NaN. -/
def lt : FVal → FVal → Bool
  | .nan, _ => false
  | _, .nan => false
  | .inf s, .inf t => s && !t
  | .inf s, .fin .. => s
  | .fin .., .inf t => !t
  | .fin s m e, .fin t n f =>
    let q := min e f
    decide (units s m e q < units t n f q)

/-- Equal as numbers, +0 equal to −0. -/
def eqv (a b : FVal) : Bool := !a.isNan && !b.isNan && !lt a b && !lt b a

end FVal

/-- The FP32 value of a word. -/
def f32 (w : Word) : FVal := lay32.decode w.toNat
/-- An FP32 input: a subnormal reads as a zero of the same sign (R37). -/
def f32in (w : Word) : FVal := lay32.decode (lay32.flush w.toNat)
/-- Rounded to FP32 with the flush of R30 and R37. -/
def toF32 (v : FVal) : Word := word (lay32.flush (lay32.encode v))
/-- An FP32 accumulator with an exact term added, one rounding and the flush of R30. -/
def accAdd (acc : Word) (t : FVal) : Word := toF32 ((f32 acc).add t)
/-- FP32 addition, flushed (R30, R101). -/
def fadd (a b : Word) : Word := toF32 ((f32in a).add (f32in b))
/-- FP32 multiplication. -/
def fmul (a b : Word) : Word := toF32 ((f32in a).mul (f32in b))
/-- FP32 subtraction. -/
def fsub (a b : Word) : Word := toF32 ((f32in a).sub (f32in b))
/-- The sign bit changed. -/
def fneg (a : Word) : Word := toF32 (f32in a).neg
/-- The sign bit cleared. -/
def fabs (a : Word) : Word := toF32 (f32in a).abs
/-- FP32 zero. -/ def fzero : Word := 0#32
/-- FP32 one. -/ def fone : Word := 0x3F800000#32
/-- The FP32 NaN of R27. -/ def fnan : Word := 0x7FC00000#32
/-- An FP32 number for a whole number. -/
def fnat (n : Nat) : Word := toF32 (.fin false n 0)

/-- n ÷ d rounded to FP32 (sign given), to nearest even: the quotient to 64 bits beyond with a sticky bit. -/
def ratF32 (neg : Bool) (n d : Nat) (e : Int) : Word :=
  if d = 0 then (if n = 0 then fnan else word (lay32.infBits neg))
  else
    let k := 64 + Nat.log2 d
    let m := n * 2 ^ k / d
    let st := if n * 2 ^ k % d = 0 then 0 else 1
    toF32 (.fin neg (2 * m + st) (e - k - 1))
/-- FP32 division, correctly rounded (R125: a mean divides by the count). -/
def fdiv (a b : Word) : Word :=
  match f32in a, f32in b with
  | .fin s m e, .fin t n f => ratF32 (s != t) m n (e - f)
  | .inf s, .fin t _ _ => word (lay32.infBits (s != t))
  | .fin s _ _, .inf t => word (lay32.encode (.fin (s != t) 0 0))
  | _, _ => fnan
/-- Integer square root, bit by bit from bit `k`. -/
def isqrtFrom (x : Nat) : Nat → Nat → Nat
  | 0, r => r
  | k + 1, r => let r' := r + 2 ^ k; isqrtFrom x k (if r' * r' ≤ x then r' else r)
/-- Integer square root. -/
def isqrt (x : Nat) : Nat := isqrtFrom x (Nat.log2 x / 2 + 1) 0
/-- FP32 square root, correctly rounded (R125). -/
def fsqrt (a : Word) : Word :=
  match f32in a with
  | .fin s m e =>
    if m = 0 then word (lay32.encode (.fin s 0 0))
    else if s then fnan
    else
      let e1 := if e % 2 = 0 then e else e - 1
      let m1 := if e % 2 = 0 then m else 2 * m
      let x := m1 * 2 ^ 128
      let r := isqrt x
      toF32 (.fin false (2 * r + (if r * r = x then 0 else 1)) (e1 / 2 - 65))
  | .inf false => a
  | _ => fnan
/-- FP32 less-than. -/
def flt (a b : Word) : Bool := (f32in a).lt (f32in b)

/-! ### Grouped formats (R25, R35) -/

/-- The power of two of a group exponent. -/
def grpExp (x : Nat) : Int := (x : Int) - 127

/-- An OF8 element with its group exponent (R25, R27); SUBN reads a subnormal as zero (R37). -/
def of8Val (subn : Bool) (x el : Nat) : FVal :=
  if x ≥ 0xF7 || el % 256 = 0x80 then .nan
  else
    let e := bitsOf el 6 3; let m := el % 8; let s := bitOf el 7
    if e = 0 then (if subn then .fin s 0 0 else .fin s m (-9 + grpExp x))
    else .fin s (8 + m) ((e : Int) - 10 + grpExp x)
/-- An OF4 element with its group exponent (R25, R27). -/
def of4Val (subn : Bool) (x el : Nat) : FVal :=
  if x ≥ 0xF7 || el % 16 = 8 then .nan
  else
    let e := bitsOf el 2 1; let m := el % 2; let s := bitOf el 3
    if e = 0 then (if subn then .fin s 0 0 else .fin s m (-1 + grpExp x))
    else .fin s (2 + m) ((e : Int) - 2 + grpExp x)

/-- Precision, lowest-bit exponent, `top` and largest element of a grouped format (R35). -/
structure GroupFmt where
  fb : Nat
  eminG : Int
  top : Int
  maxel : Nat
/-- OF8 (R35). -/ def grpOf8 : GroupFmt := ⟨3, -9, 8, 480⟩
/-- OF4 (R35). -/ def grpOf4 : GroupFmt := ⟨1, -1, 2, 6⟩

/-- The NaN element (R27). -/
def GroupFmt.nanEl (g : GroupFmt) : Nat := if g.fb = 3 then 0x80 else 8
/-- The sign bit of an element. -/
def GroupFmt.signBit (g : GroupFmt) : Nat := if g.fb = 3 then 128 else 8
/-- The encoding of the largest element. -/
def GroupFmt.maxBits (g : GroupFmt) : Nat := if g.fb = 3 then 0x7F else 7

/-- One element of a group: value scaled, rounded, saturated, encoded; −0 encodes as +0 (R35). -/
def GroupFmt.element (g : GroupFmt) (subn : Bool) (x : Nat) : FVal → Nat
  | .fin s m e =>
    let e' := e - grpExp x
    let q := if m = 0 then g.eminG else max g.eminG ((Nat.log2 m : Int) + e' - g.fb)
    let u := rneUnits m e' q
    let mag := if u < 2 ^ g.fb then u else (q - g.eminG).toNat * 2 ^ g.fb + u
    let mag := min mag g.maxBits
    let mag := if subn && mag < 2 ^ g.fb then 0 else mag
    if mag = 0 then 0 else mag + (if s then g.signBit else 0)
  | _ => g.nanEl

/-- floor(log2) of a finite magnitude. -/
def log2Of : FVal → Int
  | .fin _ m e => (Nat.log2 m : Int) + e
  | _ => 0
/-- The larger magnitude of a running largest and a value, over finite values. -/
def maxMag (a b : FVal) : FVal := if b.isFinite && a.lt b.abs then b.abs else a

/-- The group exponent and the elements of a group (R35). -/
def GroupFmt.convert (g : GroupFmt) (subn : Bool) (vs : List FVal) : Nat × List Nat :=
  let mx := vs.foldl maxMag (.fin false 0 0)
  let zero : Bool := match mx with | .fin _ m _ => m == 0 | _ => true
  let x := if zero then 0 else (min (max (log2Of mx - g.top + 127) 0) 0xF6).toNat
  (x, vs.map (g.element subn x))

/-! ### Elements of plain formats -/

/-- The value a port decodes from an element of a plain format (R28, R37); bits [12:0] of a W19 container that is read are dropped (R26; DESIGN
CHOICE, log 79). -/
def plainVal (subn : Bool) : NumFmt → Nat → FVal
  | .bf16, x => layBf16.decode (if subn then layBf16.flush x else x)
  | .fp16, x => layFp16.decode (if subn then layFp16.flush x else x)
  | .w19, x => layW19.decode (if subn then layW19.flush (x / 8192) else x / 8192)
  | _, x => lay32.decode (lay32.flush x)

/-- A value rounded into a plain format's element (R34): under SUBN a subnormal result is a zero; FP32 is always flushed. -/
def plainBits (subn : Bool) : NumFmt → FVal → Nat
  | .bf16, v => let x := layBf16.encode v; if subn then layBf16.flush x else x
  | .fp16, v => let x := layFp16.encode v; if subn then layFp16.flush x else x
  | .w19, v => (let x := layW19.encode v; if subn then layW19.flush x else x) * 8192
  | _, v => lay32.flush (lay32.encode v)

/-- Whether an element of a plain format is finite. -/
def plainFinite (f : NumFmt) (x : Nat) : Bool := (plainVal false f x).isFinite

/-! ### Splitting (R41) -/

/-- Round to W19, a finite value past the W19 maximum giving the signed maximum. -/
def w19Sat (v : FVal) : Nat :=
  let x := layW19.encode v
  if v.isFinite && bitsOf x 17 10 = 255 then x / 2 ^ 18 * 2 ^ 18 + 0x3FBFF else x
/-- The three W19 pieces of an FP32 operand, 19 bits each (R41). -/
def w19Pieces (subn : Bool) (w : Word) : Nat × Nat × Nat :=
  let x := f32in w
  let fl := fun h => if subn then layW19.flush h else h
  if x.isFinite then
    let h1 := w19Sat x
    let r1 := x.sub (layW19.decode h1)
    let h2 := layW19.encode r1
    let r2 := r1.sub (layW19.decode h2)
    let h3 := layW19.encode r2
    (fl h1, fl h2, fl h3)
  else (layW19.encode x, 0, 0)
/-- Piece 1, 2 or 3. -/
def w19Piece (subn : Bool) (w : Word) (k : Nat) : Nat :=
  let p := w19Pieces subn w
  if k = 1 then p.1 else if k = 2 then p.2.1 else if k = 3 then p.2.2 else 0

/-! ### The fused output conversion (R34) -/

/-- Scale, bias, lower and upper bound of one column; absent ones read as in R34. -/
structure ConvParam where
  scale : Word := fone
  bias : Word := fzero
  lo : Word := 0xFF800000#32
  hi : Word := 0x7F800000#32
deriving DecidableEq, Repr, Inhabited

/-- The value t of R34 after the clip, and whether the first check flags it (with a NaN). R34 gives `max` and `min` no sign for a zero
that meets a zero of the other sign: the clip keeps t where it equals its bound (DESIGN CHOICE, log 75). -/
def convT (acc : Word) (p : ConvParam) : FVal × Bool :=
  let t := f32 (toF32 (((f32 acc).mul (f32in p.scale)).add (f32in p.bias)))
  let fl := !t.isFinite
  let l := if (f32in p.lo).isNan then FVal.inf true else f32in p.lo
  let h := if (f32in p.hi).isNan then FVal.inf false else f32in p.hi
  if t.isNan then (t, fl)
  else
    let a := if t.lt l then l else t
    (if h.lt a then h else a, fl)

end Sys2Proof.Machine
end

