-- ==== Sys2Proof/Machine/Table.lean ====
section
/-! DEFINITION. A table: the plain data that holds every memory and every numbered set of things of the station. It is a list of
(key, value) with rising keys, and a key that is not listed reads as the table's default `d`. -/

namespace Sys2Proof.Machine

/-- A table from numbers to values. -/
abbrev Table (α : Type) := List (Nat × α)

namespace Table

variable {α : Type}

/-- The value at a key; `d` where nothing is listed. -/
def get (d : α) : Table α → Nat → α
  | [], _ => d
  | (k, v) :: t, i => if k = i then v else get d t i

/-- The table with every entry of a key taken out. -/
def erase : Table α → Nat → Table α
  | [], _ => []
  | (k, v) :: t, i => if k = i then erase t i else (k, v) :: erase t i

/-- The table with an entry put before the first larger key. -/
def insert : Table α → Nat → α → Table α
  | [], i, v => [(i, v)]
  | (k, w) :: t, i, v => if i < k then (i, v) :: (k, w) :: t else (k, w) :: insert t i v

/-- The table that reads `v` at key `i`: an entry equal to the default is not listed. -/
def set [DecidableEq α] (d : α) (t : Table α) (i : Nat) (v : α) : Table α :=
  if v = d then erase t i else insert (erase t i) i v

/-- Change the value at a key. -/
def modify [DecidableEq α] (d : α) (t : Table α) (i : Nat) (f : α → α) : Table α :=
  set d t i (f (get d t i))

/-- The canonical form: keys rise strictly, and no entry equals the default. -/
def wf [DecidableEq α] (d : α) : Table α → Bool
  | [] => true
  | [(_, v)] => decide (v ≠ d)
  | (k, v) :: (k', v') :: t => decide (k < k') && decide (v ≠ d) && wf d ((k', v') :: t)

/-- Write consecutive values from a key on. -/
def setRange [DecidableEq α] (d : α) : Table α → Nat → List α → Table α
  | t, _, [] => t
  | t, i, v :: vs => setRange d (set d t i v) (i + 1) vs

/-- Read `n` consecutive values from a key on. -/
def getRange (d : α) (t : Table α) (i : Nat) : Nat → List α
  | 0 => []
  | n + 1 => get d t i :: getRange d t (i + 1) n

/-- Take out every entry whose key lies in `[i, i + n)`. -/
def clearRange (t : Table α) (i n : Nat) : Table α :=
  t.filter fun e => !(decide (i ≤ e.1) && decide (e.1 < i + n))

end Table
end Sys2Proof.Machine
end

