-- ==== Sys2Proof/Machine/State.lean ====
section
/-! DEFINITION. The state of one OX-7160 station, as plain data: every register, memory, queue, counter, mode and pin that the
manual names, the queue of commands that wait, and the outbox of what left the station at its connectors. Each field's docstring
names the rule that gives it; `State.reset` is the state of INVENTORY.md, '## State'. -/

namespace Sys2Proof.Machine

/-- The reasons a command could stop the machine. No command of this block does: a fault of the hardware is a status, a capture
and an interrupt (chapter 13), all of them effects on the state. -/
inductive Fault where
deriving DecidableEq, Repr

/-- The reasons a command could have no meaning. -/
inductive Refusal where
  /-- Raised by an arm of `exec` whose command has no meaning yet; safe. No arm raises it. -/
  | notModelled (mnemonic : String)
deriving DecidableEq, Repr

/-- A status code of R330. -/
abbrev Status := Byte

/-! ### What leaves the station -/

/-- What crosses the station's connectors outwards (chapters 09, 11, 15, 17). -/
inductive Out where
  /-- A posted write to host memory (R299). -/ | hostWrite (addr : Nat) (data : Bytes)
  /-- A read of host memory; what it answers comes with the command (R275). -/ | hostRead (addr len : Nat)
  /-- An MSI-X message of a function (R297, R341). -/ | msix (fn vector : Nat)
  /-- The value a register read returned (R393). -/ | regValue (value : Nat)
  /-- A link control message (R227). -/ | link (port : Nat) (msg : Bytes)
  /-- A packet of a virtual channel (R216). -/ | packet (port : Nat) (bytes : Bytes)
  /-- A flit: its port, the cord it goes on and its 256 bytes (R211, R213). Link messages and packets leave in flits; the two rows
  above name them whole. -/ | flit (port cord : Nat) (bytes : Bytes)
  /-- THERM_ALERT_N (R408). -/ | thermAlert (level : Bool)
  /-- A message of a type of R377 and what carries it, in its transmission units; `none` where the command that it answers does not
  say which medium it came on (log 15). -/ | message (carrier : Option Carrier) (type : Nat) (units : List Bytes)
  /-- A PlatformEventMessage to an endpoint, in its transmission units (R379). -/ | event (medium : Medium) (eid : Byte) (units : List Bytes)
  /-- A BAR4 read's data, or a poisoned completion (R403). -/ | window (data : Bytes) (poisoned : Bool)
  /-- A fetch of a shard's sealed records from a peer station under a REQ of this station's (R201, R354). -/
  | peerFetch (station edition layer first count : Nat) (req : Bytes)
  /-- What the JTAG port answers (R409). -/ | jtag (accepted : Bool) (value : Word)
  /-- Bytes of a memory, read over JTAG (R360). -/ | jtagMem (data : Bytes)
  /-- An access at two-wire address 0x50 of the module that MOD_SEL selects: its page and byte, and what is written, `none` for a read
  (R224). -/ | twoWire (port sel page ofs : Nat) (write : Option Byte)
  /-- MOD_RESET_N of a port (R224). -/ | modReset (port : Nat) (level : Bool)
  /-- An AER uncorrectable internal error (R341). -/ | aer
deriving DecidableEq, Repr

/-! ### Supply, pins, fuses and flash -/

/-- The 54 V input (R305, R413). -/
inductive Supply where
  | off | on | open
deriving DecidableEq, Repr, Inhabited

/-- The sideband pins and straps (R408, R410, R411). -/
structure Pins where
  /-- PERST_N. -/ perstN : Bool := false
  /-- COOLANT_FAULT_N. -/ coolantN : Bool := false
  /-- REFCLK_100M present (R411). -/ refclk : Bool := false
  /-- THERM_ALERT_N (R322). -/ thermAlertN : Bool := true
  /-- MODULE_POS as latched at power-up (R410). -/ modulePos : Nat := 0
  /-- When the 10 µs filter of COOLANT_FAULT_N began (R327). -/ coolantLowAt : Option Nat := none
  /-- When COOLANT_FAULT_N last went high (R327). -/ coolantHighAt : Option Nat := none
deriving DecidableEq, Repr, Inhabited

/-- The fuses of R344 with the voltage table and the boost allowance (R309, R312). -/
structure Fuses where
  /-- UDS: no register shows it (R344). -/ uds : Bytes := List.replicate 32 0
  serial : Nat := 0
  fwKeyHash : List Bytes := []
  revoke : Nat := 0
  svn : Nat := 0
  debugKey : Bytes := []
  ownerKey : Option Bytes := none
  debugDisable : Bool := false
  /-- PWR_VT_n: voltages of each core at points 0 to 5, mV. -/ volts : Table (List Nat) := []
  reserveH : Nat := 0
  fracPct : Nat := 0
deriving DecidableEq, Repr, Inhabited

/-- Module flash (R346, R364, R372, R374, R388). -/
structure Flash where
  image : Bytes := []
  plan : Option (List Word) := none
  parked : Nat := 0
  retired : List Nat := []
  boostSpent : Dword := 0
  boostEarned : Dword := 0
  clean : Bool := false
  ckptSeq : Nat := 0
  ckptChain : Bytes := List.replicate 16 0
  ckptDrained : Nat := 0
  powerUps : Nat := 0
  /-- The product intermediate's certificate and the DeviceID certificate (R350). -/ intermediateCert : Bytes := []
  deviceIdCert : Bytes := []
deriving DecidableEq, Repr, Inhabited

/-! ### Start-up, finisher, mailbox -/

/-- MBX_BOOT.STAGE (R375). -/
inductive Stage where
  | bootRom | recovery | firmware | memory | ready | stopped | shutdown | failed
deriving DecidableEq, Repr, Inhabited

/-- The commands of the mailbox that go on after their GO (R382). -/
inductive MbxRun where
  | fwBegin (got : Bytes)
  | logRead (left : Nat)
  | dumpRead (left : Bytes)
  | shutdown
deriving DecidableEq, Repr

/-- Who runs a firmware update (R380, R384). -/
inductive UpdatePath where
  | mailbox | pldm
deriving DecidableEq, Repr

/-- Start-up and the finisher (R345 to R375, R386 to R389). -/
structure Boot where
  stage : Stage := .bootRom
  clean : Bool := false
  readyMs : Nat := 0
  /-- The finisher restarts (R386). -/ restarting : Bool := false
  /-- The boot ROM is in recovery (R349). -/ recovery : Bool := false
  /-- Recovery was entered by a restart, with the cores running (R386). -/ liveRecovery : Bool := false
  header : Bytes := []
  /-- UDS is locked until the next power-up (R345). -/ udsLocked : Bool := false
  /-- The DeviceID private key, between steps 2 and 6 of R345. -/ deviceIdKey : Bytes := []
  /-- The alias private key, kept since power-up (R350, R386). -/ aliasKey : Bytes := []
  /-- The certificate chain with the alias certificate issued at power-up (R345, R350). -/ certs : Bytes := []
  dump : Option Bytes := none
  update : Option UpdatePath := none
  held : Bytes := []
  shuttingDown : Bool := false
  /-- The shutdown under way came with ABORT = 1 (R388). -/ shuttingAbort : Bool := false
  shutDown : Bool := false
  /-- BAR0 of the physical function answers only its mailbox (R349). -/ mailboxOnly : Bool := false
  /-- GDDR7 is trained (R372). -/ trained : Bool := false
  /-- When the ports and GDDR7 begin to train (R372). -/ trainAt : Nat := 0
  /-- The stored plan has been looked at since power-up (R374). -/ planned : Bool := false
  /-- A PLDM update has been applied and waits for its activation (R380). -/ applied : Bool := false
  /-- COOLANT_FAULT_N fell since the input came, before the rails have ramped (R410). -/ coolantLow : Bool := false
  /-- The boot ROM waits for the reference clock (R411), and whether it will be able to read flash. -/ waiting : Option Bool := none
deriving DecidableEq, Repr, Inhabited

/-- The mailbox (R381). -/
structure Mbx where
  cmd : Word := 0
  busy : Bool := false
  status : Status := 0
  run : Option MbxRun := none
  /-- The running command came over MCTP, and how. -/ mctp : Option Mctp := none
  inFifo : List Word := []
  /-- Output words; with the last of a colophon entry stands the SEQ of the entry that its reading delivers (R383). -/
  outFifo : List (Word × Option Nat) := []
deriving DecidableEq, Repr, Inhabited

/-- Management transports (R377 to R380). -/
structure Mgmt where
  /-- The dynamic address that the tray's controller has assigned (R377; log 15). -/ i3cAddr : Byte := 0
  eidI3c : Byte := 0
  eidVdm : Byte := 0
  receiver : Option (Medium × Byte) := none
  sensors : List Nat := []
  rails : List RailSample := []
  inMv10 : Nat := 0
  inMa10 : Nat := 0
  dieTemps : List Nat := []
  /-- Samples since the last refresh, and the sums of their input current and power and of each rail's (R379). -/ samples : Nat := 0
  sumMa : Nat := 0
  sumW : Nat := 0
  railSums : List (Nat × Nat) := []
deriving DecidableEq, Repr, Inhabited

/-- A secure session (R351): its number, what carries it, and how many messages the station has sealed in it. -/
structure Session where
  id : Nat
  carrier : Carrier
  sent : Nat := 0
deriving DecidableEq, Repr

/-- Security state (R351 to R360). -/
structure Sec where
  debug : Nat := 0
  recovered : Bool := false
  flashBad : Bool := false
  keyIndex : Nat := 0
  chal : Dword := 0
  unlockStatus : Status := 0
  token : List Word := []
  failures : Nat := 0
  locked : Bool := false
  lockedAt : Nat := 0
  sessions : List Session := []
  sessionNo : Nat := 0
  /-- The key set in use, and the one installed for the next switch (R358). -/ ideKey : Option Bytes := none
  ideNext : Option Bytes := none
  ideOn : Bool := false
  ideSecure : Bool := false
deriving DecidableEq, Repr, Inhabited

/-! ### The colophon -/

/-- The colophon (R361 to R369). Entries are their 64 bytes. -/
structure Colophon where
  main : List Bytes := []
  reserved : List Bytes := []
  /-- Safety entries held by the power controller (R368): their bytes before SEQ and CHAIN. -/ pendingSafety : List Bytes := []
  /-- Entries that the finisher holds for changes that cannot wait for room and are no safety actions (log 68), likewise. -/
  owed : List Bytes := []
  /-- SEQs of the entries that a record on its way delivers, by 1 + the SEQ of the first (R366). -/ ways : Table (List Nat) := []
  reservedRoom : Nat := 0
  seq : Nat := 0
  chain : Bytes := List.replicate 16 0
  ckptSeq : Nat := 0
  sinceCkpt : Nat := 0
  ckptAt : Nat := 0
  /-- Signature units by the SEQ of their checkpoint. -/ sigs : Table Bytes := []
  signs : Nat := 0
  cfg : Word := 0x3000
  resUsed : Bool := false
  refusedFlag : Bool := false
  refused : Dword := 0
deriving DecidableEq, Repr, Inhabited

/-! ### Clock -/

/-- Timestamp and alignment (R241, R242, R308). -/
structure Clk where
  ts : Nat := 0
  /-- Fraction of a nanosecond, in units of 10 fs × 1/1 (10 ns is 10^6 units of 10 fs). -/ frac : Nat := 0
  set : Bool := false
  ppm : Int := 0
  steer : Option (Int × Nat) := none
  slewPs : Int := 0
  aligned : Bool := false
  upstream : Nat := 7
  offsetPs : Int := 0
deriving DecidableEq, Repr, Inhabited

/-! ### Power -/

/-- Idle states (R325). -/
inductive Idle where
  | s0 | s1 | s2 | s3
deriving DecidableEq, Repr, Inhabited

/-- An operating-point change under way (R313, R314). -/
structure OppChange where
  from_ : Nat := 0
  target : Nat := 0
  paused : Bool := false
  pauses : Nat := 0
  pausedNs : Nat := 0
  /-- The change waits for its window to begin. -/ waiting : Bool := true
  /-- When the boundary chose it. -/ since : Nat := 0
deriving DecidableEq, Repr, Inhabited

/-- A learned record (R316): for folds 8, 6, 4 the sample count, core and other power in thousandths of a watt, and dur in ns. -/
structure Learned where
  n : List Nat := [0, 0, 0]
  core : List Rat := [0, 0, 0]
  other : List Rat := [0, 0, 0]
  dur : Rat := 0
  durN : Nat := 0
deriving DecidableEq, Repr, Inhabited

/-- Power controller registers (R328, R69). -/
structure PwrRegs where
  capCfg : Word := 0x0320A8FC
  mode : Word := 0x1E
  idleCfg : Word := 3
  thermCfg : Word := 0x64
  keepwarm : Word := 0xFF02
deriving DecidableEq, Repr, Inhabited

/-- Power counters (R329). -/
structure PwrCounters where
  energy : Dword := 0
  stretch : Dword := 0
  limit : Dword := 0
  oppChange : Dword := 0
  oppPause : Dword := 0
  foldChange : Dword := 0
  boostSpent : Dword := 0
  boostEarned : Dword := 0
  /-- Input energy below one millijoule, in µJ. -/ energyUj : Nat := 0
  /-- Boost allowance below 1 ms, in hundredths. -/ earnedPct : Nat := 0
deriving DecidableEq, Repr, Inhabited

/-- Heat (R322, R323). -/
structure Heat where
  tj : Nat := 0
  sensor : Nat := 0
  steps : Nat := 0
  stepAt : Option Nat := none
  coolSince : Option Nat := none
  /-- Since when T_j has been at or above 105 °C after the sixth step (R323). -/ hotSince : Option Nat := none
  /-- The sixth step of R322 has taken effect at a boundary (R323). -/ sixth : Bool := false
deriving DecidableEq, Repr, Inhabited

/-- Part of the running time of a phase, as the controller credits its samples (R316): the record's key, the fold, the point, the cores
and the time, in ns. -/
structure Span where
  key : Nat
  fold : Nat
  point : Nat
  cores : List Nat
  since : Nat
  till : Nat
deriving DecidableEq, Repr, Inhabited

/-- The power controller's state (R306 to R327). -/
structure Pwr where
  fold : Nat := 0
  point : Nat := 3
  allowedFold : Nat := 8
  foldChangedAt : Option Nat := none
  sampleW : Nat := 0
  /-- The last 20,000 samples, newest first (R321). -/ window : List Nat := []
  above : Nat := 0
  limiter : Nat := 0
  idle : Idle := .s0
  learning : Bool := false
  boostAge : Bool := false
  /-- Droop stretch level per core (R310). -/ droop : Table Nat := []
  opp : Option OppChange := none
  stopped : Bool := false
  stopCause : Nat := 0
  stopStatus : Status := 0
  /-- The stop's sequence has passed its filter and an internal fault started it (R339). -/ internalStop : Bool := false
  learned : Table Learned := []
  /-- PWR_KEEPWARM as it took effect at the last boundary (R69). -/ kw : Word := 0xFF02
  scanOff : Nat := 0
  cmemOff : Nat := 0
  /-- When the last sample was taken, and the phases that have run since, oldest first (R306, R316). -/ sampleAt : Nat := 0
  spans : List Span := []
  /-- VAON counters of a finisher restart (R370): milliseconds, and boost time, not yet accounted. -/ idleMs : Nat := 0
  idleBoost : Nat := 0
deriving DecidableEq, Repr, Inhabited

/-! ### Errors (chapter 13) -/

/-- Cause, enable and capture registers, one per station (R341, R272, R150, R185, R209, R238). -/
structure ErrRegs where
  irqStatus : Word := 0
  irqEnable : Word := 0xFFE
  irqVec : Word := 31
  core : Word := 0
  retest : Nat := 0
  internal : Word := 0
  mem : Word := 0
  memAddr : Dword := 0
  cmem : Word := 0
  slice : Word := 0
  slip : Word := 0
  slipLate : Word := 0
  edition : Word := 0
  editionLoc : Word := 0
  stall : Word := 0
  stallList : List Word := []
  stallOver : Bool := false
  itemFail : Dword := 0
  itemInfo : Dword := 0
  /-- Waits the watchdog has reported (R269), by their key and when they began. -/ reported : List (Nat × Nat) := []
deriving DecidableEq, Repr, Inhabited

/-- Per-core captures (R40, R123). -/
structure CoreErr where
  numPos : Word := 0
  numSrc : Word := 0
  fold : Word := 0
  foldBlk : Word := 0
deriving DecidableEq, Repr, Inhabited

/-- Global registers and read latches (R397, R398, R402). -/
structure Glb where
  refuse : Word := 0
  refuseOfs : Word := 0
  win : Table Word := []
  winErr : Word := 0
  /-- A requester's latch: 1 + the pair's _LO offset, and the upper half. Requesters 0–63, 64 management, 65 JTAG. -/
  latch : Table (Nat × Word) := []
deriving DecidableEq, Repr, Inhabited

/-! ### Contexts -/

/-- A descriptor in the fetch window (R280). -/
structure Fetched where
  bytes : Bytes
  no : Nat
deriving DecidableEq, Repr, Inhabited

/-- A record not yet written (R296): its 32 bytes without SQ_HEAD and PHASE fixed, and FLAGS.IRQ of its descriptor. -/
structure HeldRec where
  bytes : Bytes
  irq : Bool
  /-- HINT_US of its descriptor (R298). -/ hint : Nat
  /-- What it delivers of the colophon, freed when it is written (R366): 1 + the SEQ of the first entry, or 0. -/ drain : Nat
  /-- Acceptance number of the item it ends, which is not complete before it is written (R296), and that of its RUN. -/
  item : Option Nat := none
  run : Option Nat := none
deriving DecidableEq, Repr, Inhabited

/-- A ring pair (R275 to R281, R297). -/
structure Ring where
  cfg : Word := 0x606
  sqBase : Dword := 0
  cqBase : Dword := 0
  irqMod : Word := 1
  sqTail : Word := 0
  sqHead : Word := 0
  cqTail : Word := 0
  cqHead : Word := 0
  stopped : Bool := false
  window : List Fetched := []
  held : List HeldRec := []
  irqCount : Nat := 0
  irqFirst : Option Nat := none
deriving DecidableEq, Repr, Inhabited

/-- One mapped page (R249). -/
structure Page where
  cxl : Bool
  frame : Nat
  write : Bool
  /-- The edition that mapped it, if one did. -/ edition : Option Nat
deriving DecidableEq, Repr, Inhabited

/-- State of an edition (R195). -/
inductive EdState where
  | loading | loaded | damaged
deriving DecidableEq, Repr, Inhabited

/-- A layer of a held edition: record of R187, placement of R191. -/
structure Layer where
  layer : Nat
  version : Nat
  srcfmt : Nat
  form : Nat
  cxl : Bool
  subn : Nat
  blocks : Nat
  eps : Nat
  iters : Nat
  rateSet : Nat
  lbase : Int
  hbase : Int
deriving DecidableEq, Repr, Inhabited

/-- A shard the station holds (R188). -/
structure Shard where
  layer : Nat
  position : Nat
  first : Nat
  count : Nat
  offset : Nat
  nbytes : Nat
  digest : Bytes
  derived : Bytes
  damaged : Bool
deriving DecidableEq, Repr, Inhabited

/-- A held edition (R195). -/
structure Edition where
  id : Nat
  /-- The position whose shards the load took (R190). -/ pos : Nat
  state : EdState
  layers : List Layer
  shards : List Shard
deriving DecidableEq, Repr, Inhabited

/-- A load whose shards are placed and that waits for its bind pass (R124, R194), or a COMMIT that does. -/
structure PassJob where
  ctx : Nat
  /-- Acceptance number of the descriptor. -/ job : Nat
  edition : Nat
  /-- For a COMMIT or REPLACE, its layer. -/ layer : Option Nat
  /-- Digest entries to adopt at the end (R193). -/ adopt : List Bytes
  report : Nat
  /-- ITERS, RATE_SET, EPS and SUBN as the pass read them when it started; `none` while it is pending (R124). -/
  params : Option (Nat × Nat × Word × Bool)
deriving DecidableEq, Repr, Inhabited

/-- A staged replacement (R201). -/
structure Staged where
  edition : Nat
  layer : Layer
  shards : List Shard
  /-- Digest entries STAGE would adopt. -/ adopt : List Bytes
  base : Nat
  committed : Bool
  /-- The shards are staged as records: always in FORM 1, and in FORM 2 when they come from a peer (R119, R201). -/ packed : Bool
deriving DecidableEq, Repr, Inhabited

/-- A kept binding (R289). -/
structure Kept where
  bytes : Bytes
  dev : Nat
  /-- The position whose sections are kept; `none` keeps every one (R74). -/ pos : Option Nat
  /-- CONSTANTS have been written (R81). -/ consts : Bool
  /-- TILE_EQ of each phase, in the phase records of the binding's telemetry (R79). -/ tileEq : List Bool
deriving DecidableEq, Repr, Inhabited

/-- The kettle barrier of a context (R202). -/
inductive Barrier where
  | open | closing | closed
deriving DecidableEq, Repr, Inhabited

/-- Registers of a context page (R404). -/
structure CtxRegs where
  enable : Bool := false
  busy : Bool := false
  subn : Bool := false
  subnActive : Bool := false
  foldCfg : Word := 0x807
  foldEps : Word := 0x3C000000
  mcastLag : Word := 0x1F4
  scrubCfg : Word := 0x80000258
  syncBase : Word := 0
  syncCount : Word := 0
  bindRefuse : Word := 0
  bindRefuseOfs : Word := 0
  ringErr : Word := 0
  abort : Word := 0
  regRefuse : Word := 0
  anchorSel : Word := 0
  anchorData : Table Word := []
deriving DecidableEq, Repr, Inhabited

/-- A context (chapters 08, 10, 11, 14). -/
structure Ctx where
  regs : CtxRegs := {}
  anchors : Table Bytes := []
  key : Option Bytes := none
  hint : Option Nat := none
  rings : Table Ring := []
  turn : Nat := 0
  editions : List Edition := []
  digests : List Bytes := []
  bindings : Table (Option Kept) := []
  pages : Table (Option Page) := []
  staged : List Staged := []
  barrier : Barrier := .open
  /-- When the last sweep began, or the first edition became LOADED (R198). -/ sweepAt : Option Nat := none
  fetchNo : Nat := 0
deriving DecidableEq, Repr, Inhabited

/-! ### Descriptors in work, bindings and runs -/

/-- Where an accepted descriptor stands (R283, R333). -/
inductive JobPhase where
  /-- Accepted, its action not begun. -/ | accepted
  /-- Its action is in progress. -/ | begun
  /-- An item that has ended and whose result is to be copied. -/ | ended
deriving DecidableEq, Repr, Inhabited

/-- An accepted descriptor that has no record yet. -/
structure Job where
  no : Nat
  ctx : Nat
  ring : Nat
  bytes : Bytes
  fetchNo : Nat
  phase : JobPhase
  entry : Option Nat
  /-- Acceptance number of the RUN an item has joined (R283). -/ run : Option Nat
  mb : Option Nat
  flagged : Bool
  slipped : Bool
  verChanged : Bool
  verMin : Nat
  verMax : Nat
  /-- An item: an OPEN took effect since its last pass (R208). A REPLACE: the descriptor accepted next was none (R284). -/
  opened : Bool
  /-- Colophon entries it still holds reserved (R367). -/ room : Nat
deriving DecidableEq, Repr, Inhabited

/-- The active binding (R13, R38). -/
structure Active where
  ctx : Nat
  bindId : Nat
  bytes : Bytes
  runCount : Nat
deriving DecidableEq, Repr, Inhabited

/-- The active run (R78, R166). -/
structure Run where
  no : Nat
  job : Nat
  t0 : Nat
  phase : Nat
  iter : Nat
  step : Nat
  begun : Bool
  slipped : Bool
  phaseAt : Nat
  /-- Logical cores that HALT has ended, as of the last change of the map (R98). -/ halted : List Nat := []
deriving DecidableEq, Repr, Inhabited

/-- A neighbour of the gathering: axis, plus side, target station, port, detour hops (R234, R235). -/
structure Nbr where
  axis : Nat
  plus : Bool
  station : Nat
  port : Nat
  hops : List Nat
deriving DecidableEq, Repr, Inhabited

/-- A gathering (R151, R233). -/
structure Gathering where
  number : Nat
  slice : Nat
  dims : List Nat
  axes : List Nat
  detour : Bool
  stations : List Nat
  pos : Nat
  nbrs : List Nbr
deriving DecidableEq, Repr, Inhabited

/-- A formation message that no formation of this station has taken yet: sender, gathering, hash, moment of arrival (R236). -/
structure EarlyMsg where
  src : Nat
  gath : Nat
  hash : Bytes
  since : Nat
deriving DecidableEq, Repr, Inhabited

/-- A formation under way (R236). -/
structure Forming where
  job : Nat
  gath : Gathering
  hash : Bytes
  /-- Stations whose matching message has arrived. -/ got : List Nat
  /-- Stations whose detour is not yet accepted. -/ setups : List Nat
  since : Nat
  /-- It has failed while the finisher restarts; its end waits (R370). -/ failed : Bool := false
deriving DecidableEq, Repr, Inhabited

/-- Bindings, runs, items and the gathering of the station. -/
structure Work where
  jobs : List Job := []
  nextNo : Nat := 0
  active : Option Active := none
  run : Option Run := none
  bases : List Nat := [0, 0, 0, 0]
  /-- Physical core of each logical core (R17). -/ coreMap : List Nat := []
  gath : Option Gathering := none
  forming : Option Forming := none
  /-- Formation messages that arrived before the descriptor (R236). -/ early : List EarlyMsg := []
  passes : List PassJob := []
  /-- The context whose data the core buffers and CMEM hold (R139, R247). -/ dataCtx : Option Nat := none
  /-- STARTs that have arrived and are not yet accepted (R163): run number, T0, arrival, arrival port. -/ starts : List (Nat × Nat × Nat × Nat) := []
  /-- ABORTs of runs that this station has not begun (R172): run number, status. -/ aborts : List (Nat × Nat) := []
  /-- Micro-batches in flight (R179). -/ passesInFlight : List Nat := []
  /-- Operating point and fold decided for the phase that starts. -/ pendingBoundary : Bool := false
deriving DecidableEq, Repr, Inhabited

/-! ### Cores (chapters 03, 04) -/

/-- Progress of a queue entry. -/
inductive QSt where
  | queued | loaded | streamed | begun | done
deriving DecidableEq, Repr, Inhabited

/-- A piece of another module's memory that a board load has brought (R240). -/
structure Piece where
  module : Nat
  addr : Nat
  bytes : Bytes
  mark : Option Status
deriving DecidableEq, Repr, Inhabited

/-- An entry of a unit queue (R83), or a wait token of an FE (R97). -/
structure QEnt where
  word : Quad
  pc : Nat
  token : Option Nat
  st : QSt
  /-- Rows still to drain, per array (R55). -/ drain : List Nat
  /-- Issue number on the station, for the CMEM interlocks (R138). -/ no : Nat
  /-- Board loads have been asked for, and what they have brought. -/ asked : Bool
  got : List Piece
  /-- The first flagged element of each array's tile so far (R40): array, row, column, whether it was a NaN. -/
  flags : List (Nat × Nat × Nat × Bool) := []
  /-- The binding's lag limit when the instruction was issued, in µs (R83, R182). -/ lag : Nat := 0
  /-- A TOPK's place in the order of arrival at its engine (R138, R142). -/ arrival : Option Nat := none
  /-- When its wait began (R269). -/ since : Nat := 0
deriving DecidableEq, Repr, Inhabited

/-- What a staging slot, a shadow or an active tile holds (R44, R51): elements row by row, K × N; a grouped element carries
256 × its group exponent. -/
structure Tile where
  fmt : NumFmt
  oblong : Bool
  els : List Nat
  bad : Option Status
deriving DecidableEq, Repr

/-- Weight registers that hold zero in W19 form: what they hold until a load (R44 gives no reset value; log 74). -/
def Tile.zero : Tile := ⟨.w19, false, [], none⟩

/-- A sequencer's state (R77, R83, R98). -/
inductive SeqSt where
  | idle | run | atPhase | halted
deriving DecidableEq, Repr, Inhabited

/-- The sequencer of a core (R82, R83). -/
structure Seq where
  st : SeqSt := .idle
  pc : Nat := 0
  program : Table Quad := []
  descs : Table Bytes := []
  fused : Table Bytes := []
  entries : List Nat := []
  /-- The FE with GATE 0 the sequencer waits for (R97). -/ fe : Option Nat := none
  /-- The BAR the sequencer waits at (R98). -/ bar : Option Quad := none
  /-- Every core of the BAR's CMASK has reached it. -/ barMet : Bool := false
  /-- BARs across cores that name this one and that it has met none of its own with: logical core and BARID (R98). -/
  barIn : List (Nat × Nat) := []
  feNo : Nat := 0
  /-- When the core last completed an instruction or reached its boundary (R325). -/ lastAt : Nat := 0
deriving DecidableEq, Repr, Inhabited

/-- A running fused command (R105 to R108). -/
structure FscRun where
  /-- Issue number of the FSC. -/ no : Nat
  pc : Nat
  record : Bytes
  /-- Iterations finished per stage. -/ fin : List Nat
  /-- Damage of slot halves: key 2 × slot + half. -/ damage : Table (Option Status)
  /-- An iteration of its SEND stage waits for its receivers (R84, R106). -/ sending : Bool := false
  /-- The place of its TOPK stage's iteration in the order of arrival at its engine (R138, R142). -/ arrival : Option Nat := none
deriving DecidableEq, Repr, Inhabited

/-- The unit queues and running fused commands of a core (R83). -/
structure Queues where
  ar : List QEnt := []
  ex : List QEnt := []
  vu : List QEnt := []
  se : List QEnt := []
  cx : List QEnt := []
  rg : List QEnt := []
  fscs : List FscRun := []
deriving DecidableEq, Repr, Inhabited

/-- Keep-warm of one array (R68). -/
structure KeepWarm where
  /-- When the gap in progress began; then when the density last stepped, or a phase ended. -/
  since : Nat := 0
  /-- Density code after the first step down, 0 before it. -/
  density : Nat := 0
  gated : Bool := false
  /-- The gap spans a point where the binding declares slack. -/
  slack : Bool := false
  /-- Nanoseconds of the 4 µs, or cycles of a step, that had passed at `since`. -/
  spent : Nat := 0
  /-- Slots after `since` that are counted already, or lay in a block on other arrays. -/
  seen : Nat := 0
  /-- Empty slots since the core's last block that are counted already. -/
  paid : Nat := 0
deriving DecidableEq, Repr, Inhabited

/-- The arrays of a core (R44 to R70). -/
structure Arrays where
  slots : Table (Option Tile) := []
  shadow : Table Tile := []
  active : Table Tile := []
  acc : Table Word := []
  /-- Marks of accumulator rows, by the key of the row's first entry (R254). -/ accMarks : Table (Option Status) := []
  /-- Shape (true oblong) and cell form (true OF8) in use (R48, R53). -/ config : Option (Bool × Bool) := none
  /-- Keep-warm of each array. -/ keep : Table KeepWarm := []
  rows : Dword := 0
  bubbles : Dword := 0
  dummy : Dword := 0
  tiles : Dword := 0
deriving DecidableEq, Repr, Inhabited

/-- A core buffer (R247, R248): bytes, and the marks of its 64-byte lines (R332). -/
structure Buf where
  bytes : Table Byte := []
  marks : Table (Option Status) := []
deriving DecidableEq, Repr, Inhabited

/-- A matrix core. -/
structure Core where
  seq : Seq := {}
  q : Queues := {}
  arr : Arrays := {}
  buf : Buf := {}
  /-- The record of the next folded tile in which a decoder miscounts (R121, check 5). -/ decoder : Option Nat := none
deriving DecidableEq, Repr, Inhabited

/-! ### Memories -/

/-- GDDR7 and CXL tier contents, frames and registers (R249 to R263). -/
structure Mem where
  gddr : Table Byte := []
  gddrMarks : Table (Option Status) := []
  cxl : Table Byte := []
  cxlMarks : Table (Option Status) := []
  /-- Frames mapped or being cleared, per tier. -/ gddrUsed : List Nat := []
  cxlUsed : List Nat := []
  gddrClearing : List Nat := []
  cxlClearing : List Nat := []
  retirePending : List Nat := []
  /-- Per frame, when its corrected sectors of the last 24 h were met (R255). -/ ceTimes : Table (List Nat) := []
  /-- Frames with an uncorrectable sector (R255). -/ unc : List Nat := []
  split : Word := 0xC450
  ce : Dword := 0
  crcRetry : Dword := 0
  cxlCfg : Word := 0
  /-- Layout in force since the last enumeration (R261). -/ cxlLayout : Word := 0
  cxlTimeoutCfg : Word := 0x7D0
  cxlUp : Nat := 0
  /-- Capacity of each device, MiB. -/ cxlCap : Table Nat := []
  /-- Devices of the layout in force (R261). -/ cxlEnum : Nat := 0
  /-- The 2 s in which devices may become ready have passed (R375). -/ cxlShut : Bool := false
  cxlTimeouts : Table (List Nat) := []
  /-- Sectors of the tier whose next read, and whose next write, has no completion in time (R262). -/ cxlLateRead : List Nat := []
  cxlLateWrite : List Nat := []
  /-- Devices whose link is down and whose reset waits for the colophon (R262, R367), a bit each. -/ cxlDue : Nat := 0
deriving DecidableEq, Repr, Inhabited

/-- Where lists of a TOPK lie, with the mode and MAX they were ranked under (R146): the space and its owner (0 a core buffer, 2 device
memory of a context, 3 CMEM, 4 another module), bytes from an address on, and MODE + 4 × MAX. -/
structure ListRegion where
  space : Nat
  owner : Nat
  addr : Nat
  bytes : Nat
  code : Nat
deriving DecidableEq, Repr, Inhabited

/-- CMEM (R135 to R150). -/
structure Cmem where
  bytes : Table Byte := []
  /-- Marks that rows carry, moved in with marked data (R332; log 16). -/ marks : Table (Option Status) := []
  /-- Rows found uncorrectable (R140). -/ bad : Table Bool := []
  pass : Dword := 0
  repass : Dword := 0
  ce : Dword := 0
deriving DecidableEq, Repr, Inhabited

/-- Who issued a sync operation (R264). -/
inductive Issuer where
  /-- An FE: core, its number, GATE mask, and the virtual ID its completion signals (R84). -/
  | fe (core no gate : Nat) (done : Option Nat)
  /-- A DONE signal of a core. -/ | dn (core : Nat)
  /-- An RSYNC signal of a RECV. -/ | rsig
  | agent
  | plan
  /-- Another module of the board, with the TAG of its access. -/ | board (module tag : Nat)
  | debugger
deriving DecidableEq, Repr

/-- A sync operation in hand (R264). -/
structure SyncReq where
  op : SyncOp
  ge : Bool
  imm : Dword
  ctx : Nat
  iss : Issuer
  /-- When it was issued (R269). -/ since : Nat
deriving DecidableEq, Repr

/-- A sync word (R264, R265). -/
structure SyncWord where
  val : Dword := 0
  full : Bool := false
  bad : Bool := false
  q : List SyncReq := []
deriving DecidableEq, Repr, Inhabited

/-- Sync memory, its waiters and its registers (R264 to R272). -/
structure Sync where
  words : Table SyncWord := []
  /-- Operations crossing the spine towards leaf A and leaf B, oldest first. -/ flyA : List (Nat × SyncReq) := []
  flyB : List (Nat × SyncReq) := []
  /-- Operations held at their issuers for lack of waiter entries, oldest first. -/ held : List (Nat × SyncReq) := []
  wdog : Word := 0x64
  dbgSel : Word := 0
  dbgWval : Dword := 0
  dbgOp : Bool := false
  dbgRefused : Bool := false
deriving DecidableEq, Repr, Inhabited

/-! ### Links (chapter 09) -/

/-- States of a cord (R219). -/
inductive CordSt where
  | detect | equalise | align | verify | join | joined | dropped
deriving DecidableEq, Repr, Inhabited

/-- One cord (R219 to R221). -/
structure Cord where
  st : CordSt := .detect
  /-- Seconds of the next back-off interval (R220). -/ backoff : Nat := 1
  /-- When the cord was last dropped. -/ dropAt : Nat := 0
  off : Bool := false
deriving DecidableEq, Repr, Inhabited

/-- States of a port (R244). -/
inductive PortSt where
  | down | training | discovery | active | quarantine | absent
deriving DecidableEq, Repr, Inhabited

/-- A numbered flit that the port has sent (R213, R214): its number, KIND and payload. -/
structure Flit where
  no : Nat
  kind : Nat
  data : Bytes
deriving DecidableEq, Repr, Inhabited

/-- A virtual channel of a port (R216, R218). -/
structure Chan where
  /-- Granules that the far end grants. -/ credit : Nat := 63
  esc : Nat := 1
  /-- Packets that wait to leave, oldest first, each with the port it arrived on, 6 for the station's own. -/
  wait : List (Nat × Bytes) := []
  /-- Granules begun of the packet that waits first. -/ gone : Nat := 0
  /-- Payloads that are ready and not yet sent (R217). -/ out : List Bytes := []
  /-- When packets began to wait or credit last came (R269). -/ since : Nat := 0
  /-- Granules received and not yet credited. -/ owed : Nat := 0
  /-- Bytes received of a packet that is not whole. -/ rx : Bytes := []
deriving DecidableEq, Repr, Inhabited

/-- The link layer of a port (R213 to R218). -/
structure LinkLayer where
  /-- Number of the next flit sent. -/ tx : Nat := 0
  /-- Number of the next flit expected. -/ rx : Nat := 0
  /-- Unacknowledged flits, oldest first. -/ replay : List Flit := []
  nakNo : Nat := 0
  nakRun : Nat := 0
  /-- A NAK has been sent and the replay marker awaited. -/ naked : Bool := false
  /-- Flits that come again after a replay marker and have been received already. -/ skip : Nat := 0
  sinceAck : Nat := 0
  circ : Chan := {}
  act : Chan := { credit := 20 }
  /-- Link control messages that are ready and not yet sent (R217). -/ ctl : List Bytes := []
  /-- Flits sent since the last link control flit, and since the last activation flit (R217). -/ sinceCtl : Nat := 63
  sinceAct : Nat := 3
  /-- Flits sent, which says the cord of the next (R211). -/ line : Nat := 0
deriving DecidableEq, Repr, Inhabited

/-- Encryption of a port (R226, R356, R357). -/
structure LinkKeys where
  epoch : Nat := 0
  rxEpoch : Nat := 0
  txKey : Option Bytes := none
  rxKey : Option Bytes := none
  nextTx : Option Bytes := none
  nextRx : Option Bytes := none
  txSwitchAt : Option Nat := none
  rxSwitchAt : Option Nat := none
  txGroup : Nat := 0
  rxGroup : Nat := 0
  /-- The flits of the open group sent, before encryption; the flits of a group received and held. -/ txOpen : List Flit := []
  rxHeld : List Bytes := []
  /-- Number of the first flit held. -/ rxFirst : Nat := 0
  badTags : Nat := 0
  frags : Table Bytes := []
  peerKey : Option Bytes := none
  ephNo : Option Nat := none
  agreedAt : Nat := 0
  failed : Bool := false
  failedAt : Nat := 0
deriving DecidableEq, Repr, Inhabited

/-- An optical module at a position of a port, as CMIS pages 00h, 01h and 11h show it (R224). -/
structure OptModule where
  /-- Its kind and power class, as page 00h gives them, and its lane status, as page 11h does. -/ identity : Nat := 0
  powerClass : Nat := 0
  laneStatus : Nat := 0
  /-- The temperatures at which it warns and alarms (R379). -/ warnC : Nat := 0
  alarmC : Nat := 0
  /-- Host lanes, and Gbit/s of each. -/ lanes : Nat := 0
  gbps : Nat := 0
  /-- ModuleReady; a module of another kind is held in low power. -/ ready : Bool := false
  lowPower : Bool := false
  /-- A lower-page flag for loss of signal or a fault has been read. -/ flagged : Bool := false
deriving DecidableEq, Repr, Inhabited

/-- A link port (R210, R230, R231, R244, R245). -/
structure Port where
  plan : Word := 0x02000FFF
  /-- The plan entry in force since the last APPLY. -/ inForce : Word := 0
  asym : Word := 0
  st : PortSt := .down
  cause : Nat := 0
  enc : Bool := false
  heard : Nat := 0
  alignedCord : Bool := false
  cords : Table Cord := []
  hello : Option Bytes := none
  /-- The verdict last reached, as HELLO sends it: 0 while pending (R228, R231, R370). -/ said : Nat := 0
  ll : LinkLayer := {}
  keys : LinkKeys := {}
  corr : Dword := 0
  replayCount : Dword := 0
  cordDrop : Dword := 0
  trainAt : Option Nat := none
  firstCordAt : Option Nat := none
  helloAt : Option Nat := none
  noCordAt : Option Nat := none
  /-- MOD_SEL, MOD_INT_N and MOD_RESET_N (R224). -/ modSel : Nat := 0
  modIntN : Bool := true
  modResetN : Bool := false
  /-- Modules by position (R224). -/ modules : Table OptModule := []
deriving DecidableEq, Repr, Inhabited

/-- A transit entry (R235). -/
structure TransitEnt where
  gath : Nat
  slice : Nat
  /-- The neighbour that the detour reaches. -/ target : Nat
  inPort : Nat
  outPort : Nat
deriving DecidableEq, Repr, Inhabited

/-- Links of the station. -/
structure Lnk where
  /-- TRANSIT messages that wait for the finisher, with their ports, oldest first (R370). -/ transitWait : List (Nat × Bytes) := []
  /-- TRANSIT releases that wait for the finisher, with their ports, oldest first (R370). -/ transitOut : List (Nat × Bytes) := []
  self : Word := 0
  /-- Station ID in force since the last APPLY (R230). -/ station : Nat := 0
  planValid : Bool := false
  slice : Word := 0
  boardOpen : Dword := 0
  ports : Table Port := []
  rte : Table Word := []
  sliceDrop : Dword := 0
  transits : List TransitEnt := []
deriving DecidableEq, Repr, Inhabited

/-! ### Circulation (chapter 07) -/

/-- The window of an origin (R159): base and map of the 64 numbers from it. -/
structure Origin64 where
  base : Nat := 0
  map : Nat := 0
deriving DecidableEq, Repr, Inhabited

/-- A signature in staging (R159, R166, R168). -/
structure HeldSig where
  bytes : Bytes
  /-- Arrival port; 6 for the station's own. -/ port : Nat
  /-- It is in the origin's window and may be placed. -/ inWindow : Bool
  /-- It has been placed, for the step its header names. -/ placed : Bool
deriving DecidableEq, Repr, Inhabited

/-- A signature being built whole from the CXL tier (R177). -/
structure Build where
  leaf : Nat
  bytes : Bytes
deriving DecidableEq, Repr, Inhabited

/-- What waits to cross the spine to the other leaf (R168, R169): a signature or a packet of the activation channel, its arrival port, and the
copies that leave there. -/
structure Crossing where
  /-- It is a signature. -/ circ : Bool
  port : Nat
  /-- The signature, or the packet with its head. -/ bytes : Bytes
  copies : List (Nat × Bytes)
deriving DecidableEq, Repr, Inhabited

/-- A transfer held in the activation share (R174). -/
structure Transfer where
  src : Nat
  /-- Arrival port; of the station's own, 6 from leaf B and 7 from leaf A (R9). -/ port : Nat
  cls : Nat
  tag : Nat
  bytes : Bytes
  mark : Option Status
  /-- Virtual sync ID signalled on arrival (R96). -/ rsync : Option Nat
  arrivedAt : Nat
  /-- Its lag limit in µs; 0 for none (R173). -/ lag : Nat
deriving DecidableEq, Repr, Inhabited

/-- A SEND that waits for acknowledgements (R174). -/
structure SendOut where
  core : Nat
  no : Nat
  tag : Nat
  /-- Receivers whose acknowledgement is still to come, with the port that leads to each. -/ waiting : List (Nat × Nat)
  fail : Option Status
deriving DecidableEq, Repr, Inhabited

/-- A board access that waits for its response (R240): transfer number, module, core, kind. -/
structure BoardOut where
  no : Nat
  module : Nat
  /-- Issuing core, or `none` for the BAR4 window. -/ core : Option Nat
  /-- Issue number of the instruction that waits. -/ entry : Nat
  store : Bool
  addr : Nat
  len : Nat
  /-- The sync operation of an FE with BOARD = 1. -/ sync : Option SyncReq
  /-- The port by which it left. -/ port : Nat
  /-- When it left (R269). -/ since : Nat
deriving DecidableEq, Repr, Inhabited

/-- The ring agents (R158 to R185). -/
structure Circ where
  origins : Table Origin64 := []
  sigs : List HeldSig := []
  builds : List Build := []
  /-- Crossings of the spine that wait for a share, oldest first. -/ cross : List Crossing := []
  nextSeq : Nat := 0
  nextEntry : Nat := 0
  transfers : List Transfer := []
  sends : List SendOut := []
  detach : List Nat := []
  /-- Detached shortlist transfers whose later packets are discarded: sender, TAG, queries still to come (R146, R174). -/
  discard : List (Nat × Nat × Nat) := []
  /-- TAGs of shortlist transfers of which a part had come when their port was lost (R148). -/ lost : List Nat := []
  boards : List BoardOut := []
  boardNo : Nat := 0
  peakA : Nat := 0
  peakB : Nat := 0
  placedCount : Dword := 0
  dup : Dword := 0
  slip : Dword := 0
  detachCount : Dword := 0
  /-- Step-s placements already written per logical core: key 64 × step + core. -/ stepPlaced : Table Nat := []
deriving DecidableEq, Repr, Inhabited

/-! ### The station -/

/-- What the PCI Express rules give a function beside its context page (R273, R297): its MSI-X table and power state. -/
structure PcieFn where
  /-- Vectors that are not masked, a bit each. -/ unmasked : Nat := 0
  /-- Pending bits. -/ pending : Nat := 0
  /-- The function is in D3hot. -/ d3hot : Bool := false
  /-- MSI-X Enable and Function Mask of Message Control. -/ msixOn : Bool := false
  masked : Bool := false
deriving DecidableEq, Repr, Inhabited

/-- Everything of the station but the queue of commands. -/
structure Dev where
  supply : Supply := .off
  pins : Pins := {}
  fuses : Fuses := {}
  flash : Flash := {}
  boot : Boot := {}
  mbx : Mbx := {}
  mgmt : Mgmt := {}
  sec : Sec := {}
  col : Colophon := {}
  clk : Clk := {}
  pr : PwrRegs := {}
  pc : PwrCounters := {}
  heat : Heat := {}
  pwr : Pwr := {}
  err : ErrRegs := {}
  coreErr : Table CoreErr := []
  glb : Glb := {}
  ctxs : Table Ctx := []
  /-- The functions 0 to 63. -/ fns : Table PcieFn := []
  work : Work := {}
  cores : Table Core := []
  mem : Mem := {}
  cmem : Cmem := {}
  sync : Sync := {}
  lnk : Lnk := {}
  circ : Circ := {}
  /-- Counter of the free values taken so far (log 2). -/ free : Nat := 0
  /-- Issue counter of R138. -/ issueNo : Nat := 0
  /-- The regions of TOPK lists, newest last (R146). -/ lists : List ListRegion := []
  /-- Counter of the TOPKs that have arrived at CMEM or at the scan engines (R138). -/ arrivalNo : Nat := 0
  /-- What has left the station, oldest first (log 3). -/ out : List Out := []
deriving DecidableEq, Repr, Inhabited

/-- The machine: the station and the commands that wait, first in first out. -/
structure State where
  dev : Dev := {}
  pending : List Instr := []
deriving DecidableEq, Repr

/-- The example chip's voltages at the six points, mV (R309; log 5). -/
def exampleVolts : List Nat := [620, 660, 700, 740, 770, 790]

/-- SHA-256 of the 65 bytes 04 then 64 zeros: the key hash that the fuses of log 5 hold. -/
def exampleKeyHash : Bytes :=
  [89, 239, 26, 90, 0, 243, 91, 26, 114, 45, 165, 108, 167, 11, 82, 167,
   33, 243, 57, 152, 99, 77, 79, 164, 37, 147, 1, 241, 112, 247, 182, 189]

/-- The station before its input passes 46 V: every register at the reset value of its table (R394), every memory empty, and
the module's fuses and flash as log 5 names them. -/
def Dev.reset : Dev :=
  { fuses := { volts := (List.range 8).map fun n => (n, exampleVolts), fwKeyHash := [exampleKeyHash] } }

/-- The machine right after reset: nothing waits (log 4 for what the manual does not state). -/
def State.reset : State := { dev := Dev.reset, pending := [] }

end Sys2Proof.Machine
end

