-- ==== Sys2Proof/Machine/Ops.lean ====
section
/-! DEFINITION. The operations that the commands share: parts of the station, status codes, the outbox, causes and captures
(chapter 13), the timestamp (R241), the colophon (R361 to R369), refused register writes (R396, R397), and the memories with
their marks (chapter 10). -/

namespace Sys2Proof.Machine

/-- What a command answers. -/
abbrev Answer := Host.Outcome State Fault Refusal

/-- A command changes the station and never the queue. -/
def State.on (s : State) (f : Dev → Dev) : Answer := .next { s with dev := f s.dev }

/-! ### Status codes (R330) -/

namespace St
def ok : Status := 0x00
def blockCheck : Status := 0x10
def foldSize : Status := 0x11
def foldHeader : Status := 0x12
def digestMismatch : Status := 0x20
def sigInvalid : Status := 0x21
def noAnchor : Status := 0x22
def linkLost : Status := 0x30
def detached : Status := 0x31
def ringIncomplete : Status := 0x32
def slice : Status := 0x33
def memUnc : Status := 0x40
def cxlTimeout : Status := 0x41
def numericFlag : Status := 0x50
def stallSuspect : Status := 0x60
def abortedByHost : Status := 0x61
def coolantStop : Status := 0x70
def thermalStop : Status := 0x71
def coreParked : Status := 0x72
def internalFault : Status := 0x73
def logFull : Status := 0x80
def notPermitted : Status := 0x81
def slip : Status := 0x90
def versionChanged : Status := 0x91
/-- The informational statuses of R330. -/
def informational (s : Status) : Bool := s == numericFlag || s == slip || s == versionChanged
/-- The failure statuses of R330. -/
def failure (s : Status) : Bool := s != ok && !informational s
end St

/-! ### Parts of the station -/

/-- The canonical form of every addressed memory: GDDR7, the CXL tier, CMEM and the core buffers, with their marks. A listed byte is not
zero and a listed mark is not `none`; addresses rise. -/
def Memory.wf (d : Dev) : Bool :=
  Table.wf 0 d.mem.gddr && Table.wf none d.mem.gddrMarks && Table.wf 0 d.mem.cxl && Table.wf none d.mem.cxlMarks
    && Table.wf 0 d.cmem.bytes && Table.wf none d.cmem.marks && Table.wf false d.cmem.bad
    && d.cores.all fun e => Table.wf 0 e.2.buf.bytes && Table.wf none e.2.buf.marks

namespace Dev

/-- Matrix core `n`. -/
def core (d : Dev) (n : Nat) : Core := d.cores.get {} n
/-- Change matrix core `n`. -/
def onCore (d : Dev) (n : Nat) (f : Core → Core) : Dev := { d with cores := d.cores.modify {} n f }
/-- Context `c`. -/
def ctx (d : Dev) (c : Nat) : Ctx := d.ctxs.get {} c
/-- Change context `c`. -/
def onCtx (d : Dev) (c : Nat) (f : Ctx → Ctx) : Dev := { d with ctxs := d.ctxs.modify {} c f }
/-- Ring pair `r` of context `c`. -/
def ring (d : Dev) (c r : Nat) : Ring := (d.ctx c).rings.get {} r
/-- Change ring pair `r` of context `c`. -/
def onRing (d : Dev) (c r : Nat) (f : Ring → Ring) : Dev :=
  d.onCtx c fun x => { x with rings := x.rings.modify {} r f }
/-- Link port `p`. -/
def port (d : Dev) (p : Nat) : Port := d.lnk.ports.get {} p
/-- Change link port `p`. -/
def onPort (d : Dev) (p : Nat) (f : Port → Port) : Dev :=
  { d with lnk := { d.lnk with ports := d.lnk.ports.modify {} p f } }
/-- Change the registers of a context's page. -/
def onRegs (d : Dev) (c : Nat) (f : CtxRegs → CtxRegs) : Dev := d.onCtx c fun x => { x with regs := f x.regs }
/-- Change the error registers. -/
def onErr (d : Dev) (f : ErrRegs → ErrRegs) : Dev := { d with err := f d.err }
/-- Change the bindings, runs and items. -/
def onWork (d : Dev) (f : Work → Work) : Dev := { d with work := f d.work }
/-- Change the power controller. -/
def onPwr (d : Dev) (f : Pwr → Pwr) : Dev := { d with pwr := f d.pwr }
/-- Change the ring agents. -/
def onCirc (d : Dev) (f : Circ → Circ) : Dev := { d with circ := f d.circ }
/-- Change the memory's bookkeeping. -/
def onMem (d : Dev) (f : Mem → Mem) : Dev := { d with mem := f d.mem }

/-- Something leaves the station. -/
def emit (d : Dev) (o : Out) : Dev := { d with out := d.out ++ [o] }
/-- The next free value (log 2). -/
def freeValue (d : Dev) : Nat := Config.freeNat d.free
/-- A free value has been taken. -/
def tookFree (d : Dev) : Dev := { d with free := d.free + 1 }
/-- Free bytes, each a free value of its own (log 2). -/
def freeBytes (d : Dev) (n : Nat) : Bytes × Dev :=
  ((List.range n).map fun i => byte (Config.freeNat (d.free + i)), { d with free := d.free + n })

/-- The module has its input and its logic runs. -/
def powered (d : Dev) : Bool := decide (d.supply = .on)
/-- A change that takes place only while the module is powered. -/
def live (d : Dev) (f : Dev → Dev) : Dev := if d.powered then f d else d
/-- A change that takes place only on a condition. -/
def given (d : Dev) (b : Bool) (f : Dev → Dev) : Dev := if b then f d else d
/-- Apply a change for each element of a list, in order. -/
def each {α : Type} (d : Dev) (l : List α) (f : Dev → α → Dev) : Dev := l.foldl f d
/-- Writes done for each element of a list, in order, with the status of the first that fails. -/
def eachWrite {α : Type} (d : Dev) (l : List α) (f : Dev → α → Option Status × Dev) : Option Status × Dev :=
  l.foldl (fun r x => let w := f r.2 x; (r.1 <|> w.1, w.2)) (none, d)

/-! ### Flits sent (R211, R213 to R218, R226) -/

/-- Flits of a replay buffer (R215). -/
def replayRoom : Nat := 8192

/-- A port that carries packets. -/
def portUp (d : Dev) (p : Nat) : Bool := (d.port p).st == .active
/-- Cords of a port that are joined, in a mask. -/
def joinedMask (d : Dev) (p : Nat) : Nat :=
  ((List.range 12).filter fun k => ((d.port p).cords.get {} k).st == .joined).foldl (fun m k => m + 2 ^ k) 0
/-- Cords of a port that are turned off, in a mask. -/
def offMask (d : Dev) (p : Nat) : Nat :=
  ((List.range 12).filter fun k => ((d.port p).cords.get {} k).off).foldl (fun m k => m + 2 ^ k) 0
/-- The active cords of a port, in ascending order. -/
def activeCords (d : Dev) (p : Nat) : List Nat :=
  (List.range 12).filter fun k => ((d.port p).cords.get {} k).st == .joined && !((d.port p).cords.get {} k).off

/-- The 256 bytes of a flit (R213, R214): HEAD, the payload filled with zeros, and CRC-32C. -/
def flitBytes (kind cr ak number : Nat) (payload : Bytes) : Bytes :=
  let b := leBytes 3 (kind * 2 ^ 21 + cr * 2 ^ 18 + ak * 2 ^ 16 + number % 65536) ++ padTo payload 249
  b ++ leBytes 4 (crc32c b).toNat
/-- A flit goes on the next active cord in turn (R211); with none, it is lost. -/
def flitOut (d : Dev) (p kind cr ak number : Nat) (payload : Bytes) : Dev :=
  let l := d.activeCords p
  let i := (d.port p).ll.line
  if l.isEmpty then d
  else (d.onPort p fun x => { x with ll := { x.ll with line := i + 1 } }).emit (.flit p (l.getD (i % l.length) 0) (flitBytes kind cr ak number payload))
/-- A numbered flit is sent and kept until it is acknowledged. -/
def numbered (d : Dev) (p kind : Nat) (payload : Bytes) : Dev :=
  (d.onPort p fun y => { y with ll := { y.ll with
    tx := (y.ll.tx + 1) % 65536, replay := y.ll.replay ++ [⟨y.ll.tx, kind, payload⟩] } }).flitOut p kind 0 0 0 payload

/-- The nonce of the group that is sent (R226). -/
def txNonce (k : LinkKeys) : Bytes := leBytes 4 k.epoch ++ leBytes 8 k.txGroup
/-- An encrypting port closes its open group, once its replay buffer has room for the tag: a tag flit over the group's HEAD bytes and payloads follows; a new key takes effect at the
group named for it (R226, R357). -/
def closeGroup (d : Dev) (p : Nat) : Dev :=
  let k := (d.port p).keys
  match k.txKey with
  | none => d
  | some key =>
    if k.txOpen.isEmpty || (d.port p).ll.replay.length ≥ replayRoom then d
    else
      let aad := k.txOpen.flatMap fun f => leBytes 3 (f.kind * 2 ^ 21)
      let s := Config.gcmSeal key (txNonce k) aad (k.txOpen.flatMap fun f => padTo f.data 249)
      let g := k.txGroup + 1
      let sw := k.txSwitchAt = some g && k.nextTx.isSome
      (d.numbered p 4 s.2).onPort p fun y => { y with keys :=
        if sw then
          { y.keys with txOpen := [], txGroup := 0, epoch := y.keys.epoch + 1, txKey := y.keys.nextTx, nextTx := none, txSwitchAt := none }
        else { y.keys with txOpen := [], txGroup := g } }
/-- A flit of a channel or of link control is sent. On an encrypting port a channel's flit joins the open group, whose 63rd closes it; its
payload is encrypted at its place in the group, as the counter mode of AES-GCM has it (DEDUCED, log 64). -/
def sendFlit (d : Dev) (p kind : Nat) (payload : Bytes) : Dev :=
  let k := (d.port p).keys
  match k.txKey with
  | none => d.numbered p kind payload
  | some key =>
    if kind = 3 then d.numbered p kind payload
    else
      let at_ := 249 * k.txOpen.length
      let c := sub (Config.gcmSeal key (txNonce k) [] (zeros at_ ++ padTo payload 249)).1 at_ 249
      let d1 := (d.numbered p kind c).onPort p fun y => { y with keys := { y.keys with txOpen := y.keys.txOpen ++ [⟨(d.port p).ll.tx, kind, payload⟩] } }
      if k.txOpen.length ≥ 62 then d1.closeGroup p else d1

end Dev

/-- A channel of a port: circulation or activation. -/
def LinkLayer.chan (x : LinkLayer) (circ : Bool) : Chan := if circ then x.circ else x.act
/-- Change a channel. -/
def LinkLayer.onChan (x : LinkLayer) (circ : Bool) (f : Chan → Chan) : LinkLayer :=
  if circ then { x with circ := f x.circ } else { x with act := f x.act }
/-- The KIND of the flit sent next (R217): link control ahead, at most 1 flit in 64 while others are ready; then activation, at most 1 in
4 while circulation flits are ready. Idle time between the commands counts as flits that nothing used (log 7). -/
def LinkLayer.nextKind (x : LinkLayer) : Option Nat :=
  if !x.ctl.isEmpty && (x.sinceCtl ≥ 63 || (x.act.out.isEmpty && x.circ.out.isEmpty)) then some 3
  else if !x.act.out.isEmpty && (x.circ.out.isEmpty || x.sinceAct ≥ 3) then some 2
  else if !x.circ.out.isEmpty then some 1
  else none
/-- The payload of the flit sent next, of its KIND. -/
def LinkLayer.nextFlit (x : LinkLayer) (kind : Nat) : Bytes :=
  ((if kind = 3 then x.ctl else (x.chan (kind = 1)).out).head?).getD []
/-- It is taken from what is ready. -/
def LinkLayer.tookFlit (x : LinkLayer) (kind : Nat) : LinkLayer :=
  let y := { x with
    sinceCtl := if kind = 3 then 0 else x.sinceCtl + 1, sinceAct := if kind = 2 then 0 else x.sinceAct + 1
    ctl := if kind = 3 then x.ctl.drop 1 else x.ctl }
  if kind = 3 then y else y.onChan (kind = 1) fun c => { c with out := c.out.drop 1 }
namespace Dev

/-- Change the link layer of a port. -/
def onLink (d : Dev) (p : Nat) (f : LinkLayer → LinkLayer) : Dev := d.onPort p fun x => { x with ll := f x.ll }

/-- Flits that sending one of a kind takes: on an encrypting port the one that fills a group brings the group's tag with it (R226). -/
def flitsOf (d : Dev) (p kind : Nat) : Nat :=
  let k := (d.port p).keys
  if k.txKey.isSome && kind ≠ 3 && k.txOpen.length ≥ 62 then 2 else 1
/-- What is ready on a port is sent in the order of R217, while it has an active cord and room in its replay buffer (R215). -/
def flitsGo (p : Nat) : Nat → Dev → Dev
  | 0, d => d
  | n + 1, d =>
    let x := (d.port p).ll
    if (d.activeCords p).isEmpty then d
    else match x.nextKind with
      | none => d
      | some k => if x.replay.length + d.flitsOf p k > replayRoom then d else flitsGo p n ((d.onLink p fun y => y.tookFlit k).sendFlit p k (x.nextFlit k))
/-- Send what is ready on a port. -/
def flush (d : Dev) (p : Nat) : Dev :=
  let x := (d.port p).ll
  flitsGo p (x.ctl.length + x.act.out.length + x.circ.out.length) d
/-- A link control message leaves by a port: it fills the payload of a KIND 3 flit (R227). -/
def linkOut (d : Dev) (p : Nat) (msg : Bytes) : Dev :=
  ((d.emit (.link p msg)).onLink p fun x => { x with ctl := x.ctl ++ [msg] }).flush p
/-- A CORD_POWER message (R221, R227): kind 0 off request, 1 on request, 2 off agreed, 3 refused, 4 on (log 15). -/
def cordPowerBytes (mask kind : Nat) : Bytes := [6] ++ leBytes 2 mask ++ [byte kind]
/-- Cords that are off are woken for traffic. -/
def wakeCords (d : Dev) (p : Nat) : Dev :=
  let m := d.offMask p
  if m = 0 then d
  else (d.onPort p fun x => { x with cords := x.cords.map fun c => (c.1, { c.2 with off := false }) }).linkOut p (cordPowerBytes m 1)
/-- STATE or CORDS of a port differ. -/
def portEdge (d d1 : Dev) (p : Nat) : Bool := (d1.port p).st != (d.port p).st || d1.joinedMask p ≠ d.joinedMask p

/-! ### The timestamp (R241, R308) -/

/-- The timestamp, in ns. -/
def now (d : Dev) : Nat := d.clk.ts
/-- The timestamp is set, saturating (R398). -/
def setTs (d : Dev) (t : Nat) : Dev := { d with clk := { d.clk with ts := min t (2 ^ 64 - 1) } }
/-- A command that says that a moment has come: the timestamp stands at that moment or later (log 8). -/
def reach (d : Dev) (t : Nat) : Dev := d.setTs (max d.now t)

/-- One cycle of the 100 MHz reference: 10 ns at the steered rate and at the slew in force. The slewing rate is a free value
below the clock's own rate, so the timestamp never runs backwards (R241; log 8). -/
def tick (d : Dev) : Dev :=
  if !d.powered then d
  else
    let c := d.clk
    -- units of 10 fs: 10 ns are 10^6 of them
    let step : Nat := (1000000 + c.ppm).toNat
    let lim : Int := (d.freeValue % (step / 100 + 1) * 100 : Nat)
    let want : Int := c.slewPs * 100
    let s : Int := max (-lim) (min lim want)
    let tot : Nat := ((c.frac : Int) + step + s).toNat
    let d1 := { d with clk := { c with frac := tot % 100000, slewPs := c.slewPs - s / 100 } }
    ((d1.setTs (c.ts + tot / 100000)).given (decide (c.slewPs ≠ 0)) tookFree)

/-! ### Causes and captures (R341) -/

/-- The PCI Express state of a function. -/
def fn (d : Dev) (c : Nat) : PcieFn := d.fns.get {} c
/-- Change it. -/
def onFn (d : Dev) (c : Nat) (f : PcieFn → PcieFn) : Dev := { d with fns := d.fns.modify {} c f }
/-- A vector of a function signals: PERST_N is high, MSI-X is enabled, neither the function nor the vector is masked, and the function is in D0. -/
def signals (d : Dev) (c v : Nat) : Bool :=
  let x := d.fn c
  d.pins.perstN && x.msixOn && !x.masked && bitOf x.unmasked v && !x.d3hot
/-- An MSI-X vector of a function is raised: it signals, or waits as a pending bit (R297). -/
def msix (d : Dev) (c v : Nat) : Dev :=
  if d.signals c v then d.emit (.msix c v) else d.onFn c fun x => { x with pending := setBits x.pending v v 1 }
/-- Pending vectors of a function that may signal now do. -/
def msixPending (d : Dev) (c : Nat) : Dev :=
  d.each (List.range 32) fun d v =>
    if bitOf (d.fn c).pending v && d.signals c v then (d.onFn c fun x => { x with pending := setBits x.pending v v 0 }).emit (.msix c v)
    else d
/-- A function's standard registers (R273; log 76): the MSI-X table's vector controls and its pending bits, the power state at 0x1000, Message
Control at 0x1004 and the device serial number at 0x1008. In D3hot only configuration space answers, the last three. -/
def pcieRead (d : Dev) (c ofs : Nat) : Nat :=
  let x := d.fn c
  if ofs = 0x1000 then (if x.d3hot then 3 else 0)
  else if ofs = 0x1004 then 31 + 2 ^ 14 * b2n x.masked + 2 ^ 15 * b2n x.msixOn
  else if ofs = 0x1008 then d.fuses.serial % 2 ^ 32
  else if ofs = 0x100C then d.fuses.serial / 2 ^ 32 % 2 ^ 32
  else if x.d3hot then 0
  else if ofs = 0x800 then x.pending
  else if ofs < 512 && ofs % 16 = 12 then b2n (!bitOf x.unmasked (ofs / 16))
  else 0
/-- A write of a function's standard registers. -/
def pcieWrite (d : Dev) (c ofs : Nat) (v : Word) : Dev :=
  if ofs = 0x1000 then
    (d.onFn c fun x => { x with d3hot := if fld v 1 0 = 3 then true else if fld v 1 0 = 0 then false else x.d3hot }).msixPending c
  else if ofs = 0x1004 then (d.onFn c fun x => { x with msixOn := flag v 15, masked := flag v 14 }).msixPending c
  else if ofs < 512 && ofs % 16 = 12 && !(d.fn c).d3hot then
    (d.onFn c fun x => { x with unmasked := setBits x.unmasked (ofs / 16) (ofs / 16) (b2n (!flag v 0)) }).msixPending c
  else d

/-- A cause bit of ERR_IRQ_STATUS is raised; it signals when it goes from 0 to 1 while enabled. -/
def cause (d : Dev) (bit : Nat) : Dev :=
  let was := flag d.err.irqStatus bit
  let d1 := d.onErr fun e => { e with irqStatus := setFld e.irqStatus bit bit 1 }
  if !was && flag d.err.irqEnable bit then d1.msix 0 (fld d.err.irqVec 4 0) else d1

end Dev

/-- A register with VALID in bit 31 takes a capture when it holds none. -/
def capture (r : Word) (v : Nat) : Word := if flag r 31 then r else word (2 ^ 31 + v)

namespace Dev

/-- Causes of ERR_IRQ_STATUS by name. -/
def cNumeric : Nat := 0
def cFold : Nat := 1
def cCompare : Nat := 2
def cMemory : Nat := 3
def cEdition : Nat := 4
def cLink : Nat := 5
def cStall : Nat := 6
def cCore : Nat := 7
def cStop : Nat := 8
def cRing : Nat := 9
def cLog : Nat := 10
def cInternal : Nat := 11
/-- A change of a port that changes its STATE or CORDS raises the link cause (R246). -/
def portChange (d : Dev) (p : Nat) (f : Dev → Dev) : Dev :=
  let d1 := f d
  if d.portEdge d1 p then d1.cause cLink else d1

/-- An event of a kind that ERR_MEM captures (R272, R341): KIND, CONTEXT, CHANNEL, INDEX and the address. -/
def errMem (d : Dev) (kind ctx channel index va : Nat) : Dev :=
  let d1 := if flag d.err.mem 31 then d else
    d.onErr fun e => { e with
      mem := word (2 ^ 31 + kind % 8 * 2 ^ 28 + ctx % 64 * 2 ^ 22 + channel % 32 * 2 ^ 17 + index % 2 ^ 17)
      memAddr := BitVec.ofNat 64 (va % 2 ^ 48) }
  d1.cause cMemory

/-- The context concerned by work on the station: that of the active binding, 0 for none. -/
def workCtx (d : Dev) : Nat := match d.work.active with | some a => a.ctx | none => 0

/-! ### Messages (R351, R377 to R379) -/

/-- A message body in the transmission units of what carries it: 64 bytes on I3C, 512 on PCI Express, whole over DOE (R377). -/
def unitsOf (c : Carrier) (b : Bytes) : List Bytes :=
  match c with
  | .doe => [b]
  | .mctp .i3c => chunks 64 (b.length / 64 + 1) b
  | .mctp .vdm => chunks 512 (b.length / 512 + 1) b
/-- Messages pass on a carrier: those over the host link while PERST_N is high (R377, R408; log 76). -/
def carries (d : Dev) (c : Carrier) : Bool := match c with | .mctp .i3c => true | _ => d.pins.perstN
/-- A message leaves, its type first. -/
def say (d : Dev) (c : Carrier) (type : Nat) (b : Bytes) : Dev := d.given (d.carries c) (·.emit <| .message (some c) type (unitsOf c (byte type :: b)))
/-- A carrier and session number name a session that stands. -/
def inSession (d : Dev) (c : Carrier) (session : Option Nat) : Bool :=
  match session with
  | some n => d.sec.sessions.any fun s => s.id = n && s.carrier = c
  | none => false
/-- A message leaves sealed in a session, as a secured message (type 0x06) with the session's number before it (R351; log 15). -/
def saySealed (d : Dev) (s : Session) (type : Nat) (b : Bytes) : Dev :=
  let x := Config.gcmSeal (Config.sessionKey s.id) (leBytes 12 s.sent) (leBytes 4 s.id) (byte type :: b)
  { d with sec := { d.sec with sessions := d.sec.sessions.map fun (y : Session) => if y.id = s.id then { y with sent := y.sent + 1 } else y } }.say
    s.carrier 6 (leBytes 4 s.id ++ x.1 ++ x.2)
/-- The answer to a request: sealed where the request came in a session. -/
def answer (d : Dev) (c : Carrier) (session : Option Nat) (type : Nat) (b : Bytes) : Dev :=
  match session with
  | some n => (match d.sec.sessions.find? fun s => s.id = n && s.carrier = c with
    | some s => d.saySealed s type b
    | none => d.say c type b)
  | none => d.say c type b
/-- The reply to a vendor-defined request: its status byte, then its words (R378). -/
def mgmtReply (d : Dev) (m : Mctp) (st : Status) (l : List Word) : Dev :=
  d.answer (.mctp m.medium) m.session 0x7E (st :: l.flatMap fun w => leBytes 4 w.toNat)
/-- Firmware runs and does not restart (R345, R386). -/
def fwRuns (d : Dev) : Bool := !d.boot.restarting && !d.boot.recovery && d.boot.stage != .bootRom
/-- Firmware hears an MCTP request: it runs, and the medium carries it. -/
def hears (d : Dev) (m : Mctp) : Bool := d.fwRuns && d.carries (.mctp m.medium)
/-- A PlatformEventMessage to the event receiver (R379): the sensor and the state it has reached (log 15). -/
def platformEvent (d : Dev) (sensor state : Nat) : Dev :=
  match d.mgmt.receiver with
  | some (m, eid) =>
    if d.boot.restarting || !d.carries (.mctp m) then d else d.emit (.event m eid (unitsOf (.mctp m) (1 :: leBytes 2 sensor ++ leBytes 4 state)))
  | none => d

/-! ### The colophon -/

/-- ORIGIN of R362. -/
def originCode : Origin → Nat
  | .fn c => if c.val = 0 then 1 else 2
  | .mgmt _ => 6
  | .jtag => 7

/-- Entries the main area can hold (R367). -/
def colMain : Nat := 16384
/-- Entries the reserved area can hold (R368). -/
def colReserved : Nat := 256
/-- Undrained entries. -/
def colHeld (d : Dev) : Nat := d.col.main.length
/-- The LOG cause when the main area reaches WARN or becomes full (R369). -/
def colLevel (d : Dev) (before : Nat) : Dev :=
  let w := fld d.col.cfg 14 0
  let h := d.colHeld
  if (before < w && h ≥ w) || (before < colMain && h ≥ colMain) then d.cause cLog else d

/-- An entry with its place in the series: bytes 8 to 47 given, SEQ and CHAIN added (R362, R364). -/
def colStamp (d : Dev) (body : Bytes) : Dev × Bytes :=
  let head := leBytes 8 d.col.seq ++ body
  let chain := (sha256 (d.col.chain ++ head)).take 16
  ({ d with col := { d.col with seq := min (d.col.seq + 1) (2 ^ 64 - 1), chain := chain,
                                sinceCkpt := d.col.sinceCkpt + 1 } }, head ++ chain)

/-- Bytes 8 to 47 of an entry. -/
def colBody (time origin flags ctx cls obj old new detail : Nat) : Bytes :=
  leBytes 8 time ++ leBytes 1 origin ++ leBytes 1 flags ++ leBytes 1 ctx ++ [0]
    ++ leBytes 4 (cls * 2 ^ 28 + obj % 2 ^ 28) ++ leBytes 8 old ++ leBytes 8 new ++ leBytes 8 detail

/-- An entry put into the main area. -/
def colPutMain (d : Dev) (body : Bytes) : Dev :=
  let (d1, e) := d.colStamp body
  { d1 with col := { d1.col with main := d1.col.main ++ [e] } }.colLevel d.colHeld
/-- An entry put into the reserved area; it raises the LOG cause (R369). -/
def colPutReserved (d : Dev) (body : Bytes) : Dev :=
  let (d1, e) := d.colStamp body
  { d1 with col := { d1.col with reserved := d1.col.reserved ++ [e], resUsed := true } }.cause cLog

/-- The lowest SEQ not yet drained (R364). -/
def colDrained (d : Dev) : Nat :=
  match d.col.main, d.col.reserved with
  | [], [] => d.col.seq
  | m :: _, [] => u64 m 0
  | [], r :: _ => u64 r 0
  | m :: _, r :: _ => min (u64 m 0) (u64 r 0)

/-- Whether `n` entries can be written to the main area now (R367): room beyond what other descriptors have reserved. -/
def colRoom (d : Dev) (n : Nat) : Bool := d.colHeld + d.col.reservedRoom + n ≤ colMain
/-- A checkpoint is written: to the main area, or to the reserved area while the main area has no room that is not promised, followed by its
signature unit; SEQ, CHAIN and DRAINED go to flash (R364, R367, R368). -/
def colCheckpoint (d : Dev) : Dev :=
  let full := !d.colRoom 1
  if full && d.col.reserved.length ≥ colReserved then d
  else
    let body := colBody d.now 5 (if full then 3 else 2) 255 8 0 d.col.ckptSeq d.col.sinceCkpt 0
    let seq := d.col.seq
    let d1 := if full then d.colPutReserved body else d.colPutMain body
    let e := if full then d1.col.reserved.getLastD [] else d1.col.main.getLastD []
    let sig := Config.aliasSign d.boot.aliasKey d.col.signs (sha256 e)
    { d1 with
      col := { d1.col with ckptSeq := seq, sinceCkpt := 0, ckptAt := d.now, sigs := d1.col.sigs.set [] seq sig,
                           signs := d.col.signs + 1 }
      flash := { d1.flash with ckptSeq := seq, ckptChain := d1.col.chain, ckptDrained := d1.colDrained } }

/-- A checkpoint falls due when 4,095 entries have followed the last (R364). -/
def colDue (d : Dev) : Dev := if d.col.sinceCkpt ≥ 4095 then d.colCheckpoint else d

/-- An entry that the finisher holds until the main area has room (log 68). -/
def owe (d : Dev) (body : Bytes) : Dev := { d with col := { d.col with owed := d.col.owed ++ [body] } }
/-- An entry of the main area is written. The caller has tested the room for it, or has reserved it: so no change is made without its entry (R361,
R367). -/
def log (d : Dev) (origin ctx cls obj old new detail : Nat) : Dev :=
  (d.colPutMain (colBody d.now origin 0 ctx cls obj old new detail)).colDue
/-- The entry of a change that cannot be refused and is no safety action of R368: written now, or when the finisher and room are back (log 68). -/
def logOwed (d : Dev) (origin ctx cls obj old new detail : Nat) : Dev :=
  if d.colRoom 1 && !d.boot.restarting then d.log origin ctx cls obj old new detail
  else d.owe (colBody d.now origin 4 ctx cls obj old new detail)

/-- Entries are reserved before the first of several is written, so that no checkpoint among them takes their places (R367). -/
def colReserve (d : Dev) (n : Nat) : Dev := { d with col := { d.col with reservedRoom := d.col.reservedRoom + n } }
/-- Reserved entries are released. -/
def colRelease (d : Dev) (n : Nat) : Dev := { d with col := { d.col with reservedRoom := d.col.reservedRoom - n } }
/-- The next of the entries reserved for a change is written. -/
def logNext (d : Dev) (origin ctx cls obj old new detail : Nat) : Dev := (d.colRelease 1).log origin ctx cls obj old new detail

/-- A change refused because the colophon is full is counted and raises the LOG cause (R367, R369). -/
def logRefused (d : Dev) : Dev :=
  { d with col := { d.col with refusedFlag := true, refused := satAdd d.col.refused 1 } }.cause cLog

/-- Safety entries that the power controller holds (R368). -/
def heldSafety : Nat := 64
/-- The entry of a safety action (R368): to the reserved area, or held by the power controller when that is full or the
finisher restarts. -/
def logSafety (d : Dev) (origin ctx cls obj old new detail : Nat) : Dev :=
  let body := fun fl => colBody d.now origin fl ctx cls obj old new detail
  if d.boot.restarting || d.col.reserved.length ≥ colReserved then
    if d.col.pendingSafety.length < heldSafety then
      { d with col := { d.col with pendingSafety := d.col.pendingSafety ++ [body 5] } }
    else d
  else (d.colPutReserved (body 1)).colDue

/-- Safety entries that the power controller holds are written while the reserved area has room. -/
def paySafety : Nat → Dev → Dev
  | 0, d => d
  | n + 1, d => match d.col.pendingSafety with
    | [] => d
    | b :: l => if d.col.reserved.length ≥ colReserved then d
      else paySafety n ({ d with col := { d.col with pendingSafety := l } }.colPutReserved b).colDue
/-- Entries that the finisher holds are written while the main area has room. -/
def payOwed : Nat → Dev → Dev
  | 0, d => d
  | n + 1, d => match d.col.owed with
    | [] => d
    | b :: l => if !d.colRoom 1 then d else payOwed n ({ d with col := { d.col with owed := l } }.colPutMain b).colDue
/-- Held entries are written when room or the finisher returns, the power controller's first (R368; log 68). -/
def flushSafety (d : Dev) : Dev :=
  if d.boot.restarting then d
  else let d1 := paySafety d.col.pendingSafety.length d; payOwed d1.col.owed.length d1

/-! ### Refused and logged register writes (R365, R367, R396, R397) -/

/-- The context of a writing function; 0 for other origins. -/
def originCtx : Origin → Nat
  | .fn c => c.val
  | _ => 0
/-- A BAR0 offset within the context pages. -/
def pageOf (ofs : Nat) : Option (Nat × Nat) :=
  if 0x100000 ≤ ofs ∧ ofs < 0x140000 then some ((ofs - 0x100000) / 4096, ofs % 4096) else none

/-- A refused write is captured; a write over the management path also returns its status (R397). -/
def refuse (d : Dev) (org : Origin) (ofs : Nat) (st : Status) : Dev :=
  let d1 := if flag d.glb.refuse 31 then d else
    { d with glb := { d.glb with
        refuse := word (2 ^ 31 + originCode org * 2 ^ 27 + originCtx org * 2 ^ 16 + st.toNat * 2 ^ 8)
        refuseOfs := word (ofs % 2 ^ 24) } }
  let d2 := match pageOf ofs with
    | some (c, o) => d1.onRegs c fun r => { r with regRefuse := capture r.regRefuse (st.toNat * 2 ^ 16 + o) }
    | none => d1
  match org with
  | .mgmt m => d2.mgmtReply m st []
  | _ => d2

/-- An accepted write over the management path replies STATUS_OK (R378). -/
def accepted (d : Dev) (org : Origin) : Dev :=
  match org with
  | .mgmt m => d.mgmtReply m St.ok []
  | _ => d

/-- A logged change: refused while the finisher restarts or the colophon is full, else its entry is written, and then it is
made (R361, R365, R367). -/
def logged (d : Dev) (org : Origin) (ofs : Nat) (ctx cls obj old new detail : Nat) (make : Dev → Dev) : Dev :=
  if d.boot.restarting then d.refuse org ofs St.notPermitted
  else if !d.colRoom 1 then d.logRefused.refuse org ofs St.logFull
  else (make (d.log (originCode org) ctx cls obj old new detail)).accepted org

/-- A logged change of `n` entries: they are reserved before the first of them is written, and each is written as its part of the change is made
(R361, R365, R367). -/
def loggedAll (d : Dev) (org : Origin) (ofs n : Nat) (make : Dev → Dev) : Dev :=
  if d.boot.restarting then d.refuse org ofs St.notPermitted
  else if !d.colRoom n then d.logRefused.refuse org ofs St.logFull
  else (make (d.colReserve n)).accepted org
/-- A logged write of a register field: CLASS 0 with the offset and the value before and after (R363). -/
def loggedReg (d : Dev) (org : Origin) (ofs old new : Nat) (make : Dev → Dev) : Dev :=
  d.logged org ofs (match pageOf ofs with | some (c, _) => c | none => 255) 0 ofs old new 0 make

/-! ### Core buffers (R85, R247, R248) -/

/-- Bytes of a core buffer. -/
def bufBytes : Nat := 33554432

/-- Whether a range lies in a core buffer (R85). -/
def bufIn (ofs n : Nat) : Bool := ofs + n ≤ bufBytes
/-- The bytes of a core buffer. -/
def bufGet (d : Dev) (c ofs n : Nat) : Bytes := (d.core c).buf.bytes.getRange 0 ofs n
/-- The first mark among the lines of a range (R332). -/
def bufMark (d : Dev) (c ofs n : Nat) : Option Status :=
  if n = 0 then none
  else firstSome (((d.core c).buf.marks.getRange none (ofs / 64) ((ofs + n - 1) / 64 - ofs / 64 + 1)))

end Dev

/-- The first of two marks (R332). -/
def orMark (a b : Option Status) : Option Status := match a with | some x => some x | none => b
/-- Give the 64-byte lines of a range the mark of what is written: a line written whole takes it, or is clean with `none`; in a line
written in part the first mark to reach it stands (R332). -/
def markLines (t : Table (Option Status)) (ofs n : Nat) (m : Option Status) : Table (Option Status) :=
  if n = 0 then t
  else
    (List.range ((ofs + n - 1) / 64 + 1 - ofs / 64)).foldl (fun t i =>
      let l := ofs / 64 + i
      if ofs ≤ l * 64 && l * 64 + 64 ≤ ofs + n then t.set none l m else t.modify none l fun o => orMark o m) t

namespace Dev

/-- Write bytes into a core buffer with the mark they carry. -/
def bufPut (d : Dev) (c ofs : Nat) (b : Bytes) (m : Option Status) : Dev :=
  d.onCore c fun x => { x with buf :=
    { bytes := x.buf.bytes.setRange 0 ofs b, marks := markLines x.buf.marks ofs b.length m } }

/-! ### GDDR7 and the CXL tier (R249 to R263) -/

/-- Bytes of a page and of a frame. -/
def pageBytes : Nat := 2097152
/-- The GDDR7 channel of a byte of the span (R252). -/
def channelOf (a : Nat) : Nat := a / 256 % 24
/-- The page that maps an address of a context's space. -/
def pageAt (d : Dev) (c va : Nat) : Option Page := (d.ctx c).pages.get none (va / pageBytes)
/-- The tier (true CXL) and the byte within it of an address; `none` where no page is mapped. -/
def physOf (d : Dev) (c va : Nat) : Option (Bool × Nat) :=
  (d.pageAt c va).map fun p => (p.cxl, p.frame * pageBytes + va % pageBytes)

/-- The byte at a place of a tier. -/
def tierByte (d : Dev) (p : Bool × Nat) : Byte := if p.1 then d.mem.cxl.get 0 p.2 else d.mem.gddr.get 0 p.2

/-- Devices of the layout in force, in link order, with the bytes each contributes (R261). -/
def cxlDevices (d : Dev) : List (Nat × Nat) :=
  let l := ((List.range 4).filter fun i => bitOf d.mem.cxlEnum i).map fun i => (i, d.mem.cxlCap.get 0 i / 2 * 2 * 1048576)
  let ways := match fld d.mem.cxlLayout 5 4 with | 1 => 2 | 2 => 4 | _ => 1
  if ways = 1 then l
  else if l.length < ways then []
  else
    let m := ((l.take ways).map (·.2)).foldl min ((l.headD (0, 0)).2)
    (l.take ways).map fun x => (x.1, m)
/-- The part of a layout in which a byte lies, one device after another. -/
def cxlSpan : List (Nat × Nat) → Nat → Option Nat
  | [], _ => none
  | (i, n) :: l, a => if a < n then some i else cxlSpan l (a - n)
/-- The device that holds a byte of the CXL tier (R261). -/
def cxlDeviceOf (d : Dev) (a : Nat) : Option Nat :=
  let l := d.cxlDevices
  match fld d.mem.cxlLayout 5 4 with
  | 1 => (l[a / 256 % 2]?).map (·.1)
  | 2 => (l[a / 256 % 4]?).map (·.1)
  | _ => cxlSpan l a
/-- A place of the CXL tier whose device's link is down: no request to it has a completion (R262). -/
def cxlDown (d : Dev) (a : Nat) : Bool := match d.cxlDeviceOf a with | some i => !bitOf d.mem.cxlUp i | none => true
/-- A request to a place of a tier has no completion in time (R262). -/
def tierLate (d : Dev) (p : Bool × Nat) (write : Bool) : Bool :=
  p.1 && (d.cxlDown p.2 || (if write then d.mem.cxlLateWrite else d.mem.cxlLateRead).contains (p.2 / 64))
/-- The mark that a read of the 64-byte sector at a place of a tier meets: a request without a completion hides the sector's own. -/
def tierMark (d : Dev) (p : Bool × Nat) : Option Status :=
  if d.tierLate p false then some St.cxlTimeout
  else if p.1 then d.mem.cxlMarks.get none (p.2 / 64) else d.mem.gddrMarks.get none (p.2 / 64)

/-- Split a range of addresses at its 64-byte sectors: (address, bytes). -/
def sectors (va n : Nat) : Nat → List (Nat × Nat)
  | 0 => []
  | k + 1 => if n = 0 then [] else
      let t := min n (64 - va % 64)
      (va, t) :: sectors (va + t) (n - t) k

/-- Sectors of a range. -/
def sectorsOf (va n : Nat) : List (Nat × Nat) := sectors va n (n / 64 + 2)

/-- The first address of a range that no page maps, or, for a write, that no writable page maps. -/
def badPage (d : Dev) (c va n : Nat) (write : Bool) : Option Nat :=
  ((sectorsOf va n).find? fun s =>
    match d.pageAt c s.1 with
    | none => true
    | some p => write && !p.write).map (·.1)

/-- Whether a range of a context's space can be read or written. -/
def mapped (d : Dev) (c va n : Nat) (write : Bool) : Bool := (d.badPage c va n write).isNone

/-- The bytes at an address, wherever its pages lie; a byte of an unmapped page counts as zero. -/
def rawGet (d : Dev) (c va n : Nat) : Bytes :=
  (List.range n).map fun i => match d.physOf c (va + i) with | some p => d.tierByte p | none => 0

/-- A read of a context's space: bytes, the mark the data carries, and the station with the capture of a fault (R250, R253,
R263). -/
def memGet (d : Dev) (c va n : Nat) : Bytes × Option Status × Dev :=
  match d.badPage c va n false with
  | some a => (zeros n, some St.notPermitted, d.errMem 2 c 31 0 a)
  | none =>
    let bad := (sectorsOf va n).filterMap fun s =>
      match d.physOf c s.1 with
      | some p => (d.tierMark p).map fun m => (s.1, p, m)
      | none => none
    let b := d.rawGet c va n
    match bad with
    | [] => (b, none, d)
    | (a, p, m) :: _ =>
      -- that a request timed out is that request's alone; the sector keeps its own mark (R262, R263)
      let d1 := d.onMem fun x => { x with cxlLateRead := bad.foldl (fun l s => if s.2.1.1 then l.erase (s.2.1.2 / 64) else l) x.cxlLateRead }
      (b, some m, if d.tierLate p false then d1.errMem 4 c 31 0 a
        else if m = St.memUnc then (if p.1 then d1.errMem 3 c 31 0 a else d1.errMem 1 c (channelOf p.2) 0 a) else d1)

/-- Bytes stored at one sector's part of a range. -/
def putSector (d : Dev) (c va : Nat) (b : Bytes) (m : Option Status) : Dev :=
  match d.physOf c va with
  | none => d
  | some (cxl, a) => d.onMem fun x =>
      if cxl then { x with cxl := x.cxl.setRange 0 a b, cxlMarks := markLines x.cxlMarks a b.length m }
      else { x with gddr := x.gddr.setRange 0 a b, gddrMarks := markLines x.gddrMarks a b.length m }

/-- Store bytes at an address, sector by sector, without a check of permission. -/
def rawPut (d : Dev) (c va : Nat) (b : Bytes) (m : Option Status) : Dev :=
  d.each (sectorsOf va b.length) fun d s => d.putSector c s.1 (sub b (s.1 - va) s.2) m

/-- The sectors of a write that have no completion in time, with their places (R262). -/
def lateSectors (d : Dev) (c va n : Nat) : List (Nat × Nat) :=
  (sectorsOf va n).filterMap fun s => match d.physOf c s.1 with
    | some p => if d.tierLate p true then some (s.1, p.2) else none
    | none => none
/-- Write bytes of pages, writable to the context or not (slots of an edition, a kept binding): a CXL write that times out gives the status, and the
bytes it addressed are undefined (R262). -/
def slotPut (d : Dev) (c va : Nat) (b : Bytes) (m : Option Status) : Option Status × Dev :=
  let late := d.lateSectors c va b.length
  match late with
  | [] => (none, d.rawPut c va b m)
  | (a, _) :: _ =>
    let d1 := d.each (sectorsOf va b.length) fun d s =>
      if late.any fun x => x.1 = s.1 then let f := d.freeBytes s.2; f.2.putSector c s.1 f.1 none
      else d.putSector c s.1 (sub b (s.1 - va) s.2) m
    (some St.cxlTimeout, (d1.onMem fun x => { x with cxlLateWrite := late.foldl (fun l s => l.erase (s.2 / 64)) x.cxlLateWrite }).errMem 4 c 31 0 a)

/-- A write of a context's space: not performed on a translation fault (R250), which it captures; the bytes of sectors whose request has
no completion are free values on the device (R262). Answers the fault's status. -/
def memPut (d : Dev) (c va : Nat) (b : Bytes) (m : Option Status) : Option Status × Dev :=
  match d.badPage c va b.length true with
  | some a => (some St.notPermitted, d.errMem 2 c 31 0 a)
  | none => d.slotPut c va b m

/-! ### Frames and pages (R249, R250, R255) -/

/-- Frames of a tier: GDDR7 has 98,304; the CXL tier follows R261. -/
def tierFrames (d : Dev) (cxl : Bool) : Nat :=
  if cxl then min ((d.cxlDevices.map (·.2)).foldl (· + ·) 0 / pageBytes) 4194304 else 98304
/-- Frames of a tier that no page uses, that are not being cleared and not retired, in ascending order. -/
def freeFrames (d : Dev) (cxl : Bool) (want : Nat) : List Nat :=
  let busy := if cxl then d.mem.cxlUsed ++ d.mem.cxlClearing
    else d.mem.gddrUsed ++ d.mem.gddrClearing ++ d.flash.retired
  ((List.range (min (d.tierFrames cxl) (want + busy.length))).filter fun f => !busy.contains f).take want
/-- Pages that waiting MAPs of a tier are to have (R250). -/
def promised (d : Dev) (cxl : Bool) : Nat :=
  ((d.work.jobs.filter fun j => u8 j.bytes 0 = 0x30 && j.phase == .begun && (u8 j.bytes 28 = 1) == cxl).map
    fun j => u32 j.bytes 24).foldl (· + ·) 0
/-- Frames that count as free: those free and those being cleared, less what waiting MAPs are to have (R249, R250). -/
def freeCount (d : Dev) (cxl : Bool) : Nat :=
  d.tierFrames cxl - d.promised cxl
    - (if cxl then d.mem.cxlUsed.length else d.mem.gddrUsed.length + d.flash.retired.length)

/-- Map pages to frames. -/
def mapPages (d : Dev) (c page : Nat) (cxl write : Bool) (ed : Option Nat) : List Nat → Dev
  | [] => d
  | f :: fs =>
    let d1 := d.onCtx c fun x => { x with pages := x.pages.set none page (some ⟨cxl, f, write, ed⟩) }
    let d2 := d1.onMem fun m => if cxl then { m with cxlUsed := m.cxlUsed ++ [f] } else { m with gddrUsed := m.gddrUsed ++ [f] }
    mapPages d2 c (page + 1) cxl write ed fs

/-- A page is unmapped: its frame is to be cleared, or, where its retirement is pending, retired (R250, R255). -/
def unmapPage (d : Dev) (c page : Nat) : Dev :=
  match (d.ctx c).pages.get none page with
  | none => d
  | some p =>
    let d1 := d.onCtx c fun x => { x with pages := x.pages.set none page none }
    d1.onMem fun m =>
      if p.cxl then { m with cxlUsed := m.cxlUsed.erase p.frame, cxlClearing := m.cxlClearing ++ [p.frame] }
      else { m with gddrUsed := m.gddrUsed.erase p.frame, gddrClearing := m.gddrClearing ++ [p.frame] }

/-- A frame has been cleared. -/
def clearFrame (d : Dev) (cxl : Bool) (f : Nat) : Dev :=
  let a := f * pageBytes
  d.onMem fun m =>
    if cxl then { m with cxl := m.cxl.clearRange a pageBytes, cxlMarks := m.cxlMarks.clearRange (a / 64) (pageBytes / 64),
                         cxlClearing := m.cxlClearing.erase f }
    else { m with gddr := m.gddr.clearRange a pageBytes, gddrMarks := m.gddrMarks.clearRange (a / 64) (pageBytes / 64),
                  gddrClearing := m.gddrClearing.erase f }

/-- MEM_RETIRE's count of the retired list. -/
def retiredCount (d : Dev) : Nat := d.flash.retired.length

end Dev
end Sys2Proof.Machine
end

