-- ==== Sys2Proof/Machine/Items.lean ====
section
/-! DEFINITION. The binding container as the station reads it (R71 to R82), the owners of station rows (R80), completion records
(R294 to R297), the settling of items and runs (R331 to R336, R172), and what every one of them shares. -/

namespace Sys2Proof.Machine

/-! ### The container -/

/-- A section table entry (R72). -/
structure SecEnt where
  ty : Nat
  pos : Nat
  fold : Nat
  core : Nat
  resv : Nat
  ofs : Nat
  len : Nat
deriving DecidableEq, Repr, Inhabited

/-- Entry `i` of the section table. -/
def secEnt (b : Bytes) (i : Nat) : SecEnt :=
  let o := u32 b 12 + 24 * i
  ⟨u16 b o, u16 b (o + 2), u8 b (o + 4), u8 b (o + 5), u16 b (o + 6), u64 b (o + 8), u64 b (o + 16)⟩
/-- The section table. -/
def secTable (b : Bytes) : List SecEnt := (List.range (u16 b 10)).map (secEnt b)
/-- The bytes of a section. -/
def secBytes (b : Bytes) (e : SecEnt) : Bytes := sub b e.ofs e.len
/-- The place of a fold in what is listed for folds 8, 6 and 4. -/
def foldIx (f : Nat) : Nat := if f = 8 then 0 else if f = 6 then 1 else 2
/-- The section of a type, position, fold and core; empty where there is none. -/
def findSec (b : Bytes) (ty pos fold core : Nat) : Bytes :=
  match (secTable b).find? fun e => e.ty = ty && e.pos = pos && e.fold = fold && e.core = core with
  | some e => secBytes b e
  | none => []
/-- MODE of a binding: true stationed (R71). -/
def bindStationed (b : Bytes) : Bool := bitOf (u16 b 6) 0
/-- EDITION_ID of a binding. -/
def bindEdition (b : Bytes) : Nat := u64 b 24
/-- BINDING as signatures and control messages carry it (R153). -/
def bindTag (b : Bytes) : Nat := u32 b 32
/-- The phase table. -/
def phaseTable (b : Bytes) : Bytes := findSec b 1 0xFFFF 0 0xFF
/-- Entry `p` of the phase table (R76). -/
def phaseEntry (b : Bytes) (p : Nat) : Bytes := sub (phaseTable b) (96 * p) 96
/-- The schedule section (R160). -/
def schedule (b : Bytes) : Bytes := findSec b 2 0xFFFF 0 0xFF

namespace Dev

/-- The active binding's container; empty for none. -/
def binding (d : Dev) : Bytes := match d.work.active with | some a => a.bytes | none => []
/-- The station's position in its gathering; 0 for none. -/
def position (d : Dev) : Nat := match d.work.gath with | some g => g.pos | none => 0
/-- SUBN_ACTIVE of the active binding's context (R38). -/
def subn (d : Dev) : Bool := (d.ctx d.workCtx).regs.subnActive
/-- The current phase. -/
def phaseNow (d : Dev) : Nat := match d.work.run with | some r => r.phase | none => 0
/-- The station's id (R230). -/
def station (d : Dev) : Nat := d.lnk.station
/-- The buffer plan of the running fold (R80). -/
def plan (d : Dev) : List Bytes :=
  let s := findSec d.binding 3 d.position d.pwr.fold 0xFF
  (List.range (s.length / 32)).map fun i => sub s (32 * i) 32
/-- The physical core of a logical core, when it runs. -/
def physCore (d : Dev) (lc : Nat) : Option Nat := d.work.coreMap[lc]?
/-- The logical number of a physical core, when it runs. -/
def logicalOf (d : Dev) (c : Nat) : Option Nat :=
  ((List.range d.work.coreMap.length).find? fun i => d.work.coreMap.getD i 99 = c)

/-- The sequence entries that own any of `n` station rows from `row` on (R39, R80). -/
def owners (d : Dev) (row n : Nat) : List Nat :=
  d.plan.filterMap fun r =>
    let f := u32 r 12; let k := u32 r 16
    if u8 r 0 = 3 && f < row + n && row < f + k then some (u8 r 20) else none
/-- The sequence entries that own any station row in the current phase. -/
def ownersAll (d : Dev) : List Nat :=
  d.plan.filterMap fun r => if u8 r 0 = 3 && u32 r 16 > 0 then some (u8 r 20) else none

/-- SEQUENCE_TABLE entry `e` of the station (R81). -/
def seqEntry (d : Dev) (e : Nat) : Bytes := sub (findSec d.binding 4 d.position 0 0xFF) (32 * e) 32

end Dev

/-! ### Descriptors in work -/

namespace Job
/-- OP of R285. -/
def op (j : Job) : Nat := u8 j.bytes 0
/-- TAG. -/
def tag (j : Job) : Nat := u64 j.bytes 8
/-- KETTLE STEP. -/
def kstep (j : Job) : Nat := u8 j.bytes 16
/-- LAYER, VERSION, EDITION_ID of a KETTLE descriptor (R293). -/
def klayer (j : Job) : Nat := u16 j.bytes 18
def kversion (j : Job) : Nat := u16 j.bytes 20
def kedition (j : Job) : Nat := u64 j.bytes 24
end Job

namespace Op
def item : Nat := 0x01
def run : Nat := 0x02
def abort : Nat := 0x08
def bindLoad : Nat := 0x10
def bindSwitch : Nat := 0x11
def gatherForm : Nat := 0x18
def gatherRelease : Nat := 0x19
def editionLoad : Nat := 0x20
def editionUnload : Nat := 0x21
def digestInstall : Nat := 0x22
def digestRemove : Nat := 0x23
def kettle : Nat := 0x24
def map : Nat := 0x30
def unmap : Nat := 0x31
def copy : Nat := 0x32
def drain : Nat := 0x40
/-- The opcodes of R286. -/
def known (o : Nat) : Bool :=
  [item, run, abort, bindLoad, bindSwitch, gatherForm, gatherRelease, editionLoad, editionUnload, digestInstall, digestRemove,
   kettle, map, unmap, copy, drain].contains o
end Op

namespace Dev

/-- Change the descriptor in work with an acceptance number. -/
def onJob (d : Dev) (no : Nat) (f : Job → Job) : Dev :=
  d.onWork fun w => { w with jobs := w.jobs.map fun j => if j.no = no then f j else j }
/-- The oldest accepted descriptor of a context with an opcode, in a phase. -/
def jobOf (d : Dev) (c o : Nat) (ph : JobPhase) : Option Job :=
  d.work.jobs.find? fun j => j.ctx = c && j.op = o && j.phase == ph
/-- An edition's load has ended: it is LOADED, or DAMAGED with no bind pass of its load under way (R190, R195). -/
def heldNow (d : Dev) (c : Nat) (e : Edition) : Bool :=
  e.state != .loading && d.work.passes.all fun p => !(p.ctx = c && p.edition = e.id && p.layer.isNone)
/-- The item that holds a sequence entry. -/
def itemAt (d : Dev) (e : Nat) : Option Job := d.work.jobs.find? fun j => j.op = Op.item && j.entry = some e
/-- The item of the run in progress that holds a sequence entry and still has rows: it has joined the run and has not ended. -/
def liveItem (d : Dev) (e : Nat) : Option Job :=
  match d.work.run with
  | some r => d.work.jobs.find? fun j => j.op = Op.item && j.entry = some e && j.run = some r.job && j.phase != .ended
  | none => none
/-- The RUN descriptor of the run in progress. -/
def runJob (d : Dev) : Option Job :=
  match d.work.run with | some r => d.work.jobs.find? (fun j => j.no = r.job) | none => none

/-! ### Colophon entries leave when they are drained (R366) -/

/-- The entries of these SEQs have been delivered: their room is free, and held entries take it. -/
def colFree (d : Dev) (seqs : List Nat) : Dev :=
  let keep := fun (e : Bytes) => !seqs.contains (u64 e 0)
  { d with col := { d.col with
    main := d.col.main.filter keep, reserved := d.col.reserved.filter keep
    sigs := d.col.sigs.filter fun e => !seqs.contains e.1 } }.flushSafety
/-- A record that delivers entries has been written. -/
def colDelivered (d : Dev) (key : Nat) : Dev :=
  { d with col := { d.col with ways := d.col.ways.set [] key [] } }.colFree (d.col.ways.get [] key)

/-! ### Completion records (R294 to R297) -/

/-- Entries of a ring (R275). -/
def ringSize (log : Nat) : Nat := 2 ^ log
/-- A function takes requests: PERST_N is high and it is in D0 (R273, R408). -/
def fnOpen (d : Dev) (c : Nat) : Bool := d.pins.perstN && !(d.fn c).d3hot
/-- Whether the host link may be written (R358): an enabled IDE stream must be Secure; and the module is powered. -/
def hostOpen (d : Dev) : Bool := d.powered && d.pins.perstN && (!d.sec.ideOn || d.sec.ideSecure)

/-- A pair signals its vector, and its count starts again (R297). -/
def ringSignal (d : Dev) (c r : Nat) : Dev :=
  (d.onRing c r fun x => { x with irqCount := 0, irqFirst := none }).msix c (fld (d.ring c r).cfg 20 16)

/-- A record has been written: moderation counts it (R297). -/
def ringModerate (d : Dev) (c r : Nat) (irq : Bool) : Dev :=
  let d1 := d.onRing c r fun x =>
    { x with irqCount := x.irqCount + 1, irqFirst := match x.irqFirst with | none => some d.now | some t => some t }
  if irq || (d1.ring c r).irqCount ≥ max 1 (fld (d1.ring c r).irqMod 15 0) then d1.ringSignal c r else d1

/-- The record at the head of a pair's held records is written at the next CQ index, with its PHASE (R277, R294). -/
def ringWrite (d : Dev) (c r : Nat) (h : HeldRec) : Dev :=
  let g := d.ring c r
  let size := ringSize (fld g.cfg 12 8)
  let idx := g.cqTail.toNat
  let phase := if idx / size % 2 = 0 then 1 else 0
  let st := h.bytes.getD 28 0
  let d1 := d.onRing c r fun x => { x with held := x.held.drop 1, cqTail := x.cqTail + 1 }
  let d2 := d1.emit (.hostWrite (g.cqBase.toNat + 32 * (idx % size)) (h.bytes.take 31 ++ [byte phase]))
  let d3 := d2.onErr fun e =>
    if St.failure st then { e with itemFail := satAdd e.itemFail 1 }
    else if St.informational st then { e with itemInfo := satAdd e.itemInfo 1 } else e
  let d4 := if h.drain = 0 then d3 else d3.colDelivered h.drain
  let d5 := if h.hint = 0 then d4 else d4.onCtx c fun x =>
    { x with hint := some (if h.hint = 0xFFFFFFFF then 2 ^ 64 else d.now + 1000 * h.hint) }
  d5.ringModerate c r h.irq

/-- Records may be written: those of a stop wait while the finisher restarts (R370). -/
def recordOpen (d : Dev) : Bool := d.hostOpen && !(d.pwr.stopped && d.boot.restarting)
/-- Held records are written while the CQ has free slots and the host link may be written by the function (R273, R296, R358). -/
def flushRing (c r : Nat) : Nat → Dev → Dev
  | 0, d => d
  | n + 1, d =>
    let g := d.ring c r
    match g.held with
    | [] => d
    | h :: _ =>
      if d.recordOpen && !(d.fn c).d3hot && (g.cqTail - g.cqHead).toNat < ringSize (fld g.cfg 12 8) then flushRing c r n (d.ringWrite c r h) else d

/-- Write whatever records can be written of one pair. -/
def drainRing (d : Dev) (c r : Nat) : Dev := flushRing c r ((d.ring c r).held.length) d

/-- BUSY of a disable falls when every record is written (R278). -/
def busyCheck (d : Dev) (c : Nat) : Dev :=
  if (d.ctx c).regs.busy && (d.work.jobs.all fun j => j.ctx != c)
      && ((List.range 16).all fun r => (d.ring c r).held.isEmpty && (d.ring c r).window.isEmpty) then
    d.onRegs c fun x => { x with busy := false }
  else d

/-- Write whatever records can be written of every pair; BUSY falls with the last of a context that is being disabled. -/
def drainRings (d : Dev) : Dev :=
  d.each (d.ctxs.flatMap fun e => e.2.rings.map fun r => (e.1, r.1)) fun d x => (d.drainRing x.1 x.2).busyCheck x.1

/-- A record of 32 bytes without its PHASE (R294). -/
def recordBytes (d : Dev) (c r tag result vmin vmax : Nat) (st : Status) (info : Nat) : Bytes :=
  leBytes 8 tag ++ leBytes 4 result ++ leBytes 2 vmin ++ leBytes 2 vmax ++ leBytes 8 d.now
    ++ leBytes 4 (d.ring c r).sqHead.toNat ++ [st, byte r, byte info, 0]

/-- A record is formed, and written as soon as it can be. A pair that a function level reset has disabled writes none (R278). -/
def postRecord (d : Dev) (c r : Nat) (desc : Bytes) (st : Status) (result vmin vmax info drain : Nat) (item run : Option Nat := none) : Dev :=
  if !flag (d.ring c r).cfg 31 then d.busyCheck c
  else
  let h : HeldRec := { bytes := d.recordBytes c r (u64 desc 8) result vmin vmax st info, irq := bitOf (u8 desc 1) 0, hint := u32 desc 4
                       drain := drain, item := item, run := run }
  ((d.onRing c r fun x => { x with held := x.held ++ [h] }).drainRing c r).busyCheck c

/-- INFO of an item's record (R294). -/
def jobInfo (j : Job) : Nat := b2n j.flagged + 2 * b2n j.slipped + 4 * b2n j.verChanged
/-- The status of an item that no failure has reached (R331). -/
def jobStatus (j : Job) : Status :=
  if j.flagged then St.numericFlag else if j.verChanged then St.versionChanged else if j.slipped then St.slip else St.ok

/-- A descriptor in work ends with a status and a result: its record is formed, and it leaves. An item's entry and entries
reserved in the colophon are free again. -/
def settle (d : Dev) (j : Job) (st : Status) (result drain : Nat) : Dev :=
  let isItem : Bool := j.op = Op.item
  let room := match d.work.jobs.find? (fun (x : Job) => decide (x.no = j.no)) with | some x => x.room | none => 0
  let d1 := (d.colRelease room).onWork fun w => { w with jobs := w.jobs.filter fun x => x.no != j.no }
  d1.postRecord j.ctx j.ring j.bytes st result (if isItem then j.verMin else 0) (if isItem then j.verMax else 0)
    (if isItem then jobInfo j else 0) drain (if isItem then some j.no else none) (if isItem then j.run else none)

/-- Records that are held, of every pair (R296). -/
def heldRecords (d : Dev) : List HeldRec := d.ctxs.flatMap fun e => e.2.rings.flatMap fun r => r.2.held
/-- An item of a RUN is not complete: it is in work, or its record is held (R296). -/
def runOpen (d : Dev) (no : Nat) : Bool :=
  (d.work.jobs.any fun i => i.op = Op.item && i.run = some no) || d.heldRecords.any fun h => h.run = some no
/-- A RUN whose run has ended ends when every item of the run has its record written; RESULT is the run number (R288, R296). -/
def finishRuns (d : Dev) : Dev :=
  d.each (d.work.jobs.filter fun j => j.op = Op.run && j.phase == .ended) fun d j =>
    if d.runOpen j.no then d
    else d.settle j (match j.entry with | some s => BitVec.ofNat 8 s | none => St.ok) (j.run.getD 0) 0

/-- An item, or any descriptor, fails at once (R331, R336). -/
def failJob (d : Dev) (j : Job) (st : Status) : Dev := (d.settle j st 0 0).finishRuns

/-- Every item of the run that holds one of these entries fails (R331: the first failure stands, for the item has its record then). -/
def failEntries (d : Dev) (es : List Nat) (st : Status) : Dev :=
  d.each es fun d e => match d.liveItem e with | some j => d.failJob j st | none => d
/-- Every item that owns a station row in the current phase fails. -/
def failOwners (d : Dev) (st : Status) : Dev := d.failEntries d.ownersAll st
/-- Every item that holds one of these entries is marked as flagged (R39). -/
def flagEntries (d : Dev) (es : List Nat) : Dev :=
  d.each es fun d e => match d.liveItem e with | some j => d.onJob j.no fun x => { x with flagged := true } | none => d

/-- While a kettle barrier is closed, lag timers stand still (R203). -/
def barrierShut (d : Dev) : Bool := d.ctxs.any fun e => e.2.barrier == .closed

/-- STALL_SUSPECT stands for the host's abort while a stall record naming the context is held (R270). -/
def abortStatus (d : Dev) (c : Nat) : Status :=
  if flag d.err.stall 31 && fld d.err.stall 21 16 = c then St.stallSuspect else St.abortedByHost

/-! ### Control messages and the end of a run (R163, R172) -/

/-- A control message of 32 bytes (R163). -/
def controlBytes (d : Dev) (ty runNo t0 : Nat) (st : Status) : Bytes :=
  let g := match d.work.gath with | some g => g.number | none => 0
  ofNats [0x43, 0x4D, 1, ty] ++ leBytes 2 g ++ leBytes 2 d.station ++ leBytes 4 runNo ++ leBytes 4 (bindTag d.binding)
    ++ leBytes 8 t0 ++ [st] ++ zeros 7

/-- The neighbour on an axis and side. -/
def neighbour (d : Dev) (axis : Nat) (plus : Bool) : Option Nbr :=
  match d.work.gath with
  | some g => g.nbrs.find? fun n => n.axis = axis && n.plus == plus
  | none => none

/-- A packet head (R216). -/
def head (d : Dev) (cls : Nat) (routed : Bool) (dest len tag : Nat) : Bytes :=
  ofNats [cls, b2n routed] ++ leBytes 2 (fld d.lnk.slice 11 0) ++ leBytes 2 dest ++ leBytes 2 d.station ++ leBytes 4 len
    ++ leBytes 4 tag

end Dev
end Sys2Proof.Machine
end

