-- ==== Sys2Proof/Machine/KeepWarm.lean ====
section
/-! DEFINITION. Keep-warm of the arrays: its density, and the dummy rows that a gap, a block and a boundary count (R66 to R70, R76). -/

namespace Sys2Proof.Machine

/-- CORECLK in MHz at an operating point (R309). -/
def pointMhz (p : Nat) : Nat := [1500, 1750, 2000, 2250, 2450, 2600].getD p 2250
namespace Dev

/-- The density code of keep-warm in force on a core: the phase's, else PWR_KEEPWARM's (R69, R76); 0 when off. -/
def kwCode (d : Dev) (c : Nat) : Nat :=
  let p := u8 (phaseEntry d.binding d.phaseNow) 15
  if bitOf (fld d.pwr.kw 15 8) c then (if d.work.run.isSome && p ≠ 0 then p else fld d.pwr.kw 1 0) else 0
/-- Dummy rows among empty slots at a density code (R68): one in four, one in two or every one. A run of slots that is no multiple of
four or two carries its whole share, rounded down: R68 gives the share only (DESIGN CHOICE, log 75). -/
def kwShare (code slots : Nat) : Nat := match code with | 1 => slots / 4 | 2 => slots / 2 | 3 => slots | _ => 0

end Dev

/-- Dummy rows of the rest of a run of empty slots as the density steps down: 1,024 slots at each code (R68). -/
def kwDown : Nat → Nat → Nat
  | 0, _ => 0
  | code + 1, slots => Dev.kwShare (code + 1) (min slots 1024) + kwDown code (slots - 1024)
/-- Dummy rows of a run of consecutive bubbles at a density code: for 4 µs at the full density, then as it steps down (R68). -/
def kwRun (mhz code slots : Nat) : Nat := Dev.kwShare code (min slots (4 * mhz)) + kwDown (code - 1) (slots - 4 * mhz)

namespace Dev

/-- Keep-warm of an array. -/
def keepOf (d : Dev) (c a : Nat) : KeepWarm := (d.core c).arr.keep.get {} a
/-- The density code in force on an array: none where its gap spans a point of declared slack; after a step down what is left, and no more than
the core's (R68, R69; DESIGN CHOICE, log 79, for the lesser of the two). -/
def kwOf (d : Dev) (c : Nat) (k : KeepWarm) : Nat :=
  if k.gated || k.slack then 0 else if k.density = 0 then d.kwCode c else min k.density (d.kwCode c)
/-- Nanoseconds, and empty slots, that are left of what an array is in: the 4 µs at the full density, or 1,024 cycles of a step (R68). -/
def kwLeft (d : Dev) (k : KeepWarm) : Nat := if k.density = 0 then 4000 - k.spent else (1024 - k.spent) * 1000 / pointMhz d.pwr.point
def kwSlots (d : Dev) (k : KeepWarm) : Nat := if k.density = 0 then (4000 - k.spent) * pointMhz d.pwr.point / 1000 else 1024 - k.spent
/-- Slots of so many that take their share: those within what the array is in that are not yet counted. -/
def kwNew (d : Dev) (k : KeepWarm) (slots : Nat) : Nat := min slots (d.kwSlots k - k.seen)
/-- The keep-warm of every array of a core changes, and each takes its dummy rows. -/
def onKeep (d : Dev) (c : Nat) (arrays : List Nat) (rows : Nat → Nat) (f : Nat → KeepWarm → KeepWarm) : Dev :=
  d.onCore c fun x => { x with arr := { x.arr with
    dummy := satAdd x.arr.dummy ((arrays.map rows).foldl (· + ·) 0)
    keep := arrays.foldl (fun s a => s.modify {} a (f a)) x.arr.keep } }

/-- Empty slots of a gap that an array has yet to count, when a block begins after `gap` of them: none while rows still enter it. -/
def gapLeft (d : Dev) (c gap a : Nat) : Nat := let k := d.keepOf c a; if k.since > d.now then 0 else gap - k.paid
/-- Dummy rows that an array takes among empty slots of its gap (R68). -/
def gapRows (d : Dev) (c slots a : Nat) : Nat := let k := d.keepOf c a; kwShare (d.kwOf c k) (d.kwNew k slots)
/-- Slots of a block of `len` on other arrays that fall into an array's gap. -/
def lenAfter (d : Dev) (k : KeepWarm) (len : Nat) : Nat :=
  if k.since ≤ d.now then len else len - (k.since - d.now) * pointMhz d.pwr.point / 1000
/-- A block of `len` slots begins on the arrays of a mask after `gap` empty slots, with those runs of bubbles in it: the gap's dummy rows are
counted on every array, the bubbles', run by run, on those selected, whose next gap begins when the block has entered. The others take none
for its length (R68). -/
def keepBlock (d : Dev) (c mask gap len : Nat) (runs : List Nat) : Dev :=
  let inBlock := (runs.map (kwRun (pointMhz d.pwr.point) (d.kwCode c))).foldl (· + ·) 0
  let slots := fun a => if bitOf mask a then gap - (d.keepOf c a).paid else d.gapLeft c gap a
  d.onKeep c (List.range 4) (fun a => d.gapRows c (slots a) a + if bitOf mask a then inBlock else 0) fun a k =>
    if bitOf mask a then { since := d.now + len * 1000 / pointMhz d.pwr.point }
    else { k with seen := k.seen + slots a + d.lenAfter k len, paid := 0 }
/-- One step of keep-warm's density on the arrays of a core that are due for it first: those that `due` names, when what they are in is over.
Each takes its dummy rows, of so many slots, and its density goes down by one code; at zero it is clock-gated (R68). -/
def keepDown (d : Dev) (c : Nat) (due : KeepWarm → Bool) (slots : KeepWarm → Nat) : Dev :=
  let l := (List.range 4).filter fun a => due (d.keepOf c a)
  match l.map fun a => (d.keepOf c a).since + d.kwLeft (d.keepOf c a) with
  | [] => d
  | t :: ts =>
    let d1 := d.reach (ts.foldl min t)
    let now := l.filter fun a => decide ((d.keepOf c a).since + d.kwLeft (d.keepOf c a) ≤ d1.now)
    d1.onKeep c now (fun a => let k := d.keepOf c a; kwShare (d.kwOf c k) (slots k - k.seen)) fun _ k =>
      { k with since := k.since + d.kwLeft k, spent := 0, density := d.kwOf c k - 1, gated := decide (d.kwOf c k ≤ 1)
               seen := k.seen - d.kwSlots k, paid := k.paid + (d.kwSlots k - k.seen) }
/-- An array whose gap takes dummy rows at the full density. -/
def keepFull (d : Dev) (c : Nat) (k : KeepWarm) : Bool := !k.gated && !k.slack && decide (k.density = 0) && decide (d.kwCode c ≠ 0)
/-- Keep-warm has run for 4 µs of an array's gap, with so many empty slots in them: the density begins to step down (R68). -/
def keepTimeout (d : Dev) (c slots : Nat) : Dev := d.keepDown c (d.keepFull c) fun k => min slots (d.kwSlots k)
/-- 1,024 cycles more of the gap: the density halves, and at zero the array is clock-gated (R68). -/
def keepStep (d : Dev) (c : Nat) : Dev := d.keepDown c (fun k => !k.gated && decide (k.density ≠ 0)) d.kwSlots
/-- Slots of an array's gap that have passed, by the timestamp. -/
def kwPassed (d : Dev) (k : KeepWarm) : Nat := (d.now - k.since) * pointMhz d.pwr.point / 1000
/-- A phase ends: the empty slots that have passed on the core's arrays take their share at the density that was in force (R68, R69); the
share of each side of the boundary is rounded down (DESIGN CHOICE, log 79). -/
def keepCore (d : Dev) (c : Nat) : Dev :=
  d.onKeep c (List.range 4) (fun a => let k := d.keepOf c a; kwShare (d.kwOf c k) (d.kwNew k (d.kwPassed k - k.seen))) fun _ k =>
    if k.gated || k.since ≥ d.now then k
    else { k with since := d.now, spent := k.spent + (if k.density = 0 then d.now - k.since else d.kwPassed k)
                  seen := k.seen - d.kwPassed k, paid := k.paid + (d.kwPassed k - k.seen) }
/-- The same on every core. -/
def keepCount (d : Dev) : Dev := d.each (List.range 8) keepCore
/-- The phase in progress declares slack (R76). -/
def slackDeclared (d : Dev) : Bool := d.work.run.isSome && bitOf (u16 (phaseEntry d.binding d.phaseNow) 2) 1
/-- A core comes to a point where its phase declares slack: the gap of each array that spans it takes no dummy rows (R68; DESIGN
CHOICE, log 75, for the slots of the gap that came before the point). -/
def keepStandOff (d : Dev) (c : Nat) : Dev :=
  if d.slackDeclared then d.onKeep c (List.range 4) (fun _ => 0) fun _ k => { k with slack := true } else d

end Dev
end Sys2Proof.Machine
end

