-- ==== Sys2Proof/Machine/Staging.lean ====
section
/-! DEFINITION. Packets that leave and the credit they take (R216, R218), ring staging and the spine between the leaves (R9, R10, R168, R169,
R183). -/

namespace Sys2Proof.Machine

/-! ### The signature header (R153) -/

namespace Sig
def flags (b : Bytes) : Nat := u8 b 3
def origin (b : Bytes) : Nat := u16 b 6 % 4096
def seq (b : Bytes) : Nat := u32 b 8
def length (b : Bytes) : Nat := u32 b 16
def tiles (b : Bytes) : Nat := u8 b 20
/-- Legs named. -/
def legs (b : Bytes) : Nat := u8 b 21 % 4
/-- The axis of leg `l`. -/
def axis (b : Bytes) (l : Nat) : Nat := u8 b 21 / 4 / 4 ^ l % 4
def leg (b : Bytes) : Nat := u8 b 22
def hops (b : Bytes) : Nat := u8 b 23
def step (b : Bytes) : Nat := u32 b 24
def place (b : Bytes) : Nat := u16 b 30
def run (b : Bytes) : Nat := u32 b 32
def split (b : Bytes) : Nat := u8 b 44
/-- The copy of a signature that travels a leg in a direction with hops to go. -/
def copy (b : Bytes) (l : Nat) (plus : Bool) (h : Nat) : Bytes :=
  ((b.set 3 (byte (setBits (flags b) 0 0 (b2n (!plus))))).set 22 (byte l)).set 23 (byte h)
/-- Bytes of the directory, and the place and bytes of tile `i` (R154). -/
def dirBytes (b : Bytes) : Nat := alignUp (4 * tiles b) 64
def tileBytes (b : Bytes) (i : Nat) : Nat := u32 b (64 + 4 * i)
def tileAt (b : Bytes) (i : Nat) : Nat :=
  64 + dirBytes b + ((List.range i).map (tileBytes b)).foldl (· + ·) 0
end Sig
/-- The leaf of a port's arrivals: minus ports on leaf A, plus ports on leaf B (R9). -/
def portLeaf (p : Nat) : Nat := if p % 2 = 1 then 0 else 1
/-- The leaf that a signature arrived on, or is built on: A builds even SEQ (R164). -/
def sigLeaf (src : Nat) (b : Bytes) : Nat := if src < 6 then portLeaf src else Sig.seq b % 2
/-- Granules of a share of ring staging: 4 MiB (R168). -/
def shareRoom : Nat := 64

/-- A signature that staging holds: its source port, origin and SEQ. -/
abbrev StageKey := Nat × Nat × Nat
/-- The signature of bytes that came by a source port. -/
def stageKey (src : Nat) (b : Bytes) : StageKey := (src, Sig.origin b, Sig.seq b)
/-- The leaf it came in on. -/
def StageKey.leaf (k : StageKey) : Nat := if k.1 < 6 then portLeaf k.1 else k.2.2 % 2
/-- An arrival of the activation channel, as far as its copies have it in common: source port, class, two numbers that tell it from others
(SRC and TAG, or a START's run and time) and bytes. -/
abbrev ArrivalKey := Nat × Nat × Nat × Nat × Bytes
/-- What two reasons hold, each listed newest first: an arrival that both hold counts once, with the granules of the one that holds more. -/
def joinHeld {κ : Type} [DecidableEq κ] (a : List (κ × Nat)) : List (κ × Nat) → List (κ × Nat)
  | [] => a
  | x :: b =>
    match a.find? fun y => y.1 = x.1 with
    | some y => (x.1, max x.2 y.2) :: joinHeld (a.erase y) b
    | none => x :: joinHeld a b
/-- What any of several reasons holds. -/
def allHeld {κ : Type} [DecidableEq κ] (l : List (List (κ × Nat))) : List (κ × Nat) := l.foldl joinHeld []
/-- The sum of the granules of some of them. -/
def heldSum {κ : Type} (l : List (κ × Nat)) : Nat := (l.map (·.2)).foldl (· + ·) 0
/-- The leaf of a core (R9). -/
def coreLeaf (c : Nat) : Nat := c / 4
/-- The leaf that something crosses from. -/
def Crossing.leaf (x : Crossing) : Nat := if x.circ then sigLeaf x.port x.bytes else portLeaf x.port
/-- The source port of the station's own transfers: 6 from a core of leaf B, 7 from one of leaf A. -/
def ownPort (core : Nat) : Nat := 7 - coreLeaf core

namespace Dev

/-! ### Packets sent and the credit they take (R216, R218) -/

/-- The axes of the gathering that have a ring. -/
def ringAxes (d : Dev) : List Nat :=
  match d.work.gath with
  | some g => [0, 1, 2].filter fun a => g.dims.getD a 1 > 1
  | none => []
/-- DIM_X, DIM_Y, DIM_Z of the gathering. -/
def dims (d : Dev) : List Nat := match d.work.gath with | some g => g.dims | none => [1, 1, 1]

/-- Coordinates of a position (R151). -/
def coord (dims : List Nat) (pos a : Nat) : Nat :=
  match a with
  | 0 => pos % dims.getD 0 1
  | 1 => pos / dims.getD 0 1 % dims.getD 1 1
  | _ => pos / (dims.getD 0 1 * dims.getD 1 1)
/-- 64 KiB granules of a packet (R218): those of what follows its head, which is what the receiving share holds (log 64). -/
def granules (b : Bytes) : Nat := max 1 (ceilDiv (b.length - 16) 65536)

/-- How a packet travels a ring: axis, side, hops to go, whether no leg follows, and its origin. -/
structure Hop where
  axis : Nat
  plus : Bool
  hops : Nat
  final : Bool
  origin : Nat
/-- How a station at a position obtains a control message of an origin's, which covers every ring of the gathering in order (R155, R163):
the leg is the last in which the two positions differ, and side and hops follow from their distance on it. -/
def controlHop (g : Gathering) (axes : List Nat) (origin pos : Nat) : Nat × Hop :=
  let o := (g.stations.findIdx? fun s => s = origin).getD g.pos
  let leg := ((List.range axes.length).filter fun l => coord g.dims o (axes.getD l 0) ≠ coord g.dims pos (axes.getD l 0)).getLastD 0
  let a := axes.getD leg 0
  let n := g.dims.getD a 1
  let fwd := (coord g.dims pos a + n - coord g.dims o a) % n
  let plus := decide (fwd ≤ n / 2)
  (leg, ⟨a, plus, if plus then n / 2 - fwd + 1 else (n - 1 - n / 2) - (n - fwd) + 1, decide (leg + 1 = axes.length), origin⟩)
/-- How a neighbour packet travels: a signature's header says it (R153), a SEND's trailer (log 15), and a control message's SOURCE with the
position of the station it is sent to. -/
def hopOf (d : Dev) (g : Gathering) (b : Bytes) : Hop :=
  match u8 b 0 with
  | 1 => ⟨u8 b 37 / 4 / 4 ^ u8 b 38 % 4, !bitOf (u8 b 19) 0, u8 b 39, decide (u8 b 38 + 1 ≥ u8 b 37 % 4), u16 b 22 % 4096⟩
  | 4 => (controlHop g d.ringAxes (u16 b 22 % 4096) ((g.stations.findIdx? fun s => s = u16 b 4 % 4096).getD g.pos)).2
  | _ => ⟨u8 b (b.length - 1) % 4, !bitOf (u8 b (b.length - 1)) 2, u8 b (b.length - 2), true, u16 b 6 % 4096⟩

/-- A packet from coordinate `o` that goes on from `x` in a direction of a ring of `n` has crossed its dateline, or does so now (R218). -/
def pastDateline (n : Nat) (plus : Bool) (x o : Nat) : Bool := if plus then decide ((x + 1) % n < o) else decide (o < (x + n - 1) % n)
/-- A routed packet of a station that leaves by a port has crossed the dateline of the port's ring: the gathering's ring where both
stations are of it, else the plan's (R218, R229; log 64). -/
def routedPast (d : Dev) (p src : Nat) : Bool :=
  let planned := let a := p / 2; let n := [4, 16, 64].getD a 1; let s := [1, 4, 64].getD a 1
    pastDateline n (p % 2 = 0) (d.station / s % n) (src / s % n)
  match d.work.gath with
  | none => planned
  | some g => match g.nbrs.find? fun n => n.port = p, g.stations.findIdx? fun s => s = src with
    | some nb, some i => pastDateline (g.dims.getD nb.axis 1) nb.plus (coord g.dims g.pos nb.axis) (coord g.dims i nb.axis)
    | _, _ => planned
/-- An escape granule is granted to a packet that ends at the receiving station or has crossed the dateline of its axis (R218). -/
def escapes (d : Dev) (p : Nat) (b : Bytes) : Bool :=
  let cls := u8 b 0
  if bitOf (u8 b 1) 0 then u16 b 4 % 4096 = (d.port p).heard || d.routedPast p (u16 b 6 % 4096)
  else if cls ≥ 8 then true
  else match d.work.gath with
    | none => false
    | some g =>
      let h := d.hopOf g b
      if h.hops ≤ 1 && h.final then true
      else
        let n := g.dims.getD h.axis 1
        let x := coord g.dims g.pos h.axis
        let o := coord g.dims ((g.stations.findIdx? fun s => s = h.origin).getD g.pos) h.axis
        pastDateline n h.plus x o

/-- The next 64 KiB of a packet may begin: its channel has credit, or the escape granule is there and granted to it. -/
def mayBegin (d : Dev) (p : Nat) (b : Bytes) : Bool :=
  let x := (d.port p).ll.chan (u8 b 0 = 1)
  decide (x.credit > 0) || (decide (x.esc > 0) && d.escapes p b)

end Dev

/-- The flits of a packet that its first `k` granules fill; the last flit of the packet is filled (R216). -/
def flitsBy (b : Bytes) (k : Nat) : Nat := if k = 0 then 0 else if k ≥ Dev.granules b then ceilDiv b.length 249 else (16 + 65536 * k) / 249
/-- A channel takes a credit, or the escape granule, for the granule that begins, and its flits are ready; the last takes the packet out of
the queue. -/
def Chan.begin (x : Chan) (b : Bytes) : Chan :=
  let a := flitsBy b x.gone
  let y := { x with
    credit := x.credit - 1, esc := if x.credit > 0 then x.esc else x.esc - 1
    out := x.out ++ chunks 249 (flitsBy b (x.gone + 1) - a) (b.drop (249 * a)) }
  if x.gone + 1 ≥ Dev.granules b then { y with gone := 0, wait := y.wait.drop 1 } else { y with gone := x.gone + 1 }

namespace Dev

/-- The packets of a channel that wait on a port leave in order, 64 KiB by 64 KiB, as far as credit goes (R218). -/
def packetsGo (p : Nat) (circ : Bool) : Nat → Dev → Dev
  | 0, d => d
  | n + 1, d =>
    let x := (d.port p).ll.chan circ
    match x.wait with
    | [] => d
    | w :: _ =>
      if !d.mayBegin p w.2 then d
      else
        let d1 := if x.gone + 1 ≥ granules w.2 then d.emit (.packet p w.2) else d
        packetsGo p circ n (d1.onLink p fun y => y.onChan circ fun c => c.begin w.2)
/-- What waits on a channel of a port leaves as far as it can; cords that are off are woken first (R221). -/
def channelGo (d : Dev) (p : Nat) (circ : Bool) : Dev :=
  let x := (d.port p).ll.chan circ
  if x.wait.isEmpty then d.flush p
  else ((packetsGo p circ ((x.wait.map fun w => granules w.2).foldl (· + ·) 0) (d.wakeCords p))).flush p

/-! ### Where a signature is placed (R162) -/

/-- The core field of a placement record under the running fold: first tile, tiles, offset (R162). -/
def placeField (d : Dev) (rec_ lc : Nat) : Nat × Nat × Nat :=
  let s := schedule d.binding
  let o := u32 s 40 + 64 * (foldIx d.pwr.fold * u16 s 14 + rec_) + 8 * lc
  (u8 s o, u8 s (o + 1), u32 s (o + 4))
/-- A signature is placed on cores of a leaf. -/
def placedOn (d : Dev) (leaf : Nat) (b : Bytes) : Bool :=
  (List.range d.pwr.fold).any fun lc => (d.placeField (Sig.place b) lc).2.1 ≠ 0
    && match d.physCore lc with | some c => coreLeaf c == leaf | none => false
/-- It is placed on cores of the leaf that it did not come in on: it crosses the spine (R169). -/
def placedFar (d : Dev) (src : Nat) (b : Bytes) : Bool := d.placedOn (1 - sigLeaf src b) b

/-! ### Ring staging (R168, R169, R183) -/

/-- The crossing of the spine that a signature still waits for. -/
def crossingOf (d : Dev) (src : Nat) (b : Bytes) : Bool := d.circ.cross.any fun x => x.circ && x.port = src && x.bytes = b
/-- The packets of a channel that wait to leave by a port, newest first: source port, bytes, and granules of which none has gone. -/
def leaving (d : Dev) (p : Nat) (circ : Bool) : List (Nat × Bytes × Nat) :=
  let x := (d.port p).ll.chan circ
  (x.wait.zipIdx.map fun w => (w.1.1, w.1.2, granules w.1.2 - if w.2 = 0 then x.gone else 0)).reverse
/-- The ports of a leaf (R9). -/
def leafPorts (leaf : Nat) : List Nat := (List.range 6).filter fun p => portLeaf p = leaf
/-- The signatures whose granules a leaf holds, with how many (R169): those it has yet to place on its cores under the running fold, those that
have yet to cross from it, and copies of which part has yet to be sent from its ports. -/
def circHeld (d : Dev) (leaf : Nat) : List (StageKey × Nat) :=
  let entry := fun (src : Nat) (b : Bytes) => (stageKey src b, ceilDiv b.length 65536)
  let unplaced := d.circ.sigs.filter fun s => !s.placed && d.placedOn leaf s.bytes
    && (sigLeaf s.port s.bytes = leaf || !d.crossingOf s.port s.bytes)
  let crossing := d.circ.cross.filter fun x => x.circ && sigLeaf x.port x.bytes = leaf
  allHeld ([unplaced.reverse.map fun s => entry s.port s.bytes, crossing.reverse.map fun x => entry x.port x.bytes]
    ++ (leafPorts leaf).map fun p => (d.leaving p true).map fun w => (stageKey w.1 (w.2.1.drop 16), w.2.2))
/-- Granules of a port's share. -/
def portHeld (d : Dev) (p : Nat) : Nat := heldSum ((d.circHeld (portLeaf p)).filter fun x => x.1.1 = p)
/-- Granules of a leaf's injection share. -/
def injHeld (d : Dev) (leaf : Nat) : Nat := heldSum ((d.circHeld leaf).filter fun x => x.1.1 = 6 && x.1.leaf = leaf)

/-- Granules of a transfer as its packet brought it: its bytes, a board head, the trailer. -/
def transferGranules (t : Transfer) : Nat := max 1 (ceilDiv ((if t.cls = 5 then 16 else 0) + t.bytes.length + 8) 65536)
/-- The arrival that a packet on its way out is a copy of: its hops and its next station apart, every copy says the same. -/
def arrivalKey (src : Nat) (b : Bytes) : ArrivalKey :=
  let body := b.drop 16
  match u8 b 0 with
  | 4 => if u8 body 3 = 1 then (src, 4, u32 body 8, u64 body 16, []) else (src, 4, 0, 0, body)
  | cls => if 2 ≤ cls && cls ≤ 5 then (src, cls, u16 b 6 % 4096, u32 b 12, (body.take (body.length - 8)).drop (if cls = 5 then 16 else 0))
    else (src, cls, u16 b 6 % 4096, u32 b 12, body)
/-- Packets of the activation channel that wait to leave by the ports of a leaf, those of some source ports. -/
def actLeaving (d : Dev) (leaf : Nat) (of : Nat → Bool) : List (List (ArrivalKey × Nat)) :=
  (leafPorts leaf).map fun p => ((d.leaving p false).filter fun w => of w.1).map fun w => (arrivalKey w.1 w.2.1, w.2.2)
/-- Transfers that the activation share holds, of some source ports. -/
def transfersHeld (d : Dev) (of : Nat → Bool) : List (ArrivalKey × Nat) :=
  ((d.circ.transfers.filter fun t => of t.port).map fun t => ((t.port, t.cls, t.src, t.tag, t.bytes), transferGranules t)).reverse
/-- Granules of the activation share that arrivals of a port hold on its leaf: transfers, STARTs that wait for their RUN, and packets that go on
and have yet to be sent or, for a port of the other leaf, to cross the spine (R168, R169). -/
def actHeld (d : Dev) (p : Nat) : Nat :=
  let crossing := (List.range 6).map fun q => ((d.circ.cross.filter fun x => !x.circ && x.port = p && x.copies.any (·.1 = q)).map fun x =>
    (arrivalKey p x.bytes, granules x.bytes)).reverse
  let starts := ((d.work.starts.filter fun s => s.2.2.2 = p).map fun s => ((p, 4, s.1, s.2.1, []), 1)).reverse
  heldSum (allHeld ([d.transfersHeld (· == p), starts] ++ crossing ++ d.actLeaving (portLeaf p) (· == p)))
/-- Granules of the activation share of a leaf that the station's own traffic holds: what waits at the leaf's ports, and what cores of the leaf
have sent to the station itself (R9; log 20). -/
def ownHeld (d : Dev) (leaf : Nat) : Nat :=
  heldSum (allHeld (d.transfersHeld (fun p => p ≥ 6 && portLeaf p = leaf) :: d.actLeaving leaf (· ≥ 6)))
/-- Granules of a leaf's spine share: what came over from the other leaf's ring agent. -/
def spineHeld (d : Dev) (leaf : Nat) : Nat :=
  heldSum ((d.circHeld leaf).filter fun x => x.1.leaf != leaf)
    + heldSum (allHeld (d.actLeaving leaf fun src => src < 6 && portLeaf src != leaf))
/-- 64 KiB granules in use on a leaf (R183; log 20). -/
def stageOcc (d : Dev) (leaf : Nat) : Nat :=
  d.spineHeld leaf + heldSum ((d.circHeld leaf).filter fun x => x.1.leaf = leaf)
    + ((d.circ.builds.filter fun b => b.leaf = leaf).map fun b => ceilDiv b.bytes.length 65536).foldl (· + ·) 0
    + ((leafPorts leaf).map d.actHeld).foldl (· + ·) 0 + d.ownHeld leaf
/-- The peaks follow. -/
def touchPeak (d : Dev) : Dev :=
  d.onCirc fun q => { q with peakA := max q.peakA (d.stageOcc 0), peakB := max q.peakB (d.stageOcc 1) }

/-! ### Packets that go on (R165, R169, R234) -/

/-- A packet that came by port `src`, 6 for the station's own, is to leave by port `p` of the leaf that holds it: it waits behind those of its
channel that wait for credit. -/
def packetOn (d : Dev) (src p : Nat) (b : Bytes) : Dev :=
  if !d.portUp p then d
  else ((d.onLink p fun y => y.onChan (u8 b 0 = 1) fun c =>
    { c with wait := c.wait ++ [(src, b)], since := if c.wait.isEmpty then d.now else c.since }).touchPeak).channelGo p (u8 b 0 = 1)
/-- A crossing of the spine is done: its copies wait on the other leaf. -/
def crossed (d : Dev) (x : Crossing) : Dev :=
  (d.onCirc fun q => { q with cross := q.cross.erase x }).each x.copies fun d c => d.packetOn x.port c.1 c.2
/-- What crosses next from a leaf on a channel: the oldest that waits there, once the spine share of the other leaf has room. -/
def crossable (d : Dev) (leaf : Nat) (circ : Bool) : Option Crossing :=
  (d.circ.cross.find? fun x => x.circ == circ && x.leaf = leaf).bind fun x =>
    if d.spineHeld (1 - leaf) + (if x.circ then ceilDiv x.bytes.length 65536 else granules x.bytes) ≤ shareRoom then some x else none
/-- What can cross next. -/
def nextCrossing (d : Dev) : Option Crossing :=
  [(0, true), (1, true), (0, false), (1, false)].findSome? fun k => d.crossable k.1 k.2
/-- Signatures and activation packets cross the spine as far as there is room, and their copies leave there. -/
def spineGo : Nat → Dev → Dev
  | 0, d => d
  | n + 1, d => match d.nextCrossing with | some x => spineGo n (d.crossed x) | none => d
/-- Everything that can cross does. -/
def spine (d : Dev) : Dev := spineGo d.circ.cross.length d
/-- Something joins those that wait to cross. -/
def cross (d : Dev) (x : Crossing) : Dev := ((d.onCirc fun q => { q with cross := q.cross ++ [x] }).touchPeak).spine
/-- The copies of a signature leave: those of its own leaf's ports at once, the others when it has crossed. `both`: the other leaf's ring agent
gets it too (R10, R169). -/
def spread (d : Dev) (src : Nat) (b : Bytes) (copies : List (Nat × Bytes)) (both : Bool) : Dev :=
  let leaf := sigLeaf src b
  let far := copies.filter fun c => portLeaf c.1 != leaf
  let d1 := d.each (copies.filter fun c => portLeaf c.1 = leaf) fun d c => d.packetOn src c.1 c.2
  if far.isEmpty && !both then d1 else d1.cross ⟨true, src, b, far⟩
/-- A packet of the activation channel that came by port `src`, 6 for the station's own, is to leave by port `p`: what came by a port of the
other leaf crosses the spine first (R10, R169). -/
def packetPass (d : Dev) (src p : Nat) (b : Bytes) : Dev :=
  if src < 6 && portLeaf src != portLeaf p && d.portUp p then d.cross ⟨false, src, b, [(p, b)]⟩ else d.packetOn src p b
/-- A packet of the station's own is to leave by a port. -/
def packetOut (d : Dev) (p : Nat) (b : Bytes) : Dev := d.packetOn 6 p b

/-- A packet of a gathering, which came by port `src`, leaves towards a neighbour by the port that reaches it (R234). -/
def sendTo (d : Dev) (src axis : Nat) (plus : Bool) (cls tag : Nat) (b : Bytes) : Dev :=
  match d.neighbour axis plus with
  | some n => if d.portUp n.port then d.packetPass src n.port (d.head cls false n.station b.length tag ++ b) else d
  | none => d

end Dev
end Sys2Proof.Machine
end

