-- ==== Sys2Proof/Machine/Endings.lean ====
section
/-! DEFINITION. Slices, routing and the board ring (R237 to R240), the end of a run (R172), and the memory errors that a read's checks find
(R140, R248, R253, R263). -/

namespace Sys2Proof.Machine

namespace Dev

/-! ### Slices, routing and the board ring (R237 to R240) -/

/-- The station's slice. -/
def sliceNo (d : Dev) : Nat := fld d.lnk.slice 11 0
/-- The port towards a station by the routing table, for packets of a slice; 6 is this station (R237). -/
def routeTo (d : Dev) (dest slice : Nat) : Option Nat :=
  let e := d.lnk.rte.get 0 dest
  if flag e 31 && fld e 11 0 = slice && fld e 30 28 ≤ 6 then some (fld e 30 28) else none
/-- A refused packet is counted and captured (R238, R246). -/
def sliceDrop (d : Dev) (cls port slice src : Nat) : Dev :=
  let d1 := { d with lnk := { d.lnk with sliceDrop := satAdd d.lnk.sliceDrop 1 } }
  if flag d1.err.slice 31 then d1
  else (d1.onErr fun e => { e with
    slice := word (2 ^ 31 + cls % 16 * 2 ^ 27 + port % 8 * 2 ^ 24 + slice % 4096 * 2 ^ 12 + src % 4096) }).cause cLink
/-- The station of a board module (R239). -/
def boardStation (d : Dev) (m : Nat) : Nat := d.station / 4 * 4 + m % 4
/-- The X port on the shorter way round the board from one module to another, ties to X+ (R240). -/
def boardShort (src dest : Nat) : Nat := if (dest % 4 + 4 - src % 4) % 4 ≤ 2 then 0 else 1
/-- The X port of the shorter way to a board module, the other way when that port is lost (R240). -/
def boardPort (d : Dev) (m : Nat) : Option Nat :=
  let p := boardShort d.station m
  if d.portUp p then some p else if d.portUp (1 - p) then some (1 - p) else none
/-- The X port by which a module on the way passes on what came by an X port: onwards in its direction; where that port is lost, what came
the shorter way goes back, the other way round, and for anything else no way round is left (R240). -/
def boardOnward (d : Dev) (inPort src dest : Nat) : Option Nat :=
  let ahead := 1 - inPort % 2
  if d.portUp ahead then some ahead
  else if boardShort src dest = ahead && d.portUp inPort then some inPort else none
/-- A routed packet of the board leaves, when its destination's entry routes it (R237, R240); answers why it does not. -/
def sendBoardBy (d : Dev) (port : Option Nat) (m cls tag : Nat) (b : Bytes) : Option Status × Dev :=
  if (d.routeTo (d.boardStation m) d.sliceNo).isNone then (some St.slice, d.sliceDrop cls 6 d.sliceNo d.station)
  else match port with
    | some p => (none, d.packetOut p (d.head cls true (d.boardStation m) b.length tag ++ b))
    | none => (some St.linkLost, d)
/-- A board packet goes the shorter way, or the other where that is lost. -/
def sendBoard (d : Dev) (m cls tag : Nat) (b : Bytes) : Option Status × Dev := d.sendBoardBy (d.boardPort m) m cls tag b
/-- An acknowledgement packet (class 8): its kind and the status it carries (log 15). -/
def ackBytes (kind : Nat) (st : Status) : Bytes := [byte kind, st] ++ zeros 6

end Dev

/-- The copies a station launches (R155): axis, side, leg and hops, for each leg after the one on which it obtained the
signature; `got1` is that leg plus 1. -/
def launches (axes : List Nat) (dims : List Nat) (split got1 : Nat) : List (Nat × Bool × Nat × Nat) :=
  ((List.range axes.length).filter fun l => l ≥ got1).flatMap fun l =>
    let a := axes.getD l 0
    let n := dims.getD a 1 - 1
    let hb := (n + 1) / 2; let hs := n / 2
    let hp := if bitOf split l then hs else hb
    let hm := n - hp
    (if hp > 0 then [(a, true, l, hp)] else []) ++ (if hm > 0 then [(a, false, l, hm)] else [])

namespace Dev

/-- TAG of a packet that no SEND and no board access names (log 15). -/
def noTag : Nat := 65536
/-- A control message that came by port `src`, 6 for the station's own, goes out along the rings of the gathering after those it has come by
(R163): the stations on the way know from their places how it travels. -/
def launchControl (d : Dev) (src got1 : Nat) (b : Bytes) : Dev :=
  d.each (launches d.ringAxes d.dims 0 got1) fun d x => d.sendTo src x.1 x.2.1 4 noTag b

/-- No core has anything to run or in its queues. -/
def idleCores (d : Dev) : Dev := d.each (List.range 8) fun d c => d.onCore c fun x => { x with
  seq := { x.seq with st := .idle, fe := none, bar := none }, q := {} }
/-- The cores stop: queues are emptied, operations their sequencers and units still wait on are withdrawn (log 14), and the
signatures of the run leave staging. -/
def stopCores (d : Dev) (runNo : Nat) : Dev :=
  let drop := fun (q : List SyncReq) => q.filter fun r =>
    match r.iss with | .fe .. => false | .dn _ => false | .rsig => false | _ => true
  let d1 := d.idleCores
  { d1 with
    sync := { d1.sync with
      words := d1.sync.words.map fun e => (e.1, { e.2 with q := drop e.2.q })
      flyA := d1.sync.flyA.filter fun e => !(drop [e.2]).isEmpty
      flyB := d1.sync.flyB.filter fun e => !(drop [e.2]).isEmpty
      held := d1.sync.held.filter fun e => !(drop [e.2]).isEmpty }
    circ := { d1.circ with
      sends := [], builds := [], lost := []
      sigs := d1.circ.sigs.filter (fun x => u32 x.bytes 32 != runNo)
      cross := d1.circ.cross.filter (fun x => !x.circ || u32 x.bytes 32 != runNo) } }

/-- The key of the learned record of phase `p` of the active binding (R316). -/
def learnKey (d : Dev) (p : Nat) : Nat :=
  match d.work.active with
  | some a => (a.ctx * 4 + a.bindId) * 4096 + p % 4096
  | none => p % 4096
/-- The time that the iteration in progress has run since the last sample, as the controller credits it (R316). -/
def spanNow (d : Dev) : List Span :=
  match d.work.run with
  | some r => if r.begun then
      [⟨d.learnKey r.phase, d.pwr.fold, d.pwr.point, d.work.coreMap, max r.phaseAt d.pwr.sampleAt, d.now⟩] else []
  | none => []
/-- The iteration in progress ends, and its time since the last sample is kept for the next. -/
def keepSpan (d : Dev) : Dev := d.onPwr fun p => { p with spans := p.spans ++ d.spanNow }

/-- The status of an item that a run's end settles: of a host's abort, that of R270. -/
def endStatus (d : Dev) (st : Status) (c : Nat) : Status := if st = St.abortedByHost then d.abortStatus c else st
/-- The run in progress ends with a failure: no pass of it is in flight any more (R179), every item of it without a record fails, and its RUN
ends with the status (R172, R288). Items that a host's abort settles so have the status of R270. -/
def stopRun (d : Dev) (st : Status) : Dev :=
  match d.work.run with
  | none => d
  | some r =>
    let items := d.work.jobs.filter fun j => j.op = Op.item && j.run = some r.job
    let d1 := (d.keepSpan.keepCount.onWork fun w => { w with run := none, pendingBoundary := false, passesInFlight := [] }).stopCores r.no
    let d2 := d1.onJob r.job fun j => { j with phase := .ended, run := some r.no, entry := some st.toNat }
    (d2.each items fun d j => d.failJob j (d.endStatus st j.ctx)).finishRuns

/-- A station ends a run: it sends ABORT and stops the run (R172). -/
def endRun (d : Dev) (st : Status) : Dev :=
  match d.work.run with
  | none => d
  | some r => (d.launchControl 6 0 (d.controlBytes 2 r.no 0 st)).stopRun st

/-- ABORT of a run whose last boundary has passed here: its items that have no record yet fail with the ABORT's status, and its RUN ends with
it; the first ABORT stands (R172, R270, R331). -/
def abortEnded (d : Dev) (no : Nat) (st : Status) : Dev :=
  match d.work.jobs.find? fun j => j.op = Op.run && j.phase == .ended && j.run = some no && j.entry.isNone with
  | none => d
  | some j =>
    let d1 := d.onJob j.no fun x => { x with entry := some st.toNat }
    (d1.each (d1.work.jobs.filter fun x => x.op = Op.item && x.run = some j.no) fun d x => d.failJob x (d.endStatus st x.ctx)).finishRuns

/-- Every accepted item of the station fails with a status (R18, R335). -/
def failAllItems (d : Dev) (st : Status) : Dev :=
  d.each (d.work.jobs.filter fun j => j.op = Op.item) fun d j => d.failJob j st

/-! ### Memory errors that a read's checks find (R140, R248, R253, R263) -/

/-- The context and address that map a frame of a tier. -/
def frameOwner (d : Dev) (cxl : Bool) (f : Nat) : Nat × Nat :=
  match d.ctxs.findSome? fun e =>
      (e.2.pages.findSome? fun p => match p.2 with
        | some g => if g.cxl = cxl && g.frame = f then some p.1 else none
        | none => none).map fun p => (e.1, p * pageBytes) with
  | some x => x
  | none => (d.workCtx, 0)

/-- One event, as the checks report it. -/
def foundOne (d : Dev) : Found → Dev
  | .gddr f _ .corrected =>
    (d.onMem fun m => { m with ce := satAdd m.ce 1, ceTimes := m.ceTimes.modify [] f fun l =>
      (l.filter fun t => t + 86400000000000 > d.now) ++ [d.now] })
  | .gddr f s .uncorrectable =>
    let (c, va) := d.frameOwner false f
    let a := f * pageBytes + s * 64
    (d.onMem fun m => { m with gddrMarks := m.gddrMarks.set none (a / 64) (some St.memUnc)
                               unc := if m.unc.contains f then m.unc else m.unc ++ [f] }).errMem
      1 c (channelOf a) 0 (va + s * 64)
  | .crcRetry n => d.onMem fun m => { m with crcRetry := satAdd m.crcRetry n }
  | .cxlPoison l => d.onMem fun m => { m with cxlMarks := m.cxlMarks.set none l (some St.memUnc) }
  | .cmemRow _ .corrected => { d with cmem := { d.cmem with ce := satAdd d.cmem.ce 1 } }
  | .cmemRow r .uncorrectable => { d with cmem := { d.cmem with bad := d.cmem.bad.set false r true } }
  | .bufLine c l =>
    (d.onCore c fun x => { x with buf := { x.buf with marks := x.buf.marks.set none l (some St.memUnc) } }).errMem 6 d.workCtx 31 l 0
  | .syncWord _ => d
  | .decoder c i => d.onCore c fun x => { x with decoder := some i }

/-- The events of a command, in order; sync words are handled where sync operations are (Machine/Sync.lean). -/
def foundAll (d : Dev) (l : List Found) : Dev := d.each l foundOne

end Dev
end Sys2Proof.Machine
end

