-- ==== Sys2Proof/Machine/Sync.lean ====
section
/-! DEFINITION. Sync words (R264 to R271): one operation, the scan of a word's queue, the completion of an operation at its
issuer, operations that cross the spine or are held, and the rows of the table that belong to them. -/

namespace Sys2Proof.Machine

/-- What an operation does to a word it can complete on: its new VALUE and FULL; `none` while it must wait (R264). -/
def syncEffect (op : SyncOp) (ge : Bool) (imm : Dword) (val : Dword) (full : Bool) : Option (Dword × Bool) :=
  match op with
  | .writeFill => if full then none else some (imm, true)
  | .readEmpty => if full then some (val, false) else none
  | .readPeek => if full && (!ge || imm ≤ val) then some (val, true) else none
  | .fetchAddFull => if full then some (val + imm, true) else none
  | .clear => some (0, false)
  | .writeForce => some (imm, true)

/-- Whether a waiter can complete on a word. -/
def SyncReq.ready (r : SyncReq) (val : Dword) (full : Bool) : Bool := (syncEffect r.op r.ge r.imm val full).isSome

/-- The first waiter of a queue that can complete, with the waiters before and after it. -/
def firstReady (val : Dword) (full : Bool) : List SyncReq → Option (List SyncReq × SyncReq × List SyncReq)
  | [] => none
  | r :: rs =>
    if r.ready val full then some ([], r, rs)
    else (firstReady val full rs).map fun x => (r :: x.1, x.2.1, x.2.2)

/-- The scan of R265: waiters that can complete do so in queue order, from the head again after each change. Answers the word
and the waiters that completed, in order. -/
def syncScan : Nat → Dword → Bool → List SyncReq → Dword × Bool × List SyncReq × List SyncReq
  | 0, v, f, q => (v, f, q, [])
  | n + 1, v, f, q =>
    match firstReady v f q with
    | none => (v, f, q, [])
    | some (a, r, b) =>
      match syncEffect r.op r.ge r.imm v f with
      | none => (v, f, q, [])
      | some (v', f') =>
        let z := syncScan n v' f' (a ++ b)
        (z.1, z.2.1, z.2.2.1, r :: z.2.2.2)

/-- An operation takes effect on a word whose state lets it, and the queue is scanned. -/
def SyncWord.perform (w : SyncWord) (r : SyncReq) : Option (SyncWord × List SyncReq) :=
  match syncEffect r.op r.ge r.imm w.val w.full with
  | none => none
  | some (v, f) =>
    let z := syncScan w.q.length v f w.q
    some ({ w with val := z.1, full := z.2.1, bad := false, q := z.2.2.1 }, r :: z.2.2.2)

namespace Dev

/-- The leaf of a sync word (R264). -/
def syncLeaf (w : Nat) : Nat := w / 32768
/-- Waiter entries in use on a leaf (R265). -/
def waitersOn (d : Dev) (leaf : Nat) : Nat :=
  ((d.sync.words.filter fun e => syncLeaf e.1 = leaf).map fun e => e.2.q.length).foldl (· + ·) 0
/-- Waiter entries of a leaf. -/
def maxWaiters : Nat := 4096
/-- The physical word of a virtual sync ID of a context (R266). -/
def syncPhys (d : Dev) (c v : Nat) : Option Nat :=
  let r := (d.ctx c).regs
  if v < r.syncCount.toNat then some (r.syncBase.toNat + v) else none
/-- Change a sync word. -/
def onWord (d : Dev) (w : Nat) (f : SyncWord → SyncWord) : Dev :=
  { d with sync := { d.sync with words := d.sync.words.modify {} w f } }

/-- The FE's gates release: its tokens leave their queues, and the sequencer goes on if it waited (R97). -/
def feRelease (d : Dev) (c no : Nat) : Dev :=
  let out := fun (q : List QEnt) => q.filter fun e => e.token != some no
  d.onCore c fun x => { x with
    seq := { x.seq with fe := if x.seq.fe = some no then none else x.seq.fe }
    q := { x.q with ar := out x.q.ar, ex := out x.q.ex, vu := out x.q.vu, se := out x.q.se, cx := out x.q.cx, rg := out x.q.rg } }

/-- The signal of a completion: FETCH_ADD_FULL with +1 on a virtual ID (R84); `none` for an ID outside the range. -/
def signalReq (d : Dev) (c v : Nat) (iss : Issuer) : Option (Nat × SyncReq) :=
  (d.syncPhys d.workCtx v).map fun w => (w, ⟨.fetchAddFull, false, 1, d.workCtx, iss, d.now⟩)

/-- An operation has completed: its issuer's gates release, and a signal of its own follows. -/
def syncDone (d : Dev) (r : SyncReq) : Dev × Option (Nat × Nat × SyncReq) :=
  match r.iss with
  | .fe c no _ done =>
    (d.feRelease c no, (done.bind fun v => d.signalReq c v (.dn c)).map fun x => (coreLeaf c, x.1, x.2))
  | .board m tag => ((d.sendBoard m 8 tag (ackBytes 0 St.ok)).2, none)
  | _ => (d, none)

/-- An operation that cannot be performed completes without effect; the items of the issuer's phase fail (R267). -/
def syncFailed (d : Dev) (r : SyncReq) (st : Status) : Dev × Option (Nat × Nat × SyncReq) :=
  match r.iss with
  | .board m tag => ((d.sendBoard m 8 tag (ackBytes 2 st)).2, none)
  | .debugger => (d, none)
  | _ => let x := d.syncDone r; (x.1.failOwners st, x.2)

/-- An operation arrives at its word (R265, R267): it completes with the waiters it frees, fails, joins the queue, or is held at
its issuer. Answers the operations that completed and those that failed. -/
def syncAt (d : Dev) (w : Nat) (r : SyncReq) : Dev × List SyncReq × List SyncReq :=
  let x := d.sync.words.get {} w
  let rewrites := r.op == .clear || r.op == .writeForce
  if x.bad && !rewrites then (d.errMem 5 r.ctx 31 w 0, [], [r])
  else
    match x.perform r with
    | some (x', done) => (d.onWord w fun _ => x', done, [])
    | none =>
      if d.waitersOn (syncLeaf w) < maxWaiters then (d.onWord w fun y => { y with q := y.q ++ [r] }, [], [])
      else ({ d with sync := { d.sync with held := d.sync.held ++ [(w, r)] } }, [], [])

/-- An operation sent from a leaf: it is at its word at once on the same leaf, else it crosses the spine (R264). -/
def syncCross (d : Dev) (w : Nat) (r : SyncReq) : Dev :=
  { d with sync := if syncLeaf w = 0 then { d.sync with flyA := d.sync.flyA ++ [(w, r)] }
                   else { d.sync with flyB := d.sync.flyB ++ [(w, r)] } }

/-- Arrivals in order, each followed by the signals it gives rise to on its own leaf. -/
def syncRun : Nat → List (Nat × SyncReq) → Dev → Dev
  | 0, _, d => d
  | _, [], d => d
  | n + 1, (w, r) :: rest, d =>
    let x := d.syncAt w r
    let step := fun (a : Dev × List (Nat × SyncReq)) (y : Dev × Option (Nat × Nat × SyncReq)) =>
      match y.2 with
      | none => (y.1, a.2)
      | some (leaf, w', r') => if syncLeaf w' = leaf then (y.1, a.2 ++ [(w', r')]) else (y.1.syncCross w' r', a.2)
    let a := x.2.1.foldl (fun a q => step a (a.1.syncDone q)) (x.1, [])
    let b := x.2.2.foldl (fun a q => step a (a.1.syncFailed q St.memUnc)) a
    syncRun n (rest ++ b.2) b.1

/-- Steps enough for every waiter to complete once and signal once. -/
def syncFuel (d : Dev) : Nat := 2 * (d.waitersOn 0 + d.waitersOn 1) + 8

/-- An operation arrives at its word's leaf. -/
def syncArrive (d : Dev) (w : Nat) (r : SyncReq) : Dev := syncRun d.syncFuel [(w, r)] d
/-- An operation is issued from a leaf. -/
def syncIssue (d : Dev) (leaf w : Nat) (r : SyncReq) : Dev :=
  if syncLeaf w = leaf then d.syncArrive w r else d.syncCross w r

/-- The completion signal of an instruction of core `c` (R84). -/
def signal (d : Dev) (c v : Nat) : Dev :=
  match d.signalReq c v (.dn c) with
  | some (w, r) => d.syncIssue (coreLeaf c) w r
  | none => d
/-- RECV's arrival signal at this station (R96). -/
def arrivalSignal (d : Dev) (v : Nat) : Dev :=
  match d.signalReq 0 v .rsig with
  | some (w, r) => d.syncArrive w r
  | none => d

/-- A word is found uncorrectable: operations queued or held on it leave at once and fail (R248). -/
def syncBad (d : Dev) (w : Nat) : Dev :=
  let x := d.sync.words.get {} w
  let d1 := (d.onWord w fun y => { y with bad := true, q := [] }).errMem 5 d.workCtx 31 w 0
  let gone := x.q ++ (d.sync.held.filter fun e => e.1 = w).map (·.2)
  let d2 := { d1 with sync := { d1.sync with held := d1.sync.held.filter fun e => e.1 != w } }
  d2.each gone fun d r =>
    let y := d.syncFailed r St.memUnc
    match y.2 with
    | none => y.1
    | some (leaf, w', r') => y.1.syncIssue leaf w' r'

/-- The memory errors that the reads of a command found (log 9). -/
def found (d : Dev) (l : List Found) : Dev :=
  (d.foundAll l).each l fun d f => match f with | .syncWord w => d.syncBad w | _ => d

/-- A context's range is cleared: queued and held operations are discarded without effect, their issuers see them fail (R266). -/
def syncClearRange (d : Dev) (c : Nat) : Dev :=
  let r := (d.ctx c).regs
  let b := r.syncBase.toNat; let n := r.syncCount.toNat
  let inR := fun w => decide (b ≤ w) && decide (w < b + n)
  let gone := ((d.sync.words.filter fun e => inR e.1).flatMap fun e => e.2.q)
    ++ ((d.sync.held.filter fun e => inR e.1).map (·.2))
  let d1 := { d with sync := { d.sync with
    words := d.sync.words.clearRange b n, held := d.sync.held.filter fun e => !inR e.1
    flyA := d.sync.flyA.filter fun e => !inR e.1, flyB := d.sync.flyB.filter fun e => !inR e.1 } }
  d1.each gone fun d q => (d.syncFailed q St.notPermitted).1

/-- The oldest operation that crosses the spine towards a leaf arrives. -/
def spineArrive (d : Dev) (leaf : Nat) : Dev :=
  match (if leaf = 0 then d.sync.flyA else d.sync.flyB) with
  | [] => d
  | (w, r) :: t =>
    ({ d with sync := if leaf = 0 then { d.sync with flyA := t } else { d.sync with flyB := t } }).syncArrive w r

/-- A board operation arrives in its own context's number; closed, disabled or out of range it fails (R240, R266). -/
def boardSync (d : Dev) (m tag c v : Nat) (op : SyncOp) (ge : Bool) (imm : Dword) : Dev :=
  let r : SyncReq := ⟨op, ge, imm, c, .board m tag, d.now⟩
  if (d.ctx c).regs.enable && bitOf d.lnk.boardOpen.toNat c then
    match d.syncPhys c v with
    | some w => d.syncArrive w r
    | none => (d.syncFailed r St.notPermitted).1
  else (d.sendBoard m 8 tag (ackBytes 4 St.notPermitted)).2

/-- The oldest operation held for lack of waiter entries on a leaf is presented again (R265). -/
def represent (d : Dev) (leaf : Nat) : Dev :=
  match d.sync.held.find? fun e => syncLeaf e.1 = leaf with
  | none => d
  | some (w, r) => ({ d with sync := { d.sync with held := d.sync.held.erase (w, r) } }).syncArrive w r

/-- A stall record is appended and raised (R269): KIND, UNIT, CORE, CONTEXT, OBJECT. -/
def stallRecord (d : Dev) (kind unit core ctx object : Nat) : Dev :=
  let v := kind % 8 * 2 ^ 28 + unit % 8 * 2 ^ 25 + core % 8 * 2 ^ 22 + ctx % 64 * 2 ^ 16 + object % 65536
  (d.onErr fun e => { e with
    stall := capture e.stall v
    stallList := if e.stallList.length < 64 then e.stallList ++ [word (2 ^ 31 + v)] else e.stallList
    stallOver := e.stallOver || decide (e.stallList.length ≥ 64) }).cause cStall

end Dev

end Sys2Proof.Machine
end

