-- ==== Sys2Proof/Machine/Words.lean ====
section
/-! DEFINITION. The 128-bit instruction words (R86 to R98): their fields, by name, and the unit that executes each. A word is a
number; D1, D2 and D3 are its second to fourth 32-bit words. -/

namespace Sys2Proof.Machine

namespace IW
/-- Bits of D1, D2, D3. -/
def d1 (w hi lo : Nat) : Nat := bitsOf w (32 + hi) (32 + lo)
def d2 (w hi lo : Nat) : Nat := bitsOf w (64 + hi) (64 + lo)
def d3 (w hi lo : Nat) : Nat := bitsOf w (96 + hi) (96 + lo)
/-- OPC, DN, DONE (R86). -/
def opc (w : Nat) : Nat := bitsOf w 7 0
def dn (w : Nat) : Bool := bitOf w 8
def doneId (w : Nat) : Nat := bitsOf w 31 16
-- MXM and DIST (R89)
def mOp (w : Nat) : Nat := d1 w 2 0
def mOblong (w : Nat) : Bool := d1 w 3 3 = 1
def mWfmt (w : Nat) : Nat := d1 w 6 4
def mAfmt (w : Nat) : Nat := d1 w 9 7
def mSlot (w : Nat) : Nat := d1 w 11 10
def mMask (w : Nat) : Nat := d1 w 15 12
def mRows (w : Nat) : Nat := d1 w 24 16 + 1
def mBank (w : Nat) : Nat := d1 w 25 25
def mAdd (w : Nat) : Bool := d1 w 26 26 = 1
def mDrain (w : Nat) : Bool := d1 w 27 27 = 1
def mPrec (w : Nat) : Nat := d1 w 29 28
def mPiece (w : Nat) : Nat := d1 w 31 30
def mBase (w : Nat) : Nat := d2 w 8 0
def mAd (w : Nat) : Nat := d2 w 19 9
def mOd (w : Nat) : Nat := d2 w 30 20
def mKbase (w : Nat) : Nat := d3 w 31 0
-- LDW (R91)
def lWfmt (w : Nat) : Nat := d1 w 2 0
def lOblong (w : Nat) : Bool := d1 w 3 3 = 1
def lSlot (w : Nat) : Nat := d1 w 5 4
def lPiece (w : Nat) : Nat := d1 w 7 6
def lTrans (w : Nat) : Bool := d1 w 8 8 = 1
def lFolded (w : Nat) : Bool := d1 w 9 9 = 1
def lSrc (w : Nat) : Nat := d2 w 18 0 * 64
-- VEC (R92)
def vOp (w : Nat) : Nat := d1 w 7 0
def vDa (w : Nat) : Nat := d1 w 18 8
def vDb (w : Nat) : Nat := d1 w 29 19
def vBcast (w : Nat) : Bool := d1 w 30 30 = 1
def vDd (w : Nat) : Nat := d2 w 10 0
def vImm (w : Nat) : Word := word (d3 w 31 0)
-- CVT (R93) and MOV (R94)
def cDs (w : Nat) : Nat := d1 w 10 0
def cDd (w : Nat) : Nat := d1 w 21 11
def cDp (w : Nat) : Nat := d2 w 10 0
def cNoParam (w : Nat) : Bool := d2 w 11 11 = 1
def cPiece (w : Nat) : Nat := d2 w 13 12
def sTrans (w : Nat) : Bool := d1 w 22 22 = 1
def sSkew (w : Nat) : Bool := d1 w 23 23 = 1
def sOblong (w : Nat) : Bool := d1 w 24 24 = 1
def sBlocks (w : Nat) : Nat := d1 w 26 25 + 1
def sRows (w : Nat) : Nat := d2 w 8 0 + 1
/-- RECORD of FSC. -/
def fRecord (w : Nat) : Nat := d1 w 9 0
-- TOPK (R95)
def tEngine (w : Nat) : Nat := d1 w 1 0
def tMode (w : Nat) : Nat := d1 w 3 2
def tK (w : Nat) : Nat := d1 w 13 4 + 1
def tMax (w : Nat) : Bool := d1 w 14 14 = 1
def tDq (w : Nat) : Nat := d2 w 10 0
def tDt (w : Nat) : Nat := d2 w 21 11
def tDl (w : Nat) : Nat := d3 w 10 0
def tNq (w : Nat) : Nat := d3 w 16 11 + 1
-- SEND and RECV (R96)
def nDs (w : Nat) : Nat := d1 w 10 0
def nClass (w : Nat) : Nat := d1 w 12 11
def nRoute (w : Nat) : Nat := d1 w 15 13
def nPos (w : Nat) : Nat := d1 w 25 16
def nAxis (w : Nat) : Nat := d1 w 27 26
def nTag (w : Nat) : Nat := d2 w 15 0
def nLag (w : Nat) : Nat := d2 w 31 16
def nRsync (w : Nat) : Nat := d3 w 15 0
def nRsig (w : Nat) : Bool := d3 w 16 16 = 1
-- FE (R97)
def eFop (w : Nat) : Nat := d1 w 2 0
def eGe (w : Nat) : Bool := d1 w 3 3 = 1
def eBoard (w : Nat) : Bool := d1 w 4 4 = 1
def eModule (w : Nat) : Nat := d1 w 6 5
def eGate (w : Nat) : Nat := d1 w 12 7
def eSync (w : Nat) : Nat := d1 w 31 16
def eImm (w : Nat) : Nat := bitsOf w 127 64
-- BAR (R98)
def bUnits (w : Nat) : Nat := d1 w 5 0
def bCores (w : Nat) : Bool := d1 w 6 6 = 1
def bId (w : Nat) : Nat := d1 w 10 7
def bMask (w : Nat) : Nat := d1 w 18 11

/-- Opcodes (R87). -/
def oNop : Nat := 0x00
def oHalt : Nat := 0x01
def oPhase : Nat := 0x02
def oBar : Nat := 0x03
def oMxm : Nat := 0x10
def oDist : Nat := 0x11
def oLdw : Nat := 0x18
def oVec : Nat := 0x20
def oCvt : Nat := 0x21
def oMov : Nat := 0x28
def oFsc : Nat := 0x29
def oTopk : Nat := 0x30
def oSend : Nat := 0x38
def oRecv : Nat := 0x39
def oFe : Nat := 0x40
/-- The operation of an FE (R97). -/
def fop (w : Nat) : Option SyncOp :=
  match eFop w with
  | 0 => some .writeFill | 1 => some .readEmpty | 2 => some .readPeek | 3 => some .fetchAddFull | 4 => some .clear
  | 5 => some .writeForce | _ => none
/-- The unit that executes an opcode; `none` for what the sequencer executes itself (R83). -/
def unitOf (o : Nat) : Option CoreUnit :=
  if o = oMxm || o = oDist then some .ar
  else if o = oLdw then some .ex
  else if o = oVec || o = oCvt then some .vu
  else if o = oMov || o = oFsc then some .se
  else if o = oTopk then some .cx
  else if o = oSend || o = oRecv then some .rg
  else none
end IW

/-- Bit of a unit in GATE and UNITS (R97, R98). -/
def unitBit : CoreUnit → Nat
  | .ar => 0 | .ex => 1 | .vu => 2 | .se => 3 | .cx => 4 | .rg => 5
/-- Queue depth (R83). -/
def unitDepth : CoreUnit → Nat
  | .cx => 8 | _ => 16
/-- The units, in the order of GATE. -/
def allUnits : List CoreUnit := [.ar, .ex, .vu, .se, .cx, .rg]

/-- A stage entry of a fused record (R103). -/
structure FscStage where
  ty : Nat
  inSlot : Nat
  outSlot : Nat
  last : Bool
  word : Nat
  step : Int
deriving DecidableEq, Repr, Inhabited

/-- The opcode whose body a stage type carries (R104); 0 for an unknown type. -/
def stageOpc (ty : Nat) : Nat :=
  match ty with
  | 1 => IW.oMov | 2 => IW.oLdw | 3 => IW.oMxm | 4 => IW.oDist | 5 => IW.oVec | 6 => IW.oCvt | 7 => IW.oTopk | 8 => IW.oMov
  | 9 => IW.oSend | _ => 0
/-- STAGES, PERIOD, ITER and SLOT_MASK of a fused record. -/
def fscStages (r : Bytes) : Nat := u8 r 0
def fscPeriod (r : Bytes) : Nat := u16 r 2
def fscIter (r : Bytes) : Nat := u32 r 4
def fscMask (r : Bytes) : Nat := u64 r 8
/-- FscStage `i` of a record: its word has the opcode of its type and the BODY as bits [127:32]. -/
def fscStage (r : Bytes) (i : Nat) : FscStage :=
  let o := 32 + 32 * i
  let ty := u8 r o
  ⟨ty, u8 r (o + 1), u8 r (o + 2), bitOf (u8 r (o + 3)) 0, stageOpc ty + le r (o + 4) 12 * 2 ^ 32, signed64 (u64 r (o + 16))⟩
/-- The stages of a record. -/
def fscList (r : Bytes) : List FscStage := (List.range (fscStages r)).map (fscStage r)
/-- The units a record's stages use, other than the stream engine. -/
def fscUnits (r : Bytes) : List CoreUnit :=
  (fscList r).filterMap fun s => match IW.unitOf (stageOpc s.ty) with
    | some .se => none
    | x => x

end Sys2Proof.Machine
end

