-- ==== Sys2Proof/Machine/Operands.lean ====
section
/-! DEFINITION. Operand descriptors (R99, R421), the spaces they name (R85, R247), the elements of a row, and the skewed block
(R46, R102). A read answers its bytes, the first mark it met (R332), and the station with the captures the read caused. -/

namespace Sys2Proof.Machine

/-- A descriptor with its base register added (R85, R99). -/
structure Desc where
  kind : Nat := 0
  code : Nat := 0
  space : Nat := 0
  cm : Nat := 0
  gather : Bool := false
  present : Nat := 0
  addr : Int := 0
  xaddr : Nat := 0
  rows : Nat := 0
  cols : Nat := 0
  pitch : Nat := 0
  astride : Nat := 0
  aux : Nat := 0
  param : Nat := 0xFFFF
deriving DecidableEq, Repr, Inhabited

/-- FMT of a descriptor. -/
def Desc.fmt (x : Desc) : NumFmt := (NumFmt.ofCode x.code).getD .bytes

/-- The bytes of a descriptor read with the base registers B0 to B3. -/
def Desc.ofBytes (bases : List Nat) (b : Bytes) : Desc :=
  let fl := u8 b 4
  { kind := u8 b 0, code := u8 b 1, space := u8 b 2, cm := u8 b 3, gather := bitOf fl 3, present := bitsOf fl 7 4
    addr := if bitOf fl 0 then ((bases.getD (bitsOf fl 2 1) 0 : Nat) : Int) + signed64 (u64 b 8) else (u64 b 8 : Int)
    xaddr := u64 b 16, rows := u32 b 24, cols := u32 b 28, pitch := u64 b 32, astride := u64 b 40, aux := u64 b 48
    param := u16 b 56 }

/-- Bytes of `n` elements of a format, without group exponents. -/
def fmtBytes (f : NumFmt) (n : Nat) : Nat := (n * f.bits + 7) / 8
/-- The elements of a row's bytes, lowest address first; a 4-bit element is the low half of its byte first (R25). -/
def splitEls (f : NumFmt) (b : Bytes) (n : Nat) : List Nat :=
  (List.range n).map fun i =>
    match f.bits with
    | 4 => if i % 2 = 0 then u8 b (i / 2) % 16 else u8 b (i / 2) / 16
    | 8 => u8 b i
    | 16 => u16 b (2 * i)
    | _ => u32 b (4 * i)
/-- The bytes of elements. -/
def joinEls (f : NumFmt) (els : List Nat) : Bytes :=
  match f.bits with
  | 4 => (List.range ((els.length + 1) / 2)).map fun i => byte (els.getD (2 * i) 0 % 16 + els.getD (2 * i + 1) 0 % 16 * 16)
  | 8 => els.map byte
  | 16 => els.flatMap (leBytes 2)
  | _ => els.flatMap (leBytes 4)

/-- Lanes of a block (R47). -/
def lanesOf (oblong : Bool) : Nat := if oblong then 64 else 256
/-- Bytes of a lane (R102). -/
def laneBytes (f : NumFmt) : Nat := if f = .fp32 then 4 else 2
/-- The place in a skewed block of element `k` of row `r`: its word and the byte within it (R46, R102). An OF8 block has two elements
a lane whatever cell form it is used in: R46 ties them to OF8 form, R102 to the format (DESIGN CHOICE, log 37). -/
def skewPlace (f : NumFmt) (oblong : Bool) (r k : Nat) : Nat :=
  let lane := if f = .of8 then k / 2 else k
  (r + lane) * (lanesOf oblong * laneBytes f) + lane * laneBytes f + (if f = .of8 then k % 2 else 0)

/-- A row of elements with its group exponents and its mark. -/
structure Row where
  els : List Nat
  exps : List Nat
  mark : Option Status
deriving DecidableEq, Repr, Inhabited

/-- What a read answers. -/
structure Got where
  bytes : Bytes
  mark : Option Status

/-- What of a region of lists lies outside `n` bytes from `a` on of a place (R146). -/
def ListRegion.outside (r : ListRegion) (p : Nat × Nat) (a n : Nat) : List ListRegion :=
  if n = 0 || r.space ≠ p.1 || r.owner ≠ p.2 then [r]
  else [{ r with bytes := min r.bytes (a - r.addr) },
        { r with addr := max r.addr (a + n), bytes := r.addr + r.bytes - max r.addr (a + n) }].filter fun x => decide (0 < x.bytes)
/-- What of it lies within them. -/
def ListRegion.within (r : ListRegion) (p : Nat × Nat) (a n : Nat) : Option ListRegion :=
  let lo := max r.addr a; let hi := min (r.addr + r.bytes) (a + n)
  if r.space = p.1 && r.owner = p.2 && decide (lo < hi) then some { r with addr := lo, bytes := hi - lo } else none

namespace Dev

/-- Descriptor `i` of a core's descriptor store. -/
def desc (d : Dev) (c i : Nat) : Desc := Desc.ofBytes d.work.bases ((d.core c).seq.descs.get [] i)

/-- Bytes of CMEM (R135). -/
def cmemBytes : Nat := 268435456
/-- An uncorrectable CMEM row has been read (R140): ERR_CMEM and the compare cause; by MOV also KIND 7 of ERR_MEM, whose address and
INDEX no rule gives for this kind: they are 0 (DESIGN CHOICE, log 75). -/
def errCmem (d : Dev) (row : Nat) (mov : Bool) : Dev :=
  let d1 := (d.onErr fun e => { e with
    cmem := capture e.cmem (d.workCtx * 2 ^ 25 + row / 1024 % 2048 * 2 ^ 14 + row % 1024) }).cause cCompare
  if mov then d1.errMem 7 d.workCtx 31 0 0 else d1
/-- The bank groups of a range of CMEM wake at once when it is used (R320). -/
def cmemWake (d : Dev) (a n : Nat) : Dev :=
  if n = 0 then d
  else d.onPwr fun p => { p with
    cmemOff := (List.range ((a + n - 1) / 2 ^ 24 + 1 - a / 2 ^ 24)).foldl (fun m i => setBits m (a / 2 ^ 24 + i) (a / 2 ^ 24 + i) 0) p.cmemOff }
/-- A row of CMEM meets a range of bytes. -/
def rowMeets (a n r : Nat) : Bool := decide (r * 128 < a + n) && decide (a < r * 128 + 128)
/-- Read CMEM bytes as MOV does: the first uncorrectable row is captured and decides the status, else the first mark that a row carries. -/
def cmemGet (d0 : Dev) (a n : Nat) : Got × Dev :=
  let d := d0.cmemWake a n
  let b := d.cmem.bytes.getRange 0 a n
  match d.cmem.bad.find? fun r => rowMeets a n r.1 with
  | some (r, _) => (⟨b, some St.memUnc⟩, d.errCmem r true)
  | none => (⟨b, (d.cmem.marks.find? fun r => rowMeets a n r.1).bind (·.2)⟩, d)
/-- Write CMEM bytes: a whole row has new check bits and takes the mark of what is written, none for a good source; a row written in part
stays uncorrectable where it is, and keeps its mark or takes that of its source (R140, R332; log 16). -/
def cmemPut (d0 : Dev) (a : Nat) (b : Bytes) (m : Option Status) : Dev :=
  let n := b.length
  let d := d0.cmemWake a n
  let touched := if n = 0 then [] else (List.range ((a + n - 1) / 128 - a / 128 + 1)).map (· + a / 128)
  let whole := fun (r : Nat) => decide (a ≤ r * 128) && decide (r * 128 + 128 ≤ a + n)
  { d with cmem := { d.cmem with
    bytes := d.cmem.bytes.setRange 0 a b
    marks := touched.foldl (fun t r =>
      if whole r then Table.set none t r m else Table.modify none t r fun o => orMark o m) d.cmem.marks
    bad := touched.foldl (fun t r => if whole r then Table.set false t r false else t) d.cmem.bad } }

/-- An access outside its space is a translation fault (R85). -/
def rangeFault (d : Dev) (a : Int) : Dev := d.errMem 2 d.workCtx 31 0 (wrap64 a)

/-- The module index of this station on its board (R239). -/
def moduleNo (d : Dev) : Nat := d.station % 4

/-- Whether a range of a board address lies in the low 64 TiB of a context's space, which bits [45:0] of the address name (R239). -/
def boardIn (o n : Nat) : Bool := decide (o < 281474976710656) && decide (o % 70368744177664 + n ≤ 70368744177664)
/-- The local address of a board address (R239). -/
def boardLocal (o : Nat) : Nat := o % 70368744177664

/-- A read of `n` bytes at an address of a space (R85, R99): `got` holds what board loads have brought. -/
def spaceGet (d : Dev) (c : Nat) (got : List Piece) (space cm : Nat) (a : Int) (n : Nat) : Got × Dev :=
  let fault : Got × Dev := (⟨zeros n, some St.notPermitted⟩, d.rangeFault a)
  if a < 0 then fault
  else
    let o := a.toNat
    match space with
    | 0 => if bufIn o n then (⟨d.bufGet c o n, d.bufMark c o n⟩, d) else fault
    | 1 => match d.physCore cm with
      | some p => if bufIn o n then (⟨d.bufGet p o n, d.bufMark p o n⟩, d) else fault
      | none => fault
    | 3 => if o + n ≤ cmemBytes then d.cmemGet o n else fault
    | 4 =>
      if !boardIn o n then fault
      else if cm = d.moduleNo then
        let x := d.memGet d.workCtx (boardLocal o) n
        (⟨x.1, x.2.1⟩, x.2.2)
      else match got.find? fun p => p.module = cm && p.addr ≤ o && o + n ≤ p.addr + p.bytes.length with
        | some p => (⟨sub p.bytes (o - p.addr) n, p.mark⟩, d)
        | none => (⟨zeros n, some St.linkLost⟩, d)
    | _ =>
      if o + n ≤ 2 ^ 48 then
        let x := d.memGet d.workCtx o n
        (⟨x.1, x.2.1⟩, x.2.2)
      else fault

/-- The bytes of a board access's packet before its data (log 15): context, kind, mark, address. -/
def boardHead (d : Dev) (kind addr : Nat) (m : Option Status) : Bytes :=
  [byte d.workCtx, byte kind, m.getD 0] ++ zeros 5 ++ leBytes 8 addr
/-- The TAG of a board access: its transfer number, with bit 31 set (log 15). -/
def boardTag (no : Nat) : Nat := no % 2 ^ 31 + 2 ^ 31

/-- The port of an issuer's next access to a module: that of its accesses still under way there, so that they stay in order, else the
board's choice (R240). -/
def boardWay (d : Dev) (core : Option Nat) (m : Nat) : Option Nat :=
  match d.circ.boards.find? fun b => b.core = core && b.module = m && d.portUp b.port with
  | some b => some b.port
  | none => d.boardPort m
/-- A board access leaves and is remembered until it is answered; answers why it cannot leave (R237, R240). -/
def boardOut (d : Dev) (core : Option Nat) (entry m cls : Nat) (store : Bool) (a len : Nat) (sync : Option SyncReq) (b : Bytes) :
    Option Status × Dev :=
  let no := d.circ.boardNo
  let way := d.boardWay core m
  let x := d.sendBoardBy way m cls (boardTag no) b
  match x.1 with
  | none => (none, x.2.onCirc fun q => { q with
      boardNo := no + 1, boards := q.boards ++ [⟨no, m, core, entry, store, a, len, sync, way.getD 0, d.now⟩] })
  | some st => (some st, x.2)

/-- A board store leaves, and its issuer waits for its acknowledgement; with no way round it fails (R240). -/
def boardStoreOut (d : Dev) (c entry m a : Nat) (b : Bytes) (mk : Option Status) : Option Status × Dev :=
  d.boardOut (some c) entry m 5 true a b.length none (d.boardHead 0 a mk ++ b)

/-- A write of bytes at an address of a space, with the mark they carry; answers the status of a fault. -/
def spacePut (d : Dev) (c entry space cm : Nat) (a : Int) (b : Bytes) (m : Option Status) : Option Status × Dev :=
  let fault : Option Status × Dev := (some St.notPermitted, d.rangeFault a)
  if a < 0 then fault
  else
    let o := a.toNat
    match space with
    | 0 => if bufIn o b.length then (none, d.bufPut c o b m) else fault
    | 1 => match d.physCore cm with
      | some p => if bufIn o b.length then (none, d.bufPut p o b m) else fault
      | none => fault
    | 3 => if o + b.length ≤ cmemBytes then (none, d.cmemPut o b m) else fault
    | 4 =>
      if !boardIn o b.length then fault
      else if cm = d.moduleNo then d.memPut d.workCtx (boardLocal o) b m
      else d.boardStoreOut c entry cm (boardLocal o) b m
    | _ => if o + b.length ≤ 2 ^ 48 then d.memPut d.workCtx o b m else fault

/-- Mark the sectors of a range of a context's space, leaving the bytes. -/
def memMark (d : Dev) (va n : Nat) (st : Status) : Dev :=
  d.each (sectorsOf va n) fun d s =>
    match d.physOf d.workCtx s.1 with
    | some (cxl, q) => d.onMem fun x => if cxl then { x with cxlMarks := x.cxlMarks.modify none (q / 64) fun o => orMark o (some st) }
        else { x with gddrMarks := x.gddrMarks.modify none (q / 64) fun o => orMark o (some st) }
    | none => d
/-- Mark the bytes of a range of a space as damaged, leaving the bytes (R175, R176); in another module's memory the mark travels with a
store of zeros, since a board store carries its bytes (log 16). -/
def spaceMark (d : Dev) (c entry space cm : Nat) (a : Int) (n : Nat) (st : Status) : Dev :=
  let o := a.toNat
  let buf := fun (d : Dev) (p : Nat) => d.onCore p fun x => { x with buf := { x.buf with
    marks := (List.range ((o + n - 1) / 64 + 1 - o / 64)).foldl (fun t i => t.modify none (o / 64 + i) fun p => orMark p (some st))
      x.buf.marks } }
  match space with
  | 0 => if bufIn o n then buf d c else d
  | 1 => match d.physCore cm with | some p => if bufIn o n then buf d p else d | none => d
  | 2 => d.memMark o n st
  | 3 => if o + n ≤ cmemBytes && 0 < n then { d with cmem := { d.cmem with
      marks := (List.range ((o + n - 1) / 128 + 1 - o / 128)).foldl (fun t i => t.modify none (o / 128 + i) fun p => orMark p (some st))
        d.cmem.marks } } else d
  | 4 => if !boardIn o n then d
      else if cm = d.moduleNo then d.memMark (boardLocal o) n st else (d.boardStoreOut c entry cm (boardLocal o) (zeros n) (some st)).2
  | _ => d

/-- The row a descriptor reads for row `r`: through the index list with GATHER, whose mark it carries; `none` for 0xFFFF_FFFF
(R99, R421). An index past the end of the buffer is not read, and its row is marked; `getRow` captures the fault (R85). -/
def gatherRow (d : Dev) (c : Nat) (x : Desc) (r : Nat) : Option Nat × Option Status :=
  if x.gather then
    let o := x.aux + 4 * r
    if bufIn o 4 then
      let i := u32 (d.bufGet c o 4) 0
      (if i = 0xFFFFFFFF then none else some i, d.bufMark c o 4)
    else (none, some St.notPermitted)
  else (some r, none)

/-- Row `r` of a KIND 1 operand (R99, R421). -/
def getRow (d : Dev) (c : Nat) (got : List Piece) (x : Desc) (r : Nat) : Row × Dev :=
  let f := x.fmt
  let groups := if f.grouped then x.cols / 32 else 0
  let i := d.gatherRow c x r
  match i.1 with
  | none => (⟨List.replicate x.cols 0, List.replicate groups 0, i.2⟩,
      if x.gather && !bufIn (x.aux + 4 * r) 4 then d.rangeFault (x.aux + 4 * r : Nat) else d)
  | some k =>
    let a := d.spaceGet c got x.space x.cm (x.addr + ((k * x.pitch : Nat) : Int)) (fmtBytes f x.cols)
    let e := a.2.spaceGet c got x.space x.cm ((x.xaddr + k * groups : Nat) : Int) groups
    if groups = 0 then (⟨splitEls f a.1.bytes x.cols, [], orMark i.2 a.1.mark⟩, a.2)
    else (⟨splitEls f a.1.bytes x.cols, e.1.bytes.map (·.toNat), orMark i.2 (orMark a.1.mark e.1.mark)⟩, e.2)

/-- The first `n` rows of an operand. -/
def getRows (c : Nat) (got : List Piece) (x : Desc) : Nat → Nat → Dev → List Row × Dev
  | _, 0, d => ([], d)
  | r, n + 1, d =>
    let a := d.getRow c got x r
    let b := getRows c got x (r + 1) n a.2
    (a.1 :: b.1, b.2)

/-- The first mark among rows. -/
def rowsMark (l : List Row) : Option Status := firstSome (l.map (·.mark))

/-- Write row `r` of a KIND 1 operand. -/
def putRow (d : Dev) (c entry : Nat) (x : Desc) (r : Nat) (row : Row) : Option Status × Dev :=
  let f := x.fmt
  let a := d.spacePut c entry x.space x.cm (x.addr + ((r * x.pitch : Nat) : Int)) (joinEls f row.els) row.mark
  if f.grouped then
    let e := a.2.spacePut c entry x.space x.cm ((x.xaddr + r * (x.cols / 32) : Nat) : Int) (row.exps.map byte) row.mark
    (orMark a.1 e.1, e.2)
  else a

/-- Write rows in order; answers the first fault. -/
def putRows (c entry : Nat) (x : Desc) : Nat → List Row → Dev → Option Status × Dev
  | _, [], d => (none, d)
  | r, y :: ys, d =>
    let a := d.putRow c entry x r y
    let b := putRows c entry x (r + 1) ys a.2
    (orMark a.1 b.1, b.2)

/-- The scale, bias, lower and upper bound of each of `n` columns from a KIND 4 descriptor; absent ones as R34 reads them, and
those of columns beyond the descriptor's COLS as absent (DESIGN CHOICE, log 79). -/
def convParams (d : Dev) (c : Nat) (got : List Piece) (i n : Nat) : List ConvParam × Option Status × Dev :=
  if i = 0xFFFF then (List.replicate n {}, none, d)
  else
    let x := d.desc c i
    let k := b2n (bitOf x.present 0) + b2n (bitOf x.present 1) + b2n (bitOf x.present 2) + b2n (bitOf x.present 3)
    let a := d.spaceGet c got x.space x.cm x.addr (4 * x.cols * k)
    let at_ := fun (bit : Nat) => ((List.range bit).filter fun b => bitOf x.present b).length
    let rd := fun (bit j : Nat) (dflt : Word) =>
      if bitOf x.present bit && j < x.cols then word (u32 a.1.bytes (4 * (at_ bit * x.cols + j))) else dflt
    ((List.range n).map fun j => ⟨rd 0 j fone, rd 1 j fzero, rd 2 j 0xFF800000#32, rd 3 j 0x7F800000#32⟩, a.1.mark, a.2)

/-! ### Where lists of TOPKs lie (R146) -/

/-- The space and its owner in which a descriptor's bytes lie. -/
def listPlace (d : Dev) (c : Nat) (x : Desc) : Nat × Nat :=
  match x.space with
  | 0 => (0, c)
  | 1 => (0, (d.physCore x.cm).getD c)
  | 3 => (3, 0)
  | 4 => if x.cm = d.moduleNo then (2, d.workCtx) else (4, x.cm)
  | _ => (2, d.workCtx)
/-- Bytes of a place have been written: the regions of lists keep only what lies outside them. -/
def cutLists (d : Dev) (p : Nat × Nat) (a n : Nat) : Dev := { d with lists := d.lists.flatMap fun r => r.outside p a n }
/-- Lists have been written through a descriptor: each has its region, with its mode and MAX, in place of what lay there. -/
def noteLists (d : Dev) (c : Nat) (x : Desc) (nq k code : Nat) : Dev :=
  let p := d.listPlace c x
  d.each (List.range nq) fun d j =>
    let a := (x.addr + ((j * x.pitch : Nat) : Int)).toNat
    let d1 := d.cutLists p a (16 * k)
    { d1 with lists := d1.lists ++ [⟨p.1, p.2, a, 16 * k, code⟩] }
/-- MODE and MAX of the lists at a descriptor's address, where a TOPK, a RECV or a MOV put them. -/
def listCode (d : Dev) (c : Nat) (x : Desc) : Option Nat :=
  let p := d.listPlace c x
  (d.lists.find? fun r => r.space = p.1 && r.owner = p.2 && decide (r.addr ≤ x.addr.toNat) && decide (x.addr.toNat < r.addr + r.bytes)).map
    (·.code)
/-- Bytes have been moved: the lists among them are at their new place too. -/
def carryLists (d : Dev) (src dst : Nat × Nat) (a b n : Nat) : Dev :=
  let new := (d.lists.filterMap fun r => r.within src a n).map fun r => { r with space := dst.1, owner := dst.2, addr := b + (r.addr - a) }
  let d1 := d.cutLists dst b n
  { d1 with lists := d1.lists ++ new }
/-- A MOV's rows carry their lists along. -/
def moveLists (d : Dev) (c : Nat) (ds dd : Desc) : Dev :=
  if d.lists.isEmpty then d
  else d.each (List.range ds.rows) fun d r =>
    match (d.gatherRow c ds r).1 with
    | none => d
    | some k => d.carryLists (d.listPlace c ds) (d.listPlace c dd) (ds.addr + ((k * ds.pitch : Nat) : Int)).toNat
        (dd.addr + ((r * dd.pitch : Nat) : Int)).toNat (fmtBytes ds.fmt ds.cols)

end Dev
end Sys2Proof.Machine
end

