-- ==== Sys2Proof/Machine/Flags.lean ====
section
/-! DEFINITION. The numeric flag (R39, R40), the fold capture (R123), and the output conversion of a row with its two checks
(R34, R35). -/

namespace Sys2Proof.Machine

/-- A converted row: elements, group exponents, and the first flagged column with whether it was a NaN. -/
structure ConvRow where
  els : List Nat
  exps : List Nat
  flagged : Option (Nat × Bool)

/-- The first flagged element of a row: where either check of R34 failed, with KIND. An element that only the second check flags is
reported as an infinity: of an OF8 or OF4 element whose clipped t is infinite, R40 does not say whether t or the NaN element decides
(DESIGN CHOICE, log 75). -/
def firstFlag (ts : List (FVal × Bool)) (outBad : List Bool) : Option (Nat × Bool) :=
  ((List.range ts.length).findSome? fun j =>
    let t := ts.getD j (.nan, true)
    if t.2 then some (j, t.1.isNan) else if outBad.getD j false then some (j, false) else none)

/-- The unclipped value decides what kind of non-finite element the first check saw. -/
def rawT (acc : Word) (p : ConvParam) : FVal := f32 (toF32 (((f32 acc).mul (f32in p.scale)).add (f32in p.bias)))

/-- The groups of 32 of a row (R25). -/
def groups32 (l : List FVal) : List (List FVal) :=
  (List.range (l.length / 32)).map fun g => (l.drop (32 * g)).take 32

/-- The output conversion of a row of FP32 values (R34, R35); `piece` non-zero writes that piece of the split (R93). -/
def convRow (subn : Bool) (f : NumFmt) (piece : Nat) (ps : List ConvParam) (accs : List Word) : ConvRow :=
  let ct := (accs.zip ps).map fun x => convT x.1 x.2
  let raw := (accs.zip ps).map fun x => ((rawT x.1 x.2, (convT x.1 x.2).2) : FVal × Bool)
  if piece ≠ 0 then
    let els := ct.map fun t => w19Piece subn (toF32 t.1) piece
    ⟨els.map (· * 8192), [], firstFlag raw (els.map fun e => !(layW19.decode e).isFinite)⟩
  else if f.grouped then
    let g := if f = .of4 then grpOf4 else grpOf8
    let z := (groups32 (ct.map (·.1))).map (g.convert subn)
    let els := z.flatMap (·.2)
    ⟨els, z.map (·.1), firstFlag raw (els.map fun e => e == g.nanEl)⟩
  else
    let els := ct.map fun t => plainBits subn f t.1
    ⟨els, [], firstFlag raw (els.map fun e => !plainFinite f e)⟩

namespace Dev

/-- A flagged tile: the core's first capture is taken and the numeric cause raised (R39, R40). ROW and COL from 4,096 on, as a CVT's may be, are
taken modulo 4,096 (DESIGN CHOICE, log 79). -/
def flagTile (d : Dev) (c : Nat) (cvt : Bool) (array row col : Nat) (isNan : Bool) (seq pc : Nat) : Dev :=
  let e := d.coreErr.get {} c
  let d1 := if flag e.numPos 31 then d else
    { d with coreErr := d.coreErr.set {} c { e with
        numPos := word (2 ^ 31 + b2n isNan * 2 ^ 30 + b2n cvt * 2 ^ 29 + array % 4 * 2 ^ 27 + row % 4096 * 2 ^ 12 + col % 4096)
        numSrc := word (d.workCtx % 64 * 2 ^ 24 + seq % 64 * 2 ^ 16 + pc % 65536) } }
  d1.cause cNumeric

/-- A damaged block: the core's first capture is taken and the fold cause raised (R123). -/
def flagFold (d : Dev) (c cause record slot layer block : Nat) : Dev :=
  let e := d.coreErr.get {} c
  let d1 := if flag e.fold 31 then d else
    { d with coreErr := d.coreErr.set {} c { e with
        fold := word (2 ^ 31 + cause % 8 * 2 ^ 28 + record % 16 * 2 ^ 24 + slot % 4 * 2 ^ 22 + d.workCtx % 64 * 2 ^ 16 + layer % 65536)
        foldBlk := word (block + record) } }
  d1.cause cFold

end Dev
end Sys2Proof.Machine
end

