-- ==== Sys2Proof/Machine/Expander.lean ====
section
/-! DEFINITION. Folded blocks (chapter 05): the header, rates, codebooks and indices (R111 to R114), the checks of R121, and LDW:
the tile that a plain or folded source gives a staging slot (R51, R91, R122). -/

namespace Sys2Proof.Machine

/-- `w` bits from bit `p` of a little-endian bit stream (R113). -/
def streamBits (b : Bytes) (p w : Nat) : Nat := le b (p / 8) 4 / 2 ^ (p % 8) % 2 ^ w

/-- Codebook bytes, index width and body bytes of a rate code (R112). -/
structure RateInfo where
  book : Nat
  width : Nat
  len : Nat
deriving DecidableEq, Repr
/-- The rates: 1 is ½, 2 is ⅜, 3 is ¼, 4 is RAW (R111). -/
def rateInfo : Nat → Option RateInfo
  | 1 => some ⟨608, 8, 4704⟩ | 2 => some ⟨152, 6, 3224⟩ | 3 => some ⟨152, 4, 2200⟩ | 4 => some ⟨0, 16, 8192⟩ | _ => none

/-- Weight `i` of a block as a W19 value (R113, R115). -/
def blockWeight (subn : Bool) (rate srcfmt : Nat) (body : Bytes) (i : Nat) : Nat :=
  let fl := fun x => if subn then layW19.flush x else x
  match rateInfo rate with
  | none => 0
  | some r =>
    if rate = 4 then layW19.encode (plainVal subn ((NumFmt.ofCode srcfmt).getD .bf16) (u16 body (2 * i)))
    else
      let s := i / 256
      let x := streamBits body (8 * (r.book + s * (256 * r.width / 8)) + r.width * (i % 256)) r.width
      let e := if rate = 3 then 16 * (s / 4) + x else x
      fl (streamBits body (19 * e) 19)

/-- The header of a block in service form, CHECK included (R111, R118). -/
def blockHeader (rate srcfmt flags len block layer : Nat) (err : Word) (body : Bytes) : Bytes :=
  let h := ofNats [0x46, 0x42, 1, rate, srcfmt, flags] ++ leBytes 2 4096 ++ leBytes 4 len ++ leBytes 4 block ++ leBytes 2 layer
    ++ zeros 2 ++ leBytes 4 err.toNat ++ zeros 4
  h ++ leBytes 4 (crc32c (h ++ body)).toNat

/-- Where weight (r, c) of a tile lies in its 16 records: record and index within the block (R114). -/
def foldPlace (oblong trans : Bool) (r c : Nat) : Nat × Nat :=
  match oblong, trans with
  | false, false => (r / 16, 256 * (r % 16) + c)
  | false, true => (c / 16, 256 * (c % 16) + r)
  | true, false => (r / 4, 256 * (4 * (r % 4) + c / 256) + c % 256)
  | true, true => (c / 64, 256 * (c % 64 / 4) + 64 * (c % 4) + r)

/-- The first failure of checks 1 to 4 and 6 on record `i` at an offset of the core buffer (R121): CAUSE and status. Check 5
finds faults of the decoders, which this model's decoders do not have. -/
def recordCheck (buf : Nat → Nat → Bytes) (limit ofs i wfmt : Nat) (h0 : Bytes) : Option (Nat × Status) :=
  if ofs + 32 > limit then some (6, St.foldSize)
  else
    let h := buf ofs 32
    match rateInfo (u8 h 3) with
    | none => some (1, St.foldHeader)
    | some r =>
      if !(u8 h 0 = 0x46 && u8 h 1 = 0x42 && u8 h 2 = 1) || u8 h 4 ≠ wfmt || u8 h 5 % 2 = 1 || u8 h 5 ≥ 4
          || !zeroAt h 18 2 || !zeroAt h 24 4 then some (1, St.foldHeader)
      else if u32 h 12 ≠ (u32 h0 12 + i) % 2 ^ 32 || u32 h0 12 % 16 ≠ 0 || u16 h 16 ≠ u16 h0 16 then some (2, St.foldHeader)
      else if u32 h 8 ≠ r.len || u16 h 6 ≠ 4096 then some (3, St.foldSize)
      else if ofs + 32 + r.len > limit then some (6, St.foldSize)
      else if u32 h 28 ≠ (crc32c (sub h 0 28 ++ buf (ofs + 32) r.len)).toNat then some (5, St.blockCheck)
      else none

/-- What an LDW or an EXPAND stage loads: format, shape, slot, piece, orientation, form, and the source in the core buffer. -/
structure LdwJob where
  wfmt : NumFmt
  code : Nat
  oblong : Bool
  slot : Nat
  piece : Nat
  trans : Bool
  folded : Bool
  /-- An offset in the core buffer; a stepped one may lie below it (R107). -/ src : Int

/-- The extent K × N of the tile an LDW loads (R51). -/
def LdwJob.k (j : LdwJob) : Nat := (if j.oblong then 64 else 256) * (if j.wfmt.grouped then 2 else 1)
def LdwJob.n (j : LdwJob) : Nat := if j.oblong then 1024 else 256

/-- An OF4 element widened to OF8 (R28). Under SUBN a subnormal reads as a zero of the same sign (R37): OF8 has no −0, so it stands as
the OF8 subnormal of its sign, which every reader under SUBN takes for that zero. -/
def widenOf4 (subn : Bool) (x : Nat) : Nat :=
  let e := bitsOf x 2 1; let m := x % 2; let s := bitsOf x 3 3
  if x % 16 = 8 then 0x80
  else if e = 0 then (if m = 0 then 0 else if subn then s * 128 + 1 else s * 128 + 0x30)
  else s * 128 + (e + 6) * 8 + 4 * m

/-- A plain weight in cell form (R28, R41). -/
def plainWeight (subn : Bool) (f : NumFmt) (piece x e : Nat) : Nat :=
  match f with
  | .of8 => e * 256 + x
  | .of4 => e * 256 + widenOf4 subn x
  | .fp32 => w19Piece subn (word x) (max piece 1)
  | g => layW19.encode (plainVal subn g x)

namespace Dev

/-- Header table entry and body of a packed tile's record: walk to record `i`. A decoder's miscount is check 5, before CHECK (R121). -/
def foldWalk (d : Dev) (c : Nat) (j : LdwJob) (h0 : Bytes) : Nat → Nat → List (Nat × Bytes) → (Option (Nat × Nat × Status)) × Option Status × List (Nat × Bytes)
  | 0, _, acc => (none, none, acc)
  | n + 1, ofs, acc =>
    let i := 16 - (n + 1)
    let miscount := (d.core c).decoder = some i
    let hm := if bufIn ofs 32 then d.bufMark c ofs 32 else none
    match hm with
    | some st => (none, some st, acc)
    | none =>
      let h := d.bufGet c ofs 32
      let len := match rateInfo (u8 h 3) with | some r => r.len | none => 0
      let bm := if bufIn ofs 32 && bufIn (ofs + 32) len then d.bufMark c (ofs + 32) len else none
      match recordCheck (d.bufGet c) bufBytes ofs i j.code h0 with
      | some (cause, st) =>
        if cause = 5 then
          match bm with
          | some m => (none, some m, acc)
          | none => (some (if miscount then (4, i, St.foldSize) else (cause, i, st)), none, acc)
        else (some (cause, i, st), none, acc)
      | none =>
        match bm with
        | some m => (none, some m, acc)
        | none => if miscount then (some (4, i, St.foldSize), none, acc) else foldWalk d c j h0 n (ofs + 32 + len) (acc ++ [(u8 h 3, d.bufGet c (ofs + 32) len)])

/-- A staging slot holds a tile. -/
def setSlot (d : Dev) (c slot : Nat) (t : Tile) : Dev :=
  d.onCore c fun x => { x with arr := { x.arr with slots := x.arr.slots.set none slot (some t) } }

/-- LDW: one tile is loaded into its slot, or the slot is marked damaged (R51, R90, R114, R121, R122, R254). -/
def loadTile (d : Dev) (c : Nat) (j : LdwJob) : Dev :=
  let k := j.k; let n := j.n
  let bad := fun (st : Status) (d : Dev) => d.setSlot c j.slot ⟨j.wfmt, j.oblong, [], some st⟩
  if j.folded then
    let h0 := if j.src < 0 then zeros 32 else d.bufGet c j.src.toNat 32
    let d0 := d.onCore c fun x => { x with decoder := none }
    match if j.src < 0 then (some (6, 0, St.foldSize), none, []) else d.foldWalk c j h0 16 j.src.toNat [] with
    | (some (cause, i, st), _, _) => bad st (d0.flagFold c cause i j.slot (u16 h0 16) (u32 h0 12))
    | (none, some st, _) => bad st d0
    | (none, none, recs) =>
      let els := (List.range (k * n)).map fun q =>
        let p := foldPlace j.oblong j.trans (q / n) (q % n)
        let rb := recs.getD p.1 (0, [])
        blockWeight d.subn rb.1 j.code rb.2 p.2
      d0.setSlot c j.slot ⟨j.wfmt, j.oblong, els, none⟩
  else
    let cnt := k * n
    let eb := fmtBytes j.wfmt cnt
    let xb := if j.wfmt.grouped then cnt / 32 else 0
    let src := j.src.toNat
    if j.src < 0 || !bufIn src (eb + xb) then bad St.notPermitted (d.rangeFault j.src)
    else
      match d.bufMark c src (eb + xb) with
      | some st => bad st d
      | none =>
        let raw := splitEls j.wfmt (d.bufGet c src eb) cnt
        let exps := d.bufGet c (src + eb) xb
        let els := (List.range cnt).map fun q =>
          let p := if j.trans then q % n * k + q / n else q
          plainWeight d.subn j.wfmt j.piece (raw.getD p 0) (u8 exps (p / 32))
        d.setSlot c j.slot ⟨j.wfmt, j.oblong, els, none⟩

/-- The load an LDW word names. -/
def ldwJob (w : Nat) : LdwJob :=
  { wfmt := (NumFmt.ofCode3 (IW.lWfmt w)).getD .bf16, code := IW.lWfmt w, oblong := IW.lOblong w, slot := IW.lSlot w,
    piece := IW.lPiece w, trans := IW.lTrans w, folded := IW.lFolded w, src := IW.lSrc w }

end Dev
end Sys2Proof.Machine
end

