-- ==== Sys2Proof/Machine/Arrays.lean ====
section
/-! DEFINITION. The matrix arrays (chapter 03): what a tile, a block and an operation give (R45, R50, R59, R63 to R65), the
accumulators (R58 to R61), the load, stream and drain of an MXM or DIST (R52, R55), bubbles and keep-warm (R66 to R70). -/

namespace Sys2Proof.Machine

/-- An MXM or DIST with its operands: what an instruction word or a fused stage iteration names (R49, R89, R107). -/
structure MxmJob where
  op : Nat
  oblong : Bool
  afmt : NumFmt
  mask : Nat
  m : Nat
  bank : Nat
  base : Nat
  add : Bool
  drain : Bool
  piece : Nat
  kbase : Nat
  ad : Desc
  od : Desc
  pc : Nat
  entry : Nat
  got : List Piece

/-- The arrays a mask selects, in order. -/
def maskArrays (mask : Nat) : List Nat := (List.range 4).filter fun i => bitOf mask i
/-- Columns of a tile (R47). -/
def tileCols (oblong : Bool) : Nat := if oblong then 1024 else 256
/-- Reduction extent of a tile in the form used (R47, R51). -/
def tileDepth (oblong of8 : Bool) : Nat := (if oblong then 64 else 256) * (if of8 then 2 else 1)
/-- Compare operations (R63). -/
def isCompare (op : Nat) : Bool := op = 3 || op = 4

/-- The weight of a tile at reduction index `k`, column `j`: an OF8 element with its group exponent, or a W19 value (R51). -/
def Tile.weight (t : Tile) (subn : Bool) (k j : Nat) : FVal :=
  let e := t.els.getD (k * tileCols t.oblong + j) 0
  if t.fmt.grouped then of8Val subn (e / 256) (e % 256) else layW19.decode e

/-- Whether `a` is strictly better than `b` (R64). -/
def better (op : Nat) (a b : FVal) : Bool := if op = 4 then b.lt a else a.lt b

/-- One cell of a compare column: a NaN term is skipped, and only a strictly better term replaces the pair (R64). -/
def cmpCell (op : Nat) (st : Option (FVal × Nat)) (term : FVal) (idx : Nat) : Option (FVal × Nat) :=
  if term.isNan then st
  else match st with
    | none => some (term, idx)
    | some (v, i) => if better op term v then some (term, idx) else some (v, i)

/-- The term of a distance operation, rounded as R33 states. -/
def distTerm (op : Nat) (a w : FVal) : FVal :=
  let t := f32 (toF32 (a.sub w))
  if op = 1 then t.abs else f32 (toF32 (t.mul t))

/-- The result of a column: value and index (R59, R63, R64). -/
def colResult (op kbase : Nat) (as_ ws : List FVal) : Word × Word :=
  let z := as_.zip ws
  if isCompare op then
    let r := (z.zip (List.range z.length)).foldl
      (fun st x => cmpCell op st (f32 (toF32 (x.1.1.add x.1.2))) (kbase + x.2)) none
    match r with
    | some (v, i) => (toF32 v, word i)
    | none => (fnan, word kbase)
  else
    (z.foldl (fun acc x => accAdd acc (if op = 0 then x.1.mul x.2 else distTerm op x.1 x.2)) fzero, 0)

/-- The accumulator entry after a column's pair is combined with ACC = ADD (R59, R65). -/
def accCombine (op : Nat) (old new : Word × Word) : Word × Word :=
  if isCompare op then
    let a := f32 old.1; let b := f32 new.1
    let take := if b.isNan then a.isNan && decide (new.2 < old.2)
      else a.isNan || better op b a || (b.eqv a && decide (new.2 < old.2))
    if take then new else old
  else (toF32 ((f32 old.1).add (f32 new.1)), old.2)

/-- The key of accumulator entry (row, column) of a bank of an array (R58): compare results take two entries. -/
def accKey (array bank : Nat) (oblong : Bool) (op row col : Nat) : Nat :=
  let w := if isCompare op then 2 else 1
  (array * 2 + bank) * 131072 + (row * tileCols oblong + col) * w

/-- Rows per bank (R58). -/
def bankRows (oblong : Bool) (op : Nat) : Nat := 131072 / (tileCols oblong * (if isCompare op then 2 else 1))

/-- The value a row element enters the array with (R28, R41). -/
def actVal (subn : Bool) (f : NumFmt) (piece exp el : Nat) : FVal :=
  match f with
  | .of8 => of8Val subn exp el
  | .fp32 => layW19.decode (w19Piece subn (word el) (max piece 1))
  | g => plainVal subn g el

/-! ### Stages of fused commands (R104, R106) -/

/-- Iterations that a stage runs among the first `n`: with LAST only the last of each period. -/
def stageRuns (s : FscStage) (period n : Nat) : Nat := if s.last then n / max 1 period else n
/-- The iteration a stage runs next after `f` runs. -/
def stageNext (s : FscStage) (period f : Nat) : Nat := if s.last then (f + 1) * max 1 period - 1 else f
/-- Whether a stage works on the arrays. -/
def FscStage.arrays (s : FscStage) : Bool := s.ty = 3 || s.ty = 4

namespace Dev

/-- Row `r` of the block of the `i`-th selected array: its KV activation values and its mark (R46, R99, R421). -/
def blockRow (d : Dev) (c : Nat) (j : MxmJob) (i r kv : Nat) : List FVal × Option Status × Dev :=
  let a := j.ad
  let base : Int := a.addr + ((i * a.astride : Nat) : Int)
  let eb := if j.afmt = .of8 then 1 else laneBytes j.afmt
  let groups := if j.afmt.grouped then a.cols / 32 else 0
  let x := d.spaceGet c j.got a.space a.cm ((a.xaddr + (i * j.m + r) * groups : Nat) : Int) groups
  let d0 := if groups = 0 then d else x.2
  let exps := x.1.bytes
  let z := (List.range kv).foldl (fun (s : List FVal × Option Status × Dev) k =>
    let g := s.2.2.spaceGet c j.got a.space a.cm (base + ((skewPlace j.afmt j.oblong r k : Nat) : Int)) eb
    (s.1 ++ [actVal d.subn j.afmt j.piece (u8 exps (k / 32)) (le g.1.bytes 0 eb)], orMark s.2.1 g.1.mark, g.2))
    ([], if groups = 0 then none else x.1.mark, d0)
  z

/-- A row's results are put into the accumulators (R59, R65), with the row's mark (R254). -/
def accRow (d : Dev) (c : Nat) (j : MxmJob) (array row : Nat) (vals : List (Word × Word)) (m : Option Status) : Dev :=
  d.onCore c fun x =>
    let a := x.arr
    let k0 := accKey array j.bank j.oblong j.op row 0
    let acc := (vals.zip (List.range vals.length)).foldl (fun t y =>
      let k := accKey array j.bank j.oblong j.op row y.2
      let old := (t.get 0 k, if isCompare j.op then t.get 0 (k + 1) else 0)
      let new := if j.add then accCombine j.op old y.1 else y.1
      let t := Table.set 0 t k new.1
      if isCompare j.op then Table.set 0 t (k + 1) new.2 else t) a.acc
    let mk := if j.add then orMark (a.accMarks.get none k0) m else m
    { x with arr := { a with acc := acc, accMarks := a.accMarks.set none k0 mk } }

/-- Stream one row through one array. -/
def streamRow (c : Nat) (j : MxmJob) (t : Tile) (cols : List (List FVal)) (kv i array r : Nat) (d : Dev) : Option Status × Dev :=
  let b := d.blockRow c j i r kv
  let vals := cols.map fun w => colResult j.op j.kbase b.1 w
  (orMark b.2.1 t.bad, b.2.2.accRow c j array (j.base + r) vals b.2.1)

/-- Every item that owns a row of the instruction fails (R90, R254). -/
def failRows (d : Dev) (j : MxmJob) (st : Status) : Dev :=
  d.failEntries (d.owners (j.ad.aux % 2 ^ 32) (j.m * (maskArrays j.mask).length)) st

/-- The block of an MXM or DIST streams through every array it selects (R45, R50, R66): the operands are read, the columns
formed and the accumulators combined. A mark met anywhere marks the whole output, and the owners of its rows fail (R254). -/
def streamBlock (d : Dev) (c : Nat) (j : MxmJob) (t : Tile) : Dev :=
  let of8 := t.fmt.grouped && j.afmt = .of8
  let kv := min j.ad.cols (tileDepth j.oblong of8)
  let nv := min j.od.cols (tileCols j.oblong)
  let cols := (List.range nv).map fun col => (List.range kv).map fun k => t.weight d.subn k col
  let sel := maskArrays j.mask
  let z := (sel.zip (List.range sel.length)).foldl (fun (s : Option Status × Dev) ai =>
    (List.range j.m).foldl (fun s r =>
      let y := streamRow c j t cols kv ai.2 ai.1 r s.2
      (orMark s.1 y.1, y.2)) s) (none, d)
  let d1 := z.2.onCore c fun x => { x with arr := { x.arr with
    rows := satAdd x.arr.rows (j.m * sel.length) } }
  match z.1 with
  | none => d1
  | some st =>
    let d2 := d1.onCore c fun x => { x with arr := { x.arr with
      accMarks := sel.foldl (fun t a => (List.range j.m).foldl (fun t r =>
        t.modify none (accKey a j.bank j.oblong j.op (j.base + r) 0) fun o => orMark o (some st)) t) x.arr.accMarks } }
    d2.failRows j st

/-- Row `r` of the `i`-th selected array is converted and written out (R34, R55, R65, R99). A write that cannot be performed and a marked
parameter fail the owners of the row (R254, R340), and a flag is given to the owners of the tile (R39). Answers the first flagged column. -/
def drainRow (d : Dev) (c : Nat) (j : MxmJob) (i array r : Nat) : Option (Nat × Bool) × Dev :=
  let nv := min j.od.cols (tileCols j.oblong)
  let x := (d.core c).arr
  let key := fun col => accKey array j.bank j.oblong j.op (j.base + r) col
  let accs := (List.range nv).map fun col => x.acc.get 0 (key col)
  let mk := x.accMarks.get none (key 0)
  let ps := d.convParams c j.got j.od.param nv
  let cr := convRow d.subn j.od.fmt 0 ps.1 accs
  let m := orMark mk ps.2.1
  let g := if j.od.fmt.grouped then j.od.cols / 32 else 0
  let w1 := ps.2.2.spacePut c j.entry j.od.space j.od.cm (j.od.addr + ((i * j.od.astride + r * j.od.pitch : Nat) : Int))
    (joinEls j.od.fmt cr.els) m
  let w2 := if g = 0 then w1 else
    let y := w1.2.spacePut c j.entry j.od.space j.od.cm ((j.od.xaddr + (i * j.m + r) * g : Nat) : Int) (cr.exps.map byte) m
    (orMark w1.1 y.1, y.2)
  let w3 := if isCompare j.op then
      let ix := (List.range nv).map fun col => (x.acc.get 0 (key col + 1)).toNat
      let y := w2.2.spacePut c j.entry j.od.space j.od.cm ((j.od.aux + (i * j.m + r) * nv * 4 : Nat) : Int) (joinEls .u32 ix) m
      (orMark w2.1 y.1, y.2)
    else w2
  let row := j.ad.aux % 2 ^ 32 + i * j.m + r
  let tileRow := j.ad.aux % 2 ^ 32 + i * j.m
  let d1 := match orMark ps.2.1 w3.1 with | some st => w3.2.failEntries (w3.2.owners row 1) st | none => w3.2
  (cr.flagged, if cr.flagged.isSome then d1.flagEntries (d1.owners tileRow j.m) else d1)
/-- An MXM's tiles are complete: the flagged one of the lowest array is the one captured (R40). SEQ is 0 where no
record of the buffer plan owns the tile's first row (DESIGN CHOICE, log 79). -/
def captureTile (d : Dev) (c : Nat) (j : MxmJob) (flags : List (Nat × Nat × Nat × Bool)) : Dev :=
  match (List.range 4).findSome? fun a => flags.find? fun f => f.1 = a with
  | none => d
  | some (a, r, col, isNan) =>
    let i := ((maskArrays j.mask).takeWhile (· != a)).length
    d.flagTile c false a r col isNan ((d.owners (j.ad.aux % 2 ^ 32 + i * j.m) 1).headD 0) j.pc

/-! ### The queue of the arrays -/

/-- The job of an instruction in the arrays' queue. -/
def mxmJob (d : Dev) (c : Nat) (e : QEnt) : MxmJob :=
  let w := e.word.toNat
  let ad := d.desc c (IW.mAd w)
  { op := if IW.opc w = IW.oMxm then 0 else IW.mOp w, oblong := IW.mOblong w, afmt := (NumFmt.ofCode3 (IW.mAfmt w)).getD .fp32,
    mask := IW.mMask w, m := IW.mRows w, bank := IW.mBank w, base := IW.mBase w, add := IW.mAdd w, drain := IW.mDrain w,
    piece := IW.mPiece w, kbase := IW.mKbase w, ad := ad, od := d.desc c (IW.mOd w), pc := e.pc, entry := e.no, got := e.got }

/-- Whether two masks share an array. -/
def shares (a b : Nat) : Bool := (maskArrays a).any fun i => bitOf b i

/-- A stage that passes a test has yet to use a staging slot in a fused command, with so many iterations of each stage finished; its slot
rotates from the one its body names (R107). -/
def slotAhead (test : FscStage → Bool) (base : FscStage → Nat) (r : Bytes) (fin : List Nat) (slot : Nat) : Bool :=
  (List.range (fscStages r)).any fun k =>
    let s := fscStage r k
    test s && (List.range 4).any fun n =>
      let i := stageNext s (fscPeriod r) (fin.getD k 0 + n)
      decide (i < fscIter r) && decide ((base s + i) % 4 = slot)
/-- A fused command issued before an instruction, running or not, of which a test of its record and finished iterations holds. -/
def fscBefore (d : Dev) (c no : Nat) (test : Bytes → List Nat → Bool) : Bool :=
  (d.core c).q.se.any fun x => x.token.isNone && IW.opc x.word.toNat = IW.oFsc && decide (x.no < no) &&
    match (d.core c).q.fscs.find? fun f => f.no = x.no with
    | some f => test f.record f.fin
    | none => test ((d.core c).seq.fused.get [] (IW.fRecord x.word.toNat)) []
/-- A fused command issued before an instruction still has an EXPAND into a staging slot to do (R51). -/
def fscExpands (d : Dev) (c no slot : Nat) : Bool :=
  d.fscBefore c no fun r fin => slotAhead (fun s => s.ty = 2) (fun s => IW.lSlot s.word) r fin slot
/-- A fused command issued before an instruction still has to load the arrays from a staging slot (R51). -/
def fscLoads (d : Dev) (c no slot : Nat) : Bool :=
  d.fscBefore c no fun r fin => slotAhead FscStage.arrays (fun s => IW.mSlot s.word) r fin slot

/-- The MXM whose load may begin (R51 to R53): its slot is complete, the earlier MXMs on its arrays stream, and no change of shape
or form is held back. With the entries before and after it, and its tile. -/
def loadable (d : Dev) (c : Nat) : Option (List QEnt × QEnt × List QEnt × Tile) :=
  let q := (d.core c).q.ar
  let before := q.takeWhile fun e => e.st != .queued
  match q.drop before.length with
  | [] => none
  | e :: rest =>
    let w := e.word.toNat
    let slot := IW.mSlot w
    let ldw := (d.core c).q.ex.any fun x => x.token.isNone && x.st != .done && decide (x.no < e.no) && IW.lSlot x.word.toNat = slot
    match (d.core c).arr.slots.get none slot with
    | none => none
    | some t =>
      let cfg := (IW.mOblong w, t.fmt.grouped && decide (IW.mAfmt w = 3))
      let tokens := before.any fun x => x.token.isSome
      let held := before.any fun x => x.st == .loaded && (shares (IW.mMask w) (IW.mMask x.word.toNat)
        || (d.core c).arr.config != some cfg)
      let claimed := (d.core c).q.fscs.any fun f => (fscUnits f.record).contains .ar
      if e.token.isSome || ldw || d.fscExpands c e.no slot || held || tokens || claimed then none else some (before, e, rest, t)
/-- The arrays' queue of a core is replaced. -/
def putArrays (d : Dev) (c : Nat) (q : List QEnt) : Dev := d.onCore c fun x => { x with q := { x.q with ar := q } }
/-- A tile is loaded into the shadow registers of the arrays a mask selects, in a shape and cell form (R51, R53). -/
def loadShadow (d : Dev) (c mask : Nat) (oblong of8 : Bool) (t : Tile) : Dev :=
  let sel := maskArrays mask
  d.onCore c fun x => { x with arr := { x.arr with
    shadow := sel.foldl (fun s a => s.set Tile.zero a t) x.arr.shadow
    config := some (oblong, t.fmt.grouped && of8)
    tiles := satAdd x.arr.tiles sel.length } }
/-- An MXM's load begins (R51 to R53). A damaged slot skips it: it completes in its turn, and the owners of its rows fail (R90). -/
def loadBegin (d : Dev) (c : Nat) : Dev :=
  match d.loadable c with
  | none => d
  | some (before, e, rest, t) =>
    match t.bad with
    | some st => (d.putArrays c (before ++ { e with st := .done } :: rest)).failRows (d.mxmJob c e) st
    | none =>
      let w := e.word.toNat
      (d.putArrays c (before ++ { e with st := .loaded } :: rest)).loadShadow c (IW.mMask w) (IW.mOblong w) (decide (IW.mAfmt w = 3)) t

/-- Rows of an entry that still wait to be drained on an array both use are target rows of an MXM's word (R61). Target rows are compared by
their numbers within the bank whatever the two SHAPEs and operations (log 78). -/
def drainHolds (x : QEnt) (b : Nat) : Bool :=
  let a := x.word.toNat
  x.st == .streamed && IW.mBank a = IW.mBank b && (maskArrays (IW.mMask b)).any fun i =>
    let left := x.drain.getD i 0
    decide (0 < left) && decide (IW.mBase a + IW.mRows a - left < IW.mBase b + IW.mRows b)
      && decide (IW.mBase b < IW.mBase a + IW.mRows a)
/-- An MXM stage of a fused command waits: for an MXM that has been loaded into arrays they share and has not begun to stream (R52), for the
loaded MXMs of another shape or form (R53), and for rows that are still to be drained (R61). -/
def stageHeld (d : Dev) (c w : Nat) (cfg : Bool × Bool) : Bool :=
  (d.core c).q.ar.any fun x => x.token.isNone &&
    ((x.st == .loaded && (shares (IW.mMask w) (IW.mMask x.word.toNat) || (d.core c).arr.config != some cfg)) || drainHolds x w)

/-- The first entry of the arrays' queue whose block can begin (R52, R61). -/
def streamable (before : List QEnt) : List QEnt → Option (List QEnt × QEnt × List QEnt)
  | [] => none
  | e :: rest =>
    if e.st == .loaded && e.token.isNone && before.all (fun x =>
        x.token.isNone && !(x.st == .loaded && shares (IW.mMask x.word.toNat) (IW.mMask e.word.toNat)) && !drainHolds x e.word.toNat) then
      some (before, e, rest)
    else if e.token.isSome then none
    else streamable (before ++ [e]) rest

/-- The pieces of another module's memory that an instruction's sources still lack (R240): module, address, bytes. -/
def missing (got : List Piece) (own : Nat) (l : List (Nat × Nat × Nat × Nat)) : List (Nat × Nat × Nat) :=
  l.filterMap fun x =>
    if x.1 = 4 && x.2.1 != own && x.2.2.2 > 0 && !(got.any fun p => p.module = x.2.1 && p.addr ≤ x.2.2.1
        && x.2.2.1 + x.2.2.2 ≤ p.addr + p.bytes.length)
    then some (x.2.1, x.2.2.1, x.2.2.2) else none

/-- Board loads leave for the missing pieces; one that cannot leave comes back with the status of that (R237, R240). -/
def askPieces (d : Dev) (c entry : Nat) (l : List (Nat × Nat × Nat)) : List Piece × Dev :=
  l.foldl (fun (s : List Piece × Dev) x =>
    let y := s.2.boardOut (some c) entry x.1 6 false x.2.1 x.2.2 none (s.2.boardHead 0 x.2.1 none ++ leBytes 8 x.2.2)
    match y.1 with
    | none => (s.1, y.2)
    | some st => (s.1 ++ [⟨x.1, x.2.1, zeros x.2.2, some st⟩], y.2)) ([], d)

/-- The ranges of a KIND 1 operand: space, module, address, bytes of each row and of its exponents. -/
def rowRanges (d : Dev) (c : Nat) (x : Desc) : List (Nat × Nat × Nat × Nat) :=
  if x.space ≠ 4 then []
  else (List.range x.rows).flatMap fun r =>
    match (d.gatherRow c x r).1 with
    | none => []
    | some k =>
      let g := if x.fmt.grouped then x.cols / 32 else 0
      [(x.space, x.cm, (x.addr + ((k * x.pitch : Nat) : Int)).toNat, fmtBytes x.fmt x.cols), (x.space, x.cm, x.xaddr + k * g, g)]
/-- The ranges of a KIND 4 operand (R99). -/
def paramRanges (d : Dev) (c i : Nat) : List (Nat × Nat × Nat × Nat) :=
  let x := d.desc c i
  let k := b2n (bitOf x.present 0) + b2n (bitOf x.present 1) + b2n (bitOf x.present 2) + b2n (bitOf x.present 3)
  if i = 0xFFFF || x.space ≠ 4 then [] else [(4, x.cm, x.addr.toNat, 4 * x.cols * k)]
/-- The ranges of the blocks of an activation descriptor. -/
def blockRanges (j : MxmJob) : List (Nat × Nat × Nat × Nat) :=
  if j.ad.space ≠ 4 then []
  else
    let n := (maskArrays j.mask).length
    let lanes := lanesOf j.oblong
    let g := if j.afmt.grouped then j.ad.cols / 32 else 0
    (List.range n).flatMap fun i =>
      [(4, j.ad.cm, (j.ad.addr + ((i * j.ad.astride : Nat) : Int)).toNat, (j.m + lanes - 1) * lanes * laneBytes j.afmt),
       (4, j.ad.cm, j.ad.xaddr + i * j.m * g, j.m * g)]

/-- The ranges that an MXM or DIST reads: its blocks and, with DRAIN, the parameters of its conversion. -/
def mxmRanges (d : Dev) (c : Nat) (j : MxmJob) : List (Nat × Nat × Nat × Nat) :=
  blockRanges j ++ (if j.drain then d.paramRanges c j.od.param else [])

/-- The loaded tiles become active (R52), and the gap's and the block's bubbles and dummy rows are counted (R66 to R70). -/
def activateTiles (d : Dev) (c : Nat) (j : MxmJob) (gap : Nat) (runs : List Nat) : Dev :=
  let sel := maskArrays j.mask
  let bubbles := runs.foldl (· + ·) 0
  (d.keepBlock c j.mask gap (j.m + bubbles) runs).onCore c fun x => { x with arr := { x.arr with
    active := sel.foldl (fun s a => s.set Tile.zero a (x.arr.shadow.get Tile.zero a)) x.arr.active
    bubbles := satAdd x.arr.bubbles (bubbles * sel.length) } }
/-- An entry as its block streams: with DRAIN its rows wait to be drained (R55). -/
def streamedEntry (j : MxmJob) (e : QEnt) : QEnt :=
  { e with st := if j.drain then .streamed else .done
           drain := (List.range 4).map fun a => if j.drain && bitOf j.mask a then j.m else 0 }
/-- The block of an entry streams (R52). -/
def streamGo (d : Dev) (c gap : Nat) (bubbles : List Nat) (before : List QEnt) (e : QEnt) (rest : List QEnt) : Dev :=
  let j := d.mxmJob c e
  let d1 := (d.activateTiles c j gap bubbles).putArrays c (before ++ streamedEntry j e :: rest)
  d1.streamBlock c j ((d1.core c).arr.active.get Tile.zero ((maskArrays j.mask).headD 0))
/-- A block begins streaming (R52), after `gap` empty slots and with those runs of bubbles in it (R66 to R70). -/
def streamBegin (d : Dev) (c gap : Nat) (bubbles : List Nat) : Dev :=
  match streamable [] (d.core c).q.ar with
  | none => d
  | some (before, e, rest) =>
    let need := missing e.got d.moduleNo (d.mxmRanges c (d.mxmJob c e))
    if e.asked && (d.circ.boards.any fun b => b.entry = e.no && !b.store) then d
    else if !e.asked && !need.isEmpty then
      let a := d.askPieces c e.no need
      a.2.putArrays c (before ++ { e with asked := true, got := e.got ++ a.1 } :: rest)
    else d.streamGo c gap bubbles before e rest

/-- The oldest entry of the arrays' queue with rows waiting on an array. -/
def drainable (d : Dev) (c array : Nat) : Option QEnt :=
  (d.core c).q.ar.find? fun e => e.st == .streamed && decide (e.drain.getD array 0 > 0)
/-- An entry of which one more row of an array has been drained, and found flagged or not: an array's first flag is kept (R40). -/
def drainedEntry (e : QEnt) (array row : Nat) (flagged : Option (Nat × Bool)) : QEnt :=
  let drain := e.drain.set array (e.drain.getD array 0 - 1)
  { e with
    drain := drain, st := if drain.all (· = 0) then QSt.done else .streamed
    flags := match flagged with
      | some (col, isNan) => if e.flags.any (fun f => f.1 = array) then e.flags else e.flags ++ [(array, row, col, isNan)]
      | none => e.flags }
/-- The next completed row of an array is drained (R55): the oldest entry with rows waiting on that array. With the last row of its
arrays an entry's flagged tile is captured (R40). -/
def drainNext (d : Dev) (c array : Nat) : Dev :=
  match d.drainable c array with
  | none => d
  | some e =>
    let j := d.mxmJob c e
    let i := ((maskArrays j.mask).takeWhile (· != array)).length
    let r := j.m - e.drain.getD array 0
    let x := d.drainRow c j i array r
    let e' := drainedEntry e array r x.1
    let d1 := x.2.onCore c fun y => { y with q := { y.q with ar := y.q.ar.map fun z =>
      if z.no = e.no && z.token.isNone then e' else z } }
    if e'.st == .done then d1.captureTile c j e'.flags else d1

/-- The items a fault of a fused command reaches: the owners of its arrays stage's rows, else of the phase's (R108). -/
def fscFail (d : Dev) (c : Nat) (record : Bytes) (st : Status) : Dev :=
  match (fscList record).find? fun s => s.ty = 3 || s.ty = 4 with
  | some s => d.failEntries (d.owners ((d.desc c (IW.mAd s.word)).aux % 2 ^ 32) (IW.mRows s.word * (maskArrays (IW.mMask s.word)).length)) st
  | none => d.failOwners st

end Dev

end Sys2Proof.Machine
end

