-- ==== Sys2Proof/Machine/Compare.lean ====
section
/-! DEFINITION. The compare engines (chapter 06): codes and scores (R131), the one order of every list (R133), list entries
(R134), TOPK on CMEM, on the scan engines and as a merge (R135 to R137, R141, R143, R144), and damaged lists (R148). -/

namespace Sys2Proof.Machine

/-! ### Scores (R131) -/

/-- Bits that are 1 in a byte. -/
def popByte (b : Byte) : Nat := ((List.range 8).filter fun i => b.getLsbD i).length
/-- A 4-bit two's-complement value. -/
def signed4 (n : Nat) : Int := if n % 16 < 8 then (n % 16 : Nat) else (n % 16 : Nat) - 16
/-- An 8-bit two's-complement value. -/
def signed8 (n : Nat) : Int := if n % 256 < 128 then (n % 256 : Nat) else (n % 256 : Nat) - 256
/-- A 32-bit two's-complement value. -/
def signed32 (n : Nat) : Int := if n % 2 ^ 32 < 2 ^ 31 then (n % 2 ^ 32 : Nat) else (n % 2 ^ 32 : Nat) - 2 ^ 32

/-- The score of a query byte against a code byte: both 4-bit elements of it in DOT4. -/
def byteScore (mode : Nat) (q c : Byte) : Int :=
  match mode with
  | 0 => (popByte (q ^^^ c) : Nat)
  | 1 => signed4 (q.toNat % 16) * signed4 (c.toNat % 16) + signed4 (q.toNat / 16) * signed4 (c.toNat / 16)
  | _ => signed8 q.toNat * signed8 c.toNat

/-- The score of a 128-byte query against a 128-byte code (R131). -/
def codeScore (mode : Nat) : Bytes → Bytes → Int
  | q :: qs, c :: cs => byteScore mode q c + codeScore mode qs cs
  | _, _ => 0

/-! ### Lists (R133, R134) -/

/-- A list entry (R134): SCORE is its 32 bits. -/
structure LEnt where
  valid : Bool := false
  damaged : Bool := false
  score : Nat := 0
  row : Nat := 0
  station : Nat := 0
deriving DecidableEq, Repr, Inhabited

/-- The bytes of an entry. -/
def LEnt.bytes (e : LEnt) : Bytes :=
  if e.valid || e.damaged then
    leBytes 4 e.score ++ leBytes 4 e.row ++ leBytes 2 (e.station % 4096) ++ leBytes 2 (b2n e.valid + 2 * b2n e.damaged) ++ zeros 4
  else zeros 16
/-- The entry in 16 bytes. -/
def LEnt.ofBytes (b : Bytes) : LEnt :=
  ⟨bitOf (u16 b 10) 0, bitOf (u16 b 10) 1, u32 b 0, u32 b 4, u16 b 8 % 4096⟩

/-- Whether two scores differ, and whether the first is the better (R133). -/
def scoreNe (fp : Bool) (a b : Nat) : Bool :=
  if fp then !(f32 (word a)).eqv (f32 (word b)) else signed32 a != signed32 b
def scoreBetter (fp max : Bool) (a b : Nat) : Bool :=
  if fp then (if max then (f32 (word b)).lt (f32 (word a)) else (f32 (word a)).lt (f32 (word b)))
  else if max then decide (signed32 b < signed32 a) else decide (signed32 a < signed32 b)

/-- The one order of every list: whether `a` ranks before `b` (R133). -/
def LEnt.before (fp max : Bool) (a b : LEnt) : Bool :=
  if a.valid != b.valid then a.valid
  else if !a.valid then false
  else if scoreNe fp a.score b.score then scoreBetter fp max a.score b.score
  else if a.row != b.row then decide (a.row < b.row)
  else decide (a.station < b.station)

/-- An entry put into a ranked list, after the entries that it does not rank before: FP32 entries that tie and differ in the sign of a zero
score stand in the order in which they came (log 78). -/
def rankIn (fp max : Bool) (e : LEnt) : List LEnt → List LEnt
  | [] => [e]
  | x :: xs => if e.before fp max x then e :: x :: xs else x :: rankIn fp max e xs
/-- Candidates in rank order. -/
def rank (fp max : Bool) (l : List LEnt) : List LEnt := l.foldl (fun acc e => rankIn fp max e acc) []
/-- The first `k` of the valid candidates in order, with invalid entries after them (R133). -/
def topK (fp max : Bool) (k : Nat) (l : List LEnt) : List LEnt :=
  let r := (rank fp max (l.filter (·.valid))).take k
  r ++ List.replicate (k - r.length) default
/-- A damaged list: `k` invalid entries with the status (R148). -/
def damagedList (k : Nat) (st : Status) : List LEnt := List.replicate k { damaged := true, score := st.toNat }
/-- The status of a damaged list; `none` for a good one. -/
def listDamage (l : List LEnt) : Option Status :=
  (l.find? (·.damaged)).map fun e => byte (e.score % 256)

/-! ### CMEM passes and re-passes (R136, R137) -/

/-- A bank during a TOPK: the list it handed over last, and the rows that rank after it. -/
structure BankRun where
  cur : List LEnt
  rest : List LEnt

/-- The bank's first list of 32. -/
def BankRun.start (l : List LEnt) : BankRun := ⟨l.take 32, l.drop 32⟩
/-- The bank's next 32 entries. -/
def BankRun.next (b : BankRun) : BankRun := ⟨b.rest.take 32, b.rest.drop 32⟩
/-- A saturated bank list: 32 valid entries, all of them in the leaf's list. -/
def BankRun.saturated (top : List LEnt) (b : BankRun) : Bool := b.cur.length = 32 && b.cur.all fun e => top.contains e

/-- A merge of the lists that the banks have handed over into the leaf's (R136, R137). -/
def leafMerge (max : Bool) (k : Nat) (top : List LEnt) (banks : List BankRun) : List LEnt :=
  (rank false max (banks.flatMap (·.cur) ++ top)).take k
/-- The leaf's list for one query and the re-pass rounds it took, of which so many may come (R137). -/
def leafRounds (max : Bool) (k : Nat) : Nat → List LEnt → List BankRun → List LEnt × Nat
  | 0, top, banks => (leafMerge max k top banks, 0)
  | n + 1, top, banks =>
    let top' := leafMerge max k top banks
    let sat := banks.filter (BankRun.saturated top')
    if sat.isEmpty then (top', 0)
    else
      let r := leafRounds max k n top' (sat.map (·.next))
      (r.1, r.2 + 1)
/-- The most re-pass rounds of a pass: ⌈k ÷ 32⌉ − 1 (R137). -/
def mostRounds (k : Nat) : Nat := ceilDiv k 32 - 1

/-- Queries a bank holds at once (R136). -/
def bankQueries (mode : Nat) : Nat := match mode with | 0 => 8 | 1 => 4 | _ => 2

/-- A CMEM code table (R135): first bank, first row, rows per bank, banks. -/
structure CmemTable where
  b0 : Nat
  f : Nat
  n : Nat
  nb : Nat

/-- The table a descriptor names, when it keeps R135. -/
def cmemTable (x : Desc) : Option CmemTable :=
  let a := x.addr.toNat
  let t : CmemTable := ⟨a / 131072, a % 131072 / 128, x.rows, x.aux % 65536⟩
  if x.addr < 0 || x.space ≠ 3 || x.code ≠ 9 || a % 128 ≠ 0 || t.n = 0 || t.f + t.n > 1024 || t.nb = 0 || t.b0 + t.nb > 2048
      || x.aux ≥ 65536 then none
  else some t

/-- An output list of a TOPK: its entries. -/
abbrev OutList := List LEnt

namespace Dev

/-- The entry of a scored code. -/
def scored (d : Dev) (mode : Nat) (q c : Bytes) (row : Nat) : LEnt :=
  ⟨true, false, (codeScore mode q c % 2 ^ 32).toNat, row, d.station⟩

/-- The rows of a bank of a table, scored for a query. -/
def bankRows (d : Dev) (mode : Nat) (t : CmemTable) (q : Bytes) (bank : Nat) : List LEnt :=
  (List.range t.n).map fun i =>
    let row := bank * 1024 + t.f + i
    d.scored mode q (d.cmem.bytes.getRange 0 (row * 128) 128) row

/-- One query against a CMEM table: its exact top k and the re-pass rounds of each leaf, the more of the two (R136, R137). -/
def cmemQuery (d : Dev) (mode k : Nat) (max_ : Bool) (t : CmemTable) (q : Bytes) : OutList × Nat :=
  let leaf := fun (a : Bool) =>
    let banks := ((List.range t.nb).map (· + t.b0)).filter fun b => decide (b < 1024) == a
    leafRounds max_ k (mostRounds k) [] (banks.map fun b => BankRun.start (rank false max_ (d.bankRows mode t q b)))
  let la := leaf true; let lb := leaf false
  (topK false max_ k (la.1 ++ lb.1), max la.2 lb.2)

/-- What the first row of a table of which a test answers has, in the order in which a pass reads: a row of every bank in a cycle, of which the
lowest bank counts as the first (log 78). -/
def firstRow {α : Type} (t : CmemTable) (test : Nat → Option α) : Option α :=
  (List.range t.n).findSome? fun i => (List.range t.nb).findSome? fun b => test ((t.b0 + b) * 1024 + t.f + i)
/-- The first uncorrectable row of a table (R140, R150). -/
def cmemBadRow (d : Dev) (t : CmemTable) : Option Nat := firstRow t fun r => if d.cmem.bad.get false r then some r else none
/-- The first mark that a row of a table carries. -/
def cmemMark (d : Dev) (t : CmemTable) : Option Status := firstRow t fun r => d.cmem.marks.get none r

/-- The queries of a TOPK: 128 bytes each with the mark they were read under. -/
def topkQueries (d : Dev) (c : Nat) (got : List Piece) (dq : Desc) (nq : Nat) : List (Bytes × Option Status) × Dev :=
  let r := getRows c got { dq with code := 9, cols := 128 } 0 nq d
  (r.1.map fun x => (x.els.map byte, x.mark), r.2)

/-- The banks of a table wake when it is used (R320). -/
def tableWake (d : Dev) (t : CmemTable) : Dev := d.cmemWake (t.b0 * 131072) (t.nb * 131072)
/-- A TOPK on CMEM (R135 to R137, R140, R148). One that meets an uncorrectable or marked row counts all its passes and no re-pass round: the
manual does not say how far such a TOPK counts (DESIGN CHOICE, log 75). -/
def topkCmemLists (d : Dev) (c : Nat) (got : List Piece) (mode k nq : Nat) (mx : Bool) (dq dt : Desc) : List OutList × Dev :=
  match cmemTable dt with
  | none => (List.replicate nq (damagedList k St.notPermitted), d)
  | some t =>
    let q0 := d.topkQueries c got dq nq
    let qs := (q0.1, q0.2.tableWake t)
    let h := bankQueries mode
    let res := qs.1.map fun q => d.cmemQuery mode k mx t q.1
    let passes := ceilDiv nq h
    let rounds := ((List.range passes).map fun p => ((res.drop (p * h)).take h).foldl (fun m x => max m x.2) 0).foldl (· + ·) 0
    let d1 := { qs.2 with cmem := { qs.2.cmem with pass := satAdd qs.2.cmem.pass passes } }
    match d.cmemBadRow t, d.cmemMark t with
    | some r, _ => (List.replicate nq (damagedList k St.memUnc), d1.errCmem r false)
    | none, some m => (List.replicate nq (damagedList k m), d1)
    | none, none =>
      let d1 := { qs.2 with cmem := { qs.2.cmem with
        pass := satAdd qs.2.cmem.pass passes, repass := satAdd qs.2.cmem.repass rounds } }
      ((qs.1.zip res).map fun x => match x.1.2 with | some st => damagedList k st | none => x.2.1, d1)

/-- The run is marked: its items carry STATUS_SCHEDULE_SLIP (R171). -/
def markSlip (d : Dev) : Dev :=
  match d.work.run with
  | none => d
  | some r => d.onWork fun w => { w with
      run := some { r with slipped := true }
      jobs := w.jobs.map fun j => if j.op = Op.item && j.run = some r.job then { j with slipped := true } else j }

/-- The channels that hold part of a scan table. -/
def scanChannels (d : Dev) (dt : Desc) : List Nat :=
  ((List.range dt.rows).filterMap fun r => (d.physOf d.workCtx (dt.addr.toNat + 128 * r)).map fun p => channelOf p.2).dedup

/-- A TOPK on the scan engines (R141, R142, R148): the whole table is read, then every query's exact top k. -/
def topkScanLists (d : Dev) (c : Nat) (got : List Piece) (mode k nq : Nat) (mx : Bool) (dq dt : Desc) : List OutList × Dev :=
  let refused := fun (d : Dev) => (List.replicate nq (damagedList k St.notPermitted), d)
  let a := dt.addr.toNat
  if dt.space ≠ 2 || dt.code ≠ 9 || dt.cols ≠ 128 || dt.pitch ≠ 128 || dt.addr < 0 || a % 128 ≠ 0 then refused d
  else
    let n := 128 * dt.rows
    if (sectorsOf a n).any fun s => (d.pageAt d.workCtx s.1).any (·.cxl) then refused d
    else if !d.mapped d.workCtx a n false then refused (d.memGet d.workCtx a n).2.2
    else
      let qs := d.topkQueries c got dq nq
      let ch := d.scanChannels dt
      let late := ch.any fun x => bitOf d.pwr.scanOff x
      let d1 := (qs.2.onPwr fun p => { p with scanOff := ch.foldl (fun m x => setBits m x x 0) p.scanOff }).given late markSlip
      let g := d1.memGet d.workCtx a n
      match g.2.1 with
      | some st => (List.replicate nq (damagedList k st), g.2.2)
      | none => (qs.1.map fun q => match q.2 with
          | some st => damagedList k st
          | none => topK false mx k ((List.range dt.rows).map fun r => d.scored mode q.1 (sub g.1 (128 * r) 128) r), g.2.2)

/-- An input of a merge for each query: its candidates, or the status of its damage (R143, R148). -/
def mergeInput (d : Dev) (c : Nat) (got : List Piece) (mode nq : Nat) (x : Desc) (pre : Option Status) :
    List (List LEnt × Option Status) × Dev :=
  let fp : Bool := mode = 3
  let ok := fun (e : LEnt) => e.valid && !(fp && (f32 (word e.score)).isNan)
  if x.kind = 1 then
    let ofs := x.aux
    let inside := bufIn ofs (4 * x.cols)
    let arr := if inside then d.bufGet c ofs (4 * x.cols) else []
    let am := if inside then d.bufMark c ofs (4 * x.cols) else some St.notPermitted
    let r := getRows c got { x with gather := false } 0 nq (if inside then d else d.rangeFault ofs)
    (r.1.map fun row =>
      (((row.els.zip (List.range row.els.length)).filterMap fun s =>
          let i := u32 arr (4 * s.2)
          let e : LEnt := ⟨true, false, s.1, i, d.station⟩
          if i = 0xFFFFFFFF || !ok e then none else some e),
        orMark pre (orMark row.mark am)), r.2)
  else
    (List.range nq).foldl (fun (s : List (List LEnt × Option Status) × Dev) j =>
      let g := s.2.spaceGet c got x.space x.cm (x.addr + ((j * x.pitch : Nat) : Int)) (16 * x.cols)
      let es := (chunks 16 x.cols g.1.bytes).map LEnt.ofBytes
      (s.1 ++ [(es.filter ok, orMark pre (orMark g.1.mark (listDamage es)))], g.2)) ([], d)

/-- A TOPK as a merge (R143): `preQ` and `preT` are the damage of the fused slot halves the inputs lie in. -/
def topkMergeLists (d : Dev) (c : Nat) (got : List Piece) (mode k nq : Nat) (mx : Bool) (dq dt : Desc) (preQ preT : Option Status) :
    List OutList × Dev :=
  let a := d.mergeInput c got mode nq dq preQ
  let b := a.2.mergeInput c got mode nq dt preT
  ((a.1.zip b.1).map fun x => match orMark x.1.2 x.2.2 with
    | some st => damagedList k st
    | none => topK (decide (mode = 3)) mx k (x.1.1 ++ x.2.1), b.2)

/-- The lists are written through DL, and their ROW fields to the IDX arrays (R134, R144); a damaged list marks its lines. -/
def putLists (d : Dev) (c entry k : Nat) (dl : Desc) (ls : List OutList) : Option Status × Dev :=
  (ls.zip (List.range ls.length)).foldl (fun (s : Option Status × Dev) x =>
    let m := listDamage x.1
    let w := s.2.spacePut c entry dl.space dl.cm (dl.addr + ((x.2 * dl.pitch : Nat) : Int)) (x.1.flatMap LEnt.bytes) m
    let i := if dl.aux = 0 then (none, w.2) else
      w.2.spacePut c entry 0 0 ((dl.aux + x.2 * k * 4 : Nat) : Int)
        (x.1.flatMap fun e => leBytes 4 (if e.valid && e.station = d.station then e.row else 0xFFFFFFFF)) m
    (orMark s.1 (orMark w.1 i.1), i.2)) (none, d)

/-- A TOPK with its operands: answers the damage of its lists. A write that cannot be performed fails the items that depend on
it (R340). -/
def topkDo (d : Dev) (c entry : Nat) (got : List Piece) (w : Nat) (dq dt dl : Desc) (preQ : Option Status) (write : Bool) :
    Option Status × Dev :=
  let mode := IW.tMode w; let k := IW.tK w; let nq := IW.tNq w; let mx := IW.tMax w
  let r := match IW.tEngine w with
    | 0 => match preQ with
      | some st => (List.replicate nq (damagedList k st), d)
      | none => d.topkCmemLists c got mode k nq mx dq dt
    | 1 => match preQ with
      | some st => (List.replicate nq (damagedList k st), d)
      | none => d.topkScanLists c got mode k nq mx dq dt
    | _ => d.topkMergeLists c got mode k nq mx dq dt preQ none
  let dm := firstSome (r.1.map listDamage)
  if !write && dm.isSome then (dm, r.2)
  else
    let p := (r.2.noteLists c dl nq k (mode + 4 * b2n mx)).putLists c entry k dl r.1
    (orMark dm p.1, match p.1 with | some st => p.2.failOwners st | none => p.2)

end Dev
end Sys2Proof.Machine
end

