-- ==== Sys2Proof/Machine/RingAccess.lean ====
section
/-! DEFINITION. Packets of the activation channel (R216, R237, R238), SEND and RECV with their acknowledgements, lag limits and
detachment (R96, R146, R173 to R176, R181), and the board's loads, stores and sync operations (R239, R240). -/

namespace Sys2Proof.Machine

/-- A packet head (R216). -/
structure Head where
  cls : Nat
  routed : Bool
  slice : Nat
  dest : Nat
  src : Nat
  tag : Nat
  body : Bytes
deriving DecidableEq, Repr

/-- The head and the LENGTH bytes that follow it. -/
def Head.ofBytes (b : Bytes) : Head :=
  ⟨u8 b 0, bitOf (u8 b 1) 0, u16 b 2 % 4096, u16 b 4 % 4096, u16 b 6 % 4096, u32 b 12, sub b 16 (u32 b 8)⟩
/-- What the trailer of a SEND's packet says of a copy on a ring (log 15): hops to go, axis and side. -/
def Head.hops (h : Head) : Nat := u8 h.body (h.body.length - 2)
def Head.axis (h : Head) : Nat := u8 h.body (h.body.length - 1) % 4
def Head.plus (h : Head) : Bool := !bitOf (u8 h.body (h.body.length - 1)) 2

namespace Dev

/-! ### What arrives (R235, R237, R238, R240) -/

/-- An acknowledgement packet returns to a station: of a board access round the board, else by the routing table, else by a port whose
neighbour it is. -/
def ackOut (d : Dev) (dest tag kind : Nat) (st : Status) : Dev :=
  if tag ≥ 2 ^ 31 then (d.sendBoard (dest % 4) 8 tag (ackBytes kind st)).2
  else
    let port := match d.routeTo dest d.sliceNo with
      | some p => if p < 6 && d.portUp p then some p else none
      | none => (List.range 6).find? fun p => d.portUp p && (d.port p).heard = dest
    match port with
    | some p => d.packetOut p (d.head 8 true dest 8 tag ++ ackBytes kind st)
    | none => d

/-- Stop the run with STATUS_SLICE_VIOLATION when what was discarded belongs to the gathering (R238). -/
def sliceEnds (d : Dev) (b : Bytes) : Dev :=
  match d.work.gath with
  | some g => if u16 b 4 = g.number then d.endRun St.slice else d
  | none => d
/-- A packet is refused (R238): counted, captured, and SRC is told. -/
def refusePacket (d : Dev) (port : Nat) (h : Head) : Dev :=
  let d1 := d.sliceDrop h.cls port h.slice h.src
  (if h.cls = 1 || h.cls = 4 then d1.sliceEnds h.body else d1).ackOut h.src h.tag 3 St.slice

/-- A packet of the board's ring: its accesses and their answers (R240). -/
def ofBoard (h : Head) : Bool := (5 ≤ h.cls && h.cls ≤ 7) || (h.cls = 8 && decide (h.tag ≥ 2 ^ 31))
/-- A routed packet for another station, which the table routes, goes on; round the board by the X ports, and with no way left there an
access fails with STATUS_LINK_LOST (R237, R240). -/
def forward (d : Dev) (port route : Nat) (h : Head) (b : Bytes) : Dev :=
  if ofBoard h && h.dest / 4 = d.station / 4 then
    match d.boardOnward port h.src h.dest with
    | some p => d.packetPass port p b
    | none => if h.cls ≥ 7 then d else d.ackOut h.src h.tag 2 St.linkLost
  else if d.portUp route then d.packetPass port route b else d

/-- A packet arrives at a port that carries packets: a transit station passes it on, another slice's is refused, a routed one
for another station is forwarded; what remains is for this station (R235, R237, R238). -/
def receive (d0 : Dev) (port : Nat) (b : Bytes) : Dev × Option Head :=
  if !d0.portUp port then (d0, none)
  else
    let h := Head.ofBytes b
    -- its granules are owed to the sender's credit until they are free again (R218)
    let d := d0.onLink port fun x => x.onChan (h.cls = 1) fun c => { c with owed := c.owed + granules b }
    match d.lnk.transits.find? fun t => !h.routed && t.inPort = port && t.target = h.dest with
    | some t =>
      if h.slice ≠ t.slice || h.slice ≠ d.sliceNo || d.sliceNo = 0 then (d.refusePacket port h, none)
      else if h.cls = 1 then (d.spread port h.body [(t.outPort, b)] false, none)
      else (d.packetPass port t.outPort b, none)
    | none =>
      if h.slice ≠ d.sliceNo || d.sliceNo = 0 then (d.refusePacket port h, none)
      else if h.routed && h.dest != d.station then
        match d.routeTo h.dest h.slice with
        | some 6 => (d, some h)
        | some p => (d.forward port p h b, none)
        | none => (d.refusePacket port h, none)
      else (d, some h)

/-! ### Completions of SENDs and board accesses -/

/-- Change an entry of any queue of a core, by its issue number. -/
def onEntry (d : Dev) (c no : Nat) (f : QEnt → QEnt) : Dev :=
  let g := fun (q : List QEnt) => q.map fun e => if e.no = no && e.token.isNone then f e else e
  d.onCore c fun x => { x with q := { x.q with
    ar := g x.q.ar, ex := g x.q.ex, vu := g x.q.vu, se := g x.q.se, cx := g x.q.cx, rg := g x.q.rg } }

/-- The stationing record of a position (R178). -/
def stationRec (d : Dev) (q : Nat) : Bytes := sub (schedule d.binding) (u32 (schedule d.binding) 32 + 32 * q) 32
/-- The micro-batch that a TAG names among those that a position sends (R178). -/
def batchAt (d : Dev) (q tag : Nat) : Option Nat :=
  let r := d.stationRec q
  if u16 r 8 ≤ tag && tag < u16 r 8 + u8 r 7 then some (tag - u16 r 8) else none
/-- The micro-batch of a transfer's TAG: one that this position sends, or that a position whose NEXT it is sends to it. -/
def tagBatch (d : Dev) (sent : Bool) (tag : Nat) : Option Nat :=
  if !bindStationed d.binding then none
  else if sent then d.batchAt d.position tag
  else
    let n := match d.work.gath with | some g => g.stations.length | none => 0
    (List.range n).findSome? fun q => if u16 (d.stationRec q) 4 = d.position then d.batchAt q tag else none
/-- The items that a transfer's failure reaches: the micro-batch's in stationed running, which is in flight no more (R181), else the
phase's owners. -/
def failTransfer (d : Dev) (sent : Bool) (tag : Nat) (st : Status) : Dev :=
  match d.tagBatch sent tag with
  | some m => (d.each (d.work.jobs.filter fun j => j.op = Op.item && j.mb = some m) fun d j => d.failJob j st).onWork fun w =>
      { w with passesInFlight := w.passesInFlight.filter (· != m) }
  | none => d.failOwners st

/-- The SEND stage of a fused command: its iteration has finished when every receiver has written it or is detached (R84, R106); damage
that its transfer met fails the items of the command (R108). -/
def fscSent (d : Dev) (c no : Nat) (st : Option Status) : Dev :=
  match (d.core c).q.fscs.find? fun f => f.no = no with
  | none => d
  | some f =>
    let d1 := match st with | some st => d.fscFail c f.record st | none => d
    d1.onCore c fun x => { x with q := { x.q with fscs := x.q.fscs.map fun y =>
      if y.no ≠ no then y
      else (List.range (fscStages y.record)).foldl (fun y j =>
        if (fscStage y.record j).ty = 9 then { y with sending := false, fin := y.fin.set j (y.fin.getD j 0 + 1) } else y) y } }
/-- The SEND of an entry has ended: the instruction is done, or the iteration of its stage. -/
def sendEnds (d : Dev) (c no : Nat) (st : Option Status) : Dev :=
  (d.onEntry c no fun e => if IW.opc e.word.toNat = IW.oSend then { e with st := .done } else e).fscSent c no st

/-- An acknowledgement of a transfer: the SEND completes when every one has arrived (R174). -/
def sendAck (d : Dev) (src tag : Nat) (ack : AckKind) : Dev :=
  match d.circ.sends.find? fun s => s.tag = tag && s.waiting.any fun w => w.1 = src with
  | none => d
  | some s =>
    let st : Option Status := match ack with
      | .written => none | .detached => some St.detached | .refused => some St.slice | .closed => some St.notPermitted
      | .fault st | .marked st => some st
    let s' := { s with waiting := s.waiting.eraseP fun w => w.1 = src, fail := orMark s.fail st }
    let d1 := d.onCirc fun q => { q with
      sends := if s'.waiting.isEmpty then q.sends.erase s else q.sends.map fun x => if x = s then s' else x }
    let d2 := match ack with
      | .refused => d1.failOwners St.slice
      | .closed => d1.failOwners St.notPermitted
      | .fault st | .marked st => d1.failOwners st
      | .detached => (match d1.tagBatch true tag with | some _ => d1.failTransfer true tag St.detached | none => d1)
      | .written => d1
    if s'.waiting.isEmpty then d2.sendEnds s.core s.no s'.fail else d2

/-- A window access fails and is captured: a read returns all ones, or a poisoned completion where it met poison, whatever status the mark
carries (R332, R403). -/
def winFails (d : Dev) (write : Bool) (m n : Nat) (st : Status) (poison : Bool) : Dev :=
  let s := if [St.notPermitted, St.slice, St.linkLost].contains st then st else St.memUnc
  let d1 := { d with glb := { d.glb with winErr := capture d.glb.winErr (b2n write * 2 ^ 30 + m % 4 * 2 ^ 28 + s.toNat * 2 ^ 16) } }
  if write then d1
  else if poison then d1.emit (.window (zeros n) true) else d1.emit (.window (List.replicate n 0xFF) false)
/-- What a board access that has ended gives its issuer (R240, R267): data for a load, the end of a sync operation, a status, which is a mark's
where the data is poison. -/
def boardEnd (d : Dev) (b : BoardOut) (data : Bytes) (st : Option Status) (poison : Bool) : Dev :=
  let d1 := d.onCirc fun q => { q with boards := q.boards.filter fun x => x.no != b.no }
  match b.sync with
  | some r =>
    let x := match st with | none => d1.syncDone r | some s => d1.syncFailed r s
    (match x.2 with | none => x.1 | some (leaf, w, r') => x.1.syncIssue leaf w r')
  | none =>
    match b.core with
    | none => match st with
      | none => if b.store then d1 else d1.emit (.window (padTo data b.len) false)
      | some s => d1.winFails b.store b.module b.len s poison
    | some c =>
      if b.store then (match st with | none => d1 | some s => d1.failOwners s)
      else d1.onEntry c b.entry fun e => { e with got := e.got ++ [⟨b.module, b.addr, padTo data b.len, st⟩] }

/-- The status an acknowledgement of a board access stands for. -/
def ackStatus : AckKind → Option Status
  | .written => none | .detached => some St.detached | .refused => some St.slice | .closed => some St.notPermitted
  | .fault st | .marked st => some st

/-- The answer of a board access arrives: a translation fault is captured at the issuer as its own (R240). -/
def boardAnswer (d : Dev) (src tag : Nat) (data : Bytes) (ack : AckKind) : Dev :=
  match d.circ.boards.find? fun b => boardTag b.no = tag && d.boardStation b.module = src with
  | none => d
  | some b =>
    let d1 := match ack with
      | .fault st =>
        let c := if b.core.isSome then d.workCtx else fld (d.glb.win.get 0 b.module) 21 16
        if st = St.notPermitted then d.errMem 2 c 31 0 (b.module * 2 ^ 46 + b.addr) else d
      | _ => d
    d1.boardEnd b data (ackStatus ack) (match ack with | .marked _ => true | _ => false)

/-! ### Transfers at the receiver (R174 to R176) -/

/-- The bytes of a transfer's trailer: RSYNC, whether it is signalled, the mark, the lag limit, and how the copy travels a ring (log 15). -/
def trailer (rsync : Option Nat) (m : Option Status) (lag hops axis : Nat) (plus : Bool) : Bytes :=
  leBytes 2 (rsync.getD 0) ++ [byte (b2n rsync.isSome), m.getD 0] ++ leBytes 2 lag ++ ofNats [hops, axis + 4 * b2n (!plus)]

/-- A transfer or packet of one is held; its arrival is signalled when it is whole (R96). -/
def packetsOf (d : Dev) (src cls tag : Nat) : List Transfer :=
  d.circ.transfers.filter fun t => t.src = src && t.cls = cls && t.tag = tag
/-- The packets of a shortlist transfer of `nq` queries among those that have come, oldest first, and how many queries they carry. -/
def takeQueries (nq : Nat) (ps : List Transfer) : List Transfer × Nat :=
  ps.foldl (fun (s : List Transfer × Nat) p =>
    if s.2 ≥ nq && !s.1.isEmpty then s else (s.1 ++ [p], s.2 + u16 p.bytes 10)) ([], 0)
/-- The packets of the oldest held transfer with a TAG, when it is whole: a shortlist's lists number NQ (R146). -/
def wholeTransfer (d : Dev) (tag : Nat) : Option (List Transfer) :=
  match d.circ.transfers.find? fun t => t.tag = tag with
  | none => none
  | some t =>
    if t.cls ≠ 3 then some [t]
    else
      let take := takeQueries (u16 t.bytes 4) (d.packetsOf t.src 3 tag)
      if take.2 ≥ u16 t.bytes 4 then some take.1 else none

/-- An acknowledgement of a transfer goes back to its sender, which may be this station. -/
def ackTransfer (d : Dev) (t : Transfer) (kind : Nat) : Dev :=
  if t.src = d.station then d.sendAck t.src t.tag (if kind = 1 then .detached else .written)
  else d.ackOut t.src t.tag kind St.ok

/-- A RECV's destination is marked damaged (R175, R176). -/
def recvMarked (d : Dev) (c entry : Nat) (x : Desc) (st : Status) : Dev := d.spaceMark c entry x.space x.cm x.addr (x.rows * x.pitch) st
/-- A RECV of lists whose transfer does not come: the k entries of each of its lists are DAMAGED with the status in SCORE (R148). -/
def recvLists (d : Dev) (c entry : Nat) (x : Desc) (st : Status) : Dev :=
  d.each (List.range x.rows) fun d i =>
    (d.spacePut c entry x.space x.cm (x.addr + ((i * x.pitch : Nat) : Int)) ((damagedList x.cols st).flatMap LEnt.bytes) (some st)).2
/-- What a RECV of a detached or lost transfer leaves at its destination: damaged lists where DD describes lists (KIND 3), else marks. -/
def recvDamaged (d : Dev) (c entry : Nat) (x : Desc) (st : Status) : Dev :=
  if x.kind = 3 then d.recvLists c entry x st else d.recvMarked c entry x st

/-- The header of a stationed activation message: MAGIC and VERSION (R180). -/
def mapGood (b : Bytes) : Bool := u8 b 0 = 0x41 && u8 b 1 = 0x43 && u8 b 2 = 1
/-- An entry's working state is reinitialised: all its bytes are zero, as when its pages were mapped (R179; DESIGN CHOICE, log 43). -/
def reinit (d : Dev) (e : Nat) : Dev :=
  let se := d.seqEntry e
  (d.memPut d.workCtx (u64 se 8) (zeros (u64 se 16)) none).2
/-- A stationed message reaches another station than position 0: entries that its map marks FIRST start anew (R179, R180). -/
def mapFirsts (d : Dev) (b : Bytes) : Dev :=
  if !(mapGood b && bindStationed d.binding && d.position != 0) then d
  else d.each (List.range (u8 b 4)) fun d i => if bitOf (u8 b (33 + 4 * i)) 0 then d.reinit (u8 b (32 + 4 * i)) else d
/-- A LOOP message reaches position 0: its micro-batch's pass has ended, and every sequence marked DONE has ended (R179, R180); a
mark fails the sequences it carries (R332). -/
def loopBack (d : Dev) (b : Bytes) (m : Option Status) : Dev :=
  if !(mapGood b && bindStationed d.binding && d.position = 0 && bitOf (u8 b 5) 0) then d
  else
    let d1 := d.onWork fun w => { w with passesInFlight := w.passesInFlight.filter (· != u8 b 3) }
    d1.each (List.range (u8 b 4)) fun d i =>
      match d.itemAt (u8 b (32 + 4 * i)) with
      | none => d
      | some j => match m with
        | some st => d.failJob j st
        | none => if bitOf (u8 b (33 + 4 * i)) 1 then d.onJob j.no fun x => { x with phase := .ended } else d

/-- A whole transfer is written to the destination it fits, or marks it (R176). -/
def recvWrite (d : Dev) (c entry : Nat) (x : Desc) (ts : List Transfer) : Dev :=
  let t := ts.headD default
  let m := firstSome (ts.map (·.mark))
  let fits : Bool := if t.cls = 3 then u16 t.bytes 4 ≤ x.rows && 16 * u16 t.bytes 6 ≤ x.pitch
    else t.bytes.length ≤ x.rows * x.pitch
  if !fits then (d.recvMarked c entry x St.notPermitted).failTransfer false t.tag St.notPermitted
  else
    let w : Option Status × Dev := if t.cls = 3 then
        ts.foldl (fun s p =>
          let k := 16 * u16 p.bytes 6
          (List.range (u16 p.bytes 10)).foldl (fun s i =>
            let l := sub p.bytes (32 + i * k) k
            let y := s.2.spacePut c entry x.space x.cm (x.addr + (((u16 p.bytes 8 + i) * x.pitch : Nat) : Int)) l
              (orMark p.mark (listDamage ((chunks 16 (k / 16) l).map LEnt.ofBytes)))
            (orMark s.1 y.1, y.2)) s) ((none : Option Status), d)
      else d.spacePut c entry x.space x.cm x.addr t.bytes m
    match w.1 with
    | some st => w.2.failTransfer false t.tag st
    | none =>
      if t.cls = 2 then (w.2.loopBack t.bytes m).mapFirsts t.bytes
      else if t.cls = 3 then w.2.noteLists c x (u16 t.bytes 4) (u16 t.bytes 6) (u8 t.bytes 3 % 8) else w.2

/-- The destination descriptor of a RECV. -/
def recvDesc (d : Dev) (c : Nat) (e : QEnt) : Desc := d.desc c (bitsOf e.word.toNat 42 32)

/-- A RECV in progress takes what is there: the detach table's entry, the held transfer, or the loss of its port (R148, R174, R175). -/
def recvTry (d : Dev) (c : Nat) (e : QEnt) : Dev :=
  let tag := IW.nTag e.word.toNat
  let x := d.recvDesc c e
  let finish := fun (d : Dev) => d.onEntry c e.no fun y => { y with st := .done }
  if d.circ.detach.contains tag then
    finish (((d.onCirc fun q => { q with detach := q.detach.erase tag }).recvDamaged c e.no x St.detached).failTransfer false tag St.detached)
  else match d.wholeTransfer tag with
    | none => if d.circ.lost.contains tag then
        finish (((d.onCirc fun q => { q with lost := q.lost.erase tag }).recvDamaged c e.no x St.linkLost).failTransfer false tag St.linkLost)
      else d
    | some ts =>
      let d1 := d.onCirc fun q => { q with transfers := ts.foldl (fun l t => l.erase t) q.transfers }
      finish ((d1.recvWrite c e.no x ts).ackTransfer (ts.headD default) 0)

/-- An entry of a core's queue among others in order of issue. -/
def inIssueOrder (x : Nat × QEnt) : List (Nat × QEnt) → List (Nat × QEnt)
  | [] => [x]
  | y :: l => if x.2.no ≤ y.2.no then x :: y :: l else y :: inIssueOrder x l

/-- The RECVs in progress, in order of issue. -/
def recvsWaiting (d : Dev) : List (Nat × QEnt) :=
  ((List.range 8).flatMap fun c => ((d.core c).q.rg.filter fun e =>
    e.token.isNone && e.st == .begun && IW.opc e.word.toNat = IW.oRecv).map fun e => (c, e)).foldr inIssueOrder []

/-- A transfer has arrived: it is held, its arrival is signalled, and a waiting RECV takes it. -/
def transferIn (d : Dev) (t : Transfer) : Dev :=
  let d1 := (d.onCirc fun q => { q with transfers := q.transfers ++ [t] }).touchPeak
  let whole := t.cls ≠ 3 || ((d1.packetsOf t.src 3 t.tag).map fun p => u16 p.bytes 10).foldl (· + ·) 0 ≥ u16 t.bytes 4
  let d2 := match t.rsync with | some v => if whole then d1.arrivalSignal v else d1 | none => d1
  match d2.recvsWaiting.find? fun r => IW.nTag r.2.word.toNat = t.tag with
  | some r => d2.recvTry r.1 r.2
  | none => d2

/-- The transfer that a packet's bytes and trailer spell. -/
def transferOf (d : Dev) (h : Head) (port : Nat) : Transfer :=
  let n := h.body.length - 8
  let tr := sub h.body n 8
  { src := h.src, port := port, cls := h.cls, tag := h.tag, bytes := h.body.take n
    mark := if u8 tr 3 = 0 then none else some (tr.getD 3 0), rsync := if bitOf (u8 tr 2) 0 then some (u16 tr 0) else none
    arrivedAt := d.now, lag := u16 tr 4 }

/-- A copy that still has hops goes on along its ring in its direction (R156, R173). -/
def forwardCopy (d : Dev) (port : Nat) (h : Head) (b : Bytes) : Dev :=
  if h.routed || h.hops ≤ 1 then d
  else match d.neighbour h.axis h.plus with
    | some n =>
      let b' := sub b 0 4 ++ leBytes 2 n.station ++ sub b 6 10 ++ h.body.set (h.body.length - 2) (byte (h.hops - 1))
      if d.portUp n.port then d.packetPass port n.port b' else d
    | none => d

/-- A packet of a detached shortlist transfer is discarded, and its queries are come (R146, R174). -/
def discarded (d : Dev) (h : Head) : Option Dev :=
  match d.circ.discard.find? fun x => x.1 = h.src && x.2.1 = h.tag with
  | none => none
  | some x =>
    let left := x.2.2 - u16 h.body 10
    if h.cls ≠ 3 then none
    else
      let rest := if left = 0 then d.circ.discard.erase x else d.circ.discard.map fun y => if y = x then (x.1, x.2.1, left) else y
      some (d.onCirc fun q => { q with discard := rest })
/-- A packet of a transfer arrives, is forwarded along its ring and held. A detached transfer's later packets are discarded. -/
def transferPacket (d : Dev) (port cls : Nat) (b : Bytes) : Dev :=
  match d.receive port b with
  | (d1, none) => d1
  | (d1, some h) =>
    if h.cls ≠ cls then d1
    else
      let d2 := d1.forwardCopy port h b
      match d2.discarded h with
      | some d3 => d3
      | none => d2.transferIn (d2.transferOf h port)

/-- The lag limit of the binding for what carries none of its own, in µs (R173). -/
def lagLimit (d : Dev) (own : Nat) : Nat :=
  let s := schedule d.binding
  let rec_ := if bindStationed d.binding then u16 (d.stationRec d.position) 10 else 0
  if own ≠ 0 then own else if rec_ ≠ 0 then rec_ else if u16 s 24 ≠ 0 then u16 s 24
  else fld (d.ctx d.workCtx).regs.mcastLag 15 0

/-- The lag limit of a START that waits for this station's RUN expires: the station ends the run with an ABORT (R163, R172). -/
def startExpire (d : Dev) (src : Nat) : Dev :=
  match d.work.gath, d.work.starts with
  | some g, (r, t0, arr, _) :: rest =>
    if g.stations.headD 4096 ≠ src || d.barrierShut then d
    else
      let d1 := d.reach (arr + 1000 * d.lagLimit 0)
      (d1.launchControl 6 0 (d1.controlBytes 2 r 0 St.detached)).onWork fun w =>
        { w with starts := rest, aborts := w.aborts ++ [(r, St.detached.toNat)] }
  | _, _ => d

/-- The oldest held transfer of a sender with a TAG and a lag limit: its packets that have come, and the queries that have yet to (R146). -/
def lagging (d : Dev) (src tag : Nat) : List Transfer × Nat :=
  match d.circ.transfers.find? fun t => t.src = src && t.tag = tag && t.lag ≠ 0 with
  | none => ([], 0)
  | some t =>
    if t.cls ≠ 3 then ([t], 0)
    else
      let x := takeQueries (u16 t.bytes 4) (d.packetsOf src 3 tag)
      (x.1, u16 t.bytes 4 - x.2)
/-- A RECV waits for a transfer of which data has yet to come: it is not slow (R174). -/
def awaitsData (d : Dev) (t : Transfer) (left : Nat) : Bool :=
  decide (0 < left) && (d.circ.transfers.find? fun x => x.tag = t.tag) == some t
    && d.recvsWaiting.any fun r => IW.nTag r.2.word.toNat = t.tag
/-- A transfer's lag limit expires: it is discarded, its TAG recorded, the oldest entry giving way in a full table, and the
sender told; a RECV of its TAG that waits completes by the entry (R174, R175). -/
def lagExpire (d : Dev) (src tag : Nat) : Dev :=
  let ts := d.lagging src tag
  let left := ts.2
  match ts.1 with
  | [] => d.startExpire src
  | t :: _ =>
    if d.barrierShut || d.awaitsData t left then d else
    let d1 := ((d.reach (t.arrivedAt + 1000 * t.lag)).onCirc fun q => { q with
      transfers := ts.1.foldl (fun l t => l.erase t) q.transfers
      discard := if left = 0 then q.discard else q.discard ++ [(src, tag, left)]
      detach := (if q.detach.length ≥ 256 then q.detach.drop 1 else q.detach) ++ [tag]
      detachCount := satAdd q.detachCount 1 }).ackTransfer t 1
    match d1.recvsWaiting.find? fun r => IW.nTag r.2.word.toNat = tag with
    | some r => d1.recvTry r.1 r.2
    | none => d1
/-- What is left of the packets of one sender and TAG when the transfers that are whole are taken away (R146). -/
def unfinished : Nat → List Transfer → List Transfer
  | 0, ps => ps
  | n + 1, ps =>
    let nq := u16 (ps.headD default).bytes 4
    let x := takeQueries nq ps
    if ps.isEmpty || x.2 < nq then ps else unfinished n (ps.drop x.1.length)
/-- Shortlist transfers that a lost port leaves unfinished are discarded, and their TAGs kept for RECVs to come (R148, R222). -/
def loseParts (d : Dev) (p : Nat) : Dev :=
  d.each ((d.circ.transfers.filter fun t => t.port = p && t.cls = 3).map fun t => (t.src, t.tag)).dedup fun d x =>
    let ps := d.packetsOf x.1 3 x.2
    let rest := unfinished ps.length ps
    if rest.any fun t => t.port = p then
      d.onCirc fun q => { q with transfers := rest.foldl (fun l t => l.erase t) q.transfers, lost := q.lost ++ [x.2] }
    else d
/-- A RECV that waits for what a lost port was to bring ends with its destination damaged with STATUS_LINK_LOST. -/
def recvLoses (d : Dev) (used : Bool) (p : Nat) (r : Nat × QEnt) : Dev :=
  let tag := IW.nTag r.2.word.toNat
  let part := d.circ.transfers.filter fun t => t.tag = tag
  if ((part.any fun t => t.port = p) || (used && part.isEmpty)) && (d.wholeTransfer tag).isNone then
    let d1 := ((d.recvDamaged r.1 r.2.no (d.recvDesc r.1 r.2) St.linkLost).onCirc fun q =>
        { q with transfers := q.transfers.filter fun t => !(t.port = p && t.tag = tag) }).onEntry r.1 r.2.no fun y => { y with st := .done }
    if used then d1 else d1.failTransfer false tag St.linkLost
  else d
/-- A port is lost: what RECVs wait for is damaged with STATUS_LINK_LOST where it brought a part of it, and, where the gathering used the port
and its run so ends, where nothing of it has come: a RECV does not name its sender (R148, R222; log 78). What it brought in part for a RECV
that has yet to begin is damaged then. -/
def recvsLose (d : Dev) (p : Nat) (used : Bool) : Dev := (d.each d.recvsWaiting fun d r => d.recvLoses used p r).loseParts p

/-! ### SEND (R96, R146, R173) -/

/-- The position `i` steps on along an axis. -/
def posStep (d : Dev) (axis : Nat) (plus : Bool) (i : Nat) : Nat :=
  let m := d.dims
  let n := m.getD axis 1
  let stride := match axis with | 0 => 1 | 1 => m.getD 0 1 | _ => m.getD 0 1 * m.getD 1 1
  let x := d.position / stride % n
  let y := if plus then (x + i) % n else (x + n - i % n) % n
  d.position - x * stride + y * stride
/-- The station at a position of the gathering. -/
def stationAt (d : Dev) (p : Nat) : Option Nat := match d.work.gath with | some g => g.stations[p]? | none => none

/-- Where a SEND goes: port, ROUTED, DEST, axis, direction, hops, and its receivers; or why it cannot go. -/
structure Target where
  port : Nat
  routed : Bool
  dest : Nat
  axis : Nat
  plus : Bool
  hops : Nat
  receivers : List Nat

/-- The copies of a SEND (R96, R173, R237). -/
def sendTargets (d : Dev) (w : Nat) : Except Status (List Target) :=
  let r := IW.nRoute w
  if r < 6 then
    if d.portUp r then .ok [⟨r, false, (d.port r).heard, 0, true, 1, [(d.port r).heard]⟩] else .error St.linkLost
  else if r = 6 then
    match d.stationAt (IW.nPos w) with
    | none => .error St.notPermitted
    | some s =>
      if s = d.station then .ok [⟨6, true, s, 0, true, 1, [s]⟩]
      else match d.routeTo s d.sliceNo with
        | none => .error St.slice
        | some p => if p < 6 && d.portUp p then .ok [⟨p, true, s, 0, true, 1, [s]⟩] else .error St.linkLost
  else if d.work.gath.isNone then .error St.notPermitted
  else
    (launches [IW.nAxis w] d.dims 0 0).foldl (fun acc x =>
      match acc, d.neighbour x.1 x.2.1 with
      | .ok l, some n =>
        if d.portUp n.port then
          .ok (l ++ [⟨n.port, false, n.station, x.1, x.2.1, x.2.2.2,
            (List.range x.2.2.2).map fun i => (d.stationAt (d.posStep x.1 x.2.1 (i + 1))).getD 0⟩])
        else .error St.linkLost
      | .error e, _ => .error e
      | _, none => .error St.linkLost) (.ok [])

/-- The packets of a SEND's data with the mark each carries: ROWS × PITCH bytes, or the query lists in pieces of at most
65,536 bytes of entries (R146, R176). MODE and MAX of a shortlist's header are those of the TOPK whose lists lie at the source; where no TOPK and no RECV put
lists there, a free value (log 2). -/
def sendBodies (d : Dev) (c : Nat) (got : List Piece) (w : Nat) (x : Desc) : List (Bytes × Option Status) × Dev :=
  if IW.nClass w = 1 then
    let k := x.cols; let nq := x.rows
    let known := d.listCode c x
    let code := known.getD (d.freeValue % 8)
    let per := max 1 (65536 / max 1 (16 * k))
    (List.range (ceilDiv nq per)).foldl (fun (s : List (Bytes × Option Status) × Dev) i =>
      let q := min per (nq - i * per)
      let ls := (List.range q).foldl (fun (a : Bytes × Option Status × Dev) j =>
        let g := a.2.2.spaceGet c got x.space x.cm (x.addr + (((i * per + j) * x.pitch : Nat) : Int)) (16 * k)
        (a.1 ++ g.1.bytes, orMark a.2.1 g.1.mark, g.2)) (([] : Bytes), (none : Option Status), s.2)
      let dm := ls.2.1.isSome || (((chunks 16 (q * k) ls.1).map LEnt.ofBytes).any (·.damaged))
      let hd := ofNats [0x53, 0x4C, 1, code % 8 + 8 * b2n dm] ++ leBytes 2 nq ++ leBytes 2 k ++ leBytes 2 (i * per)
        ++ leBytes 2 q ++ leBytes 2 d.station ++ leBytes 2 (IW.nTag w) ++ leBytes 4 i ++ zeros 12
      (s.1 ++ [(hd ++ ls.1, ls.2.1)], ls.2.2)) ([], d.given known.isNone tookFree)
  else
    let g := d.spaceGet c got x.space x.cm x.addr (x.rows * x.pitch)
    let hd := if IW.nClass w = 2 then d.boardHead 1 0 none else []
    ([(hd ++ g.1.bytes, g.1.mark)], g.2)

/-- SEND: its packets leave, and it waits for an acknowledgement of every receiver (R96, R174). With no way to go it fails, and
the items that depend on it fail. The lag limit of the binding is the one in force when it was issued (R83, R182). Answers whether it has
ended. -/
def sendDo (d : Dev) (c entry : Nat) (got : List Piece) (w lagDefault : Nat) (x : Desc) : Bool × Dev :=
  let tag := IW.nTag w
  match d.sendTargets w with
  | .error st =>
    let d1 := if st = St.slice then d.sliceDrop (match IW.nClass w with | 0 => 2 | 1 => 3 | _ => 5) 6 d.sliceNo d.station else d
    (true, d1.failTransfer true tag st)
  | .ok ts =>
    let bs := d.sendBodies c got w x
    let cls := match IW.nClass w with | 0 => 2 | 1 => 3 | _ => 5
    let lag := if IW.nClass w = 2 then 0 else if IW.nLag w ≠ 0 then IW.nLag w else lagDefault
    let rs := if IW.nRsig w then some (IW.nRsync w) else none
    let wait := ts.flatMap fun t => t.receivers.map fun s => (s, t.port)
    if wait.isEmpty then (true, bs.2)
    else
      let d1 := bs.2.onCirc fun q => { q with sends := q.sends ++ [⟨c, entry, tag, wait, none⟩] }
      let d2 := d1.each ts fun d t => d.each bs.1 fun d b =>
        let body := b.1 ++ trailer rs b.2 lag t.hops t.axis t.plus
        if t.port = 6 then
          d.transferIn { src := d.station, port := ownPort c, cls := cls, tag := tag,
                         bytes := if cls = 5 then b.1.drop 16 else b.1, mark := b.2, rsync := rs, arrivedAt := d.now, lag := lag }
        else d.packetOut t.port (d.head cls t.routed t.dest body.length tag ++ body)
      (!(d2.circ.sends.any fun s => s.core = c && s.no = entry), d2)

/-! ### The board at the target (R240) -/

/-- Whether a context of this station answers the board (R240). -/
def boardAllowed (d : Dev) (c : Nat) : Bool := (d.ctx c).regs.enable && bitOf d.lnk.boardOpen.toNat c

/-- An answer to a board access, by the board ring. -/
def boardReply (d : Dev) (src tag cls : Nat) (b : Bytes) : Dev := (d.sendBoard (src % 4) cls tag b).2

/-- A board sync operation arrives: performed in its own context's number, and answered when it has completed (R240, R266). -/
def boardSyncIn (d : Dev) (h : Head) : Dev :=
  match [SyncOp.writeFill, .readEmpty, .readPeek, .fetchAddFull, .clear, .writeForce][u8 h.body 18]? with
  | some op => d.boardSync (h.src % 4) h.tag (u8 h.body 0 % 64) (u16 h.body 16) op (u8 h.body 19 = 1) (BitVec.ofNat 64 (u64 h.body 24))
  | none => d
/-- A board store arrives: one of a SEND is held for a RECV, a sync operation goes to its word, another is performed in its own context's
number (R240). -/
def boardStoreIn (d : Dev) (port : Nat) (b : Bytes) : Dev :=
  match d.receive port b with
  | (d1, none) => d1
  | (d1, some h) =>
    if h.cls ≠ 5 then d1
    else if u8 h.body 1 = 1 then
      let t := d1.transferOf h port
      (d1.forwardCopy port h b).transferIn { t with bytes := t.bytes.drop 16 }
    else if u8 h.body 1 = 2 then d1.boardSyncIn h
    else
      let c := u8 h.body 0 % 64
      let m : Option Status := if u8 h.body 2 = 0 then none else some (h.body.getD 2 0)
      if !d1.boardAllowed c then d1.boardReply h.src h.tag 8 (ackBytes 4 St.notPermitted)
      else
        let x := d1.memPut c (boardLocal (u64 h.body 8)) (h.body.drop 16) m
        match x.1 with
        | some st => (if st = St.notPermitted then d1 else x.2).boardReply h.src h.tag 8 (ackBytes 2 st)
        | none => x.2.boardReply h.src h.tag 8 (ackBytes 0 St.ok)

/-- A board load arrives: its data returns, or the status of what kept it from being read (R240). -/
def boardLoadIn (d : Dev) (port : Nat) (b : Bytes) : Dev :=
  match d.receive port b with
  | (d1, none) => d1
  | (d1, some h) =>
    if h.cls ≠ 6 then d1
    else
      let c := u8 h.body 0 % 64
      if !d1.boardAllowed c then d1.boardReply h.src h.tag 7 (ackBytes 4 St.notPermitted)
      else
        let a := boardLocal (u64 h.body 8); let n := u64 h.body 16
        let x := d1.memGet c a n
        match x.2.1 with
        | some st =>
          if d1.mapped c a n false then x.2.2.boardReply h.src h.tag 7 (ackBytes 5 st ++ x.1)
          else d1.boardReply h.src h.tag 7 (ackBytes 2 st ++ x.1)
        | none => x.2.2.boardReply h.src h.tag 7 (ackBytes 0 St.ok ++ x.1)

/-- What an acknowledgement says: its kind and the status it carries (log 15). -/
def ackOf (b : Bytes) : AckKind :=
  match u8 b 0 with
  | 0 => .written | 1 => .detached | 3 => .refused | 4 => .closed | 5 => .marked (b.getD 1 St.memUnc)
  | _ => .fault (b.getD 1 St.linkLost)
/-- The answer of a board load arrives. -/
def boardResponseIn (d : Dev) (port : Nat) (b : Bytes) : Dev :=
  match d.receive port b with
  | (d1, none) => d1
  | (d1, some h) => if h.cls = 7 then d1.boardAnswer h.src h.tag (h.body.drop 8) (ackOf h.body) else d1
/-- An acknowledgement packet arrives: of a board access, or of a SEND. -/
def ackArrive (d : Dev) (port : Nat) (b : Bytes) : Dev :=
  match d.receive port b with
  | (d1, none) => d1
  | (d1, some h) =>
    if h.cls ≠ 8 then d1
    else if h.tag ≥ 2 ^ 31 then d1.boardAnswer h.src h.tag [] (ackOf h.body) else d1.sendAck h.src h.tag (ackOf h.body)

end Dev
end Sys2Proof.Machine
end

