-- ==== Sys2Proof/Machine/Interlocks.lean ====
section
/-! DEFINITION. What holds a unit's work back: the queues of a core (R83), the claims of fused commands (R105), the interlocks of the
staging slots (R51) and of CMEM, and the order in which TOPKs are served (R138, R142). -/

namespace Sys2Proof.Machine

/-- The queue of a unit. -/
def Queues.get (q : Queues) : CoreUnit → List QEnt
  | .ar => q.ar | .ex => q.ex | .vu => q.vu | .se => q.se | .cx => q.cx | .rg => q.rg
/-- The queues with one unit's replaced. -/
def Queues.put (q : Queues) (u : CoreUnit) (l : List QEnt) : Queues :=
  match u with
  | .ar => { q with ar := l } | .ex => { q with ex := l } | .vu => { q with vu := l }
  | .se => { q with se := l } | .cx => { q with cx := l } | .rg => { q with rg := l }

namespace Dev

/-- A unit's queue on a core. -/
def queue (d : Dev) (c : Nat) (u : CoreUnit) : List QEnt := (d.core c).q.get u
/-- Replace a unit's queue. -/
def putQueue (d : Dev) (c : Nat) (u : CoreUnit) (l : List QEnt) : Dev := d.onCore c fun x => { x with q := x.q.put u l }
/-- A unit that a running fused command holds (R105). -/
def claimed (d : Dev) (c : Nat) (u : CoreUnit) : Bool := (d.core c).q.fscs.any fun f => (fscUnits f.record).contains u
/-- The cores in the order in which events of one cycle are taken: ascending logical number, then those that run nothing (R138). -/
def coreOrder (d : Dev) : List Nat := d.work.coreMap ++ (List.range 8).filter fun c => !d.work.coreMap.contains c

/-! ### CMEM banks (R138) -/

/-- The banks of a range of CMEM, first and last. -/
def spanOf (a n : Nat) : List (Nat × Nat) := if n = 0 then [] else [(a / 131072, (a + n - 1) / 131072)]
/-- The CMEM banks that a MOV body writes through a destination: its elements', and its exponents' (R421); none when it writes elsewhere. -/
def movSpans (w : Nat) (ds dd : Desc) : List (Nat × Nat) :=
  if dd.space ≠ 3 then []
  else
    let rows := if IW.sTrans w then ds.cols else ds.rows
    let cols := if IW.sTrans w then ds.rows else ds.cols
    let n := if IW.sSkew w then
        (IW.sBlocks w - 1) * dd.astride + (IW.sRows w + cols - 1) * (lanesOf (IW.sOblong w) * laneBytes ds.fmt)
      else (rows - 1) * dd.pitch + fmtBytes ds.fmt cols
    let groups := if ds.fmt.grouped then cols / 32 else 0
    spanOf dd.addr.toNat n ++ spanOf dd.xaddr ((if IW.sSkew w then IW.sBlocks w * IW.sRows w else rows) * groups)
/-- The banks from the one range to the other. -/
def joinSpan (a b : Nat × Nat) : Nat × Nat := (min a.1 b.1, max a.2 b.2)
/-- The banks that a fused command's stages write, over all their iterations. -/
def fscWrites (d : Dev) (c : Nat) (r : Bytes) : List (Nat × Nat) :=
  (fscList r).flatMap fun s =>
    let ds := d.desc c (IW.cDs s.word); let dd := d.desc c (IW.cDd s.word)
    let last := { dd with addr := dd.addr + ((fscIter r - 1 : Nat) : Int) * s.step }
    if s.outSlot ≠ 0xFF then []
    else if s.ty = 1 then movSpans s.word ds dd
    else if s.ty = 8 then (movSpans s.word ds dd).zipWith joinSpan (movSpans s.word ds last)
    else []
/-- The banks that a stream engine instruction writes. -/
def writeBanks (d : Dev) (c w : Nat) : List (Nat × Nat) :=
  if IW.opc w = IW.oMov then movSpans w (d.desc c (IW.cDs w)) (d.desc c (IW.cDd w))
  else if IW.opc w = IW.oFsc then d.fscWrites c ((d.core c).seq.fused.get [] (IW.fRecord w)) else []
/-- The CMEM banks of a TOPK's table, first and last. -/
def topkBanks (d : Dev) (c : Nat) (w : Nat) : Option (Nat × Nat) :=
  if IW.opc w ≠ IW.oTopk || IW.tEngine w ≠ 0 then none
  else (cmemTable (d.desc c (IW.tDt w))).map fun t => (t.b0, t.b0 + t.nb - 1)
/-- The banks that an instruction's TOPKs read. -/
def readBanks (d : Dev) (c w : Nat) : List (Nat × Nat) :=
  if IW.opc w = IW.oFsc then
    ((fscList ((d.core c).seq.fused.get [] (IW.fRecord w))).filter fun s => s.ty = 7).filterMap fun s => d.topkBanks c s.word
  else (d.topkBanks c w).toList
/-- Whether two bank ranges meet. -/
def banksMeet (a b : Nat × Nat) : Bool := decide (a.1 ≤ b.2) && decide (b.1 ≤ a.2)
/-- A TOPK waits for every write of MOV, of a READ or of a WRITE stage to its banks issued before it that has not completed (R138). -/
def topkWaits (d : Dev) (no : Nat) (banks : Option (Nat × Nat)) : Bool :=
  (List.range 8).any fun k => (d.queue k .se).any fun x =>
    x.token.isNone && decide (x.no < no) && (d.writeBanks k x.word.toNat).any fun b => banks.any (banksMeet b)
/-- A write to banks of CMEM waits for every TOPK of those banks issued before it that has not completed (R138). -/
def writeWaits (d : Dev) (no : Nat) (banks : Nat × Nat) : Bool :=
  (List.range 8).any fun k => (d.queue k .cx ++ d.queue k .se).any fun x =>
    x.token.isNone && decide (x.no < no) && (d.readBanks k x.word.toNat).any fun b => banksMeet b banks

/-! ### The order of TOPKs (R138, R142) -/

/-- CMEM or the scan engines serve a TOPK of another core. -/
def engineBusy (d : Dev) (c engine : Nat) : Bool :=
  (List.range 8).any fun k => k != c && (d.queue k .cx).any fun x =>
    x.token.isNone && x.st != .queued && IW.tEngine x.word.toNat = engine
/-- A TOPK that arrived earlier at an engine still waits there. -/
def arrivedBefore (d : Dev) (engine n : Nat) : Bool :=
  let earlier := fun (a : Option Nat) => match a with | some m => decide (m < n) | none => false
  (List.range 8).any fun k =>
    ((d.queue k .cx).any fun x => x.st == .queued && IW.tEngine x.word.toNat = engine && earlier x.arrival)
      || (d.core k).q.fscs.any fun f => earlier f.arrival && (fscList f.record).any fun s => s.ty = 7 && IW.tEngine s.word = engine
/-- A TOPK that has arrived as the `n`-th may not yet be served: the engine serves another, an earlier one waits, or a write to its
banks has not completed. A merge waits for none of these (R143). -/
def engineHolds (d : Dev) (c w no n : Nat) : Bool :=
  decide (IW.tEngine w < 2) && (d.engineBusy c (IW.tEngine w) || d.arrivedBefore (IW.tEngine w) n || d.topkWaits no (d.topkBanks c w))

/-! ### Staging slots and claims (R51, R105) -/

/-- An LDW, or an EXPAND, waits for the arrays to take its slot for earlier instructions and for the stages of earlier fused commands (R51). -/
def slotHeld (d : Dev) (c no slot : Nat) : Bool :=
  ((d.queue c .ar).any fun x => x.token.isNone && x.st == .queued && decide (x.no < no) && IW.mSlot x.word.toNat = slot)
    || d.fscLoads c no slot
/-- An FSC waits for its slots and its units (R105). A wait token is no instruction issued to a unit, and the FSC starts past one (log 39). -/
def fscHeld (d : Dev) (c : Nat) (e : QEnt) : Bool :=
  let r := (d.core c).seq.fused.get [] (IW.fRecord e.word.toNat)
  let run := (d.core c).q.fscs
  run.length ≥ 4 || run.any (fun f => (fscMask f.record) &&& (fscMask r) ≠ 0)
    || (fscUnits r).any fun u => d.claimed c u || (d.queue c u).any fun x => x.token.isNone && decide (x.no < e.no)

end Dev
end Sys2Proof.Machine
end

