-- ==== Sys2Proof/Machine/Transcend.lean ====
section
/-! DEFINITION. The functions of R100 to 2^−190 and better, in exact rational arithmetic: what a free result of the vector unit is held
against (R101). Fixed-point numbers here have 256 fraction bits; their errors lie far below the last place of any FP32 number
(log 10). -/

namespace Sys2Proof.Machine

/-- The value of a finite FP32 number. -/
def f32Rat (w : Word) : Rat := match f32 w with
  | .fin s m e => (if s then -1 else 1) * (m : Rat) * (if e ≥ 0 then (2 : Rat) ^ e.toNat else 1 / (2 : Rat) ^ (-e).toNat)
  | _ => 0
/-- The weight of the last place of an FP32 number. -/
def ulpRat (w : Word) : Rat :=
  let e := max (bitsOf w.toNat 30 23) 1
  if e ≥ 150 then (2 : Rat) ^ (e - 150) else 1 / (2 : Rat) ^ (150 - e)
/-- The FP32 number nearest a rational, flushed (R30, R37). -/
def ratWord (x : Rat) : Word := ratF32 (decide (x < 0)) x.num.natAbs x.den 0

namespace Fix

/-- 2^256, the unit. -/
def one : Int := 2 ^ 256
/-- ln 2. -/
def ln2 : Int := 0xb17217f7d1cf79abc9e3b39803f2f6af40f343267298b62d8a0d175b8baafa2b
/-- √(2 ÷ π), of the tanh form of GELU (PRESUMED, log 10). -/
def geluC : Int := 0xcc42299ea1b284687e59e2805d5c717fa7053e60a24e0db1808e369004c73a5d
/-- A fixed-point number of a rational. -/
def ofRat (x : Rat) : Int := (x * one).floor
/-- The rational of a fixed-point number. -/
def rat (x : Int) : Rat := (x : Rat) / one
/-- The rest of the exponential's series from a term: `k` terms more, of which the next is divided by `n`. -/
def expSum (x : Int) : Nat → Nat → Int → Int
  | 0, _, t => t
  | k + 1, n, t => t + expSum x k (n + 1) (t * x / one / n)
/-- The rest of the series of artanh from a power of `y`. -/
def artanhSum (y2 : Int) : Nat → Nat → Int → Int
  | 0, _, _ => 0
  | k + 1, n, t => t / n + artanhSum y2 k (n + 2) (t * y2 / one)

end Fix

/-- A power of two. -/
def pow2 (k : Int) : Rat := if k ≥ 0 then (2 : Rat) ^ k.toNat else 1 / (2 : Rat) ^ (-k).toNat
/-- e^x, for |x| up to 1,024. -/
def expRat (x : Rat) : Rat :=
  let f := Fix.ofRat x
  let k := f / Fix.ln2
  Fix.rat (Fix.expSum (f - k * Fix.ln2) 70 1 Fix.one) * pow2 k
/-- ln (m × 2^e), for m above 0: with z = m ÷ 2^n in [1, 2), twice the artanh of (z − 1) ÷ (z + 1), and (e + n) ln 2. -/
def lnRat (m : Nat) (e : Int) : Rat :=
  let n := Nat.log2 m
  let y := ((m : Int) - 2 ^ n) * Fix.one / ((m : Int) + 2 ^ n)
  Fix.rat (2 * Fix.artanhSum (y * y / Fix.one) 90 1 y + (e + n) * Fix.ln2)
/-- 1 ÷ (1 + e^−x); past 1,024 its distance from 0 and 1 is beyond every FP32 number. -/
def sigmoidRat (x : Rat) : Rat :=
  let c := max (-1024) (min 1024 x)
  if c ≥ 0 then 1 / (1 + expRat (-c)) else expRat c / (1 + expRat c)
/-- tanh x; near zero x − x³ ÷ 3. -/
def tanhRat (x : Rat) : Rat :=
  if x < pow2 (-60) ∧ -pow2 (-60) < x then x - x * x * x / 3 else 2 * sigmoidRat (2 * x) - 1
/-- GELU in its tanh form: x ÷ 2 × (1 + tanh (√(2 ÷ π) (x + 0.044715 x³))), which is x ÷ (1 + e^−2u). -/
def geluRat (x : Rat) : Rat := x * sigmoidRat (2 * (Fix.rat Fix.geluC * (x + 44715 / 1000000 * x * x * x)))
/-- SILU. -/
def siluRat (x : Rat) : Rat := x * sigmoidRat x

/-- The exact result of EXP, LOG, TANH, SIGMOID, GELU and SILU on a finite number with the units in the last place and the rest that
R101 allows; `none` where R100 states no result. -/
def transcExact (op : Nat) (a : Word) : Option (Rat × Rat × Rat) :=
  let x := f32Rat a
  match op, f32 a with
  | 0x10, .fin .. => some (if x > 1024 then pow2 1024 else if x < -1024 then 0 else expRat x, 1, 0)
  | 0x11, .fin s m e => if s || m = 0 then none else some (lnRat m e, 1, 0)
  | 0x14, .fin .. => some (tanhRat x, 2, pow2 (-126))
  | 0x15, .fin .. => some (sigmoidRat x, 2, pow2 (-126))
  | 0x16, .fin .. => some (geluRat x, 2, pow2 (-126))
  | 0x17, .fin .. => some (siluRat x, 2, pow2 (-126))
  | _, _ => none

/-- A free word where it is a flushed FP32 number within the bound of an exact value, else the number nearest the value; a value beyond
FP32 gives its infinity (R30, R101). -/
def nearest (x : Rat) (ulps rest : Rat) (free : Word) : Word :=
  let w := ratWord x
  let b := ulps * ulpRat w + rest
  if !(f32 w).isFinite then w
  else if (f32 free).isFinite && lay32.flush free.toNat = free.toNat && decide (f32Rat free - x ≤ b) && decide (x - f32Rat free ≤ b) then free
  else w

end Sys2Proof.Machine
end

