-- ==== Sys2Proof/Machine/Vector.lean ====
section
/-! DEFINITION. The vector unit (R92, R93, R100, R101): VEC and CVT on operand rows. Results whose error the manual bounds without
giving their value are free values (log 10). -/

namespace Sys2Proof.Machine

/-- The larger or smaller of two; a NaN operand yields the other (R100). -/
def pick (larger : Bool) (a b : Word) : Word :=
  if (f32in a).isNan then toF32 (f32in b)
  else if (f32in b).isNan then toF32 (f32in a)
  else if (if larger then flt a b else flt b a) then toF32 (f32in b) else toF32 (f32in a)

/-- `w` is within one unit in the last place of 1/a, of 1/√a (R101). -/
def recipOk (a w : Word) : Bool :=
  let x := f32Rat w * f32Rat a - 1; let u := ulpRat w * f32Rat a
  (f32 w).isFinite && decide (x * x ≤ u * u)
def rsqrtOk (a w : Word) : Bool :=
  let x := f32Rat w; let u := ulpRat w
  (f32 w).isFinite && decide (u ≤ x) && decide ((x - u) * (x - u) * f32Rat a ≤ 1) && decide (1 ≤ (x + u) * (x + u) * f32Rat a)
/-- The free result where it meets the bound, else the first of the words beside `w` that does; a result that is zero, infinite or NaN
stands (log 10). -/
def boundedBy (ok : Word → Bool) (free w : Word) : Word :=
  if !(f32 w).isFinite || w.toNat % 2 ^ 31 = 0 then w
  else if ok free && lay32.flush free.toNat = free.toNat then free
  else ([w, w + 1, w - 1].find? ok).getD w

/-- A transcendental result (R100, R101): the free value of the operand, held to the error that R101 allows it. Where R100 states no
result (LOG of a number not above zero, an infinite operand but of RECIP and RSQRT) it is free (R37 still flushes it; log 10). -/
def transc (op : Nat) (a : Word) : Word :=
  let x := word (lay32.flush a.toNat)
  let free := word (lay32.flush (Config.transc (byte op) x).toNat)
  if (f32in a).isNan then fnan
  else if op = 0x12 then boundedBy (recipOk x) free (fdiv fone a)
  else if op = 0x13 then boundedBy (rsqrtOk x) free (fdiv fone (fsqrt a))
  else match transcExact op x with
    | some (y, ulps, rest) => nearest y ulps rest free
    | none => free

/-- An element-wise operation: `d` is the destination's prior value (R100). -/
def vecElem (op : Nat) (imm a b d : Word) : Word :=
  match op with
  | 0x01 => fadd a b
  | 0x02 => fsub a b
  | 0x03 => fmul a b
  | 0x04 => toF32 (((f32in a).mul (f32in b)).add (f32in d))
  | 0x05 => pick true a b
  | 0x06 => pick false a b
  | 0x07 => fmul a imm
  | 0x08 => fadd a imm
  | 0x09 => fabs a
  | 0x0A => fneg a
  | _ => transc op a

/-- Lane sums of a row: lane l takes columns l, l + 512, … in order (R101). Lanes that hold no column of a row shorter than 512 are left
out of the tree: R101 does not say that they add a zero (DESIGN CHOICE, log 75). -/
def laneFold (f : Word → Word → Word) (row : List Word) : List Word :=
  (List.range (min 512 row.length)).map fun l =>
    let xs := ((List.range row.length).filter fun i => i % 512 = l).map fun i => row.getD i 0
    xs.tail.foldl f (xs.headD 0)
/-- One level of the lane tree: pairs, the lower lane first. -/
def pairs (f : Word → Word → Word) : List Word → List Word
  | a :: b :: t => f a b :: pairs f t
  | l => l
/-- The lanes combined in a binary tree of up to nine levels. -/
def lanes (f : Word → Word → Word) : Nat → List Word → Word
  | 0, l => l.headD 0
  | n + 1, l => lanes f n (pairs f l)

/-- A reduction of a row (R100, R101). -/
def vecReduce (op : Nat) (row : List Word) : Word :=
  match op with
  | 0x20 => lanes fadd 9 (laneFold fadd row)
  | 0x21 => lanes (pick true) 9 (laneFold (pick true) row)
  | _ =>
    if Config.sumSqFused then
      let xs := (List.range (min 512 row.length)).map fun l =>
        (((List.range row.length).filter fun i => i % 512 = l).map fun i => row.getD i 0).foldl
          (fun acc x => toF32 (((f32in x).mul (f32in x)).add (f32 acc))) fzero
      lanes fadd 9 xs
    else lanes fadd 9 (laneFold fadd (row.map fun x => fmul x x))

/-- Whether an operation reduces a row, works on a row, or takes a second operand. -/
def vecReduces (op : Nat) : Bool := 0x20 ≤ op && op ≤ 0x22
def vecRowOp (op : Nat) : Bool := 0x30 ≤ op && op ≤ 0x32
def vecBinary (op : Nat) : Bool := (0x01 ≤ op && op ≤ 0x06) || op = 0x31 || op = 0x32

/-- The FP32 values of a row (R100, R37). A BF16, FP16, OF8, OF4 or W19 element below 2^−126 is decoded exactly and flushed as a vector
input: R37 keeps operands of those formats under SUBN = 0 and flushes the vector unit's FP32 inputs (DESIGN CHOICE, log 75). -/
def rowWords (subn : Bool) (f : NumFmt) (r : Row) : List Word :=
  match f with
  | .of8 => (r.els.zip (List.range r.els.length)).map fun x => toF32 (of8Val subn (r.exps.getD (x.2 / 32) 0) x.1)
  | .of4 => (r.els.zip (List.range r.els.length)).map fun x => toF32 (of4Val subn (r.exps.getD (x.2 / 32) 0) x.1)
  | g => r.els.map fun x => toF32 (plainVal subn g x)

/-- What a row operation computes exactly from its rounded intermediate values, for element `i` (R100, R101). The intermediate values
are FP32: for SOFTMAX the scaled elements, their differences from the row maximum, the exponentials, their sum in lane order and its
RECIP; for RMSNORM and LAYERNORM the sums of R101, their quotients by the row's length, and RSQRT (DEDUCED, log 10). -/
def rowExact (op : Nat) (imm : Word) (a b : List Word) (i : Nat) : FVal :=
  let n := fnat a.length
  match op with
  | 0x30 =>
    let t := a.map fun x => fmul x imm
    let es := t.map fun x => transc 0x10 (fsub x (vecReduce 0x21 t))
    (f32 (es.getD i 0)).mul (f32 (transc 0x12 (vecReduce 0x20 es)))
  | 0x31 =>
    let r := transc 0x13 (fadd (fdiv (vecReduce 0x22 a) n) imm)
    ((f32in (a.getD i 0)).mul (f32 r)).mul (f32in (b.getD i 0))
  | _ =>
    let mean := fdiv (vecReduce 0x20 a) n
    let var := fsub (fdiv (vecReduce 0x22 a) n) (fmul mean mean)
    let r := transc 0x13 (fadd var imm)
    (((f32in (a.getD i 0)).sub (f32 mean)).mul (f32 r)).mul (f32in (b.getD i 0))
/-- A rational of a finite value. -/
def FVal.rat : FVal → Rat
  | .fin s m e => (if s then -1 else 1) * (m : Rat) * pow2 e
  | _ => 0
/-- Element `i` of a row operation: free within 4 units in the last place of the exact value (R101). -/
def rowOp (op : Nat) (imm : Word) (a b : List Word) (i : Nat) : Word :=
  let v := rowExact op imm a b i
  if v.isFinite then nearest v.rat 4 0 (word (lay32.flush (Config.rowOp (byte op) imm a b i).toNat)) else toF32 v

/-- The result of VEC on a row. -/
def vecRow (op : Nat) (imm : Word) (a b d : List Word) : List Word :=
  if vecReduces op then [vecReduce op a]
  else if vecRowOp op then (List.range a.length).map fun i => rowOp op imm a b i
  else (List.range a.length).map fun i => vecElem op imm (a.getD i 0) (b.getD i 0) (d.getD i 0)

namespace Dev

/-- VEC on its operands (R92): a mark met anywhere marks the whole output, and the owners of its rows fail (R254; log 17). With `slot`
the output is a half of a fused slot, into which a fault writes nothing (R108). -/
def vecDo (d : Dev) (c entry : Nat) (got : List Piece) (op : Nat) (imm : Word) (bcast slot : Bool) (da db dd : Desc) :
    Option Status × Dev :=
  let ra := getRows c got da 0 da.rows d
  let rb := if vecBinary op then getRows c got db 0 (if bcast then 1 else da.rows) ra.2 else ([], ra.2)
  let rd := if op = 0x04 then getRows c got dd 0 da.rows rb.2 else ([], rb.2)
  let d1 := rd.2
  let m := orMark (rowsMark ra.1) (orMark (rowsMark rb.1) (rowsMark rd.1))
  let rows := (List.range da.rows).map fun r =>
    let a := rowWords d.subn da.fmt (ra.1.getD r default)
    let b := rowWords d.subn db.fmt (rb.1.getD (if bcast then 0 else r) default)
    let p := rowWords d.subn dd.fmt (rd.1.getD r default)
    (⟨(vecRow op imm a b p).map fun w => plainBits d.subn dd.fmt (f32 w), [], m⟩ : Row)
  let w := if slot && m.isSome then (none, d1) else putRows c entry dd 0 rows d1
  (orMark m w.1, match orMark m w.1 with | some st => w.2.failOwners st | none => w.2)

/-- CVT on its operands (R93): the steps and checks of R34; a flagged result flags every owner in the phase (R39). `slot` as for VEC. -/
def cvtDo (d : Dev) (c entry pc : Nat) (got : List Piece) (piece : Nat) (param : Nat) (slot : Bool) (ds dd : Desc) : Option Status × Dev :=
  let rs := getRows c got ds 0 ds.rows d
  let ps := rs.2.convParams c got param ds.cols
  let m := orMark (rowsMark rs.1) ps.2.1
  let cv := rs.1.map fun r => convRow d.subn dd.fmt piece ps.1 (rowWords d.subn ds.fmt r)
  let w := if slot && m.isSome then (none, ps.2.2) else putRows c entry dd 0 (cv.map fun x => (⟨x.els, x.exps, m⟩ : Row)) ps.2.2
  let d1 := match (List.range cv.length).findSome? fun r => (cv.getD r ⟨[], [], none⟩).flagged.map fun f => (r, f) with
    | some (r, col, isNan) => (w.2.flagTile c true 0 r col isNan 0 pc).flagEntries w.2.ownersAll
    | none => w.2
  (orMark m w.1, match orMark m w.1 with | some st => d1.failOwners st | none => d1)

/-- MOV on its operands (R94, R102): TRANSPOSE before SKEW; marks travel row by row, and through a transpose everywhere. `slot` as for
VEC. -/
def movDo (d : Dev) (c entry : Nat) (got : List Piece) (trans skew oblong slot : Bool) (blocks m : Nat) (ds dd : Desc) :
    Option Status × Dev :=
  let rs := getRows c got ds 0 ds.rows d
  let f := ds.fmt
  let rows := if trans then
      let mk := rowsMark rs.1
      (List.range ds.cols).map fun j => (⟨rs.1.map fun r => r.els.getD j 0, [], mk⟩ : Row)
    else rs.1
  let cols := if trans then ds.rows else ds.cols
  let w : Option Status × Dev :=
    if slot && (rowsMark rows).isSome then (none, rs.2)
    else if !skew then putRows c entry { dd with code := ds.code, cols := cols } 0 rows rs.2
    else
      let word := lanesOf oblong * laneBytes f
      let n := (m + cols - 1) * word
      (List.range blocks).foldl (fun s i =>
        let part := (List.range m).map fun r => rows.getD (i * m + r) ⟨List.replicate cols 0, List.replicate (cols / 32) 0, none⟩
        let eb := if f = .of8 then 1 else laneBytes f
        let cells := (part.zip (List.range m)).flatMap fun x => (x.1.els.zip (List.range cols)).flatMap fun e =>
          let o := skewPlace f oblong x.2 e.2
          ((leBytes eb e.1).zip (List.range eb)).map fun b => (o + b.2, b.1)
        let tbl : Table Byte := cells.foldl (fun t e => Table.set 0 t e.1 e.2) []
        let mk := rowsMark part
        let a := s.2.spacePut c entry dd.space dd.cm (dd.addr + ((i * dd.astride : Nat) : Int)) (tbl.getRange 0 0 n) mk
        if f.grouped then
          let x := a.2.spacePut c entry dd.space dd.cm ((dd.xaddr + i * m * (cols / 32) : Nat) : Int)
            (part.flatMap fun r => r.exps.map byte) mk
          (orMark s.1 (orMark a.1 x.1), x.2)
        else (orMark s.1 a.1, a.2)) ((none : Option Status), rs.2)
  let lists := w.2.given (!trans && !skew && !(slot && (rowsMark rows).isSome)) fun d => d.moveLists c ds dd
  -- a write that cannot be performed fails the items that depend on it (R250, R340)
  (rowsMark rows, match w.1 with | some st => lists.failOwners st | none => lists)

end Dev
end Sys2Proof.Machine
end

