-- ==== Sys2Proof/Machine/Fused.lean ====
section
/-! DEFINITION. Fused stage commands (R103 to R108): when an iteration of a stage begins, the operands it works on, what it does,
and how damage travels through the slot halves. -/

namespace Sys2Proof.Machine

/-! ### Iterations (R106) -/

/-- FscStage `j` has finished every run of it up to iteration `i`. -/
def FscRun.finished (f : FscRun) (j i : Nat) : Bool :=
  decide (stageRuns (fscStage f.record j) (fscPeriod f.record) (i + 1) ≤ f.fin.getD j 0)
/-- The stage that writes, or that reads, a fused slot. -/
def FscRun.writer (f : FscRun) (slot : Nat) : Option Nat :=
  (List.range (fscStages f.record)).find? fun j => (fscStage f.record j).outSlot = slot
def FscRun.reader (f : FscRun) (slot : Nat) : Option Nat :=
  (List.range (fscStages f.record)).find? fun j => (fscStage f.record j).inSlot = slot
/-- Every stage has finished its last iteration (R106). -/
def FscRun.ended (f : FscRun) : Bool :=
  (List.range (fscStages f.record)).all fun j => f.finished j (fscIter f.record - 1)

/-- The staging slots order an EXPAND against the arrays stage that uses its tile (R107): slot (SLOT + i) mod 4. -/
def FscRun.slotOrder (f : FscRun) (j i : Nat) : Bool :=
  let s := fscStage f.record j
  let js := List.range (fscStages f.record)
  if s.arrays then
    js.all fun k =>
      let t := fscStage f.record k
      !(t.ty = 2 && IW.lSlot t.word = IW.mSlot s.word) || f.finished k i
  else if s.ty = 2 then
    js.all fun k =>
      let t := fscStage f.record k
      !(t.arrays && IW.mSlot t.word = IW.lSlot s.word) || i < 4 || f.finished k (i - 4)
  else true

/-- Iteration `i` of stage `j` may begin (R106). -/
def FscRun.may (f : FscRun) (j i : Nat) : Bool :=
  let s := fscStage f.record j
  decide (j < fscStages f.record) && decide (i < fscIter f.record) && f.slotOrder j i && !(s.ty = 9 && f.sending)
    && (match f.writer s.inSlot with | some w => s.inSlot = 0xFF || f.finished w i | none => true)
    && (match f.reader s.outSlot with | some r => s.outSlot = 0xFF || i < 2 || f.finished r (i - 2) | none => true)

namespace Dev

/-- The core buffer offset of a half of a fused slot (R80, R103). -/
def slotHalf (d : Dev) (c slot half : Nat) : Nat :=
  match d.plan.find? fun r => u8 r 0 = 2 && some (u8 r 1) = d.logicalOf c && u16 r 2 = slot with
  | some r => u32 r 4 + half * (u32 r 8 / 2)
  | none => 0

/-- A source operand: the half of IN_SLOT in use in place of its ADDR and SPACE, else its address stepped (R104, R107). -/
def stageSrc (d : Dev) (c i : Nat) (s : FscStage) (x : Desc) (stepped : Bool) : Desc :=
  if s.inSlot ≠ 0xFF then { x with addr := (d.slotHalf c s.inSlot (i % 2) : Nat), space := 0 }
  else if stepped then { x with addr := x.addr + (i : Int) * s.step } else x
/-- A destination operand: the half of OUT_SLOT, else its address, stepped for WRITE. -/
def stageDst (d : Dev) (c i : Nat) (s : FscStage) (x : Desc) (stepped : Bool) : Desc :=
  if s.outSlot ≠ 0xFF then { x with addr := (d.slotHalf c s.outSlot (i % 2) : Nat), space := 0 }
  else if stepped then { x with addr := x.addr + (i : Int) * s.step } else x

/-- The board ranges that VEC, CVT, TOPK and SEND bodies need, with the first source given (R240): rows, prior values of FMA, conversion
parameters, lists. -/
def vecRanges (d : Dev) (c w : Nat) (da dd : Desc) : List (Nat × Nat × Nat × Nat) :=
  d.rowRanges c da ++ (if vecBinary (IW.vOp w) then d.rowRanges c (d.desc c (IW.vDb w)) else [])
    ++ (if IW.vOp w = 0x04 then d.rowRanges c dd else [])
def cvtRanges (d : Dev) (c w : Nat) (ds : Desc) : List (Nat × Nat × Nat × Nat) :=
  d.rowRanges c ds ++ (if IW.cNoParam w then [] else d.paramRanges c (IW.cDp w))
def topkRanges (d : Dev) (c w : Nat) (q : Desc) : List (Nat × Nat × Nat × Nat) :=
  let lists := fun (x : Desc) => if x.space = 4 then
      (List.range (IW.tNq w)).map fun j => (4, x.cm, (x.addr + ((j * x.pitch : Nat) : Int)).toNat, 16 * x.cols) else []
  let t := d.desc c (IW.tDt w)
  if IW.tEngine w = 2 then
    (if q.kind = 1 then d.rowRanges c q else lists q) ++ (if t.kind = 1 then d.rowRanges c t else lists t)
  else d.rowRanges c q
def sendRanges (w : Nat) (x : Desc) : List (Nat × Nat × Nat × Nat) :=
  if x.space ≠ 4 then []
  else if IW.nClass w = 1 then
    (List.range x.rows).map fun j => (4, x.cm, (x.addr + ((j * x.pitch : Nat) : Int)).toNat, 16 * x.cols)
  else [(4, x.cm, x.addr.toNat, x.rows * x.pitch)]

/-- The job of an arrays stage at an iteration (R107). A KBASE that passes 2^32 wraps: no rule says what it then is (log 78). -/
def stageMxm (d : Dev) (c : Nat) (f : FscRun) (got : List Piece) (s : FscStage) (i : Nat) : MxmJob :=
  let w := s.word
  let p := max 1 (fscPeriod f.record)
  let ad := d.stageSrc c i s (d.desc c (IW.mAd w)) true
  { op := if s.ty = 3 then 0 else IW.mOp w, oblong := IW.mOblong w, afmt := (NumFmt.ofCode3 (IW.mAfmt w)).getD .fp32
    mask := IW.mMask w, m := IW.mRows w, bank := IW.mBank w, base := IW.mBase w
    add := if i % p = 0 then IW.mAdd w else true, drain := IW.mDrain w && decide (i % p = p - 1), piece := IW.mPiece w
    kbase := (IW.mKbase w + (i % p) * ad.cols) % 2 ^ 32, ad := ad, od := d.stageDst c i s (d.desc c (IW.mOd w)) false
    pc := f.pc, entry := f.no, got := got }

/-- The rows of an arrays job carry a mark in the accumulators: no row is written for a damaged operand (R108). -/
def accDamage (d : Dev) (c : Nat) (j : MxmJob) (st : Status) : Dev :=
  d.onCore c fun x => { x with arr := { x.arr with
    accMarks := (maskArrays j.mask).foldl (fun t a => (List.range j.m).foldl (fun t r =>
      Table.set none t (accKey a j.bank j.oblong j.op (j.base + r) 0) (some st)) t) x.arr.accMarks } }

/-- Every row of an arrays job is drained in turn, and its flagged tile is captured (R40, R55). -/
def drainAll (d : Dev) (c : Nat) (j : MxmJob) : Dev :=
  let sel := maskArrays j.mask
  let z := (sel.zip (List.range sel.length)).foldl (fun (s : List (Nat × Nat × Nat × Bool) × Dev) ai =>
    (List.range j.m).foldl (fun s r =>
      let x := s.2.drainRow c j ai.2 ai.1 r
      (match x.1 with
        | some (col, isNan) => if s.1.any (fun f => f.1 = ai.1) then s.1 else s.1 ++ [(ai.1, r, col, isNan)]
        | none => s.1, x.2)) s) (([] : List (Nat × Nat × Nat × Bool)), d)
  z.2.captureTile c j z.1
/-- The first mark that the output of an arrays job carries: of its accumulator rows, or of its conversion parameters (R254). -/
def outMark (d : Dev) (c : Nat) (j : MxmJob) : Option Status :=
  orMark (firstSome ((maskArrays j.mask).flatMap fun a => (List.range j.m).map fun r =>
    (d.core c).arr.accMarks.get none (accKey a j.bank j.oblong j.op (j.base + r) 0)))
    (d.convParams c j.got j.od.param (min j.od.cols (tileCols j.oblong))).2.1

/-- An arrays stage: load, stream, and drain at the end of a period. A damaged tile or operand writes no accumulator row and drains
nothing (R90, R108); with `slot` the output is a half of a fused slot, into which a fault writes nothing. -/
def stageArrays (d : Dev) (c : Nat) (j : MxmJob) (staging : Nat) (slot : Bool) (gap : Nat) (bubbles : List Nat) (pre : Option Status) :
    Option Status × Dev :=
  let tile := (d.core c).arr.slots.get none staging
  match orMark pre (tile.bind fun t => t.bad), tile with
  | some st, _ => (some st, (d.accDamage c j st).failRows j st)
  | none, none => (none, d)
  | none, some t =>
    let d1 := ((d.loadShadow c j.mask j.oblong (decide (j.afmt = .of8)) t).activateTiles c j gap bubbles).streamBlock c j t
    if !j.drain then (none, d1)
    else
      let mk := d1.outMark c j
      if slot && mk.isSome then (mk, match mk with | some st => d1.failRows j st | none => d1) else (mk, d1.drainAll c j)

/-- One iteration of a stage on undamaged or damaged operands: answers the damage of what it writes. A SEND stage's is in `stageSend`. -/
def stageDo (d : Dev) (c : Nat) (f : FscRun) (got : List Piece) (s : FscStage) (i gap : Nat) (bubbles : List Nat)
    (pre : Option Status) : Option Status × Dev :=
  let w := s.word
  let slot : Bool := s.outSlot ≠ 0xFF
  match s.ty, pre with
  | 2, pre =>
    let j := { ldwJob w with slot := (IW.lSlot w + i) % 4
                             src := if s.inSlot ≠ 0xFF then d.slotHalf c s.inSlot (i % 2)
                                    else ((IW.lSrc w : Nat) : Int) + (i : Int) * s.step }
    (pre, match pre with
      | some st => d.setSlot c j.slot ⟨j.wfmt, j.oblong, [], some st⟩
      | none => d.loadTile c j)
  | 3, pre => d.stageArrays c (d.stageMxm c f got s i) ((IW.mSlot w + i) % 4) slot gap bubbles pre
  | 4, pre => d.stageArrays c (d.stageMxm c f got s i) ((IW.mSlot w + i) % 4) slot gap bubbles pre
  | 7, pre => d.topkDo c f.no got w (d.stageSrc c i s (d.desc c (IW.tDq w)) true) (d.desc c (IW.tDt w))
      (d.stageDst c i s (d.desc c (IW.tDl w)) false) pre !slot
  | _, some st => (some st, d.fscFail c f.record st)
  | 1, none => d.movDo c f.no got (IW.sTrans w) (IW.sSkew w) (IW.sOblong w) slot (IW.sBlocks w) (IW.sRows w)
      (d.stageSrc c i s (d.desc c (IW.cDs w)) true) (d.stageDst c i s (d.desc c (IW.cDd w)) false)
  | 8, none => d.movDo c f.no got (IW.sTrans w) (IW.sSkew w) (IW.sOblong w) slot (IW.sBlocks w) (IW.sRows w)
      (d.stageSrc c i s (d.desc c (IW.cDs w)) false) (d.stageDst c i s (d.desc c (IW.cDd w)) true)
  | 5, none => d.vecDo c f.no got (IW.vOp w) (IW.vImm w) (IW.vBcast w) slot (d.stageSrc c i s (d.desc c (IW.vDa w)) true)
      (d.desc c (IW.vDb w)) (d.stageDst c i s (d.desc c (IW.vDd w)) false)
  | 6, none => d.cvtDo c f.no f.pc got (IW.cPiece w) (if IW.cNoParam w then 0xFFFF else IW.cDp w) slot
      (d.stageSrc c i s (d.desc c (IW.cDs w)) true) (d.stageDst c i s (d.desc c (IW.cDd w)) false)
  | _, none => (none, d)

/-- The board ranges a stage's sources need (R240). -/
def stageRanges (d : Dev) (c : Nat) (f : FscRun) (s : FscStage) (i : Nat) : List (Nat × Nat × Nat × Nat) :=
  let w := s.word
  match s.ty with
  | 1 => d.rowRanges c (d.stageSrc c i s (d.desc c (IW.cDs w)) true)
  | 8 => d.rowRanges c (d.stageSrc c i s (d.desc c (IW.cDs w)) false)
  | 3 => d.mxmRanges c (d.stageMxm c f [] s i)
  | 4 => d.mxmRanges c (d.stageMxm c f [] s i)
  | 5 => d.vecRanges c w (d.stageSrc c i s (d.desc c (IW.vDa w)) true) (d.stageDst c i s (d.desc c (IW.vDd w)) false)
  | 6 => d.cvtRanges c w (d.stageSrc c i s (d.desc c (IW.cDs w)) true)
  | 7 => d.topkRanges c w (d.stageSrc c i s (d.desc c (IW.tDq w)) true)
  | 9 => sendRanges w (d.stageSrc c i s (d.desc c (IW.nDs w)) true)
  | _ => []

/-- Change the `run`-th running fused command of a core. -/
def onFsc (d : Dev) (c run : Nat) (g : FscRun → FscRun) : Dev :=
  d.onCore c fun x => { x with q := { x.q with fscs := x.q.fscs.modify run g } }
/-- A stage has finished an iteration, and has left its output's half damaged or not. -/
def stageEnds (d : Dev) (c run j : Nat) (s : FscStage) (i : Nat) (damage : Option Status) : Dev :=
  d.onFsc c run fun f => { f with
    fin := f.fin.set j (f.fin.getD j 0 + 1), arrival := if s.ty = 7 then none else f.arrival
    damage := if s.outSlot = 0xFF then f.damage else f.damage.set none (2 * s.outSlot + i % 2) damage }
/-- A SEND stage's message leaves: its iteration has finished once every receiver has written it or has been detached (R84, R106). -/
def stageSend (d : Dev) (c run j : Nat) (f : FscRun) (got : List Piece) (s : FscStage) (i lag : Nat) : Dev :=
  let r := d.sendDo c f.no got s.word lag (d.stageSrc c i s (d.desc c (IW.nDs s.word)) true)
  if r.1 then r.2.stageEnds c run j s i none else r.2.onFsc c run fun f => { f with sending := true }

/-- An iteration of a stage, with the damage of what it reads and writes (R106 to R108). -/
def stageGo (d : Dev) (c run j : Nat) (f : FscRun) (got : List Piece) (lag gap : Nat) (bubbles : List Nat) : Dev :=
  let s := fscStage f.record j
  let i := stageNext s (fscPeriod f.record) (f.fin.getD j 0)
  let pre := if s.inSlot = 0xFF then none else f.damage.get none (2 * s.inSlot + i % 2)
  if s.ty = 9 && pre.isNone then d.stageSend c run j f got s i lag
  else
    let r := d.stageDo c f got s i gap bubbles pre
    r.2.stageEnds c run j s i r.1

/-- What holds an iteration of a stage back beside R106: an EXPAND waits for the MXMs that were issued before the command and name its
slot (R51), an MXM or DIST for loaded MXMs and rows to drain (R52, R53, R61), a write to CMEM for TOPKs issued before it, and a TOPK for its turn and for such writes (R138, R142). -/
def stageWaits (d : Dev) (c : Nat) (f : FscRun) (s : FscStage) (i : Nat) : Bool :=
  let w := s.word
  match s.ty with
  | 2 => d.slotHeld c f.no ((IW.lSlot w + i) % 4)
  | 3 | 4 => match (d.core c).arr.slots.get none ((IW.mSlot w + i) % 4) with
    | some t => d.stageHeld c w (IW.mOblong w, t.fmt.grouped && decide (IW.mAfmt w = 3))
    | none => false
  | 1 => (movSpans w (d.desc c (IW.cDs w)) (d.stageDst c i s (d.desc c (IW.cDd w)) false)).any (d.writeWaits f.no)
  | 8 => (movSpans w (d.desc c (IW.cDs w)) (d.stageDst c i s (d.desc c (IW.cDd w)) true)).any (d.writeWaits f.no)
  | 7 => d.engineHolds c w f.no (f.arrival.getD d.arrivalNo)
  | _ => false
/-- A TOPK stage's iteration arrives at its engine: it takes the next place in the order of arrival (R138). -/
def stageArrives (d : Dev) (c run : Nat) (f : FscRun) (s : FscStage) : Dev :=
  if s.ty ≠ 7 || f.arrival.isSome || IW.tEngine s.word ≥ 2 then d
  else
    let d1 := d.onFsc c run fun f => { f with arrival := some d.arrivalNo }
    { d1 with arrivalNo := d.arrivalNo + 1 }

/-- The next iteration of a stage of the `run`-th running fused command, when it may begin (R106 to R108). -/
def stageIteration (d : Dev) (c run j gap : Nat) (bubbles : List Nat) : Dev :=
  match (d.core c).q.fscs[run]? with
  | none => d
  | some f =>
    let s := fscStage f.record j
    let i := stageNext s (fscPeriod f.record) (f.fin.getD j 0)
    if !f.may j i then d
    else
      let e := (d.core c).q.se.find? fun e => e.no = f.no && e.token.isNone
      let got := (e.map (·.got)).getD []
      let need := missing got d.moduleNo (d.stageRanges c f s i)
      if d.circ.boards.any fun b => b.core = some c && b.entry = f.no && !b.store then d
      else if !need.isEmpty then
        let a := d.askPieces c f.no need
        a.2.onEntry c f.no fun e => { e with got := e.got ++ a.1 }
      else
        let d1 := d.stageArrives c run f s
        if d.stageWaits c f s i then d1 else d1.stageGo c run j f got ((e.map (·.lag)).getD 0) gap bubbles

end Dev
end Sys2Proof.Machine
end

