-- ==== Sys2Proof/Machine/Sequencer.lean ====
section
/-! DEFINITION. The sequencer and the unit queues of a core (R77, R82 to R84, R97, R98): issue, the start of an entry, the
completion of the head of a queue, FE, BAR, PHASE and HALT, with the table's rows for core instructions and for the events of the
cores. -/

namespace Sys2Proof.Machine

namespace Dev

/-- The completion signal that an instruction word asks for (R84). -/
def doneOf (d : Dev) (c w : Nat) : Dev := if IW.dn w then d.signal c (IW.doneId w) else d
/-- Change a core's sequencer. -/
def onSeq (d : Dev) (c : Nat) (f : Seq → Seq) : Dev := d.onCore c fun x => { x with seq := f x.seq }
/-- A core does something for the last time so far (R325). -/
def stamped (d : Dev) (c : Nat) : Dev := d.onSeq c fun s => { s with lastAt := d.now }

/-- The instruction word a running sequencer executes next; `none` while it does not run or waits at an FE or a BAR. -/
def wordAt (d : Dev) (c : Nat) : Option Nat :=
  let s := (d.core c).seq
  if s.st == .run && s.fe.isNone && s.bar.isNone then some (s.program.get 0 s.pc).toNat else none

/-! ### The start of an entry -/

/-- The board ranges an instruction's sources need (R240). -/
def entryRanges (d : Dev) (c : Nat) (w : Nat) : List (Nat × Nat × Nat × Nat) :=
  let o := IW.opc w
  if o = IW.oVec then d.vecRanges c w (d.desc c (IW.vDa w)) (d.desc c (IW.vDd w))
  else if o = IW.oCvt then d.cvtRanges c w (d.desc c (IW.cDs w))
  else if o = IW.oMov then d.rowRanges c (d.desc c (IW.cDs w))
  else if o = IW.oTopk then d.topkRanges c w (d.desc c (IW.tDq w))
  else if o = IW.oSend then sendRanges w (d.desc c (IW.nDs w))
  else []

/-- The effect of an entry as it starts; a SEND or RECV may go on, an FSC does. -/
def beginEntry (d : Dev) (c : Nat) (e : QEnt) : Dev :=
  let w := e.word.toNat
  let o := IW.opc w
  if o = IW.oLdw then d.loadTile c (ldwJob w)
  else if o = IW.oVec then (d.vecDo c e.no e.got (IW.vOp w) (IW.vImm w) (IW.vBcast w) false (d.desc c (IW.vDa w)) (d.desc c (IW.vDb w))
    (d.desc c (IW.vDd w))).2
  else if o = IW.oCvt then (d.cvtDo c e.no e.pc e.got (IW.cPiece w) (if IW.cNoParam w then 0xFFFF else IW.cDp w) false
    (d.desc c (IW.cDs w)) (d.desc c (IW.cDd w))).2
  else if o = IW.oMov then (d.movDo c e.no e.got (IW.sTrans w) (IW.sSkew w) (IW.sOblong w) false (IW.sBlocks w) (IW.sRows w)
    (d.desc c (IW.cDs w)) (d.desc c (IW.cDd w))).2
  else if o = IW.oTopk then (d.topkDo c e.no e.got w (d.desc c (IW.tDq w)) (d.desc c (IW.tDt w)) (d.desc c (IW.tDl w)) none true).2
  else if o = IW.oFsc then d.onCore c fun x => { x with q := { x.q with fscs := x.q.fscs ++
    [{ no := e.no, pc := e.pc, record := x.seq.fused.get [] (IW.fRecord w), fin := List.replicate 8 0, damage := [] }] } }
  else if o = IW.oSend then
    let r := d.sendDo c e.no e.got w e.lag (d.desc c (IW.nDs w))
    if r.1 then r.2.onEntry c e.no fun y => { y with st := .done } else r.2
  else if o = IW.oRecv then d.recvTry c e
  else d

/-- An entry begins: a board load its sources still lack leaves first (R240). A SEND, a RECV and an FSC go on; a RECV's wait, which the
watchdog watches, begins (R269). -/
def entryGo (d : Dev) (c : Nat) (e : QEnt) : Dev :=
  let o := IW.opc e.word.toNat
  let need := missing e.got d.moduleNo (d.entryRanges c e.word.toNat)
  if d.circ.boards.any fun b => b.core = some c && b.entry = e.no && !b.store then d
  else if !need.isEmpty then
    let a := d.askPieces c e.no need
    a.2.onEntry c e.no fun e => { e with asked := true, got := e.got ++ a.1 }
  else
    let st : QSt := if o = IW.oFsc || o = IW.oSend || o = IW.oRecv then .begun else .done
    (d.onEntry c e.no fun y => { y with st := st, since := d.now }).beginEntry c e
/-- A TOPK at the head of its unit arrives at its engine: it takes the next place in the order of arrival (R138). -/
def topkArrives (d : Dev) (c : Nat) (e : QEnt) : Dev :=
  if e.arrival.isSome || IW.tEngine e.word.toNat ≥ 2 then d
  else
    let d1 := d.onEntry c e.no fun y => { y with arrival := some d.arrivalNo }
    { d1 with arrivalNo := d.arrivalNo + 1 }

/-- The first waiting entry of a unit starts, when it may: the unit is not held, no token stands before it, and what R51, R83,
R105, R138 and R142 ask for holds. The arrays start theirs by events of their own (R52). -/
def startNext (d : Dev) (c : Nat) (u : CoreUnit) : Dev :=
  let q := d.queue c u
  let before := q.takeWhile fun e => e.st != .queued
  match q.drop before.length with
  | [] => d
  | e :: _ =>
    let w := e.word.toNat
    let o := IW.opc w
    let alone := u == .ex || u == .vu || u == .cx
    if u == .ar || e.token.isSome || d.claimed c u || (alone && !before.isEmpty) then d
    else if u == .cx then
      let d1 := d.topkArrives c e
      if d1.engineHolds c w e.no (e.arrival.getD d.arrivalNo) then d1 else d1.entryGo c e
    else if u == .ex && d.slotHeld c e.no (IW.lSlot w) then d
    else if o = IW.oFsc && d.fscHeld c e then
      if e.asked then d else d.onEntry c e.no fun y => { y with asked := true, since := d.now }
    else if o = IW.oMov && (d.writeBanks c w).any (fun b => d.writeWaits e.no b) then d
    else d.entryGo c e

/-- Whatever can start in a unit's queue, in order. -/
def startAll (c : Nat) (u : CoreUnit) : Nat → Dev → Dev
  | 0, d => d
  | n + 1, d => startAll c u n (d.startNext c u)

/-! ### BAR (R98) -/

/-- A logical core has reached a BAR for the one that core `c` waits at: one that names `c`'s logical number and has met no earlier BAR of
`c`'s, or one at which it stands and that does not name it (R98; log 57). -/
def barPeer (d : Dev) (c id l : Nat) : Bool :=
  match d.physCore l with
  | none => true
  | some p => p = c || (d.core c).seq.barIn.contains (l, id) || match (d.core p).seq.bar with
    | some v => IW.bCores v.toNat && IW.bId v.toNat = id && !(d.logicalOf c).any fun x => bitOf (IW.bMask v.toNat) x
    | none => false
/-- Every logical core that a waiting BAR names has reached one of the same number. -/
def barReached (d : Dev) (c : Nat) (w : Quad) : Bool :=
  ((List.range 8).filter fun l => bitOf (IW.bMask w.toNat) l).all (d.barPeer c (IW.bId w.toNat))
/-- The units a BAR names have completed everything issued before it. -/
def barUnits (d : Dev) (c : Nat) (w : Nat) : Bool :=
  allUnits.all fun u => !bitOf (IW.bUnits w) (unitBit u) || (d.queue c u).all fun e => e.token.isSome
/-- A BAR is met: the cores it names have been reached for it, and have yet to be for a later one of its number. -/
def meetBar (s : Seq) : Seq :=
  match s.bar with
  | none => s
  | some w => if s.barMet || !IW.bCores w.toNat then { s with barMet := true } else
    { s with barMet := true, barIn := ((List.range 8).filter fun l => bitOf (IW.bMask w.toNat) l).foldl (fun b l => b.erase (l, IW.bId w.toNat)) s.barIn }
/-- Waiting BARs that are met are marked, and each that may be released is, with its completion signal. -/
def barCheck (d : Dev) : Dev :=
  let met := (List.range 8).filter fun c => match (d.core c).seq.bar with
    | some w => (d.core c).seq.barMet || !IW.bCores w.toNat || d.barReached c w
    | none => false
  (d.each met fun d c => d.onSeq c meetBar).each met fun d c =>
    match (d.core c).seq.bar with
    | none => d
    | some w =>
      if d.barUnits c w.toNat then
        (d.onSeq c fun s => { s with bar := none, barMet := false, pc := s.pc + 1 }).doneOf c w.toNat
      else d

/-- Everything on the cores that can go on now: entries that may start, on the cores in ascending logical number (R138) and their units in
order, then BARs. -/
def coresGo (d : Dev) : Dev :=
  (d.each (d.coreOrder.flatMap fun c => allUnits.map fun u => (c, u)) fun d x =>
    startAll x.1 x.2 ((d.queue x.1 x.2).length) d).barCheck

/-! ### Issue -/

/-- The entry that an instruction becomes in its unit's queue. -/
def newEntry (d : Dev) (c w : Nat) (token : Option Nat) : QEnt :=
  { word := BitVec.ofNat 128 w, pc := (d.core c).seq.pc, token := token, st := .queued, drain := [],
    no := d.issueNo, asked := false, got := [], lag := d.lagLimit 0 }
/-- An instruction takes its place in its unit's queue, and the sequencer goes on (R83). -/
def enqueue (d : Dev) (c : Nat) (u : CoreUnit) (w : Nat) : Dev :=
  let d1 := (d.putQueue c u (d.queue c u ++ [d.newEntry c w none])).onSeq c fun s => { s with pc := s.pc + 1 }
  { d1 with issueNo := d1.issueNo + 1 }
/-- An instruction is issued into its unit's queue, which must have room (R83). -/
def issue (d : Dev) (c : Nat) (u : CoreUnit) (w : Nat) : Dev :=
  if (d.queue c u).length ≥ unitDepth u then d else (d.enqueue c u w).coresGo

/-- The sequencer issues the word at its pc when the word passes a test. -/
def issueIf (d : Dev) (c : Nat) (u : CoreUnit) (test : Nat → Bool) : Dev :=
  match d.wordAt c with
  | some w => if test w then d.issue c u w else d
  | none => d
/-- The sequencer executes the word at its pc itself, when the word has an opcode, and signals its completion (R84). -/
def doIf (d : Dev) (c opc : Nat) (f : Seq → Seq) : Dev :=
  match d.wordAt c with
  | some w => if IW.opc w = opc then ((d.onSeq c fun s => f { s with pc := s.pc + 1 }).stamped c).doneOf c w else d
  | none => d

/-- A BAR is reached: the sequencer waits at it, and the other cores that it names, across cores, are told (R98). -/
def barHere (d : Dev) (c w : Nat) : Dev :=
  let told := if IW.bCores w then (List.range 8).filter fun p => p ≠ c && (d.logicalOf p).any fun l => bitOf (IW.bMask w) l else []
  (d.onSeq c fun s => { s with bar := some (BitVec.ofNat 128 w), barMet := false }).each told fun d p =>
    d.onSeq p fun s => { s with barIn := s.barIn ++ (d.logicalOf c).toList.map fun l => (l, IW.bId w) }
/-- A BAR is executed. -/
def barIssue (d : Dev) (c : Nat) : Dev :=
  match d.wordAt c with
  | some w => if IW.opc w = IW.oBar then (d.barHere c w).coresGo else d
  | none => d

/-- The bytes of a board sync operation after its head (log 15). -/
def boardSyncBytes (d : Dev) (w : Nat) : Bytes :=
  d.boardHead 2 0 none ++ leBytes 2 (IW.eSync w) ++ ofNats [IW.eFop w, b2n (IW.eGe w)] ++ zeros 4 ++ leBytes 8 (IW.eImm w)

/-- The queues that an FE's GATE names. -/
def gates (w : Nat) : List CoreUnit := allUnits.filter fun u => bitOf (IW.eGate w) (unitBit u)
/-- The FE's token stands in every gated queue, and the sequencer goes on, or, with GATE 0, waits (R97). -/
def feTokens (d : Dev) (c w : Nat) : Dev :=
  let no := (d.core c).seq.feNo
  let d1 := d.each (gates w) fun x u => x.putQueue c u (x.queue c u ++ [d.newEntry c w (some no)])
  let d2 := d1.onSeq c fun s => { s with pc := s.pc + 1, feNo := no + 1, fe := if (gates w).isEmpty then some no else none }
  { d2 with issueNo := d2.issueNo + 1 }
/-- The sync operation of an FE (R97, R264). -/
def feReq (d : Dev) (c w : Nat) (op : SyncOp) : SyncReq :=
  ⟨op, IW.eGe w, BitVec.ofNat 64 (IW.eImm w), d.workCtx,
    .fe c (d.core c).seq.feNo (IW.eGate w) (if IW.dn w then some (IW.doneId w) else none), d.now⟩
/-- An FE whose operation cannot be performed completes without effect (R267). -/
def feFails (d : Dev) (r : SyncReq) (st : Status) : Dev :=
  let x := d.syncFailed r st
  match x.2 with | none => x.1 | some (leaf, w', r') => x.1.syncIssue leaf w' r'
/-- The operation of an FE leaves for its word: over the board, or on the station (R97, R240, R266). -/
def feSend (d : Dev) (c w entry : Nat) (r : SyncReq) : Dev :=
  if IW.eBoard w && IW.eModule w ≠ d.moduleNo then
    let x := d.boardOut (some c) entry (IW.eModule w) 5 true 0 0 (some r) (d.boardSyncBytes w)
    match x.1 with | none => x.2 | some st => x.2.feFails r st
  else match d.syncPhys d.workCtx (IW.eSync w) with
    | some p => d.syncIssue (coreLeaf c) p r
    | none => d.feFails r St.notPermitted
/-- FE: one sync operation, with a token in every queue that GATE names, which must have room (R97). -/
def feIssue (d : Dev) (c : Nat) (op : SyncOp) : Dev :=
  match d.wordAt c with
  | none => d
  | some w =>
    if IW.opc w ≠ IW.oFe || IW.fop w != some op then d
    else if (gates w).any fun u => (d.queue c u).length ≥ unitDepth u then d
    else ((d.feTokens c w).feSend c w d.issueNo (d.feReq c w op)).coresGo

/-! ### Completion (R83, R84) -/

/-- Whether the head of a unit's queue has finished. -/
def headFinished (d : Dev) (c : Nat) (e : QEnt) : Bool :=
  e.token.isNone && (d.circ.boards.all fun b => !(b.core = some c && b.entry = e.no)) &&
    (if IW.opc e.word.toNat = IW.oFsc then
      (d.core c).q.fscs.any (fun f => f.no = e.no && f.ended) && d.circ.sends.all fun s => !(s.core = c && s.no = e.no)
    else e.st == .done)

/-- An entry leaves the head of a unit's queue, and an FSC's slots and units are free. -/
def leaveQueue (d : Dev) (c : Nat) (u : CoreUnit) (e : QEnt) (t : List QEnt) : Dev :=
  (d.putQueue c u t).onCore c fun x => { x with q := { x.q with fscs := x.q.fscs.filter fun f => f.no != e.no || u != .se } }
/-- The head of a unit's queue completes: it leaves, and its DONE is signalled. -/
def complete (d : Dev) (c : Nat) (u : CoreUnit) : Dev :=
  match d.queue c u with
  | [] => d
  | e :: t => if d.headFinished c e then (((d.leaveQueue c u e t).stamped c).doneOf c e.word.toNat).coresGo else d

end Dev

/-! ### The rows: core instructions -/

/-- R98. -/
def execNop (core : CoreId) (s : State) : Answer := s.on fun d => d.live fun d => d.doIf core.val IW.oNop id
/-- R98. -/
def execHalt (core : CoreId) (s : State) : Answer :=
  s.on fun d => d.live fun d => d.doIf core.val IW.oHalt fun q => { q with st := .halted }
/-- R77, R98. -/
def execPhase (core : CoreId) (s : State) : Answer :=
  s.on fun d => d.live fun d =>
    (d.given ((d.wordAt core.val).any fun w => IW.opc w = IW.oPhase) fun d => d.keepStandOff core.val).doIf core.val IW.oPhase
      fun q => { q with st := .atPhase }
/-- R98. -/
def execBar (core : CoreId) (s : State) : Answer := s.on fun d => d.live fun d => d.barIssue core.val
/-- R48, R89. -/
def execMxm (core : CoreId) (s : State) : Answer :=
  s.on fun d => d.live fun d => d.issueIf core.val .ar fun w => IW.opc w = IW.oMxm
/-- R63, R89. -/
def execDist (core : CoreId) (s : State) : Answer :=
  s.on fun d => d.live fun d => d.issueIf core.val .ar fun w => IW.opc w = IW.oDist
/-- R51, R91. -/
def execLdw (core : CoreId) (found : List Found) (s : State) : Answer :=
  s.on fun d => d.live fun d => (d.found found).issueIf core.val .ex fun w => IW.opc w = IW.oLdw
/-- R92, R100. -/
def execVec (core : CoreId) (found : List Found) (s : State) : Answer :=
  s.on fun d => d.live fun d => (d.found found).issueIf core.val .vu fun w => IW.opc w = IW.oVec
/-- R93. -/
def execCvt (core : CoreId) (found : List Found) (s : State) : Answer :=
  s.on fun d => d.live fun d => (d.found found).issueIf core.val .vu fun w => IW.opc w = IW.oCvt
/-- R94, R102. -/
def execMov (core : CoreId) (found : List Found) (s : State) : Answer :=
  s.on fun d => d.live fun d => (d.found found).issueIf core.val .se fun w => IW.opc w = IW.oMov
/-- R105. -/
def execFsc (core : CoreId) (s : State) : Answer :=
  s.on fun d => d.live fun d => d.issueIf core.val .se fun w => IW.opc w = IW.oFsc
/-- R106 to R108. -/
def execFusedStageIteration (core : CoreId) (run : Fin 4) (stage : Fin 8) (gap : Nat) (bubbles : List Nat) (found : List Found) (s : State) : Answer :=
  s.on fun d => d.live fun d => ((d.found found).stageIteration core.val run.val stage.val gap bubbles).coresGo
/-- R95, R136. -/
def execTopkCmem (core : CoreId) (found : List Found) (s : State) : Answer :=
  s.on fun d => d.live fun d => (d.found found).issueIf core.val .cx fun w => IW.opc w = IW.oTopk && IW.tEngine w = 0
/-- R95, R141. -/
def execTopkScan (core : CoreId) (found : List Found) (s : State) : Answer :=
  s.on fun d => d.live fun d => (d.found found).issueIf core.val .cx fun w => IW.opc w = IW.oTopk && IW.tEngine w = 1
/-- R95, R143. -/
def execTopkMerge (core : CoreId) (found : List Found) (s : State) : Answer :=
  s.on fun d => d.live fun d => (d.found found).issueIf core.val .cx fun w => IW.opc w = IW.oTopk && IW.tEngine w = 2
/-- R96. -/
def execSend (core : CoreId) (found : List Found) (s : State) : Answer :=
  s.on fun d => d.live fun d => (d.found found).issueIf core.val .rg fun w => IW.opc w = IW.oSend
/-- R96, R176. -/
def execRecv (core : CoreId) (s : State) : Answer :=
  s.on fun d => d.live fun d => d.issueIf core.val .rg fun w => IW.opc w = IW.oRecv
/-- R97, R264. -/
def execWriteFill (core : CoreId) (s : State) : Answer := s.on fun d => d.live fun d => d.feIssue core.val .writeFill
/-- R97, R264. -/
def execReadEmpty (core : CoreId) (s : State) : Answer := s.on fun d => d.live fun d => d.feIssue core.val .readEmpty
/-- R97, R264. -/
def execReadPeek (core : CoreId) (s : State) : Answer := s.on fun d => d.live fun d => d.feIssue core.val .readPeek
/-- R97, R264. -/
def execFetchAddFull (core : CoreId) (s : State) : Answer := s.on fun d => d.live fun d => d.feIssue core.val .fetchAddFull
/-- R97, R264. -/
def execClear (core : CoreId) (s : State) : Answer := s.on fun d => d.live fun d => d.feIssue core.val .clear
/-- R97, R264. -/
def execWriteForce (core : CoreId) (s : State) : Answer := s.on fun d => d.live fun d => d.feIssue core.val .writeForce

/-! ### The rows: events of the cores, of sync words and of the activation channel -/

/-- R265. -/
def execHeldOpRepresent (leaf : LeafId) (found : List Found) (s : State) : Answer :=
  s.on fun d => d.live fun d => ((d.found found).represent leaf.val).coresGo
/-- R84. -/
def execInstructionComplete (core : CoreId) (unit : CoreUnit) (found : List Found) (s : State) : Answer :=
  s.on fun d => d.live fun d => (d.found found).complete core.val unit
/-- R52. -/
def execMxmLoadBegin (core : CoreId) (s : State) : Answer := s.on fun d => d.live fun d => (d.loadBegin core.val).coresGo
/-- R52. -/
def execBlockStreamBegin (core : CoreId) (gap : Nat) (bubbles : List Nat) (found : List Found) (s : State) : Answer :=
  s.on fun d => d.live fun d => (d.found found).streamBegin core.val gap bubbles
/-- R55. -/
def execRowDrain (core : CoreId) (array : Fin 4) (s : State) : Answer := s.on fun d => d.live fun d => d.drainNext core.val array.val
/-- R68. -/
def execKeepwarmTimeout (core : CoreId) (slots : Nat) (s : State) : Answer :=
  s.on fun d => d.live fun d => d.keepTimeout core.val slots
/-- R68. -/
def execKeepwarmStepDown (core : CoreId) (s : State) : Answer := s.on fun d => d.live fun d => d.keepStep core.val
/-- R174. -/
def execLagExpiry (src : BitVec 12) (tag : Half) (s : State) : Answer :=
  s.on fun d => d.live fun d => (d.lagExpire src.toNat tag.toNat).coresGo

end Sys2Proof.Machine
end

