-- ==== Sys2Proof/Machine/Stores.lean ====
section
/-! DEFINITION. What a core holds and how it is loaded and lost: the stores of a sequencer (R82), the map of logical cores (R17),
and the losses of memories and of the gathering (R61, R139, R247, R266, R290, R327). -/

namespace Sys2Proof.Machine

/-- The entry table's bytes in a PROGRAM section: one word per phase, padded to 64 (R82). -/
def entryBytes (b : Bytes) : Nat := alignUp (4 * ((phaseTable b).length / 96)) 64
/-- The sequencer of a logical core under a fold, as its sections load it (R82). -/
def loadedSeq (b : Bytes) (pos fold lc : Nat) : Seq :=
  let p := findSec b 5 pos fold lc
  let phases := (phaseTable b).length / 96
  let code := p.drop (entryBytes b)
  let words := (chunks 16 (code.length / 16) code).map fun w => (BitVec.ofNat 128 (le w 0 16) : Quad)
  let ds := findSec b 6 pos fold lc
  let fs := findSec b 7 pos fold lc
  { program := Table.setRange 0 [] 0 words
    descs := Table.setRange [] [] 0 (chunks 64 (ds.length / 64) ds)
    fused := Table.setRange [] [] 0 (chunks 288 (fs.length / 288) fs)
    entries := (List.range phases).map fun i => u32 p (4 * i) }

/-- The accumulators of a core read as +0, index 0 (R61). -/
def Arrays.lostAcc (a : Arrays) : Arrays := { a with acc := [], accMarks := [] }
/-- A core's rail is off: its slots are empty and its weight registers zero (log 74); its counters go on (R61, R70, R304). -/
def Arrays.off (a : Arrays) : Arrays :=
  { a.lostAcc with slots := [], shadow := [], active := [], config := none, keep := [] }

namespace Dev

/-! ### The map of R17 -/

/-- A core that is not parked. -/
def healthy (d : Dev) (c : Nat) : Bool := !bitOf d.flash.parked c
/-- The healthy cores of a leaf, lowest first. -/
def healthyOn (d : Dev) (leaf : Nat) : List Nat := ((List.range 4).map (· + 4 * leaf)).filter d.healthy
/-- Whether the healthy cores carry fold `n`: `n ÷ 2` of them on each leaf. -/
def foldFits (d : Dev) (n : Nat) : Bool := n / 2 ≤ (d.healthyOn 0).length && n / 2 ≤ (d.healthyOn 1).length
/-- The largest fold of R17 no larger than `allowed`; 0 when there is none. -/
def foldOf (d : Dev) (allowed : Nat) : Nat := (([8, 6, 4].filter fun n => n ≤ allowed && d.foldFits n).head?).getD 0
/-- The map of a fold: a core keeps its number while it stays healthy at the same fold, and a number left free goes to the lowest
healthy core of its leaf that has none; another fold takes the lowest healthy cores of each leaf (R17, DESIGN CHOICE, log 18). -/
def mapFor (d : Dev) (fold : Nat) : List Nat :=
  let m := d.work.coreMap
  if fold = d.pwr.fold && m.length = fold then
    m.foldl (fun acc c =>
      acc ++ [if d.healthy c then c else ((d.healthyOn (coreLeaf c)).find? fun x => !m.contains x && !acc.contains x).getD c]) []
  else (d.healthyOn 0).take (fold / 2) ++ (d.healthyOn 1).take (fold / 2)

/-- The stores of a physical core are loaded from the sections of its logical number (R82). -/
def reload (d : Dev) (c lc : Nat) : Dev :=
  d.onCore c fun x => { x with seq := loadedSeq d.binding d.position d.pwr.fold lc, arr := x.arr.lostAcc }
/-- A core leaves the running fold: its rail goes off (R304). -/
def coreOff (d : Dev) (c : Nat) : Dev := d.onCore c fun x => { x with seq := {}, q := {}, arr := x.arr.off }

/-- The logical cores whose part of the run HALT has ended (R98). -/
def haltedNow (d : Dev) : List Nat :=
  match d.work.run with
  | none => []
  | some r => if !r.begun then [] else
    (List.range 8).filter fun lc => r.halted.contains lc || match d.work.coreMap[lc]? with
      | some c => (d.core c).seq.st == .halted
      | none => false
/-- The fold and the map take effect: cores whose number or fold changes reload their stores and lose their accumulators (R17,
R61, R82). HALT lasts to the run's end for its logical number (R98; log 57). -/
def applyMap (d : Dev) (fold : Nat) : Dev :=
  let old := d.work.coreMap
  let changed := decide (fold ≠ d.pwr.fold)
  let m := d.mapFor fold
  let halted := d.haltedNow
  let d1 := (d.onPwr fun p => { p with fold := fold }).onWork fun w =>
    { w with coreMap := m, run := w.run.map fun r => { r with halted := halted } }
  d1.each (List.range 8) fun d c =>
    match (List.range m.length).find? fun i => m.getD i 99 = c with
    | some lc => if changed || old.getD lc 99 != c || old.length != m.length then
        (d.reload c lc).onCore c fun x => { x with seq := if halted.contains lc then { x.seq with st := .halted } else x.seq } else d
    | none => if old.contains c || changed then d.coreOff c else d

/-! ### Losses -/

/-- What is known of lists in a space is gone with the space's contents. -/
def dropLists (d : Dev) (space : Nat) : Dev := { d with lists := d.lists.filter fun r => r.space != space }
/-- Every core buffer reads as zero (R247). -/
def clearBuffers (d : Dev) : Dev := (d.each (List.range 8) fun d c => d.onCore c fun x => { x with buf := {} }).dropLists 0
/-- CMEM reads as zero, every row good (R139). -/
def clearCmem (d0 : Dev) : Dev :=
  let d := d0.dropLists 3
  { d with cmem := { d.cmem with bytes := [], marks := [], bad := [] } }
/-- Every accumulator, slot and queue of the cores is lost with their rails (R61, R304). -/
def coresOff (d : Dev) : Dev := d.each (List.range 8) fun d c => d.onCore c fun x =>
  { x with q := {}, arr := x.arr.off, seq := { x.seq with st := .idle, fe := none, bar := none } }
/-- Every sync word reads as zero and empty; operations on them are gone (R247). -/
def clearSync (d : Dev) : Dev := { d with sync := { d.sync with words := [], flyA := [], flyB := [], held := [] } }

/-- A TRANSIT message (R235): kind 1 set up, 2 accept, 3 refuse, 4 release; its layout is the model's (log 15). -/
def transitBytes (kind gath slice target : Nat) (hops : List Nat) : Bytes :=
  ofNats [8, kind] ++ leBytes 2 gath ++ leBytes 2 slice ++ leBytes 2 target ++ [byte hops.length] ++ hops.map byte

/-- The binding is no longer active (R13): what the ring agents kept for it goes (R158, R159). -/
def deactivate (d : Dev) : Dev :=
  (d.onWork fun w => { w with active := none, run := none, starts := [], aborts := [], passesInFlight := [], pendingBoundary := false }).onCirc
    fun q => { q with origins := [], sigs := [], builds := [], cross := q.cross.filter (!·.circ), sends := [], lost := [], nextSeq := 0, nextEntry := 0, stepPlaced := [] }

/-- A TRANSIT release leaves; while the finisher restarts it waits (R370). -/
def releaseOut (d : Dev) (port : Nat) (b : Bytes) : Dev :=
  if d.boot.restarting then { d with lnk := { d.lnk with transitOut := d.lnk.transitOut ++ [(port, b)] } } else d.linkOut port b
/-- The detours set up for neighbours of a gathering are released. -/
def releaseSetups (d : Dev) (g : Gathering) (nbrs : List Nbr) : Dev :=
  d.each (nbrs.filter fun n => !n.hops.isEmpty) fun d n => d.releaseOut n.port (transitBytes 4 g.number g.slice n.station n.hops)
/-- The station leaves its gathering (R236, R290): detours are released. -/
def releaseGath (d : Dev) : Dev :=
  match d.work.gath with
  | none => d
  | some g => (d.releaseSetups g g.nbrs).onWork fun w => { w with gath := none }

end Dev
end Sys2Proof.Machine
end

