-- ==== Sys2Proof/Machine/Power.lean ====
section
/-! DEFINITION. The power controller (chapter 12): the choice of fold and operating point (R315 to R319), operating-point changes and
droop (R310, R313, R314), the limiter (R321), heat (R322, R323), boost (R312), unit turn-off (R320), idle states (R325, R326) and
the stop (R327), with their rows of the table. -/

namespace Sys2Proof.Machine

/-- CORECLK at an operating point, in units of 10 MHz (R309). -/
def pointFreq : Nat → Nat
  | 0 => 150 | 1 => 175 | 2 => 200 | 3 => 225 | 4 => 245 | _ => 260
/-- Element `i` of a list replaced. -/
def setAt {α : Type} (l : List α) (i : Nat) (v : α) : List α := l.set i v

/-- What the controller chooses for a phase (R318). -/
structure Choice where
  fold : Nat
  point : Nat
  /-- Planned from hints or under the fallback of R317. -/ learning : Bool
deriving DecidableEq, Repr

/-- The choice with the larger throughput `f × F_o`, ties to the larger fold. -/
def bestChoice : List (Nat × Nat) → Option (Nat × Nat)
  | [] => none
  | x :: xs =>
    match bestChoice xs with
    | none => some x
    | some y =>
      let a := x.1 * pointFreq x.2; let b := y.1 * pointFreq y.2
      if a > b || (a = b && x.1 ≥ y.1) then some x else some y

namespace Dev

/-! ### R315 to R318 -/

/-- The fused voltage of a core at a point, mV. -/
def volt (d : Dev) (c o : Nat) : Nat := (d.fuses.volts.get [] c).getD o 0
/-- The scale factor s(o) of R309 for the cores of a fold. -/
def scaleOf (d : Dev) (f o : Nat) : Rat :=
  let cs := d.mapFor f
  let sum := (cs.map fun c => ((d.volt c o : Rat) / (d.volt c 3 : Rat)) ^ 2).foldl (· + ·) 0
  (pointFreq o : Rat) / 225 * sum / (cs.length : Rat)
/-- Whether a step of R322 has removed a point, or boost is withdrawn. -/
def pointGone (d : Dev) (o : Nat) : Bool :=
  let s := d.heat.steps
  (o ≥ 4 && (!flag d.pr.mode 3 || s ≥ 1 || d.pwr.boostAge)) || (o = 3 && s ≥ 4) || (o = 2 && s ≥ 5) || (o = 1 && s ≥ 6)
/-- PWR_MODE.FIXED and POINT. -/
def fixedMode (d : Dev) : Bool := flag d.pr.mode 0
def fixedPoint (d : Dev) : Nat := fld d.pr.mode 2 1
/-- The allowed set of a phase with its OPP_MASK (R315), in ascending order. -/
def allowedPoints (d : Dev) (mask : Nat) : List Nat :=
  if d.fixedMode then [d.fixedPoint]
  else
    let left := (List.range 6).filter fun o => !d.pointGone o
    let s := left.filter fun o => mask % 64 = 0 || bitOf mask o
    if s.isEmpty then [left.getLastD 0] else s
/-- The point of a phase with no candidate (R317): 2.25 GHz, or the nearest below it that is not removed; the fixed point in
fixed-frequency mode. -/
def fallbackPoint (d : Dev) : Nat :=
  if d.fixedMode then d.fixedPoint else (((List.range 4).filter fun o => !d.pointGone o).getLast?).getD 0
/-- The fold limit of the steps of R322. -/
def heatFold (d : Dev) : Nat := if d.heat.steps < 2 then 8 else if d.heat.steps = 2 then 6 else 4

/-- The learned record of phase `p`. -/
def learned (d : Dev) (p : Nat) : Learned := d.pwr.learned.get {} (d.learnKey p)
/-- The hint of phase `p` for a fold, in W (R76). -/
def hintOf (d : Dev) (p f : Nat) : Nat := u16 (phaseEntry d.binding p) (8 + 2 * foldIx f)
/-- A fold that may be planned (R317). -/
def candidate (d : Dev) (p f : Nat) : Bool := d.hintOf p f ≠ 0 || (d.learned p).n.getD (foldIx f) 0 ≥ 16
/-- core[f] and other[f] as planned (R317). -/
def planned (d : Dev) (p f : Nat) : Rat × Rat :=
  let r := d.learned p
  if r.n.getD (foldIx f) 0 = 0 then
    let core : Rat := 1625 / 10 * (f : Rat)
    (core, max 0 ((d.hintOf p f : Rat) - core))
  else (r.core.getD (foldIx f) 0, r.other.getD (foldIx f) 0)
/-- CAP_W, DWELL_MS and GUARD_W. -/
def capW (d : Dev) : Nat := fld d.pr.capCfg 11 0
def dwellMs (d : Dev) : Nat := fld d.pr.capCfg 19 12
def guardW (d : Dev) : Nat := fld d.pr.capCfg 27 20
/-- The slack of R318, in W × ns, over the samples taken of the last 20,000 (log 19). -/
def slack (d : Dev) : Rat :=
  let s : Int := (d.pwr.window.map fun (w : Nat) => (d.capW : Int) - (w : Int)).foldl (· + ·) 0
  ((max 0 s * 50000 : Int) : Rat)
/-- fits(f, o) of R318. -/
def fits (d : Dev) (p f o : Nat) : Bool :=
  let x := d.planned p f
  let pred := x.2 + x.1 * d.scaleOf f o + (d.guardW : Rat)
  let r := d.learned p
  pred ≤ (d.capW : Rat)
    || (pred ≤ 2750 && r.durN > 0 && r.dur ≤ 20000000 && (pred - (d.capW : Rat)) * r.dur ≤ d.slack)

/-- The controller's choice for phase `p` with folds up to `hf` (R318). A station that runs no fold yet is not held by DWELL_MS. -/
def choose (d : Dev) (p hf : Nat) : Choice :=
  let cur := d.pwr.fold
  let dwell := match d.pwr.foldChangedAt with | none => false | some t => decide (d.now - t < 1000000 * d.dwellMs)
  let allowed := d.allowedPoints (u8 (phaseEntry d.binding p) 14)
  let can := [8, 6, 4].filter (d.candidate p)
  if can.isEmpty then ⟨hf, d.fallbackPoint, true⟩
  else
    let cand := can.filter fun f => f ≤ hf && !(cur ≠ 0 && f > cur && dwell)
    let good := (cand.flatMap fun f => allowed.map fun o => (f, o)).filter fun x => d.fits p x.1 x.2
    let r := match bestChoice good with
      | some x => x
      | none => match cand.getLast? with
        | some f => (f, allowed.headD 0)
        | none => (if cur = 0 then hf else min cur hf, d.fallbackPoint)
    ⟨r.1, r.2, cand.isEmpty || (d.learned p).n.getD (foldIx r.1) 0 = 0⟩

/-! ### Logged changes of the controller (R319) -/

/-- The colophon refuses the controller's raises: it is full, or the finisher restarts. -/
def raiseRefused (d : Dev) : Bool := d.boot.restarting || !d.colRoom 1
/-- The reserved area has no room beyond the entries held for it, or the controller can hold no more but those of a stop (R368). -/
def safetyFull (d : Dev) : Bool :=
  decide (d.col.reserved.length + d.col.pendingSafety.length ≥ colReserved) || decide (d.col.pendingSafety.length + 2 ≥ heldSafety)
/-- The colophon takes no entry of a lowering either. -/
def lowerRefused (d : Dev) : Bool := d.raiseRefused && d.safetyFull
/-- The entry of a change of fold or point: in the main area, else as a safety action. -/
def logPower (d : Dev) (origin obj old new detail : Nat) : Dev :=
  if d.raiseRefused then d.logSafety origin 255 2 obj old new detail else d.log origin 255 2 obj old new detail

/-! ### Fold decision (R17, R319) -/

/-- The fold that the controller calls for when it chooses `want`: no raise and no lowering that the colophon refuses (R319). -/
def foldCall (d : Dev) (want : Nat) : Nat :=
  let cur := d.pwr.fold
  if cur ≠ 0 && ((decide (want > cur) && d.raiseRefused) || (decide (want < cur) && d.lowerRefused)) then cur else want
/-- Who calls for a change to fold `f`, the controller, whose own call is `own`, and parking (R17; log 41). -/
def foldCauses (d : Dev) (f own : Nat) : Bool × Bool :=
  let cur := d.pwr.fold; let health := d.foldOf 8
  let park := decide (cur ≠ 0 && health < cur)
  (!park || decide (own < cur) || decide (f < health), park)
/-- The fold changes or keeps, with its causes; `own` is the controller's call. -/
def setFold (d : Dev) (f own : Nat) : Dev :=
  let old := d.pwr.fold
  let by_ := d.foldCauses f own
  let d1 := d.applyMap f
  if f = old || old = 0 then d1
  else
    let d2 := d1.onPwr fun p => { p with foldChangedAt := some d.now }
    let d3 := { d2 with pc := { d2.pc with foldChange := satAdd d2.pc.foldChange 1 } }
    d3.logPower (if by_.1 then 4 else 5) (1 + 2 * b2n by_.1 + 4 * b2n by_.2) old f 0

/-- The fold of R17 for a phase: the controller's call and parking's taken together. -/
def decideFold (d : Dev) (p : Nat) : Dev × Choice :=
  let health := d.foldOf 8
  let ch := d.choose p (min health d.heatFold)
  let f := d.foldCall ch.fold
  let d1 := d.onPwr fun p => { p with allowedFold := f, learning := ch.learning }
  (d1.setFold (min f health) (d.foldCall (d.choose p d.heatFold).fold), ch)

/-! ### Operating-point changes (R313, R314) -/

/-- Cores that some droop stretches. -/
def drooped (d : Dev) : Bool := d.pwr.droop.any fun e => e.2 > 0
/-- The longest rail ramp of a raise, in ns: 10 mV per µs. -/
def rampNs (d : Dev) (a b : Nat) : Nat :=
  (((d.work.coreMap.map fun c => d.volt c b - d.volt c a).foldl max 0) * 1000 + 9) / 10
/-- A change of operating point is decided; a raise keeps room for its entry. -/
def startPoint (d : Dev) (o : Nat) : Dev :=
  let d0 := match d.pwr.opp with | some c => d.given (decide (c.target > c.from_)) (·.colRelease 1) | none => d
  if o = d.pwr.point then d0.onPwr fun p => { p with opp := none }
  else if (o > d.pwr.point && d0.raiseRefused) || (o < d.pwr.point && d0.lowerRefused) then d0.onPwr fun p => { p with opp := none }
  else (d0.given (decide (o > d.pwr.point)) (·.colReserve 1)).onPwr fun p =>
    { p with opp := some { from_ := p.point, target := o, since := d.now } }

/-! ### Unit turn-off (R320) -/

/-- The phase that follows phase `p`, by its NEXT; `none` at the end of a run. -/
def phaseAfter (d : Dev) (p : Nat) : Option Nat :=
  let n := u16 (phaseEntry d.binding p) 0
  if n = 0xFFFF then none else some n
/-- The lowest set bit's value of a mask. -/
def lowBit (m : Nat) : Nat := (((List.range 12).find? fun k => bitOf m k).map fun k => 2 ^ k).getD 0

/-- Units whose use bits are clear in the phase and in the one that follows are turned off; those the phase names are on. -/
def unitsOff (d : Dev) (p : Nat) : Dev :=
  let use := fun (o n : Nat) => le (phaseEntry d.binding p) o n |||
    (match d.phaseAfter p with | some q => le (phaseEntry d.binding q) o n | none => 0)
  let on := flag d.pr.mode 4
  let cm := (List.range ((phaseTable d.binding).length / 96)).foldl (fun m q => m ||| u16 (phaseEntry d.binding q) 16) 0
  let d1 := d.onPwr fun w => { w with
    scanOff := if on then (2 ^ 24 - 1) - use 20 4 % 2 ^ 24 else 0
    cmemOff := if on then (2 ^ 16 - 1) - cm % 2 ^ 16 else 0 }
  if !on then d1
  else d1.each (List.range 6) fun d n =>
    let m := d.joinedMask n - d.offMask n
    let off := m - lowBit m
    if !bitOf (use 18 1) n && d.portUp n && off ≠ 0 then d.linkOut n (cordPowerBytes off 0) else d

/-! ### The decisions of a boundary (R16, R77, R78) -/

/-- RUN descriptors that wait when their binding goes, or when the station leaves its gathering for want of a fold, complete with
STATUS_NOT_PERMITTED (DESIGN CHOICE, log 79; R14 and R18 give them no status). -/
def dropRuns (d : Dev) : Dev :=
  d.each (d.work.jobs.filter fun j => j.op = Op.run && j.phase != .ended) fun d j => d.settle j St.notPermitted 0 0

/-- R17 finds no fold: the station ends its run and leaves the gathering, and every accepted item of the station fails (R18). -/
def leaveFold (d : Dev) : Dev :=
  (((((d.endRun St.coreParked).failAllItems St.coreParked).finishRuns).dropRuns).releaseGath).deactivate
/-- The decisions for an iteration of phase `p`: fold and map, operating point, units, keep-warm; without a fold there are none. -/
def boundaryDecisions (d : Dev) (p : Nat) : Dev := if d.foldOf 8 = 0 then d.leaveFold else
  let x := d.decideFold p
  let d1 := (x.1.startPoint x.2.point).unitsOff p
  { d1 with
    pwr := { d1.pwr with kw := d1.pr.keepwarm }
    heat := { d1.heat with
      sixth := decide (d1.heat.steps ≥ 6)
      hotSince := if d1.heat.steps ≥ 6 && !d1.heat.sixth && d1.heat.tj ≥ 105 then some d1.now else d1.heat.hotSince } }

/-- Every active core starts at its entry for the phase in progress (R77); a core that has executed HALT takes part again only when the
next run begins (R98). -/
def startCores (d : Dev) : Dev :=
  match d.work.run with
  | none => d
  | some r =>
    let d1 := d.onWork fun w => { w with pendingBoundary := false, run := some { r with phaseAt := d.now } }
    (d1.each d.work.coreMap fun d c => d.onSeq c fun s =>
      let e := s.entries.getD r.phase 0xFFFFFFFF
      if s.st == .halted && r.step ≠ 0 then s
      else if e = 0xFFFFFFFF then { s with st := .atPhase, bar := none, fe := none, barIn := [] }
      else { s with st := .run, pc := e, bar := none, fe := none, barIn := [] }).coresGo

/-- The cores start, at once or when the change of operating point that is under way has ended (R78, R313). -/
def startOrWait (d : Dev) : Dev :=
  if d.pwr.opp.isSome then d.onWork fun w => { w with pendingBoundary := true } else d.startCores

/-- The window has passed its last edge: the change is counted and logged, and cores that waited for it start. -/
def oppDone (d : Dev) (c : OppChange) : Dev :=
  let raising := decide (c.target > c.from_)
  let d1 := (d.given raising (·.colRelease 1)).onPwr fun p => { p with opp := none, point := c.target }
  let d2 := { d1 with pc := { d1.pc with oppChange := satAdd d1.pc.oppChange 1 } }
  let d3 := d2.logPower 4 2 c.from_ c.target (min c.pauses 65535 + min c.pausedNs (2 ^ 32 - 1) * 65536)
  if d3.work.pendingBoundary then d3.startCores else d3

/-- A raise is given up: the station stays at the old point, and cores that waited for it start (R314, R319). -/
def oppDrop (d : Dev) : Dev :=
  let d1 := (d.colRelease 1).onPwr fun p => { p with opp := none }
  if d1.work.pendingBoundary then d1.startCores else d1

/-- Whether the cores run: a fold is on and the station neither sleeps nor is stopped. -/
def clocked (d : Dev) : Bool := !d.pwr.stopped && (d.pwr.idle == .s0 || d.pwr.idle == .s1)

/-- A bind pass runs: every healthy core takes part (R124). -/
def passRuns (d : Dev) : Bool := d.work.passes.any fun p => p.params.isSome
/-- A droop stretch begins or deepens on a core (R310), pausing a window in progress (R314): the window of a raise begins when the
rails have ramped. -/
def droop (d : Dev) (c lvl : Nat) : Dev :=
  if !(d.clocked && (d.work.coreMap.contains c || (d.passRuns && d.healthy c))) then d
  else
    let was := d.pwr.droop.get 0 c
    let others := d.drooped
    let d1 := d.onPwr fun p => { p with droop := p.droop.set 0 c (max was lvl) }
    let d2 := if was = 0 then { d1 with pc := { d1.pc with stretch := satAdd d1.pc.stretch 1 } } else d1
    match d.pwr.opp with
    | some o =>
      if !others && !o.paused && (!o.waiting || decide (d.now ≥ o.since + d.rampNs o.from_ o.target)) then
        let d3 := d2.onPwr fun p => { p with opp := some { o with waiting := false, paused := true, pauses := o.pauses + 1 } }
        { d3 with pc := { d3.pc with oppPause := satAdd d3.pc.oppPause 1 } }
      else d2
    | none => d2

/-! ### The limiter (R321) -/

/-- Mean of the samples of the last second that have been taken, in W. -/
def meanW (d : Dev) : Nat := if d.pwr.window.isEmpty then 0 else d.pwr.window.foldl (· + ·) 0 / d.pwr.window.length
/-- The limiter's conditions. -/
def overLimit (d : Dev) : Bool :=
  d.pwr.sampleW > 2750 || d.pwr.above ≥ 400 || d.pwr.window.foldl (· + ·) 0 > d.capW * d.pwr.window.length || d.heat.tj ≥ 108
/-- The limiter's stretch goes up or down one level. -/
def limiterStep (d : Dev) : Dev :=
  let hit := d.overLimit
  let d1 := if hit && d.pwr.limiter = 0 then { d with pc := { d.pc with limit := satAdd d.pc.limit 1 } } else d
  d1.onPwr fun p => { p with limiter := if hit then min 4 (p.limiter + 1) else p.limiter - 1 }

/-! ### Learning (R316) -/

/-- The time of a phase among spans. -/
def spanTime (l : List Span) (key : Nat) : Nat := ((l.filter fun s => s.key = key).map fun s => s.till - s.since).foldl (· + ·) 0
/-- The span that a sample is credited to: the phase that ran for the largest part, ties to the earlier, with the fold, the point and the cores it
last ran on in that time. -/
def credited (l : List Span) : Option Span :=
  let best := l.foldl (fun (a : Option Span) s => match a with
    | none => some s
    | some x => if spanTime l s.key > spanTime l x.key then some s else a) none
  best.bind fun b => if spanTime l b.key = 0 then none else (l.filter fun s => s.key = b.key).getLast?
/-- A learned record takes a sample. -/
def learnFrom (d : Dev) (s : Span) (inW : Nat) (rails : List RailSample) : Dev :=
  let i := foldIx s.fold
  let pc := fun c => (((rails.getD c {}).watts : Nat) : Rat)
  let xc := (s.cores.map fun c =>
    pc c * (225 / (pointFreq s.point : Rat)) * ((d.volt c 3 : Rat) / (d.volt c s.point : Rat)) ^ 2).foldl (· + ·) 0
  let xo := (inW : Rat) - (s.cores.map pc).foldl (· + ·) 0
  let l := d.pwr.learned.get {} s.key
  let n := l.n.getD i 0
  let n' := if n < 16 then n + 1 else n
  let w : Rat := if n < 16 then 1 / (n' : Rat) else 1 / 16
  let up := fun (v x : Rat) => v + w * (x - v)
  let l' := { l with n := setAt l.n i n', core := setAt l.core i (up (l.core.getD i 0) xc),
                     other := setAt l.other i (up (l.other.getD i 0) xo) }
  d.onPwr fun p => { p with learned := p.learned.set {} s.key l' }
/-- A sample is credited, and the time of the next begins (R306, R316). -/
def learn (d : Dev) (inW : Nat) (rails : List RailSample) : Dev :=
  let d1 := match credited (d.pwr.spans ++ d.spanNow) with
    | some s => d.learnFrom s inW rails
    | none => d
  d1.onPwr fun p => { p with spans := [], sampleAt := d.now }

/-- dur of a phase takes the time of an iteration that has ended, with the weight of the running fold (R316). -/
def learnDur (d : Dev) (p ns : Nat) : Dev :=
  let l := d.learned p
  let n := l.n.getD (foldIx d.pwr.fold) 0
  let w : Rat := if l.durN = 0 || n = 0 then 1 else if n < 16 then 1 / (n : Rat) else 1 / 16
  let l' := { l with dur := l.dur + w * ((ns : Rat) - l.dur), durN := l.durN + 1 }
  d.onPwr fun x => { x with learned := x.learned.set {} (d.learnKey p) l' }

/-! ### Heat (R322) -/

/-- THERM_ALERT_N follows T_j, and is low throughout a stop. -/
def thermAlert (d : Dev) : Dev :=
  let low := d.pwr.stopped || d.heat.tj ≥ fld d.pr.thermCfg 7 0
  if d.pins.thermAlertN = !low then d
  else { d with pins := { d.pins with thermAlertN := !low } }.emit (.thermAlert (!low))

/-- The die sensors are read: T_j is the highest reading. -/
def readHeat (d : Dev) (l : List Nat) : Dev :=
  let t := l.take 72
  let tj := t.foldl max 0
  let h := d.heat
  let h' := { h with
    tj := tj
    sensor := (List.range t.length).find? (fun i => t.getD i 0 = tj) |>.getD 0
    coolSince := if tj ≤ 100 then (match h.coolSince with | some x => some x | none => some d.now) else none
    hotSince := if tj ≥ 105 && h.sixth then (match h.hotSince with | some x => some x | none => some d.now) else none }
  { d with heat := h', mgmt := { d.mgmt with dieTemps := t } }.thermAlert

/-- Ring staging is lost with its arrays (R304): what is held there, and the packets that wait there and of which no flit has been sent. -/
def dropStaging (d : Dev) : Dev :=
  let cut := fun (c : Chan) => { c with wait := c.wait.take (if c.gone = 0 then 0 else 1) }
  (d.onCirc fun q => { q with sigs := [], builds := [], transfers := [], cross := [] }).each (List.range 6) fun d p =>
    d.onLink p fun l => { l with circ := cut l.circ, act := cut l.act }
/-- The lanes of every cord go off but those of the cords that carry link control (R304, R325, R327). -/
def cordsOff (d : Dev) : Dev :=
  d.each (List.range 6) fun d n =>
    let keep := d.activeCords n |>.headD 12
    d.onPort n fun x => { x with cords := x.cords.map fun c => (c.1, if c.2.st == .joined && c.1 ≠ keep then { c.2 with off := true } else c.2) }

/-! ### The stop (R327, R335, R339) -/

/-- What a stop does: STOPPING on every ACTIVE port, the items settled with the stop's status, the gathering and the binding gone,
the memories of the rails lost, one entry of CLASS 3 (R327, R335, R368). -/
def stopStation (d : Dev) (cause : Nat) (obj : Nat) (st : Status) : Dev :=
  if !d.powered || d.pwr.stopped then d
  else
    let d1 := d.each ((List.range 6).filter d.portUp) fun d p => d.linkOut p [7, st]
    let d2 := d1.stopRun st
    let d3 := ((d2.failAllItems st).finishRuns).dropRuns
    let d4 := match d3.work.forming with
      | some f => match d3.work.jobs.find? (fun (j : Job) => decide (j.no = f.job)) with
        | some j => (d3.settle j st 0 0).onWork fun w => { w with forming := none }
        | none => d3.onWork fun w => { w with forming := none }
      | none => d3
    let d5 := ((d4.releaseGath).deactivate).onCirc fun q => { q with transfers := [], boards := q.boards.filter fun b => b.core.isNone }
    let d6 := (((((d5.coresOff).clearBuffers).clearCmem).clearSync).dropStaging).cordsOff
    let d7 := d6.given (match d6.pwr.opp with | some c => decide (c.target > c.from_) | none => false) (·.colRelease 1)
    let d8 := d7.onPwr fun p => { p with stopped := true, stopCause := cause, stopStatus := st, opp := none, limiter := 0,
                                         droop := [], fold := 0, idle := .s0 }
    let d9 := (d8.onWork fun w => { w with coreMap := [], dataCtx := none }).logSafety 4 255 3 obj 0 0 st.toNat
    ((if cause = 0 then d9 else d9.cause cStop).thermAlert).platformEvent 0x304 cause

/-- The rails ramp; 11.3 ms later the CXL port, GDDR7 training and every fitted cord start (R372). -/
def beginMemory (d : Dev) : Dev :=
  let t := d.now + 11300000
  ({ d with boot := { d.boot with stage := .memory, trainAt := t } }).each (List.range 6) fun d p =>
    (d.portChange p fun d => d.onPort p fun x => { x with st := .training, trainAt := some t, modResetN := true }).emit (.modReset p true)

/-- A stop ends: rails, clocks and links come back as on leaving S3. A start-up that a coolant fault held goes on (R410). -/
def resumeStation (d : Dev) : Dev :=
  let d1 := ((d.onPwr fun p => { p with stopped := false, stopCause := 0, internalStop := false }).thermAlert).each (List.range 6)
    fun d p => d.wakeCords p
  if d1.boot.stage == .stopped then d1.beginMemory else d1

/-! ### Boost (R312) -/

/-- The boost time that a millisecond adds. -/
def boostMs (d : Dev) : Nat :=
  let o := d.pwr.point
  let base := if d.pwr.stopped then 0 else if o = 4 then 1 else if o = 5 then 2 else 0
  if d.heat.tj ≥ 95 then 2 * base else base
/-- Milliseconds powered, and boost time spent in them, are added to the counters. -/
def accountBoost (d : Dev) (ms spent : Nat) : Dev :=
  let pct := d.pc.earnedPct + ms * d.fuses.fracPct
  { d with pc := { d.pc with
    boostSpent := satAdd d.pc.boostSpent spent, boostEarned := satAdd d.pc.boostEarned (pct / 100), earnedPct := pct % 100 } }
/-- An hour, in ms. -/
def hourMs : Nat := 3600000
/-- Boost is withdrawn or restored as the counters say; it is not restored while the colophon refuses raises (R319). -/
def judgeBoost (d : Dev) : Dev :=
  let res := d.fuses.reserveH * hourMs
  let off := decide (d.pc.boostSpent.toNat ≥ d.pc.boostEarned.toNat + res)
  let back := decide (d.pc.boostSpent.toNat + hourMs ≤ d.pc.boostEarned.toNat + res) && !d.raiseRefused
  d.onPwr fun p => { p with boostAge := if off then true else if back then false else p.boostAge }
/-- The finisher resumes: what the VAON counters hold of its restart is accounted (R370). -/
def resumeBoost (d : Dev) : Dev :=
  ((d.accountBoost d.pwr.idleMs d.pwr.idleBoost).onPwr fun p => { p with idleMs := 0, idleBoost := 0 }).judgeBoost

/-! ### Idle states (R325, R326) -/

/-- The binding uses CMEM in some phase. -/
def usesCmem (d : Dev) : Bool :=
  (List.range ((phaseTable d.binding).length / 96)).any fun q => u16 (phaseEntry d.binding q) 16 ≠ 0
/-- The earliest host hint in force across enabled contexts. -/
def hostHint (d : Dev) : Option Nat :=
  ((d.ctxs.filter fun e => e.2.regs.enable).filterMap fun e => e.2.hint).foldl
    (fun a t => match a with | none => some t | some x => some (min x t)) none
/-- Every active core has reached its boundary and its instructions have completed. -/
def coresEnded (d : Dev) : Bool := d.work.coreMap.all fun c =>
  let x := d.core c
  (x.seq.st == .atPhase || x.seq.st == .halted) && x.seq.fe.isNone && x.q.fscs.isEmpty && allUnits.all fun u => (x.q.get u).isEmpty
/-- When the iteration ended: when the last core had completed its instructions and reached its boundary. -/
def iterEnd (d : Dev) : Nat := (d.work.coreMap.map fun c => (d.core c).seq.lastAt).foldl max 0
/-- When the slack that a phase declares at the end of an iteration ends (R76). -/
def slackEnd (d : Dev) (r : Run) : Nat := d.iterEnd + u32 (phaseEntry d.binding r.phase) 24
/-- Whether the station is in declared slack at the end of an iteration: every core has ended its part of a phase with SLACK, SLACK_NS ago at
most (R325). -/
def inSlack (d : Dev) : Bool :=
  match d.work.run with
  | some r => bitOf (u16 (phaseEntry d.binding r.phase) 2) 1 && r.begun && !d.work.pendingBoundary && d.coresEnded && decide (d.now < d.slackEnd r)
  | none => false
/-- When a context's next scrub sweep is due (R198). -/
def sweepDue (d : Dev) (c : Nat) : Option Nat :=
  let x := d.ctx c
  if flag x.regs.scrubCfg 31 && x.editions.any (d.heldNow c) then
    x.sweepAt.map fun t => t + 1000000000 * fld x.regs.scrubCfg 16 0
  else none
/-- The known events of R326. -/
def knownEvents (d : Dev) : List Nat :=
  let sweeps := d.ctxs.filterMap fun e => if e.2.regs.enable then d.sweepDue e.1 else none
  let starts := match d.work.run with | some r => if r.begun then [] else [r.t0] | none => []
  let inj := match d.work.run with
    | some r =>
      let s := schedule d.binding
      let e := u32 s 36 + 48 * (u32 s (u32 s 32 + 8 * d.position) + d.circ.nextEntry)
      if bindStationed d.binding then [] else if d.circ.nextEntry < u32 s (u32 s 32 + 8 * d.position + 4) then [r.t0 + u64 s e] else []
    | none => []
  let slackEnd := match d.work.run with
    | some r => if d.inSlack then [d.slackEnd r] else []
    | none => []
  (match d.hostHint with | some t => if d.work.run.isSome then [] else [t] | none => []) ++ sweeps ++ starts ++ inj ++ slackEnd
/-- No work is queued on the station. -/
def noWork (d : Dev) : Bool :=
  d.work.jobs.isEmpty && d.ctxs.all fun e => e.2.rings.all fun r => r.2.window.isEmpty && r.2.sqHead = r.2.sqTail
/-- The idle chooser of R326. -/
def idleChoice (d : Dev) : Idle :=
  let evs := d.knownEvents
  let run := d.work.run.isSome
  match evs with
  | [] => .s1
  | e :: es =>
    if !run && d.hostHint.isNone then .s1
    else
      let ev := es.foldl min e
      let gap := ev - d.now
      let deep := fld d.pr.idleCfg 1 0
      if deep ≥ 3 && gap ≥ 3600000 && !run && !d.usesCmem then .s3
      else if deep ≥ 2 && gap ≥ 24000 then .s2 else .s1

/-- SYNC_PLAN is applied (R81): each word named is forced to its value by a WRITE_FORCE, or cleared by a CLEAR when declared empty (R264),
and what waits at it is looked at again (R265). -/
def applySyncPlan (d : Dev) : Dev :=
  let s := findSec d.binding 8 d.position 0 0xFF
  d.each (List.range (s.length / 16)) fun d i =>
    match d.syncPhys d.workCtx (u16 s (16 * i)) with
    | some w =>
      if bitOf (u8 s (16 * i + 2)) 0 then
        d.syncArrive w ⟨.writeForce, false, BitVec.ofNat 64 (u64 s (16 * i + 8)), d.workCtx, .plan, d.now⟩
      else d.syncArrive w ⟨.clear, false, 0, d.workCtx, .plan, d.now⟩
    | none => d

/-- An idle state is entered: S2 loses what the VCORE rails hold, S3 all but VAON, VHSIO and GDDR7 (R61, R139, R247, R304, R325). -/
def enterIdle (d : Dev) (s : Idle) : Dev :=
  let d1 := d.onPwr fun p => { p with idle := s }
  match s with
  | .s2 => d1.each (List.range 8) fun d c => d.onCore c fun x => { x with arr := x.arr.off }
  | .s3 => (((((d1.each (List.range 8) fun d c => d.onCore c fun x => { x with arr := x.arr.off, seq := {} }).clearBuffers).clearCmem).clearSync).dropStaging).cordsOff
  | _ => d1
/-- The station is in S0 again; leaving S3 with a binding active, its stores and SYNC_PLAN are loaded (R325). -/
def wake (d : Dev) : Dev :=
  let d1 := (d.onPwr fun p => { p with idle := .s0 }).given (d.pwr.idle == .s3) fun d => d.each (List.range 6) fun d n => d.wakeCords n
  if d.pwr.idle == .s3 && d.work.active.isSome then
    (d1.each (List.range d1.work.coreMap.length) fun d lc => d.reload (d.work.coreMap.getD lc 0) lc).applySyncPlan
  else d1

/-- Wake time of an idle state in ns (R325). -/
def wakeNs : Idle → Nat
  | .s0 => 0 | .s1 => 40 | .s2 => 12000 | .s3 => 1800000
/-- A station that sleeps is in S0 for an event that it has known (R326); a stopped one and one shut down stay as they are. -/
def awake (d : Dev) : Dev := if d.pwr.stopped || d.boot.shutDown || d.pwr.idle == .s0 then d else d.wake
/-- An unannounced event wakes the station, and is served after the wake time (R326). -/
def rouse (d : Dev) : Dev :=
  if d.pwr.stopped || d.boot.shutDown || d.pwr.idle == .s0 then d else (d.reach (d.now + wakeNs d.pwr.idle)).wake
/-- A packet arrives at a port: where the port carries packets, it wakes the station (R326). -/
def rouseAt (d : Dev) (p : Nat) : Dev := d.given (d.portUp p) (·.rouse)

end Dev

/-! ### The rows -/

/-- R313. -/
def execOppSwitchWindow (s : State) : Answer := s.on fun d => d.live fun d =>
  match d.pwr.opp with
  | some c =>
    if c.paused || d.drooped then d
    else if c.target > c.from_ && d.boot.restarting then d.oppDrop
    else (d.reach (c.since + d.rampNs c.from_ c.target + c.pausedNs)).oppDone c
  | none => d
/-- R314. -/
def execOppWindowResume (pausedNs : Nat) (s : State) : Answer := s.on fun d => d.live fun d =>
  match d.pwr.opp with
  | some c => if c.paused && !d.drooped then
      d.onPwr fun p => { p with opp := some { c with paused := false, pausedNs := c.pausedNs + pausedNs } } else d
  | none => d
/-- R314. -/
def execOppChangeAbandon (s : State) : Answer := s.on fun d => d.live fun d =>
  match d.pwr.opp with
  | some c =>
    if c.target > c.from_ && (c.paused || d.drooped) then (d.reach (c.since + d.rampNs c.from_ c.target + 1000000)).oppDrop else d
  | none => d
/-- R310. -/
def execDroopCrossing (core : CoreId) (level : Fin 4) (s : State) : Answer :=
  s.on fun d => d.live fun d => d.droop core.val (level.val + 1)
/-- R310. -/
def execStretchDecay (core : CoreId) (s : State) : Answer :=
  s.on fun d => d.live fun d => d.onPwr fun p => { p with droop := p.droop.modify 0 core.val (· - 1) }
/-- R306, R316, R321. -/
def execPowerSample (inMv10 inMa10 inW : Nat) (rails : List RailSample) (s : State) : Answer :=
  s.on fun d => d.live fun d0 =>
    let d := d0.reach (d0.pwr.sampleAt + 50000)
    let uj := d.pc.energyUj + 50 * inW
    let d1 := { d with
      pc := { d.pc with energy := satAdd d.pc.energy (uj / 1000), energyUj := uj % 1000 }
      mgmt := { d.mgmt with
        rails := rails.take 20, inMv10 := inMv10, inMa10 := inMa10, samples := d.mgmt.samples + 1
        sumMa := d.mgmt.sumMa + inMa10, sumW := d.mgmt.sumW + inW
        railSums := (List.range 20).map fun i =>
          let x := d.mgmt.railSums.getD i (0, 0); let r := rails.getD i {}
          (x.1 + r.ma10, x.2 + r.watts) }
      pwr := { d.pwr with sampleW := inW, window := (inW :: d.pwr.window).take 20000,
                          above := if inW > d.capW then d.pwr.above + 1 else 0 } }
    ((d1.learn inW rails).given (!d1.pwr.stopped) (·.limiterStep))
/-- R322. -/
def execThermalSample (readings : List Nat) (s : State) : Answer := s.on fun d => d.live fun d => d.readHeat readings
/-- R322: logged as a safety action (R368); with the reserved area full no further step is taken. -/
def execThermalStep (s : State) : Answer := s.on fun d => d.live fun d =>
  let h := d.heat
  if h.tj < 105 || h.steps ≥ 6 || d.pwr.stopped || d.safetyFull then d
  else
    let d1 := match h.stepAt with | some t => d.reach (t + 1000000000) | none => d
    let n := h.steps + 1
    let atOnce := n = 6 && d.work.run.isNone
    ({ d1 with heat := { h with steps := n, stepAt := some d1.now, sixth := h.sixth || atOnce,
                                hotSince := if atOnce then some d1.now else h.hotSince } }.logSafety 4 255 3 4 h.steps n 0).thermAlert
/-- R322, R319: a raise, not made while the colophon refuses. -/
def execThermalStepUndo (s : State) : Answer := s.on fun d => d.live fun d =>
  let h := d.heat
  match h.coolSince with
  | some t =>
    if h.steps = 0 || h.tj > 100 || d.raiseRefused then d
    else
      let d1 := d.reach (t + 10000000000)
      ({ d1 with heat := { h with steps := h.steps - 1, sixth := false, hotSince := none, coolSince := some d1.now } }.log
        4 255 3 4 h.steps (h.steps - 1) 0).thermAlert
  | none => d
/-- R323. -/
def execThermalStop (s : State) : Answer := s.on fun d => d.live fun d =>
  if d.heat.tj ≥ 112 then d.stopStation 2 2 St.thermalStop
  else match d.heat.hotSince with
    | some t => if d.heat.tj ≥ 105 && d.heat.sixth then (d.reach (t + 10000000000)).stopStation 2 2 St.thermalStop else d
    | none => d
/-- R312. -/
def execBoostAccounting (s : State) : Answer := s.on fun d => d.live fun d =>
  if !d.fwRuns then d.onPwr fun p => { p with idleMs := p.idleMs + 1, idleBoost := p.idleBoost + d.boostMs }
  else (d.accountBoost 1 d.boostMs).judgeBoost
/-- R312. -/
def execBoostFlashUpdate (s : State) : Answer := s.on fun d => d.live fun d =>
  if !d.fwRuns then d
  else { d with flash := { d.flash with boostSpent := d.pc.boostSpent, boostEarned := d.pc.boostEarned } }
/-- R327, R410: the filter starts; before the rails have ramped, the fall itself is kept. -/
def execCoolantFaultLow (s : State) : Answer := s.on fun d =>
  if !d.pins.coolantN then d
  else
    { d with
      pins := { d.pins with coolantN := false, coolantLowAt := some d.now, coolantHighAt := none }
      boot := { d.boot with coolantLow := d.boot.coolantLow || (d.powered && (d.boot.stage == .bootRom || d.boot.stage == .recovery)) } }
/-- R327: COOLANT_FAULT_N is high again; a filter that had not passed is over. -/
def execCoolantFaultHigh (s : State) : Answer := s.on fun d =>
  if d.pins.coolantN then d
  else { d with pins := { d.pins with coolantN := true, coolantLowAt := none, coolantHighAt := some d.now } }
/-- R327. -/
def execCoolantStop (s : State) : Answer := s.on fun d => d.live fun d =>
  match d.pins.coolantLowAt with
  | some t => if [Stage.ready, .memory, .failed, .shutdown].contains d.boot.stage then
      (d.reach (t + 10000)).stopStation 1 1 St.coolantStop else d
  | none => d
/-- R326. -/
def execIdleEntry (s : State) : Answer := s.on fun d => d.live fun d =>
  if d.pwr.stopped || d.pwr.idle != .s0 || !(d.inSlack || (d.noWork && d.work.run.isNone)) then d else d.enterIdle d.idleChoice
/-- R326: waking begins so that the station is in S0 at the event. -/
def execIdleWake (s : State) : Answer := s.on fun d => d.live fun d => d.awake
/-- R326. -/
def execUnannouncedWake (s : State) : Answer := s.on fun d => d.live fun d => d.rouse

end Sys2Proof.Machine
end

