-- ==== Sys2Proof/Machine/Circulation.lean ====
section
/-! DEFINITION. Circulation (R151 to R172, R177): signatures, their windows and routes, injection, placement and staged words, and
control messages. -/

namespace Sys2Proof.Machine

/-- The most bytes of a signature (R153). -/
def sigMax : Nat := 4194304

/-- The window of an origin with the numbers obtained from its base on taken out (R159). -/
def Origin64.advance : Nat → Origin64 → Origin64
  | 0, o => o
  | n + 1, o => if bitOf o.map 0 then advance n ⟨(o.base + 1) % 2 ^ 32, o.map / 2⟩ else o

/-- How a sequence number is handled (R159). -/
inductive SeqCase where
  | duplicate | inWindow | ahead
deriving DecidableEq, Repr

/-- The case of number `s` against a window. -/
def Origin64.classify (o : Origin64) (s : Nat) : SeqCase :=
  let k := subMod 32 s o.base
  if seqBefore 32 s o.base || (k < 64 && bitOf o.map k) then .duplicate else if k < 64 then .inWindow else .ahead
/-- A number in the window is marked. -/
def Origin64.mark (o : Origin64) (s : Nat) : Origin64 :=
  Origin64.advance 64 { o with map := setBits o.map (subMod 32 s o.base) (subMod 32 s o.base) 1 }

namespace Dev

/-- The conditions of R157. Bits [7:2] of FLAGS and [15:12] of ORIGIN count with its reserved bytes (DESIGN CHOICE, log 79). -/
def sigGood (d : Dev) (b : Bytes) : Bool :=
  match d.work.gath with
  | none => false
  | some g =>
    d.work.active.isSome && u8 b 0 = 0x53 && u8 b 1 = 0x47 && u8 b 2 = 1 && Sig.flags b < 4 && u16 b 4 = g.number
      && u16 b 6 < 4096 && u32 b 12 = bindTag d.binding && Sig.length b % 64 = 0 && Sig.length b ≤ sigMax
      && 1 ≤ Sig.tiles b && Sig.tiles b ≤ 128 && 1 ≤ Sig.legs b
      && ((List.range (Sig.legs b)).all fun l => g.dims.getD (Sig.axis b l) 1 > 1)
      && Sig.leg b < Sig.legs b && Sig.hops b ≠ 0 && zeroAt b 45 19

/-- A copy towards a neighbour: the port and the packet; none where no port that carries packets reaches it. -/
def copyTo (d : Dev) (axis : Nat) (plus : Bool) (b : Bytes) : List (Nat × Bytes) :=
  match d.neighbour axis plus with
  | some n => if d.portUp n.port then [(n.port, d.head 1 false n.station b.length noTag ++ b)] else []
  | none => []
/-- The copies of R155, for every leg after the one given. -/
def launchCopies (d : Dev) (got1 : Nat) (b : Bytes) : List (Nat × Bytes) :=
  let axes := (List.range (Sig.legs b)).map (Sig.axis b)
  (launches axes d.dims (Sig.split b) got1).flatMap fun x => d.copyTo x.1 x.2.1 (Sig.copy b x.2.2.1 x.2.1 x.2.2.2)
/-- The copy that is forwarded while hops remain (R156). -/
def forwardCopies (d : Dev) (b : Bytes) : List (Nat × Bytes) :=
  let plus := !bitOf (Sig.flags b) 0
  if Sig.hops b > 1 then d.copyTo (Sig.axis b (Sig.leg b)) plus (Sig.copy b (Sig.leg b) plus (Sig.hops b - 1)) else []

/-- A signature joins staging. -/
def stageSig (d : Dev) (b : Bytes) (port : Nat) (inWindow : Bool) : Dev :=
  (d.onCirc fun q => { q with sigs := q.sigs ++ [⟨b, port, inWindow, false⟩] }).touchPeak

/-- Signatures held ahead of their origin's window that have come within it are marked, and may be placed (R159). -/
def admitAhead (origin : Nat) : Nat → Dev → Dev
  | 0, d => d
  | n + 1, d =>
    let o := d.circ.origins.get {} origin
    match d.circ.sigs.find? fun s => !s.inWindow && Sig.origin s.bytes = origin && o.classify (Sig.seq s.bytes) == .inWindow with
    | none => d
    | some s => admitAhead origin n (d.onCirc fun q => { q with
        origins := q.origins.set {} origin (o.mark (Sig.seq s.bytes))
        sigs := q.sigs.replace s { s with inWindow := true } })

/-- A second copy of a signature that was held ahead is a duplicate once its number is obtained (R159). -/
def dropRepeats (d : Dev) (origin : Nat) : Dev :=
  let o := d.circ.origins.get {} origin
  let again := fun (s : HeldSig) => !s.inWindow && Sig.origin s.bytes = origin && o.classify (Sig.seq s.bytes) == .duplicate
  let n := (d.circ.sigs.filter again).length
  d.onCirc fun q => { q with sigs := q.sigs.filter (!again ·), dup := satAdd q.dup n }

/-- The window of a signature's origin. -/
def window64 (d : Dev) (b : Bytes) : Origin64 := d.circ.origins.get {} (Sig.origin b)
/-- A good signature is forwarded and launched (R155, R156); one copy crosses the spine (R10), of a duplicate only where copies leave there. -/
def passSig (d : Dev) (port : Nat) (b : Bytes) : Dev :=
  d.spread port b (d.forwardCopies b ++ d.launchCopies (Sig.leg b + 1) b) ((d.window64 b).classify (Sig.seq b) != .duplicate)
/-- A signature in its window is marked and held; others of its origin may come within the window by that. -/
def obtainSig (d : Dev) (port : Nat) (b : Bytes) : Dev :=
  let d1 := d.onCirc fun q => { q with origins := q.origins.set {} (Sig.origin b) ((d.window64 b).mark (Sig.seq b)) }
  (admitAhead (Sig.origin b) d1.circ.sigs.length (d1.stageSig b port true)).dropRepeats (Sig.origin b)
/-- The table of R159. -/
def takeSig (d : Dev) (port : Nat) (b : Bytes) : Dev :=
  match (d.window64 b).classify (Sig.seq b) with
  | .duplicate => d.onCirc fun q => { q with dup := satAdd q.dup 1 }
  | .inWindow => d.obtainSig port b
  | .ahead => d.stageSig b port false
/-- A signature arrives (R156 to R159, R165). -/
def sigArrive (d : Dev) (port : Nat) (packet : Bytes) : Dev :=
  match d.receive port packet with
  | (d1, none) => d1
  | (d1, some h) =>
    if h.cls ≠ 1 then d1
    else if !d1.sigGood h.body then d1.endRun St.notPermitted
    else (d1.passSig port h.body).takeSig port h.body

/-! ### Placement (R162, R166, R167) -/

/-- The signature region of a logical core in the running fold: offset and bytes (R80, R166). -/
def sigRegion (d : Dev) (lc : Nat) : Option (Nat × Nat) :=
  (d.plan.find? fun r => u8 r 0 = 1 && u8 r 1 = lc && u8 r 21 = 1).map fun r => (u32 r 4, u32 r 8)
/-- The staged word of a logical core (R166). -/
def stagedWord (d : Dev) (lc : Nat) : Option Nat := d.syncPhys d.workCtx (u16 (schedule d.binding) 26 + lc)
/-- The current step, plus one: 0 before phase 0 begins. -/
def stepPlus1 (d : Dev) : Nat := match d.work.run with | some r => if r.begun then r.step + 1 else 0 | none => 0

/-- One core's part of a placement: `none` where a check of R167 fails. -/
def placeCore (d : Dev) (b : Bytes) (lc : Nat) : Option (Bool × Dev) :=
  let (first, n, ofs) := d.placeField (Sig.place b) lc
  if n = 0 then some (false, d)
  else match d.sigRegion lc, d.physCore lc with
    | some (base, size), some c =>
      let a := Sig.tileAt b first
      let len := Sig.tileAt b (first + n) - a
      if first + n > Sig.tiles b || ofs + len > size / 2 then none
      else some (true, d.bufPut c (base + Sig.step b % 2 * (size / 2) + ofs) (sub b a len) none)
    | _, _ => none

/-- A placement counts for a core: in the staged word when its step has been entered, else towards it (R166). -/
def countPlace (d : Dev) (step lc : Nat) : Dev :=
  if d.stepPlus1 = step + 1 then
    match d.stagedWord lc with
    | some w => d.syncArrive w ⟨.fetchAddFull, false, 1, d.workCtx, .agent, d.now⟩
    | none => d
  else d.onCirc fun q => { q with stepPlaced := q.stepPlaced.modify 0 (64 * step + lc) (· + 1) }

/-- A signature is written to every core that its record names; `false` when a check failed. -/
def placeSig (d : Dev) (b : Bytes) : Bool × Dev :=
  (List.range d.pwr.fold).foldl (fun a lc =>
    match a.2.placeCore b lc with
    | none => (false, a.2)
    | some (wrote, d1) => (a.1, if wrote then d1.countPlace (Sig.step b) lc else d1)) (true, d)

/-- A signature may be placed now: it is in its window, of this run, for the current step or the next, and has crossed the spine where it must.
That no core of either leaf gets it before it has crossed is the model's (DESIGN CHOICE, log 79; R10 gives no order). -/
def placeable (d : Dev) (s : HeldSig) : Bool :=
  s.inWindow && !s.placed && !(d.placedFar s.port s.bytes && d.crossingOf s.port s.bytes) && match d.work.run with
    | some r => Sig.run s.bytes = r.no && d.stepPlus1 ≤ Sig.step s.bytes + 1 && Sig.step s.bytes ≤ d.stepPlus1
    | none => false

/-- A placed signature leaves staging once its step has been entered; until the phase of its step has started it stays, since a fold
change at that boundary writes it again. -/
def leaveStaging (d : Dev) (s : HeldSig) : Dev :=
  let entered := d.stepPlus1 = Sig.step s.bytes + 1 && !d.work.pendingBoundary
  d.onCirc fun q => { q with
    sigs := if entered then q.sigs.erase s else q.sigs.replace s { s with placed := true } }
/-- The oldest signature that may be placed is placed; one that fails a check of R167 is not counted, and ends the run. -/
def placeNext (d : Dev) : Dev :=
  match d.circ.sigs.find? d.placeable with
  | none => d
  | some s =>
    let x := d.placeSig s.bytes
    let d1 := x.2.leaveStaging s
    (if x.1 then d1.onCirc fun q => { q with placedCount := satAdd q.placedCount 1 } else d1.endRun St.foldSize).spine.coresGo

/-- A step is entered: after a fold change its placements are written again under the new fold; each active core's staged word is
set full with their number (R166). -/
def enterStep (d : Dev) (step : Nat) (foldChanged : Bool) : Dev :=
  let mine := d.circ.sigs.filter fun s => s.placed && Sig.step s.bytes = step
  let x : Bool × Dev := if foldChanged then
      mine.foldl (fun a s => let y := a.2.placeSig s.bytes; (a.1 && y.1, y.2))
        (true, d.onCirc fun q => { q with stepPlaced := q.stepPlaced.clearRange (64 * step) 64 })
    else (true, d)
  let d1 := x.2.each (List.range d.pwr.fold) fun d lc =>
    match d.stagedWord lc with
    | some w => d.syncArrive w ⟨.writeForce, false, BitVec.ofNat 64 (d.circ.stepPlaced.get 0 (64 * step + lc)), d.workCtx, .agent, d.now⟩
    | none => d
  let d2 := d1.onCirc fun q => { q with
    stepPlaced := q.stepPlaced.clearRange 0 (64 * step + 64)
    sigs := q.sigs.filter fun s => !(s.placed && decide (Sig.step s.bytes < step)) }
  if x.1 then d2 else d2.endRun St.foldSize

/-- A step that is entered and has not started is placed again, on the fold that a second decision gave (R166, R337). -/
def redoStep (d : Dev) (step : Nat) : Dev :=
  let mine := d.circ.sigs.filter fun s => s.placed && Sig.step s.bytes = step
  let d1 := d.each (List.range d.pwr.fold) fun d lc =>
    match d.stagedWord lc with
    | some w => d.syncArrive w ⟨.writeForce, false, 0, d.workCtx, .agent, d.now⟩
    | none => d
  let x := mine.foldl (fun (a : Bool × Dev) s => let y := a.2.placeSig s.bytes; (a.1 && y.1, y.2)) (true, d1)
  if x.1 then x.2 else x.2.endRun St.foldSize

/-! ### Injection (R161, R164, R171, R177) -/

/-- Entry `i` of this station in the schedule; `none` past its count or in a stationed binding. -/
def injEntry (d : Dev) (i : Nat) : Option Bytes :=
  let s := schedule d.binding
  let p := u32 s 32 + 8 * d.position
  if d.work.active.isNone || bindStationed d.binding || i ≥ u32 s (p + 4) then none
  else some (sub s (u32 s 36 + 48 * (u32 s p + i)) 48)

/-- The tiles of an entry: their bytes, the first mark met, whether the source lies in the CXL tier, and their total length before
any body is read. -/
structure BuiltTiles where
  tiles : List Bytes
  mark : Option Status
  cxl : Bool
deriving DecidableEq, Repr, Inhabited

/-- Bytes a folded entry's packed records take, from its header entries alone (R110, R112). -/
def foldedBytes (d : Dev) (e : Bytes) : Nat :=
  ((List.range (u32 e 28)).map fun i => 32 + u32 (d.rawGet d.workCtx (u64 e 16 + 32 * (u32 e 24 + i)) 32) 8).foldl (· + ·) 0

/-- A packed tile, padded to a multiple of 64 bytes. -/
def packedTile (d : Dev) (e : Bytes) (t : Nat) : Bytes × Option Status × Dev :=
  let r := (List.range 16).foldl (fun (a : Bytes × Option Status × Dev) i =>
    let blk := u32 e 24 + 16 * t + i
    let h := a.2.2.memGet d.workCtx (u64 e 16 + 32 * blk) 32
    let x := h.2.2.memGet d.workCtx (u64 e 8 + 8192 * blk) (u32 h.1 8)
    (a.1 ++ h.1 ++ x.1, orMark a.2.1 (orMark h.2.1 x.2.1), x.2.2)) ([], none, d)
  (padTo r.1 (alignUp r.1.length 64), r.2.1, r.2.2)

/-- Some page of a range of the running context's space lies in the CXL tier. -/
def anyCxl (d : Dev) (va n : Nat) : Bool :=
  (List.range ((va + n - 1) / pageBytes + 1 - va / pageBytes)).any fun i =>
    (d.pageAt d.workCtx ((va / pageBytes + i) * pageBytes)).any (·.cxl)
/-- The tiles of an injection entry, read from memory. A source of which any part lies in the CXL tier is built whole (R177). -/
def buildTiles (d : Dev) (e : Bytes) : BuiltTiles × Dev :=
  let cxl := if u8 e 41 = 1 then d.anyCxl (u64 e 8 + 8192 * u32 e 24) (8192 * u32 e 28) else d.anyCxl (u64 e 8) (u32 e 28)
  if u8 e 41 = 1 then
    let r := (List.range (u32 e 28 / 16)).foldl (fun (a : List Bytes × Option Status × Dev) t =>
      let x := a.2.2.packedTile e t
      (a.1 ++ [x.1], orMark a.2.1 x.2.1, x.2.2)) ([], none, d)
    (⟨r.1, r.2.1, cxl⟩, r.2.2)
  else
    let x := d.memGet d.workCtx (u64 e 8) (u32 e 28)
    (⟨chunks (u32 e 28 / u8 e 42) (u8 e 42) x.1, x.2.1, cxl⟩, x.2.2)

/-- The signature of an entry (R153, R154). -/
def signature (d : Dev) (e : Bytes) (seq runNo : Nat) (tiles : List Bytes) : Bytes :=
  let dir := tiles.flatMap fun t => leBytes 4 t.length
  let dirP := padTo dir (alignUp dir.length 64)
  let body := tiles.flatten
  let g := match d.work.gath with | some g => g.number | none => 0
  ofNats [0x53, 0x47, 1, if u8 e 41 = 2 then 2 else 0] ++ leBytes 2 g ++ leBytes 2 d.station ++ leBytes 4 seq
    ++ leBytes 4 (bindTag d.binding) ++ leBytes 4 (64 + dirP.length + body.length) ++ [byte tiles.length, byte (u8 e 40), 0, 0]
    ++ leBytes 4 (u32 e 32) ++ leBytes 2 (u16 e 36) ++ leBytes 2 (u16 e 38) ++ leBytes 4 runNo ++ leBytes 8 d.now
    ++ [byte (u8 e 43)] ++ zeros 19 ++ dirP ++ body

/-- The signature leaves: its station has obtained it, on leg −1, stages it for its own cores and launches its copies (R155, R159, R164). -/
def sendSig (d : Dev) (b : Bytes) : Dev := (d.obtainSig 6 b).spread 6 b (d.launchCopies 0 b) true

/-- An injection late by more than SLIP_NS is counted, captured, and marks the run (R171, R185). -/
def noteSlip (d : Dev) (e : Bytes) (late : Nat) : Dev :=
  let lim := u32 (schedule d.binding) 20
  if late ≤ (if lim = 0 then 1000 else lim) then d
  else
    let d1 := d.onCirc fun q => { q with slip := satAdd q.slip 1 }
    let d2 := if flag d1.err.slip 31 then d1 else d1.onErr fun x => { x with
      slip := word (2 ^ 31 + u16 e 36), slipLate := word (min late (2 ^ 32 - 1)) }
    d2.markSlip

/-- The share of the building leaf is empty: nothing is being built there, and what was last built there has been sent on every copy, has
crossed the spine and is placed (R164, R169). -/
def shareEmpty (d : Dev) (leaf : Nat) : Bool := (d.circ.builds.all fun b => b.leaf != leaf) && d.injHeld leaf = 0

/-- R164 lets an entry begin: its step has been entered, and its leaf's share is empty. -/
def mayInject (d : Dev) (e : Bytes) : Bool :=
  u32 e 32 ≤ d.stepPlus1 && d.shareEmpty (d.circ.nextSeq % 2) && !d.pwr.stopped
/-- The entry begins, at its due time or, late, now (R164, R171). -/
def takeEntry (d : Dev) (r : Run) (e : Bytes) : Dev :=
  let due := r.t0 + u64 e 0
  let d1 := d.reach due
  (d1.onCirc fun q => { q with nextEntry := q.nextEntry + 1 }).noteSlip e (d1.now - due)
/-- An injection takes its number: SEQ rises by one for each (R158). -/
def takeNumber (d : Dev) : Dev := d.onCirc fun q => { q with nextSeq := (q.nextSeq + 1) % 2 ^ 32 }
/-- An entry's signature is longer than 4 MiB, or its folded tiles are (R161). -/
def tooLong (d : Dev) (e : Bytes) : Bool := u8 e 41 = 1 && d.foldedBytes e + 64 > sigMax
/-- A signature that is built leaves at once, or, from the CXL tier, when its building is complete (R177). -/
def built (d : Dev) (leaf : Nat) (cxl : Bool) (b : Bytes) : Dev :=
  if cxl then (d.onCirc fun q => { q with builds := q.builds ++ [⟨leaf, b⟩] }).touchPeak else d.sendSig b

/-- The next injection of the station begins, when R164 lets it. -/
def inject (d : Dev) : Dev :=
  match d.work.run, d.injEntry d.circ.nextEntry with
  | some r, some e =>
    let seq := d.circ.nextSeq
    if !d.mayInject e then d
    else
      let d2 := d.awake.takeEntry r e
      if d2.tooLong e then d2.endRun St.foldSize
      else
        let x := d2.buildTiles e
        let b := x.2.signature e seq r.no x.1.tiles
        match x.1.mark with
        | some st => x.2.endRun st
        | none => if b.length > sigMax then x.2.endRun St.foldSize else x.2.takeNumber.built (seq % 2) x.1.cxl b
  | _, _ => d

/-- A signature built whole is complete and leaves (R177). The CXL port reads for one build at a time, and the two shares take turns: the build
that began first is complete first. -/
def buildDone (d : Dev) (leaf : Nat) : Dev :=
  match d.circ.builds.head? with
  | none => d
  | some b => if b.leaf ≠ leaf then d else (d.onCirc fun q => { q with builds := q.builds.erase b }).sendSig b.bytes

end Dev

/-! ### The rows -/

/-- R159. -/
def execSignatureArrival (port : PortId) (packet : Bytes) (s : State) : Answer :=
  s.on fun d => d.live fun d => (d.rouseAt port.val).sigArrive port.val packet
/-- R174. -/
def execActivationMessage (port : PortId) (packet : Bytes) (s : State) : Answer :=
  s.on fun d => d.live fun d => ((d.rouseAt port.val).transferPacket port.val 2 packet).coresGo
/-- R146. -/
def execShortlistPacket (port : PortId) (packet : Bytes) (s : State) : Answer :=
  s.on fun d => d.live fun d => ((d.rouseAt port.val).transferPacket port.val 3 packet).coresGo
/-- R240. -/
def execBoardStore (port : PortId) (packet : Bytes) (s : State) : Answer :=
  s.on fun d => d.live fun d => ((d.rouseAt port.val).boardStoreIn port.val packet).coresGo
/-- R240. -/
def execBoardLoadRequest (port : PortId) (packet : Bytes) (s : State) : Answer :=
  s.on fun d => d.live fun d => (d.rouseAt port.val).boardLoadIn port.val packet
/-- R240. -/
def execBoardLoadResponse (port : PortId) (packet : Bytes) (s : State) : Answer :=
  s.on fun d => d.live fun d => ((d.rouseAt port.val).boardResponseIn port.val packet).coresGo
/-- R174, R240, R267. -/
def execAcknowledgement (port : PortId) (packet : Bytes) (s : State) : Answer :=
  s.on fun d => d.live fun d => ((d.rouseAt port.val).ackArrive port.val packet).coresGo
/-- R265. -/
def execSyncOpArrival (arrival : SyncArrival) (found : List Found) (s : State) : Answer :=
  s.on fun d => d.live fun d =>
    match arrival with
    | .spine leaf => ((d.found found).spineArrive leaf.val).coresGo
    | .board port packet => (((d.rouseAt port.val).found found).boardStoreIn port.val packet).coresGo
/-- R166. -/
def execSignaturePlacement (s : State) : Answer := s.on fun d => d.live fun d => d.placeNext
/-- R164. -/
def execInjectionBegin (found : List Found) (s : State) : Answer := s.on fun d => d.live fun d => (d.found found).inject
/-- R177. -/
def execSignatureBuildDone (leaf : LeafId) (s : State) : Answer := s.on fun d => d.live fun d => d.buildDone leaf.val

end Sys2Proof.Machine
end

