-- ==== Sys2Proof/Machine/Runs.lean ====
section
/-! DEFINITION. Runs and their phases (R77, R78, R163, R166, R172, R288), items and their results (R287, R333), with their rows of the
table. -/

namespace Sys2Proof.Machine

namespace Dev

/-! ### Editions as a run needs them (R199, R208) -/

/-- The edition the active binding names, when its context holds it. -/
def activeEdition (d : Dev) : Option Edition := (d.ctx d.workCtx).editions.find? fun e => e.id = bindEdition d.binding
/-- The lowest and highest layer version of an edition. -/
def versions (e : Option Edition) : Nat × Nat :=
  match e with
  | some e => match e.layers with
    | [] => (0, 0)
    | l :: ls => (ls.foldl (fun a x => min a x.version) l.version, ls.foldl (fun a x => max a x.version) l.version)
  | none => (0, 0)
/-- The active binding names an edition that is DAMAGED. -/
def editionDamaged (d : Dev) : Bool := match d.activeEdition with | some e => e.state == .damaged | none => false

/-! ### The start of a run -/

/-- The base registers of a phase (R76). -/
def phaseBases (d : Dev) (p : Nat) : List Nat := (List.range 4).map fun k => u64 (phaseEntry d.binding p) (32 + 8 * k)
/-- The base registers of the next iteration: each increased by its STEP (R78). -/
def stepBases (d : Dev) (p : Nat) : List Nat :=
  (List.range 4).map fun k => (d.work.bases.getD k 0 + u64 (phaseEntry d.binding p) (64 + 8 * k)) % 2 ^ 64

/-- A run takes effect: phase 0's decisions are made and its base registers set (R78). -/
def beginRun (d : Dev) (j : Job) (no t0 : Nat) : Dev :=
  let v := versions d.activeEdition
  let d1 := d.keepCount.onWork fun w => { w with
    run := some { no := no, job := j.no, t0 := t0, phase := 0, iter := 0, step := 0, begun := false, slipped := false, phaseAt := t0 }
    active := w.active.map fun a => { a with runCount := (no + 1) % 2 ^ 32 }
    starts := w.starts.filter fun s => s.1 != no
    bases := d.phaseBases 0
    jobs := w.jobs.map fun x =>
      if x.no = j.no then { x with phase := .begun, run := some no }
      else if x.op = Op.item && x.run = some j.no then { x with verMin := v.1, verMax := v.2 } else x }
  let d2 := (d1.onCirc fun q => { q with nextEntry := 0, stepPlaced := [] }).boundaryDecisions 0
  if d2.editionDamaged then d2.endRun St.digestMismatch else d2

/-- The oldest RUN of the active binding's context takes effect, when no run is active, its items' inputs are read, and START has
been sent or accepted (R163, R283), the barrier is not closed (R202) and no bind pass is pending or running (R124). A run that an ABORT has already ended
ends with its status (R172). -/
def tryRun (d : Dev) : Dev :=
  match d.work.active with
  | none => d
  | some a =>
    if d.work.run.isSome || d.pwr.stopped || (d.ctx a.ctx).barrier == .closed || !d.work.passes.isEmpty then d
    else match d.jobOf a.ctx Op.run .accepted with
      | none => d
      | some j =>
        let no := a.runCount
        if d.work.jobs.any fun x => x.op = Op.item && x.run = some j.no && x.phase == .accepted then d
        else match d.work.aborts.find? fun x => x.1 = no with
          | some (_, st) =>
            let d1 := (d.onWork fun w => { w with
              active := some { a with runCount := (no + 1) % 2 ^ 32 }, aborts := w.aborts.filter fun x => x.1 != no }).onJob j.no
                fun x => { x with phase := .ended, run := some no, entry := some st }
            (d1.each (d1.work.jobs.filter fun x => x.op = Op.item && x.run = some j.no) fun d x =>
              d.failJob x (d.endStatus (BitVec.ofNat 8 st) x.ctx)).finishRuns
          | none =>
            if d.position = 0 then
              let t0 := d.now + u32 (schedule d.binding) 16
              (d.launchControl 6 0 (d.controlBytes 1 no t0 St.ok)).beginRun j no t0
            else match d.work.starts.find? fun x => x.1 = no with
              | some (_, t0, _) => d.beginRun j no t0
              | none => d

/-- Phase 0 begins at T0, or at once when START came later (R163, R78). -/
def runStart (d : Dev) : Dev :=
  match d.work.run with
  | none => d
  | some r =>
    if r.begun || d.pwr.stopped then d
    else
      let d1 := (d.reach r.t0).awake.enterStep 0 true
      match d1.work.run with
      | none => d1
      | some r' => (d1.onWork fun w => { w with run := some { r' with begun := true } }).startOrWait

/-! ### Phase boundaries (R77, R78) -/

/-- Every active core has reached its boundary and its instructions have completed; an idle station wakes first (R326). -/
def atBoundary (d : Dev) : Bool :=
  (match d.work.run with | some r => r.begun | none => false) && !d.work.pendingBoundary && !d.pwr.stopped && d.pwr.idle == .s0
    && d.coresEnded

/-- A run ends at a boundary: its items end, and its RUN ends after them (R78, R288). -/
def runEnd (d : Dev) (r : Run) : Dev :=
  let d1 := d.onWork fun w => { w with
    run := none, passesInFlight := []
    jobs := w.jobs.map fun j =>
      if j.no = r.job then { j with phase := .ended, entry := none }
      else if j.op = Op.item && j.run = some r.job then { j with phase := .ended } else j }
  let d2 := d1.onCirc fun q => { q with sigs := q.sigs.filter fun s => u32 s.bytes 32 != r.no }
  (d2.each d2.work.coreMap fun d c => d.onSeq c fun s => { s with st := .idle }).finishRuns

/-- The next step of a run begins: the boundary's decisions, the placements, and the cores (R77, R78, R166). -/
def nextStep (d : Dev) (r : Run) (p it : Nat) (bases : List Nat) : Dev :=
  let d1 := d.boundaryDecisions p
  let d2 := if d1.work.run.isNone then d1 else d1.enterStep (r.step + 1) (decide (d1.pwr.fold ≠ d.pwr.fold))
  match d2.work.run with
  | none => d2
  | some r' => (d2.onWork fun w => { w with
      run := some { r' with phase := p, iter := it, step := r.step + 1 }, bases := bases }).startOrWait

/-- A phase boundary. -/
def boundary (d : Dev) : Dev :=
  match d.work.run with
  | none => d
  | some r =>
    let e := phaseEntry d.binding r.phase
    let d0 := d.keepSpan.keepCount.learnDur r.phase (d.now - r.phaseAt)
    let again := r.iter + 1 < u32 e 4
    if !again && u16 e 0 = 0xFFFF then d0.runEnd r
    else
      let p := if again then r.phase else u16 e 0
      let it := if again then r.iter + 1 else 0
      let bases := if again then d.stepBases p else d.phaseBases p
      d0.nextStep r p it bases

/-! ### Control messages (R163, R172) -/

/-- A control message that is for this gathering and binding goes on along its rings; answers its bytes (R155, R156). -/
def controlIn (d : Dev) (port : Nat) (packet : Bytes) : Dev × Option Bytes :=
  match d.receive port packet with
  | (d1, none) => (d1, none)
  | (d1, some h) =>
    let b := h.body
    match d1.work.gath with
    | none => (d1, none)
    | some g =>
      if h.cls ≠ 4 || u8 b 0 ≠ 0x43 || u8 b 1 ≠ 0x4D || u8 b 2 ≠ 1 || u16 b 4 ≠ g.number || d1.work.active.isNone
          || u32 b 12 ≠ bindTag d1.binding then (d1, none)
      else
        let x := controlHop g d1.ringAxes (u16 b 6 % 4096) d1.position
        let d2 := if x.2.hops > 1 then d1.sendTo port x.2.axis x.2.plus 4 noTag b else d1
        (d2.launchControl port (x.1 + 1) b, some b)

/-- START arrives. -/
def controlStart (d : Dev) (port : Nat) (packet : Bytes) : Dev :=
  match d.controlIn port packet with
  | (d1, some b) =>
    if u8 b 3 ≠ 1 then d1
    else (d1.onWork fun w => { w with starts := w.starts ++ [(u32 b 8, u64 b 16, d1.now, port)] }).touchPeak.tryRun
  | (d1, none) => d1

/-- ABORT arrives: the run stops; for a run not begun here the status waits for it. The first ABORT of a run stands. -/
def controlAbort (d : Dev) (port : Nat) (packet : Bytes) : Dev :=
  match d.controlIn port packet with
  | (d1, some b) =>
    if u8 b 3 ≠ 2 then d1
    else
      let no := u32 b 8
      let st := b.getD 24 0
      match d1.work.run, d1.work.active with
      | some r, some a =>
        if r.no = no then d1.stopRun st
        else if no ≥ a.runCount && (d1.work.aborts.all fun x => x.1 != no) then
          d1.onWork fun w => { w with aborts := w.aborts ++ [(no, st.toNat)], starts := w.starts.filter fun x => x.1 != no }
        else d1.abortEnded no st
      | none, some a =>
        if no ≥ a.runCount && (d1.work.aborts.all fun x => x.1 != no) then
          (d1.onWork fun w => { w with aborts := w.aborts ++ [(no, st.toNat)], starts := w.starts.filter fun x => x.1 != no }).tryRun
        else d1.abortEnded no st
      | _, none => d1
  | (d1, none) => d1

/-! ### Items (R287, R333) -/

/-- The oldest accepted item of a context takes its input into its entry's working state. -/
def itemInput (d : Dev) (c : Nat) (input : HostRead) : Dev :=
  match d.jobOf c Op.item .accepted with
  | none => d
  | some j =>
    let se := d.seqEntry (j.entry.getD 0)
    let inN := u32 j.bytes 32; let inO := u32 j.bytes 36
    let d := d.emit (.hostRead (u64 j.bytes 16) inN)
    match input with
    | none => d.failJob j St.memUnc
    | some b =>
      let x := d.memPut c (u64 se 8 + inO) (padTo b inN) none
      match x.1 with
      | some st => x.2.failJob j st
      | none => (x.2.onJob j.no fun y => { y with phase := .begun }).tryRun

/-- The result of the oldest ended item is read, checked for marks and written, and its record follows (R299, R333). -/
def resultCopy (d : Dev) : Dev :=
  match d.work.jobs.find? fun j => j.op = Op.item && j.phase == .ended with
  | none => d
  | some j =>
    if !d.hostOpen then d
    else
      let se := d.seqEntry (j.entry.getD 0)
      let n := u32 j.bytes 40
      let x := d.memGet j.ctx (u64 se 8 + u32 j.bytes 44) n
      match x.2.1 with
      | some st => x.2.2.failJob j st
      | none => ((x.2.2.emit (.hostWrite (u64 j.bytes 24) x.1)).settle j (jobStatus j) n 0).finishRuns

end Dev

/-! ### The rows -/

/-- R77. -/
def execPhaseBoundary (s : State) : Answer := s.on fun d => d.live fun d => d.given d.atBoundary (·.boundary)
/-- R78. -/
def execRunStart (s : State) : Answer := s.on fun d => d.live fun d => d.runStart
/-- R288. -/
def execRun (ctx : CtxId) (s : State) : Answer := s.on fun d => d.live fun d =>
  match d.work.active with
  | some a => if a.ctx = ctx.val then d.tryRun else d
  | none => d
/-- R163. -/
def execControlStart (port : PortId) (packet : Bytes) (s : State) : Answer :=
  s.on fun d => d.live fun d => (d.rouseAt port.val).controlStart port.val packet
/-- R172. -/
def execControlAbort (port : PortId) (packet : Bytes) (s : State) : Answer :=
  s.on fun d => d.live fun d => (d.rouseAt port.val).controlAbort port.val packet
/-- R287. -/
def execItem (ctx : CtxId) (input : HostRead) (s : State) : Answer := s.on fun d => d.live fun d => d.itemInput ctx.val input
/-- R333. -/
def execItemResultCopy (found : List Found) (s : State) : Answer := s.on fun d => d.live fun d => (d.found found).resultCopy

end Sys2Proof.Machine
end

