-- ==== Sys2Proof/Machine/LoadCheck.lean ====
section
/-! DEFINITION. The load check of a binding (R74, R75): every rule of chapter 04 on the container, and R29, R49, R117, R160 to R162,
R178 and R421, each breach with its place and its REASON. -/

namespace Sys2Proof.Machine

/-- A breach: the byte offset of the first offending byte, and the REASON of R75. -/
abbrev Breach := Nat × Nat

/-- A breach when a condition is broken. -/
def breach (bad : Bool) (ofs reason : Nat) : List Breach := if bad then [(ofs, reason)] else []
/-- The first reserved byte of a range that is not zero. -/
def breachResv (b : Bytes) (o n : Nat) : List Breach :=
  match (List.range n).find? fun i => u8 b (o + i) ≠ 0 with
  | some i => [(o + i, 7)]
  | none => []
/-- The breach with the lowest offset; among equals the first listed (R75). -/
def firstBreach : List Breach → Option Breach
  | [] => none
  | x :: xs => match firstBreach xs with
    | some y => if y.1 < x.1 then some y else some x
    | none => some x

/-! ### Header and section table (R71 to R73) -/

/-- SHA-256 of the container with DIGEST taken as zero. -/
def bindDigest (b : Bytes) : Bytes := sha256 (b.take 32 ++ zeros 32 ++ b.drop 64)

/-- The header; `stations` is the size of the gathering, for a member of one. -/
def checkHeader (b : Bytes) (stations : Option Nat) : List Breach :=
  let n := u16 b 8
  breach (sub b 0 4 != ofNats [0x4F, 0x58, 0x42, 0x4E]) 0 1 ++ breach (u16 b 4 != 1) 4 1 ++ breach (u16 b 6 > 1) 6 1
    ++ breach (n < 2 || n > 1024) 8 9
    ++ breach (match stations with | some m => m != n | none => false) 8 6
    ++ breach (u16 b 10 = 0) 10 9 ++ breach (u64 b 16 != b.length || b.length < 64) 16 1

/-- How a type is keyed: by position, by fold, by core; `none` for an unknown type (R73). -/
def typeKeys (ty : Nat) : Option (Bool × Bool × Bool) :=
  match ty with
  | 1 => some (false, false, false) | 2 => some (false, false, false) | 3 => some (true, true, false)
  | 4 => some (true, false, false) | 5 => some (true, true, true) | 6 => some (true, true, true) | 7 => some (true, true, true)
  | 8 => some (true, false, false) | 9 => some (true, false, false) | _ => none
/-- An annotation, which the station ignores. -/
def annotation (ty : Nat) : Bool := ty ≥ 0xF000

/-- Entry `i` of the section table, at container offset `o`, with the entries before it. -/
def checkEntry (b : Bytes) (o : Nat) (e : SecEnt) (before : List SecEnt) : List Breach :=
  let n := u16 b 8
  let hits := fun (a la z lz : Nat) => la > 0 && lz > 0 && a < z + lz && z < a + la
  let tab := u32 b 12
  breachResv b (o + 6) 2
    ++ breach (e.ofs % 64 != 0 || e.ofs + e.len > b.length || hits e.ofs e.len 0 64 || hits e.ofs e.len tab (24 * u16 b 10)
        || (before.any fun f => hits e.ofs e.len f.ofs f.len)) (o + 8) 3
    ++ breach (e.len ≥ 2 ^ 32) (o + 16) 9
    ++ if annotation e.ty then [] else match typeKeys e.ty with
      | none => [(o, 4)]
      | some (p, f, c) =>
        breach (if p then e.pos ≥ n else e.pos != 0xFFFF) (o + 2) 9
          ++ breach (if f then !([8, 6, 4].contains e.fold) else e.fold != 0) (o + 4) 9
          ++ breach (if c then e.core ≥ e.fold else e.core != 0xFF) (o + 5) 9
          ++ breach (before.any fun x => x.ty = e.ty && x.pos = e.pos && x.fold = e.fold && x.core = e.core) o 5

/-- Whether a section is in the table. -/
def hasSec (t : List SecEnt) (ty pos fold core : Nat) : Bool :=
  t.any fun e => e.ty = ty && e.pos = pos && e.fold = fold && e.core = core
/-- Whether a position's required sections are all there (R73). -/
def positionWhole (t : List SecEnt) (p : Nat) : Bool :=
  hasSec t 4 p 0 0xFF && hasSec t 8 p 0 0xFF &&
    [8, 6, 4].all fun f => hasSec t 3 p f 0xFF && (List.range f).all fun c => hasSec t 5 p f c && hasSec t 6 p f c

/-- The section table (R72, R73). A missing required section is reported when no table entry breaches: which of the two comes first is not said
(DESIGN CHOICE, log 75). -/
def checkTable (b : Bytes) : List Breach :=
  let tab := u32 b 12
  let n := u16 b 10
  if tab % 8 != 0 || tab < 64 || tab + 24 * n > b.length then [(12, 3)]
  else
    let t := secTable b
    let es := (List.range n).flatMap fun i => checkEntry b (tab + 24 * i) (secEnt b i) (t.take i)
    if !es.isEmpty then es
    else breach (!(hasSec t 1 0xFFFF 0 0xFF && hasSec t 2 0xFFFF 0 0xFF && (List.range (u16 b 8)).all (positionWhole t))) tab 5

/-! ### Phase table, plans and tables (R76, R80, R81) -/

/-- PHASE_TABLE. Bits [7:6] of OPP_MASK and PORT_USE and [31:24] of SCAN_USE are neither defined nor reserved, and are not checked (DESIGN CHOICE,
log 75). -/
def checkPhases (s : Bytes) : List Breach :=
  let n := s.length / 96
  breach (s.length % 96 != 0 || n < 1 || n > 65535) (96 * min n 65535) 9 ++ (List.range n).flatMap fun p =>
    let o := 96 * p
    breach (u16 s o != 0xFFFF && u16 s o ≥ n) o 0xE
      ++ breach (u16 s (o + 2) / 4 % 64 != 0) (o + 2) 7 ++ breach (u8 s (o + 3) != 0) (o + 3) 7
      ++ breach (u32 s (o + 4) = 0) (o + 4) 0xE ++ breach (u8 s (o + 15) > 3) (o + 15) 9
      ++ breachResv s (o + 19) 1 ++ breachResv s (o + 28) 4

/-- BUFFER_PLAN of a fold. -/
def checkPlan (s : Bytes) (fold : Nat) : List Breach :=
  let n := s.length / 32
  let r := fun i => sub s (32 * i) 32
  breach (s.length % 32 != 0) (32 * n) 9 ++ (List.range n).flatMap fun i =>
    let o := 32 * i
    let x := r i
    let k := u8 x 0
    let buf := k = 1 || k = 2
    breachResv s (o + 22) 10
      ++ breach (k < 1 || k > 3) o 9
      ++ breach (if buf then u8 x 1 ≥ fold else u8 x 1 != 0xFF) (o + 1) 9
      ++ breach (if k = 2 then u16 x 2 > 63 else u16 x 2 != 0) (o + 2) 9
      ++ breach (buf && u32 x 4 % 64 != 0) (o + 4) 9 ++ breach (buf && u32 x 8 % 64 != 0) (o + 8) 9
      ++ breach (buf && (u32 x 4 + u32 x 8 > Dev.bufBytes || (List.range i).any fun j =>
          let y := r j
          (u8 y 0 = 1 || u8 y 0 = 2) && u8 y 1 = u8 x 1 && u32 x 8 > 0 && u32 y 8 > 0
            && u32 x 4 < u32 y 4 + u32 y 8 && u32 y 4 < u32 x 4 + u32 x 8)) (o + 4) 0xD
      ++ breach (k = 2 && (List.range i).any fun j =>
          let y := r j
          u8 y 0 = 2 && u8 y 1 = u8 x 1 && u16 y 2 = u16 x 2) (o + 2) 9
      ++ breach (k = 3 && u8 x 20 > 63) (o + 20) 9 ++ breach (k = 1 && u8 x 21 > 4) (o + 21) 9

/-- SEQUENCE_TABLE. -/
def checkSequences (s : Bytes) : List Breach :=
  breach (s.length != 2048) (min s.length 2048) 9 ++ (List.range (min 64 (s.length / 32))).flatMap fun i =>
    let o := 32 * i
    breach (u8 s o != i) o 9 ++ breach (u8 s (o + 1) > 1) (o + 1) 9 ++ breachResv s (o + 2) 2 ++ breachResv s (o + 24) 8

/-- SYNC_PLAN. -/
def checkSync (s : Bytes) : List Breach :=
  let n := s.length / 16
  breach (s.length % 16 != 0) (16 * n) 9 ++ (List.range n).flatMap fun i =>
    breach (u8 s (16 * i + 2) > 1) (16 * i + 2) 7 ++ breachResv s (16 * i + 3) 5

/-- The records of a CONSTANTS section: offset of the data, address and bytes; and whether the section ends with a whole record. -/
def constRecords (s : Bytes) : Nat → Nat → List (Nat × Nat × Nat) × Option Nat
  | 0, _ => ([], none)
  | k + 1, o =>
    if o ≥ s.length then ([], none)
    else if o + 16 > s.length || o + 16 + alignUp (u64 s (o + 8)) 64 > s.length then ([], some o)
    else
      let r := constRecords s k (o + 16 + alignUp (u64 s (o + 8)) 64)
      ((o + 16, u64 s o, u64 s (o + 8)) :: r.1, r.2)
/-- Every record of a CONSTANTS section. -/
def constAll (s : Bytes) : List (Nat × Nat × Nat) × Option Nat := constRecords s (s.length / 16 + 1) 0
/-- CONSTANTS. -/
def checkConstants (s : Bytes) : List Breach := match (constAll s).2 with | some o => [(o, 9)] | none => []

/-! ### Descriptors (R99, R421) -/

/-- DESCRIPTORS of a fold. -/
def checkDescs (s : Bytes) (fold : Nat) : List Breach :=
  let n := s.length / 64
  breach (s.length % 64 != 0 || n > 2048) (64 * min n 2048) 9 ++ (List.range (min n 2048)).flatMap fun i =>
    let o := 64 * i
    let k := u8 s o
    let f := u8 s (o + 1)
    let grouped := f = 3 || f = 4
    let p := u16 s (o + 56)
    breach (k < 1 || k > 4) o 9 ++ breach (NumFmt.ofCode f).isNone (o + 1) 9 ++ breach (u8 s (o + 2) > 4) (o + 2) 9
      ++ breach ((u8 s (o + 2) = 1 && u8 s (o + 3) ≥ fold) || (u8 s (o + 2) = 4 && u8 s (o + 3) > 3)) (o + 3) 9
      ++ breachResv s (o + 5) 3 ++ breach (!grouped && u64 s (o + 16) != 0) (o + 16) 9
      ++ breach (grouped && u32 s (o + 28) % 32 != 0) (o + 28) 9
      ++ breach (k = 3 && p != 0xFFFF && p ≥ n) (o + 56) 0xA
      ++ breach (k = 3 && p != 0xFFFF && p < n && u8 s (64 * p) != 4) (o + 56) 9
      ++ breachResv s (o + 58) 6

/-! ### Instruction words (R86 to R98) -/

/-- The mask of bits [hi:lo] of word D`k`. -/
def bitMask (k hi lo : Nat) : Nat := 2 ^ (32 * k + hi + 1) - 2 ^ (32 * k + lo)
/-- The reserved bits of an opcode's words. -/
def reservedBits (o : Nat) : Nat :=
  let d2 := bitMask 2 31 0; let d3 := bitMask 3 31 0
  bitMask 0 15 9 |||
    (if o = IW.oMxm || o = IW.oDist then bitMask 2 31 31
     else if o = IW.oLdw then bitMask 1 31 10 ||| bitMask 2 31 19 ||| d3
     else if o = IW.oVec then bitMask 1 31 31 ||| bitMask 2 31 11
     else if o = IW.oCvt then bitMask 1 31 22 ||| bitMask 2 31 14 ||| d3
     else if o = IW.oMov then bitMask 1 31 27 ||| bitMask 2 31 9 ||| d3
     else if o = IW.oFsc then bitMask 1 31 10 ||| d2 ||| d3
     else if o = IW.oTopk then bitMask 1 31 15 ||| bitMask 2 31 22 ||| bitMask 3 31 17
     else if o = IW.oSend then bitMask 1 31 28 ||| bitMask 3 31 17
     else if o = IW.oRecv then bitMask 1 31 11 ||| bitMask 2 31 16 ||| d3
     else if o = IW.oFe then bitMask 1 15 13
     else if o = IW.oBar then bitMask 1 31 19 ||| d2 ||| d3
     else bitMask 1 31 0 ||| d2 ||| d3)
/-- The opcodes of R87. -/
def knownOpc (o : Nat) : Bool :=
  [IW.oNop, IW.oHalt, IW.oPhase, IW.oBar, IW.oMxm, IW.oDist, IW.oLdw, IW.oVec, IW.oCvt, IW.oMov, IW.oFsc, IW.oTopk, IW.oSend,
   IW.oRecv, IW.oFe].contains o
/-- The pairs of R29, weight then activation, by format code. -/
def pairOk (w a : Nat) : Bool :=
  let h := fun x => x = 1 || x = 2
  (h w && (h a || a = 3 || a = 0)) || (w = 3 && (a = 3 || h a || a = 0)) || (w = 4 && (a = 3 || h a))
    || (w = 0 && (h a || a = 3 || a = 0))
/-- The VOP codes of R100. -/
def vopOk (v : Nat) : Bool :=
  (1 ≤ v && v ≤ 0xA) || (0x10 ≤ v && v ≤ 0x17) || (0x20 ≤ v && v ≤ 0x22) || (0x30 ≤ v && v ≤ 0x32)

/-- What the check of an instruction needs: the descriptors and fused records of its core, the fold, the core and the positions. -/
structure CheckCtx where
  descs : Bytes
  fused : Bytes
  plan : Bytes
  fold : Nat
  core : Nat
  stations : Nat

/-- Descriptors of the core. -/
def CheckCtx.count (x : CheckCtx) : Nat := min 2048 (x.descs.length / 64)
/-- Descriptor `i`. -/
def CheckCtx.desc (x : CheckCtx) (i : Nat) : Desc := Desc.ofBytes [] (sub x.descs (64 * i) 64)

/-- The fields of an instruction word whose D0 stands at byte `o`; a stage's BODY is checked as its instruction. -/
def checkFields (x : CheckCtx) (w o : Nat) : List Breach :=
  let op := IW.opc w
  let at_ := fun (k lo : Nat) => o + 4 * k + lo / 8
  let ix := fun (i k lo : Nat) => breach (i ≥ x.count) (at_ k lo) 0xA
  let dOk := fun (i : Nat) (p : Desc → Bool) => i ≥ x.count || p (x.desc i)
  if op = IW.oMxm || op = IW.oDist then
    let cmp := isCompare (IW.mOp w)
    let rows := bankRows (IW.mOblong w) (IW.mOp w)
    let of8 := (IW.mWfmt w = 3 || IW.mWfmt w = 4) && IW.mAfmt w = 3
    let pOk := 1 ≤ IW.mPrec w && (op = IW.oMxm || IW.mPrec w = 1)
    breach (if op = IW.oMxm then IW.mOp w != 0 else IW.mOp w < 1 || IW.mOp w > 4) (at_ 1 0) 9
      ++ breach (!pairOk (IW.mWfmt w) (IW.mAfmt w)) (at_ 1 4) 9
      ++ breach (IW.mMask w = 0) (at_ 1 12) 9 ++ breach (IW.mRows w > rows) (at_ 1 16) 9
      ++ breach (!pOk) (at_ 1 28) 9
      ++ breach (if IW.mAfmt w = 0 then IW.mPiece w < 1 || IW.mPiece w > IW.mPrec w else IW.mPiece w != 0) (at_ 1 30) 9
      ++ breach (IW.mBase w + IW.mRows w > rows) (at_ 2 0) 9
      ++ ix (IW.mAd w) 2 9
      ++ breach (!dOk (IW.mAd w) fun y => y.kind = 2 && y.code = IW.mAfmt w && 1 ≤ y.cols && y.cols ≤ tileDepth (IW.mOblong w) of8) (at_ 2 9) 9
      ++ ix (IW.mOd w) 2 20
      ++ breach (!dOk (IW.mOd w) fun y => y.kind = 3 && 1 ≤ y.cols && y.cols ≤ tileCols (IW.mOblong w)
          && (!IW.mDrain w || y.code ≤ 3)) (at_ 2 20) 9
      ++ breach (if cmp then !dOk (IW.mAd w) fun y => IW.mKbase w + y.cols ≤ 2 ^ 32 else IW.mKbase w != 0) (at_ 3 0) 9
  else if op = IW.oLdw then
    breach (IW.lWfmt w > 4 || (IW.lFolded w && IW.lWfmt w != 1 && IW.lWfmt w != 2)) (at_ 1 0) 9
      ++ breach (if IW.lWfmt w = 0 then IW.lPiece w = 0 else IW.lPiece w != 0) (at_ 1 6) 9
  else if op = IW.oVec then
    let two := vecBinary (IW.vOp w)
    let fOk := fun (y : Desc) => decide (y.code ≤ 2)
    breach (!vopOk (IW.vOp w)) (at_ 1 0) 9
      ++ ix (IW.vDa w) 1 8 ++ breach (!dOk (IW.vDa w) fOk) (at_ 1 8) 9
      ++ (if two then ix (IW.vDb w) 1 19 ++ breach (!dOk (IW.vDb w) fOk) (at_ 1 19) 9 else [])
      ++ ix (IW.vDd w) 2 0 ++ breach (!dOk (IW.vDd w) fOk) (at_ 2 0) 9
  else if op = IW.oCvt then
    ix (IW.cDs w) 1 0 ++ breach (!dOk (IW.cDs w) fun y => decide (y.code ≤ 5)) (at_ 1 0) 9
      ++ ix (IW.cDd w) 1 11
      ++ breach (!dOk (IW.cDd w) fun y => decide (y.code ≤ 5) && (IW.cPiece w = 0 || y.code = 5)) (at_ 1 11) 9
      ++ (if IW.cNoParam w then [] else ix (IW.cDp w) 2 0 ++ breach (!dOk (IW.cDp w) fun y => decide (y.kind = 4)) (at_ 2 0) 9)
  else if op = IW.oMov then
    let ds := x.desc (IW.cDs w)
    let both := IW.cDs w < x.count && IW.cDd w < x.count
    let k := if IW.sTrans w then ds.rows else ds.cols
    let lanes := lanesOf (IW.sOblong w) * (if ds.code = 3 then 2 else 1)
    ix (IW.cDs w) 1 0 ++ ix (IW.cDd w) 1 11
      ++ breach (both && ds.code != (x.desc (IW.cDd w)).code) (at_ 1 0) 9
      ++ breach (both && IW.sTrans w && (ds.code = 3 || ds.code = 4)) (at_ 1 22) 9
      ++ breach (both && IW.sSkew w && (ds.code > 3 || k > lanes)) (at_ 1 23) 9
  else if op = IW.oTopk then
    breach (IW.tEngine w = 3 || (IW.tMode w = 3 && IW.tEngine w != 2)) (at_ 1 0) 9
      ++ ix (IW.tDq w) 2 0 ++ ix (IW.tDt w) 2 11 ++ ix (IW.tDl w) 3 0
  else if op = IW.oSend then
    ix (IW.nDs w) 1 0 ++ breach (IW.nClass w = 3) (at_ 1 11) 9
      ++ breach (IW.nRoute w = 6 && IW.nPos w ≥ x.stations) (at_ 1 16) 9
      ++ breach (IW.nRoute w = 7 && IW.nAxis w = 3) (at_ 1 26) 9
  else if op = IW.oRecv then ix (IW.nDs w) 1 0
  else if op = IW.oFe then
    breach (IW.eFop w > 5 || (IW.eGe w && IW.eFop w != 2)) (at_ 1 0) 9
  else if op = IW.oBar then
    breach (IW.bCores w && (!bitOf (IW.bMask w) x.core || IW.bMask w / 2 ^ x.fold != 0)) (at_ 1 11) 9
  else if op = IW.oFsc then breach (IW.fRecord w ≥ min 1024 (x.fused.length / 288)) (at_ 1 0) 0xA
  else []

/-- The first byte of a word at `o` that holds a reserved bit set. -/
def checkBits (w o mask : Nat) : List Breach :=
  match (List.range 16).find? fun i => (w &&& mask) / 2 ^ (8 * i) % 256 ≠ 0 with
  | some i => [(o + i, 7)]
  | none => []

/-- The activation blocks and the drain destinations of an MXM or DIST are core buffer addresses (R49, R85); a slot stands for one in a fused
record (R103). -/
def checkSpaces (x : CheckCtx) (w o : Nat) (inSlot outSlot : Bool) : List Breach :=
  let out := fun (i : Nat) => decide (i < x.count) && decide ((x.desc i).space > 1)
  if IW.opc w = IW.oMxm || IW.opc w = IW.oDist then
    breach (!inSlot && out (IW.mAd w)) (o + 9) 9 ++ breach (!outSlot && out (IW.mOd w)) (o + 10) 9
  else []

/-- An instruction word at byte `o`. -/
def checkWord (x : CheckCtx) (w o : Nat) : List Breach :=
  if !knownOpc (IW.opc w) then [(o, 8)]
  else checkBits w o (reservedBits (IW.opc w)) ++ checkFields x w o ++ checkSpaces x w o false false

/-! ### Fused records (R103, R104) -/

/-- Bytes of the output of a stage's iteration. -/
def stageOut (x : CheckCtx) (s : FscStage) : Nat :=
  let w := s.word
  let plain := fun (y : Desc) => (y.rows - 1) * y.pitch + fmtBytes y.fmt y.cols
  match s.ty with
  | 3 | 4 =>
    let y := x.desc (IW.mOd w)
    ((maskArrays (IW.mMask w)).length - 1) * y.astride + (IW.mRows w - 1) * y.pitch + fmtBytes y.fmt y.cols
  | 5 => plain (x.desc (IW.vDd w))
  | 6 => plain (x.desc (IW.cDd w))
  | 7 => (IW.tNq w - 1) * (x.desc (IW.tDl w)).pitch + 16 * IW.tK w
  | 1 | 8 =>
    let y := x.desc (IW.cDd w)
    if IW.sSkew w then
      let k := if IW.sTrans w then (x.desc (IW.cDs w)).rows else (x.desc (IW.cDs w)).cols
      (IW.sBlocks w - 1) * y.astride + (IW.sRows w + k - 1) * (lanesOf (IW.sOblong w) * laneBytes y.fmt)
    else plain y
  | _ => 0

/-- Stage `i` of a record at byte `o` of its section. -/
def checkStage (x : CheckCtx) (r : Bytes) (o i : Nat) : List Breach :=
  let s := fscStage r i
  let q := o + 32 + 32 * i
  let js := List.range (fscStages r)
  let st := fscStage r
  let opc := stageOpc s.ty
  if opc = 0 then [(q, 8)]
  else
    let slotOk := fun n => n ≤ 63 || n = 0xFF
    let readers := js.filter fun j => (st j).inSlot = s.outSlot
    let listed := (List.range (x.plan.length / 32)).any fun k =>
      let y := sub x.plan (32 * k) 32
      u8 y 0 = 2 && u8 y 1 = x.core && u16 y 2 = s.outSlot && 2 * stageOut x s ≤ u32 y 8
    let sameUnit := (List.range i).any fun j => IW.unitOf (stageOpc (st j).ty) == IW.unitOf opc
    let expand := (List.range i).find? fun j => (st j).ty = 2 && IW.lSlot (st j).word = IW.mSlot s.word
    breach (!slotOk s.inSlot) (q + 1) 9 ++ breach (!slotOk s.outSlot) (q + 2) 9
      ++ breach (IW.unitOf opc != some .se && sameUnit) q 0xC
      ++ breach (s.inSlot != 0xFF && !((List.range i).any fun j => (st j).outSlot = s.inSlot)) (q + 1) 0xC
      ++ breach (s.outSlot != 0xFF && !(readers.length = 1 && readers.all (· > i) && listed
          && ((List.range i).all fun j => (st j).outSlot != s.outSlot))) (q + 2) 0xC
      ++ breach (u8 r (35 + 32 * i) > 1) (q + 3) 7
      ++ breach (!s.last && (List.range i).any fun j => (st j).last && (st j).outSlot = s.inSlot && s.inSlot != 0xFF) (q + 3) 0xC
      ++ breach ((s.ty = 3 || s.ty = 4) && !(match expand with
          | some j => IW.lWfmt (st j).word = IW.mWfmt s.word && IW.lOblong (st j).word == IW.mOblong s.word
          | none => false)) (q + 4) 0xC
      ++ checkBits s.word q (reservedBits opc) ++ checkFields x s.word q ++ checkSpaces x s.word q (s.inSlot != 0xFF) (s.outSlot != 0xFF)
      ++ (breachResv r (56 + 32 * i) 8).map fun y => (o + y.1, y.2)

/-- The fused record at byte `o` of its section. -/
def checkRecord (x : CheckCtx) (r : Bytes) (o : Nat) : List Breach :=
  let n := fscStages r
  let slots := ((List.range (min 8 n)).flatMap fun i => [(fscStage r i).inSlot, (fscStage r i).outSlot]).filter (· ≤ 63)
  breach (n < 1 || n > 8) o 9 ++ (breachResv r 1 1).map (fun y => (o + y.1, y.2))
    ++ breach (fscPeriod r = 0) (o + 2) 9 ++ breach (fscIter r = 0 || fscIter r % max 1 (fscPeriod r) != 0) (o + 4) 9
    ++ breach ((List.range 64).any fun s => bitOf (fscMask r) s != slots.contains s) (o + 8) 0xC
    ++ (breachResv r 16 16).map (fun y => (o + y.1, y.2))
    ++ (if n ≤ 8 then (List.range n).flatMap (checkStage x r o) else [])
    ++ (if n ≤ 8 then (breachResv r (32 + 32 * n) (256 - 32 * n)).map (fun y => (o + y.1, y.2)) else [])

/-- FUSED of a core. -/
def checkFused (x : CheckCtx) : List Breach :=
  let s := x.fused
  let n := s.length / 288
  breach (s.length % 288 != 0 || n > 1024) (288 * min n 1024) 9
    ++ (List.range (min n 1024)).flatMap fun i => checkRecord x (sub s (288 * i) 288) (288 * i)

/-! ### Programs (R82, R90) -/

/-- Follow a program from an instruction to its PHASE or HALT: what each staging slot holds is the format and shape of the last LDW
into it. Answers breaches of R90, and whether the end of the section was reached. -/
def walk (base : Nat) : Nat → List Nat → List (Option (Nat × Bool)) → List Breach × Bool
  | _, [], _ => ([], true)
  | i, w :: ws, slots =>
    let op := IW.opc w
    let o := base + 16 * i
    if op = IW.oPhase || op = IW.oHalt then ([], false)
    else if op = IW.oLdw then walk base (i + 1) ws (slots.set (IW.lSlot w) (some (IW.lWfmt w, IW.lOblong w)))
    else if op = IW.oMxm || op = IW.oDist then
      let r := walk base (i + 1) ws slots
      match slots.getD (IW.mSlot w) none with
      | none => ((o + 5, 0xB) :: r.1, r.2)
      | some (f, s) => (breach (f != IW.mWfmt w || s != IW.mOblong w) (o + 4) 0xB ++ r.1, r.2)
    else walk base (i + 1) ws slots

/-- PROGRAM of a core, for a binding of `phases` phases. The bytes that pad its entry table count as reserved (R75, R82; DESIGN CHOICE, log 79). -/
def checkProgram (x : CheckCtx) (s : Bytes) (phases : Nat) : List Breach :=
  let et := alignUp (4 * phases) 64
  if s.length < et then [(s.length, 9)]
  else
    let n := (s.length - et) / 16
    let code := s.drop et
    let ws := (chunks 16 (min n 65536) code).map fun w => le w 0 16
    let entries := (List.range phases).map fun p => (4 * p, u32 s (4 * p))
    breachResv s (4 * phases) (et - 4 * phases)
      ++ breach ((s.length - et) % 16 != 0 || n > 65536) (et + 16 * min n 65536) 9
      ++ (entries.flatMap fun e => breach (e.2 != 0xFFFFFFFF && e.2 ≥ n) e.1 0xE)
      ++ ((ws.zip (List.range ws.length)).flatMap fun wi => checkWord x wi.1 (et + 16 * wi.2))
      ++ (entries.filter fun e => e.2 < n).flatMap fun e =>
          let r := walk et e.2 (ws.drop e.2) [none, none, none, none]
          breach r.2 e.1 9 ++ r.1

/-! ### The schedule (R160 to R162, R178) -/

/-- An injection entry at byte `o`; a COUNT of 0 is out of range (DESIGN CHOICE, log 79). -/
def checkInjection (s : Bytes) (o : Nat) : List Breach :=
  let kind := u8 s (o + 41); let cnt := u32 s (o + 28); let tiles := u8 s (o + 42); let legs := u8 s (o + 40)
  breach (kind = 2 && u64 s (o + 16) != 0) (o + 16) 9
    ++ breach (if kind = 1 then u32 s (o + 24) % 16 != 0 else u32 s (o + 24) != 0) (o + 24) 9
    ++ breach (if kind = 1 then cnt % 16 != 0 || cnt = 0 || cnt > 2048
        else cnt % 64 != 0 || cnt = 0 || 64 + alignUp (4 * tiles) 64 + cnt > 4194304) (o + 28) 9
    ++ breach (u16 s (o + 38) ≥ u16 s 14) (o + 38) 0xA
    ++ breach (legs % 4 = 0 || (List.range (legs % 4)).any fun l => legs / 4 / 4 ^ l % 4 = 3) (o + 40) 9
    ++ breach (kind != 1 && kind != 2) (o + 41) 9
    ++ breach (if kind = 1 then tiles != 0 else tiles = 0 || tiles > 128 || cnt % tiles != 0 || cnt / tiles % 64 != 0) (o + 42) 9
    ++ breachResv s (o + 44) 4

/-- The injection entries of a position, whose record is at byte `o`, in a table of `n`. -/
def checkPosition (s : Bytes) (o n : Nat) : List Breach :=
  let first := u32 s o; let cnt := u32 s (o + 4)
  if first + cnt > n then [(o, 0xA)]
  else (List.range cnt).flatMap fun i =>
    let q := u32 s 36 + 48 * (first + i)
    checkInjection s q ++ breach (i > 0 && u64 s q < u64 s (q - 48)) q 9
      ++ breach (i > 0 && u32 s (q + 32) < u32 s (q + 32 - 48)) (q + 32) 9

/-- A stationing record at byte `o`. -/
def checkStationing (s : Bytes) (o stations : Nat) : List Breach :=
  breach (u16 s (o + 2) = 0) (o + 2) 9 ++ breach (u16 s (o + 4) ≥ stations) (o + 4) 9
    ++ breach (u8 s (o + 6) < 1 || u8 s (o + 6) > 64) (o + 6) 9
    ++ breach (u8 s (o + 7) < 1 || u8 s (o + 7) > 8 || u8 s (o + 6) * u8 s (o + 7) > 64) (o + 7) 9 ++ breachResv s (o + 12) 20

/-- A core field of a placement record at byte `o`. -/
def checkPlacement (s : Bytes) (o fold core : Nat) : List Breach :=
  breach (u8 s (o + 1) > 128 || (core ≥ fold && u8 s (o + 1) != 0)) (o + 1) 9 ++ breachResv s (o + 2) 2
    ++ breach (u32 s (o + 4) % 64 != 0) (o + 4) 9

/-- SCHEDULE of a binding in a mode, of `n` positions. -/
def checkSchedule (s : Bytes) (stationed : Bool) (n : Nat) : List Breach :=
  if s.length < 64 then [(s.length, 9)]
  else
    let pos := u32 s 32; let ent := u32 s 36; let pl := u32 s 40; let places := u16 s 14
    let head := breach (sub s 0 4 != ofNats [0x4F, 0x58, 0x53, 0x43]) 0 9 ++ breach (u16 s 4 != 1) 4 9
      ++ breach (u8 s 6 != b2n stationed) 6 9 ++ breachResv s 7 1
      ++ breach (u16 s 8 * u16 s 10 * u16 s 12 != n) 8 9 ++ breachResv s 28 4 ++ breachResv s 44 20
      ++ breach (pos + (if stationed then 32 else 8) * n > s.length) 32 9
    let past := pos + (if stationed then 32 else 8) * n > s.length
    if stationed then
      head ++ if past then [] else (List.range n).flatMap fun p => checkStationing s (pos + 32 * p) n
    else
      let head := head ++ breach (ent > s.length) 36 9 ++ breach (pl + 192 * places > s.length) 40 9
      let ends := ([pos, pl].filter fun x => x > ent).foldl min s.length
      let cnt := (ends - ent) / 48
      head ++ (if past || ent > s.length then [] else (List.range n).flatMap fun p => checkPosition s (pos + 8 * p) cnt)
        ++ if pl + 192 * places > s.length then []
          else ([8, 6, 4].zip [0, 1, 2]).flatMap fun f => (List.range places).flatMap fun r => (List.range 8).flatMap fun c =>
            checkPlacement s (pl + 64 * (f.2 * places + r) + 8 * c) f.1 c

/-! ### The whole check -/

/-- One section by its table entry (R74). -/
def checkSection (b : Bytes) (e : SecEnt) : List Breach :=
  let s := secBytes b e
  let x : CheckCtx := { descs := findSec b 6 e.pos e.fold e.core, fused := findSec b 7 e.pos e.fold e.core
                        plan := findSec b 3 e.pos e.fold 0xFF, fold := e.fold, core := e.core, stations := u16 b 8 }
  match e.ty with
  | 1 => checkPhases s
  | 2 => checkSchedule s (bindStationed b) (u16 b 8)
  | 3 => checkPlan s e.fold
  | 4 => checkSequences s
  | 5 => checkProgram x s ((phaseTable b).length / 96)
  | 6 => checkDescs s e.fold
  | 7 => checkFused x
  | 8 => checkSync s
  | 9 => checkConstants s
  | _ => []

/-- The first failing section of those a station checks, from table entry `i` on. -/
def checkSections (b : Bytes) (pos : Option Nat) : Nat → List SecEnt → Option (Nat × Breach)
  | _, [] => none
  | i, e :: es =>
    let mine := e.pos = 0xFFFF || (match pos with | some p => e.pos = p | none => true)
    match (if mine then firstBreach (checkSection b e) else none) with
    | some x => some (i, x)
    | none => checkSections b pos (i + 1) es

/-- The load check: REASON, SECTION and OFFSET of the first failure (R75). `gath` is the size of the gathering and the position
in it; a station in no gathering checks every position. -/
def loadCheck (b : Bytes) (gath : Option (Nat × Nat)) : Option (Nat × Nat × Nat) :=
  match firstBreach (checkHeader b (gath.map (·.1))) with
  | some (o, r) => some (r, 0xFFFF, o)
  | none =>
    if bindDigest b != sub b 32 32 then some (2, 0xFFFF, 32)
    else match firstBreach (checkTable b) with
      | some (o, r) => some (r, 0xFFFF, o)
      | none => (checkSections b (gath.map (·.2)) 0 (secTable b)).map fun x => (x.2.2, x.1, x.2.1)

/-! ### Virtual sync IDs a binding names (R266) -/

/-- The IDs of an instruction word at byte `o`, each with the byte of its field. -/
def wordSyncs (w o : Nat) : List (Nat × Nat) :=
  (if IW.dn w then [(o + 2, IW.doneId w)] else [])
    ++ (if IW.opc w = IW.oFe && !IW.eBoard w then [(o + 6, IW.eSync w)] else [])
    ++ (if IW.opc w = IW.oSend && IW.nRsig w then [(o + 12, IW.nRsync w)] else [])
/-- The IDs that a section names for a position. -/
def sectionSyncs (b : Bytes) (pos : Nat) (e : SecEnt) : List (Nat × Nat) :=
  let s := secBytes b e
  if e.ty = 2 then [(26, u16 s 26 + 7)]
  else if e.pos ≠ pos then []
  else match e.ty with
    | 5 =>
      let et := alignUp (4 * ((phaseTable b).length / 96)) 64
      let ws := chunks 16 ((s.length - et) / 16) (s.drop et)
      (ws.zip (List.range ws.length)).flatMap fun w => wordSyncs (le w.1 0 16) (et + 16 * w.2)
    | 7 => (List.range (s.length / 288)).flatMap fun i =>
        let r := sub s (288 * i) 288
        (List.range (fscStages r)).flatMap fun j => wordSyncs (fscStage r j).word (288 * i + 32 + 32 * j)
    | 8 => (List.range (s.length / 16)).map fun i => (16 * i, u16 s (16 * i))
    | _ => []
/-- The first section, and the place in it, that names an ID of `count` or more. -/
def syncBreach (b : Bytes) (pos count : Nat) : Nat → List SecEnt → Option (Nat × Nat)
  | _, [] => none
  | i, e :: es =>
    match firstBreach (((sectionSyncs b pos e).filter fun x => x.2 ≥ count).map fun x => (x.1, 9)) with
    | some x => some (i, x.1)
    | none => syncBreach b pos count (i + 1) es

end Sys2Proof.Machine
end

