-- ==== Sys2Proof/Machine/Binding.lean ====
section
/-! DEFINITION. Logged descriptors (R361, R365, R367), loading a binding (R74, R75, R81, R289) and switching to one (R14, R17, R18,
R38, R74, R82, R247, R266, R289). -/

namespace Sys2Proof.Machine

namespace Dev

/-- GDDR7 and the fabric run: neither a stop nor S3 holds them; a descriptor that needs them waits (R325, R327). -/
def memUp (d : Dev) : Bool := !d.pwr.stopped && d.pwr.idle != .s3

/-- A descriptor that is a configuration change of `n` entries acts: it waits while the finisher restarts, and is refused when the
colophon has no room (R365, R367). -/
def logJob (d : Dev) (j : Job) (n : Nat) (act : Dev → Dev) : Dev :=
  if d.boot.restarting then d
  else if !d.colRoom n then d.logRefused.settle j St.logFull 0 0
  else act d
/-- The CLASS 1 entry of a descriptor (R363). -/
def logDesc (d : Dev) (j : Job) (old new : Nat) : Dev :=
  d.log 3 j.ctx 1 (j.op + (if j.op = Op.kettle then j.kstep * 256 else 0)) old new j.tag

/-- A refusal is recorded in the context's registers (R75). -/
def bindRefused (d : Dev) (c : Nat) (x : Nat × Nat × Nat) : Dev :=
  d.onRegs c fun r => { r with bindRefuse := word (x.1 * 2 ^ 24 + x.2.1 % 65536), bindRefuseOfs := word x.2.2 }

/-- The CONSTANTS records of a position, with their data. -/
def constants (b : Bytes) (pos : Nat) : List (Nat × Bytes) :=
  let s := findSec b 9 pos 0 0xFF
  (constAll s).1.map fun r => (r.2.1, sub s r.1 r.2.2)
/-- The first address of the constants that cannot be written. -/
def constFault (d : Dev) (c : Nat) (l : List (Nat × Bytes)) : Option Nat :=
  firstSome (l.map fun x => d.badPage c x.1 x.2.length true)
/-- The constants are written at their addresses, with the status of a write that times out (R81, R262). -/
def putConstants (d : Dev) (c : Nat) (l : List (Nat × Bytes)) : Option Status × Dev := d.eachWrite l fun d x => d.slotPut c x.1 x.2 none

/-- The power controller forgets what it learned under a binding's number when another is loaded there (R316). -/
def forgetLearned (d : Dev) (c id : Nat) : Dev :=
  d.onPwr fun p => { p with learned := p.learned.clearRange ((c * 4 + id) * 4096) 4096 }

/-- The CONSTANTS that a BIND_LOAD writes: those of the station's position, in a gathering of so many stations. -/
def constantsAt (b : Bytes) (g : Option (Nat × Nat)) : List (Nat × Bytes) := match g with | some x => constants b x.2 | none => []
/-- TILE_EQ of each phase, as the phase records of a binding's telemetry hold it (R79). -/
def tileEq (b : Bytes) : List Bool := (List.range ((phaseTable b).length / 96)).map fun p => bitOf (u16 (phaseEntry b p) 2) 0
/-- A checked container is copied to its pages, and its constants are written (R81, R289); the status of a write that times out (R262). -/
def storeBinding (d : Dev) (j : Job) (b : Bytes) (g : Option (Nat × Nat)) : Option Status × Dev :=
  let w := d.slotPut j.ctx (u64 j.bytes 32) b none
  let x := w.2.putConstants j.ctx (constantsAt b g)
  (w.1 <|> x.1, x.2)
/-- A stored binding is kept under its number (R289). With it goes, from this load on, the TILE_EQ of each phase that its telemetry's phase records
hold (R79): where and when such a record is kept is the model's choice (log 78). -/
def keepBinding (d : Dev) (j : Job) (b : Bytes) (g : Option (Nat × Nat)) : Dev :=
  let c := j.ctx; let dev := u64 j.bytes 32; let id := u8 j.bytes 40
  ((d.logDesc j 0 id).onCtx c fun x => { x with bindings := x.bindings.set none id (some ⟨b, dev, g.map (·.2), g.isSome, tileEq b⟩) }).forgetLearned c id

/-- BIND_LOAD (R289): the container is copied to its pages, checked, and kept. -/
def bindLoad (d : Dev) (j : Job) (resp : HostRead) : Dev :=
  let c := j.ctx; let n := u64 j.bytes 24; let dev := u64 j.bytes 32; let id := u8 j.bytes 40
  let isActive : Bool := match d.work.active with | some a => a.ctx = c && a.bindId = id | none => false
  if id > 3 || isActive || !d.mapped c dev n true then d.settle j St.notPermitted 0 0
  else d.logJob j 1 fun d =>
    let d := d.emit (.hostRead (u64 j.bytes 16) n)
    match resp with
    | none => d.settle j St.memUnc 0 0
    | some b0 =>
      let b := padTo b0 n
      let g := d.work.gath.map fun g => (g.stations.length, g.pos)
      match loadCheck b g with
      | some x => (d.bindRefused c x).settle j (if x.1 = 2 then St.digestMismatch else St.notPermitted) 0 0
      | none =>
        let cs := constantsAt b g
        match d.constFault c cs with
        | some a => (d.errMem 2 c 31 0 a).settle j St.notPermitted 0 0
        | none =>
          let w := d.storeBinding j b g
          match w.1 with
          | some st => w.2.settle j st 0 0
          | none => (w.2.keepBinding j b g).settle j St.ok 0 0

/-- The old binding goes (R14, R289). A run in progress ends and RUNs that wait complete, both with STATUS_NOT_PERMITTED (DESIGN CHOICE, log 79). -/
def leaveBinding (d : Dev) : Dev := (((d.endRun St.notPermitted).dropRuns).deactivate)

/-- Why a kept binding cannot become active: REASON, SECTION and OFFSET (R74, R75, R266). -/
def switchCheck (d : Dev) (c : Nat) (k : Kept) : Option (Nat × Nat × Nat) :=
  let b := k.bytes
  match d.work.gath with
  | none => some (6, 0xFFFF, 8)
  | some g =>
    if g.stations.length ≠ u16 b 8 then some (6, 0xFFFF, 8)
    else if (match k.pos with | some p => p != g.pos | none => false) then some (5, 0xFFFF, u32 b 12)
    else if (d.ctx c).editions.all fun e => e.id != bindEdition b || e.state != .loaded then some (0xF, 0xFFFF, 24)
    else (syncBreach b g.pos (d.ctx c).regs.syncCount.toNat 0 (secTable b)).map fun x => (9, x.1, x.2)

/-- A binding becomes active (R13, R38, R81, R82, R158, R247). The fold of R17 is applied here too, before any run (log 41). -/
def activate (d : Dev) (c id : Nat) (k : Kept) (fold : Nat) : Dev :=
  let d1 := d.onWork fun w => { w with active := some ⟨c, id, k.bytes, 0⟩ }
  let d2 := d1.onRegs c fun r => { r with subnActive := r.subn }
  let d3 := if d2.work.dataCtx = some c then d2 else (d2.clearBuffers).clearCmem
  let d4 := (d3.onWork fun w => { w with dataCtx := some c }).setFold fold (min d.pwr.allowedFold d.heatFold)
  ((d4.each (List.range d4.work.coreMap.length) fun d lc => d.reload (d.work.coreMap.getD lc 0) lc).applySyncPlan)

/-- A kept binding that may become active does, its constants written (R81, R289). -/
def switchTo (d : Dev) (j : Job) (k : Kept) (fold : Nat) : Dev :=
  let c := j.ctx; let id := u8 j.bytes 16
  ((d.logDesc j 0 id).onCtx c fun x => { x with
    bindings := x.bindings.set none id (some { k with pos := some d.position, consts := true }) }).activate c id k fold

/-- BIND_SWITCH takes effect (R289). -/
def bindSwitch (d : Dev) (j : Job) : Dev := d.logJob j 1 fun d =>
  let c := j.ctx; let id := u8 j.bytes 16
  let d0 := d.leaveBinding
  let fold := d0.foldOf (min d0.pwr.allowedFold d0.heatFold)
  if fold = 0 then d0.settle j St.coreParked 0 0
  else match (if id ≤ 3 then (d0.ctx c).bindings.get none id else none) with
  | none => d0.settle j St.notPermitted 0 0
  | some k =>
    match d0.switchCheck c k with
    | some x => (d0.bindRefused c x).settle j St.notPermitted 0 0
    | none =>
      let cs := if k.consts then [] else constants k.bytes d0.position
      match d0.constFault c cs with
      | some a => (d0.errMem 2 c 31 0 a).settle j St.notPermitted 0 0
      | none =>
        let w := d0.putConstants c cs
        match w.1 with
        | some st => w.2.settle j st 0 0
        | none => (w.2.switchTo j k fold).settle j St.ok 0 0

/-- Whether every item accepted before a descriptor, in any context, has completed or failed (R14); one whose record is held has not (R296). -/
def itemsSettled (d : Dev) (no : Nat) : Bool :=
  (d.work.jobs.all fun x => !(x.op = Op.item && x.no < no)) && d.heldRecords.all fun h => match h.item with
    | some n => decide (no ≤ n)
    | none => true

end Dev

/-- R289. -/
def execBindLoad (ctx : CtxId) (container : HostRead) (s : State) : Answer := s.on fun d => d.live fun d =>
  match d.jobOf ctx.val Op.bindLoad .accepted with
  | some j => if d.memUp then d.bindLoad j container else d
  | none => d
/-- R289. -/
def execBindSwitch (ctx : CtxId) (s : State) : Answer := s.on fun d => d.live fun d =>
  match d.jobOf ctx.val Op.bindSwitch .accepted with
  | some j => if d.itemsSettled j.no && d.memUp then d.bindSwitch j else d
  | none => d

end Sys2Proof.Machine
end

