-- ==== Sys2Proof/Machine/Folding.lean ====
section
/-! DEFINITION. The bind pass's arithmetic (R125, R126): how 4,096 weights become a codebook with indices, or stay RAW, and the
body and header that hold them (R111 to R113). -/

namespace Sys2Proof.Machine

/-- Values of `w` bits each packed from bit 0 (R113). -/
def packBits (w : Nat) (vals : List Nat) : Nat := vals.foldr (fun v acc => v % 2 ^ w + 2 ^ w * acc) 0

/-- The FP32 number of a W19 value (R26). -/
def w19Word (x : Nat) : Word := word (x * 8192)
/-- Round to W19, to nearest even, a subnormal sample as it is; SUBN turns a W19 subnormal to zero (R125). -/
def roundW19 (subn : Bool) (v : Word) : Nat :=
  let x := layW19.encode (f32 v)
  if subn then layW19.flush x else x

/-- The entry nearest a value, ties to the lower (R125): its number and its distance. -/
def nearEntryFrom (v : Word) : Nat → List Word → Nat × Word → Nat
  | _, [], b => b.1
  | e, c :: cs, b =>
    let x := fabs (fsub v c)
    nearEntryFrom v (e + 1) cs (if flt x b.2 then (e, x) else b)
/-- nearest(c, v) of R125. -/
def nearEntry (c : List Word) (v : Word) : Nat :=
  match c with
  | [] => 0
  | x :: xs => nearEntryFrom v 1 xs (0, fabs (fsub v x))

/-- A round of refinement: every entry given samples becomes their mean. A sum starts from +0: R125 gives no starting value (log 78). -/
def refine (subn : Bool) (s : List Word) (c : List Nat) : List Nat :=
  let cw := c.map w19Word
  let at_ := s.map fun v => (nearEntry cw v, v)
  (c.zip (List.range c.length)).map fun ce =>
    let mine := at_.filter fun a => a.1 = ce.2
    if mine.isEmpty then ce.1
    else roundW19 subn (fdiv (mine.foldl (fun acc a => fadd acc a.2) fzero) (fnat mine.length))

/-- `n` rounds of refinement. -/
def refineN (subn : Bool) (s : List Word) : Nat → List Nat → List Nat
  | 0, c => c
  | n + 1, c => refineN subn s n (refine subn s c)

/-- The codebook table of a part: every fourth weight sorted, sampled, refined. -/
def foldTable (subn : Bool) (iters n : Nat) (part : List Word) : List Nat :=
  let samples := ((List.range (part.length / 4)).map fun i => part.getD (4 * i) fzero)
  let s := samples.mergeSort fun a b => !(f32 b).lt (f32 a)
  let c := (List.range n).map fun e => roundW19 subn (s.getD ((2 * e + 1) * s.length / (2 * n)) fzero)
  refineN subn s iters c

/-- What a fold of a block gives: RATE, body, ERR, and whether a weight was not finite. -/
structure Folded where
  rate : Nat
  body : Bytes
  err : Word
  nonfinite : Bool

/-- A trial of one rate: the body and ERR. Each square is rounded to FP32 before it is added, from +0: R125 says neither (log 78). -/
def foldRate (subn : Bool) (iters rate : Nat) (w : List Word) : Bytes × Word :=
  let n := if rate = 1 then 256 else if rate = 2 then 64 else 16
  let width := if rate = 1 then 8 else if rate = 2 then 6 else 4
  let parts := if rate = 3 then [0, 1, 2, 3].map fun t => (w.drop (1024 * t)).take 1024 else [w]
  let tables := parts.map (foldTable subn iters n)
  let x := (parts.zip tables).flatMap fun pt => pt.1.map fun v => nearEntry (pt.2.map w19Word) v
  let back := (parts.zip tables).flatMap fun pt => pt.1.map fun v => w19Word (pt.2.getD (nearEntry (pt.2.map w19Word) v) 0)
  let num := (w.zip back).foldl (fun acc wb => let dlt := fsub wb.1 wb.2; fadd acc (fmul dlt dlt)) fzero
  let den := w.foldl (fun acc v => fadd acc (fmul v v)) fzero
  let err := if (f32in den).eqv (.fin false 0 0) then fzero else fsqrt (fdiv num den)
  (leBytes (19 * n * tables.length / 8) (packBits 19 tables.flatten) ++ leBytes (512 * width) (packBits width x), err)

/-- A number at most a bound in FP32; a NaN accepts none. -/
def fle (a b : Word) : Bool := flt a b || (f32in a).eqv (f32in b)

/-- The narrowest rate of a set within the bound (R125): rates are numbered as in R111, 3 for ¼, 2 for ⅜, 1 for ½. -/
def foldTry (subn : Bool) (iters : Nat) (eps : Word) (w : List Word) : List Nat → Option Folded
  | [] => none
  | r :: rs =>
    let x := foldRate subn iters r w
    if fle x.2 eps then some ⟨r, x.1, x.2, false⟩ else foldTry subn iters eps w rs

/-- The fold of a block's source values (R125). -/
def foldBlock (srcfmt : Nat) (p : Nat × Nat × Word × Bool) (src : Bytes) : Folded :=
  let f := (NumFmt.ofCode srcfmt).getD .bf16
  let vals := (List.range 4096).map fun i => plainVal p.2.2.2 f (u16 src (2 * i))
  if vals.any fun v => !v.isFinite then ⟨4, padTo src 8192, fzero, true⟩
  else
    let w := vals.map fun v => word (lay32.encode v)
    let rates := (if bitOf p.2.1 0 then [3] else []) ++ (if bitOf p.2.1 1 then [2] else []) ++ (if bitOf p.2.1 2 then [1] else [])
    match foldTry p.2.2.2 p.1 p.2.2.1 w rates with
    | some x => x
    | none => ⟨4, padTo src 8192, fzero, false⟩

/-- The header of a folded block, with DERIVED set (R124). -/
def foldHeader (srcfmt block layer : Nat) (x : Folded) : Bytes :=
  blockHeader x.rate srcfmt 2 x.body.length block layer x.err x.body

end Sys2Proof.Machine
end

