-- ==== Sys2Proof/Machine/Rings.lean ====
section
/-! DEFINITION. Host rings (R275 to R285, R295 to R297): doorbells, fetch, acceptance, abort, interrupt moderation, and the passes of
stationed running (R179, R208). -/

namespace Sys2Proof.Machine

namespace Dev

/-! ### Ring errors and doorbells (R276, R279, R281) -/

/-- A capture of CTX_RING_ERR. -/
def ringCapture (d : Dev) (c r cause : Nat) : Dev :=
  d.onRegs c fun x => { x with ringErr := capture x.ringErr (cause * 2 ^ 28 + r % 16 * 2 ^ 16) }
/-- A ring error stops the pair, is captured, and raises its cause and the pair's vector (R281, R341). -/
def ringError (d : Dev) (c r cause : Nat) : Dev :=
  let d1 := ((d.onRing c r fun x => { x with stopped := true }).ringCapture c r cause).msix c (fld (d.ring c r).cfg 20 16)
  d1.cause cRing

/-- The context, and the offset in its doorbell page, of an access to BAR2 of a function (R274); `none` beyond the BAR. -/
def bar2 (fn : CtxId) (offset : Nat) : Option (Nat × Nat) :=
  if fn.val = 0 then (if offset < 262144 then some (offset / 4096, offset % 4096) else none)
  else if offset < 4096 then some (fn.val, offset) else none

/-- Whether a doorbell write is well made for the doorbells at `base` of the page (R279). -/
def bellOk (d : Dev) (c o base size : Nat) (v : Dword) : Bool :=
  size = 8 && o % 8 = 0 && base ≤ o && o < base + 128 && flag (d.ring c ((o - base) / 8)).cfg 31 && v.toNat < 2 ^ 32

/-- A new SQ tail (R276). -/
def sqTail (d : Dev) (c r : Nat) (v : Word) : Dev :=
  let g := d.ring c r
  if (v - g.sqTail).toNat ≥ 2 ^ 31 then d.ringError c r 2
  else if (v - g.sqHead).toNat > ringSize (fld g.cfg 4 0) then d.ringError c r 1
  else d.onRing c r fun x => { x with sqTail := v }
/-- A new CQ head: held records are written into the slots it frees (R276, R296). -/
def cqHead (d : Dev) (c r : Nat) (v : Word) : Dev :=
  let g := d.ring c r
  if (g.cqTail - v).toNat > (g.cqTail - g.cqHead).toNat then d.ringError c r 3
  else (((d.onRing c r fun x => { x with cqHead := v }).drainRing c r).busyCheck c).finishRuns

/-- A write to BAR2 (R279); a function in D3hot takes none (R273; log 76). -/
def doorbell (d0 : Dev) (fn : CtxId) (offset size : Nat) (v : Dword) : Dev :=
  if !d0.fnOpen fn.val then d0
  else let d := d0.rouse; match bar2 fn offset with
  | none => d
  | some (c, o) =>
    if d.bellOk c o 0 size v then d.sqTail c (o / 8) (v.setWidth 32)
    else if d.bellOk c o 256 size v then d.cqHead c ((o - 256) / 8) (v.setWidth 32)
    else d.ringCapture c (o / 8 % 16) 5

/-! ### Descriptors that cannot act (R285 to R293) -/

/-- Whether a KETTLE descriptor leaves the fields its step does not use zero (R293). -/
def kettleOk (b : Bytes) : Bool :=
  let st := u8 b 16; let peer := u8 b 17
  1 ≤ st && st ≤ 5 && zeroAt b 56 8 &&
    (if st = 1 then peer ≤ 1 && u16 b 22 < 4096 && (if peer = 1 then zeroAt b 40 8 else zeroAt b 22 2)
     else peer = 0 && zeroAt b 22 2 && zeroAt b 32 24)
/-- Reserved bytes of each descriptor: offset and length. -/
def descResv (op : Nat) : List (Nat × Nat) :=
  if op = Op.item then [(48, 16)] else if op = Op.run then [(16, 48)] else if op = Op.abort then [(18, 6), (32, 32)]
  else if op = Op.bindLoad then [(41, 23)] else if op = Op.bindSwitch then [(17, 47)] else if op = Op.gatherForm then [(28, 36)]
  else if op = Op.gatherRelease then [(18, 46)] else if op = Op.editionLoad then [(58, 6)] else if op = Op.editionUnload then [(24, 40)]
  else if op = Op.digestInstall then [(28, 36)] else if op = Op.digestRemove then [(31, 1), (40, 24)]
  else if op = Op.map then [(30, 34)] else if op = Op.unmap then [(28, 36)] else if op = Op.copy then [(17, 7), (48, 16)]
  else if op = Op.drain then [(28, 36)] else []
/-- A descriptor with an unknown opcode, a reserved byte or bit set, or an ABORT or KETTLE field outside its values. -/
def malformed (b : Bytes) : Bool :=
  let op := u8 b 0
  !Op.known op || u8 b 1 > 1 || !zeroAt b 2 2 || !((descResv op).all fun r => zeroAt b r.1 r.2)
    || (op = Op.kettle && !kettleOk b) || (op = Op.abort && (u8 b 16 > 2 || (u8 b 16 = 1 && u8 b 17 > 15)))
    || (op = Op.map && u8 b 29 > 1)
/-- An ABORT that is fetched and has not acted. -/
def abortWaits (d : Dev) (c : Nat) : Bool := (d.ctx c).rings.any fun r => r.2.window.any fun f => u8 f.bytes 0 = Op.abort && !malformed f.bytes

/-! ### Fetch (R280) -/

/-- A pair may fetch (R280). An ABORT acts as soon as it is fetched, before the context fetches more (R295). -/
def mayFetch (d : Dev) (c r : Nat) : Bool :=
  let g := d.ring c r
  !d.abortWaits c && (d.ctx c).regs.enable && flag g.cfg 31 && !g.stopped && g.sqHead != g.sqTail && g.window.length < 64 && d.hostOpen
    && !d.boot.mailboxOnly && !d.boot.shuttingDown && !d.boot.shutDown && !(d.fn c).d3hot
/-- The address of the SQ slot of an index (R275). -/
def sqSlot (d : Dev) (c r idx : Nat) : Nat :=
  let g := d.ring c r
  g.sqBase.toNat + 64 * (idx % ringSize (fld g.cfg 4 0))
/-- The station fetches the descriptor at SQ head: it reads the slot, and what the host's memory answers comes with the command. -/
def fetch (d0 : Dev) (c r : Nat) (resp : HostRead) : Dev :=
  if !d0.mayFetch c r then d0
  else
    let d := d0.emit (.hostRead (d0.sqSlot c r (d0.ring c r).sqHead.toNat) 64)
    match resp with
    | none => d.ringError c r 4
    | some b =>
      let no := (d.ctx c).fetchNo
      (d.onCtx c fun x => { x with fetchNo := no + 1 }).onRing c r fun x =>
        { x with window := x.window ++ [⟨padTo b 64, no⟩], sqHead := x.sqHead + 1 }

/-! ### Acceptance (R282, R283) -/

/-- The active binding is of the context. -/
def activeHere (d : Dev) (c : Nat) : Bool := match d.work.active with | some a => a.ctx = c | none => false
/-- The lowest sequence table entry that no item holds. -/
def freeEntry (d : Dev) : Option Nat := (List.range 64).find? fun e => (d.itemAt e).isNone
/-- Some accepted descriptor of the context keeps others from being accepted (R283). -/
def fenced (d : Dev) (c : Nat) : Bool := d.work.jobs.any fun j => j.ctx = c &&
  (j.op = Op.bindSwitch || j.op = Op.gatherForm || j.op = Op.gatherRelease
    || (j.op = Op.kettle && (j.kstep = 2 || (j.kstep = 5 && j.entry.isNone))))
/-- A BIND_SWITCH of some context is accepted and waits: items accepted after it would wait behind it, and none of them starts under the old
binding (R14). The model leaves such items at the heads of their rings (log 75). -/
def switchWaits (d : Dev) : Bool := d.work.jobs.any fun j => j.op = Op.bindSwitch
/-- A descriptor at the head of a queue can be accepted. A stationed item at position 0 is accepted by the start of a pass. -/
def canAccept (d : Dev) (c : Nat) (b : Bytes) : Bool :=
  let op := u8 b 0
  if malformed b then true
  else if op = Op.item then
    d.activeHere c && !d.switchWaits && (if bindStationed d.binding then d.position != 0 else (d.freeEntry).isSome)
  else if op = Op.run then d.activeHere c && d.work.passes.isEmpty
  else op != Op.abort
/-- The rings of a context in the order of its turn. -/
def turnOrder (d : Dev) (c : Nat) : List Nat := (List.range 16).map fun i => ((d.ctx c).turn + i) % 16
/-- The descriptor at the head of a pair's fetch window. -/
def headOf (d : Dev) (c r : Nat) : Option Fetched := (d.ring c r).window.head?

/-- The descriptor at the head of a pair leaves the window, and the pair's turn is over. -/
def takeHead (d : Dev) (c r : Nat) : Dev :=
  (d.onCtx c fun x => { x with turn := (r + 1) % 16 }).onRing c r fun x => { x with window := x.window.drop 1 }
/-- A descriptor joins the context's order. -/
def addJob (d : Dev) (c r : Nat) (f : Fetched) (entry run mb : Option Nat) : Dev :=
  d.onWork fun w => { w with nextNo := w.nextNo + 1, jobs := w.jobs ++
    [{ no := w.nextNo, ctx := c, ring := r, bytes := f.bytes, fetchNo := f.no, phase := .accepted, entry := entry, run := run, mb := mb
       flagged := false, slipped := false, verChanged := false, verMin := 0, verMax := 0, opened := false, room := 0 }] }

/-- An item whose fields or ranges keep it from running (R287, R333). -/
def itemBad (d : Dev) (entry : Nat) (b : Bytes) : Bool :=
  let se := d.seqEntry entry
  let inN := u32 b 32; let inO := u32 b 36; let rsN := u32 b 40; let rsO := u32 b 44
  inN = 0 || rsN = 0 || inO % 64 != 0 || rsO % 64 != 0 || rsN > 2097152 || inO + inN > u64 se 16 || rsO + rsN > u64 se 16

/-- The REPLACEs in work of a context will perform their OPEN (R284). -/
def replaceOpens (d : Dev) (c : Nat) : Dev :=
  d.onWork fun w => { w with jobs := w.jobs.map fun j =>
    if j.ctx = c && j.op = Op.kettle && j.kstep = 5 then { j with opened := true } else j }

/-- The head of a pair is accepted. A RUN takes every item accepted before it that has joined no run (R283). -/
def accept (d : Dev) (c r : Nat) (f : Fetched) : Dev :=
  let d1 := d.takeHead c r
  let b := f.bytes
  let op := u8 b 0
  let refused := fun (d : Dev) => d.postRecord c r b St.notPermitted 0 0 0 0 0
  -- a descriptor that cannot act gives no hint either (R285)
  let unread := fun (d : Dev) => d.postRecord c r (b.take 4 ++ zeros 4 ++ b.drop 8) St.notPermitted 0 0 0 0 0
  -- a REPLACE in work performs its OPEN when the next descriptor is not another REPLACE (R284)
  let d2 := if !malformed b && op = Op.kettle && u8 b 16 = 5 then d1 else d1.replaceOpens c
  if malformed b then unread d2
  else if op = Op.item then
    if bindStationed d2.binding then refused d2
    else match d2.freeEntry with
      | none => d2
      | some e => if d2.itemBad e b then refused d2 else d2.addJob c r f (some e) none none
  else if op = Op.run then
    let no := d2.work.nextNo
    let d3 := d2.addJob c r f none none none
    (d3.onWork fun w => { w with jobs := w.jobs.map fun j =>
      if j.ctx = c && j.op = Op.item && j.run.isNone then { j with run := some no } else j }).tryRun
  else d2.addJob c r f none none none

/-- The next descriptor of a context is accepted, in ring turns (R282). -/
def acceptNext (d : Dev) (c : Nat) : Dev :=
  if d.fenced c || d.abortWaits c || d.boot.shutDown then d
  else match (d.turnOrder c).findSome? fun r => (d.headOf c r).bind fun f => if d.canAccept c f.bytes then some (r, f) else none with
    | some (r, f) => d.accept c r f
    | none => d

/-! ### Passes of stationed running (R179, R208) -/

/-- Items of a micro-batch. -/
def batchItems (d : Dev) (m : Nat) : List Job := d.work.jobs.filter fun j => j.op = Op.item && j.mb = some m
/-- Waiting items join a micro-batch, in ring turns, while it has room. -/
def takeItems (c m max run : Nat) : Nat → Dev → Dev
  | 0, d => d
  | n + 1, d =>
    if (d.batchItems m).length ≥ max || d.fenced c || d.switchWaits then d
    else match d.freeEntry, (d.turnOrder c).findSome? fun r => (d.headOf c r).bind fun f =>
        if u8 f.bytes 0 = Op.item && !malformed f.bytes then some (r, f) else none with
      | some e, some (r, f) =>
        let d1 := d.takeHead c r
        takeItems c m max run n (if d1.itemBad e f.bytes then d1.postRecord c r f.bytes St.notPermitted 0 0 0 0 0
          else d1.addJob c r f (some e) (some run) (some m))
      | _, _ => d

/-- A record of the stationed schedule, of this station's position (R179). -/
def passRecord (d : Dev) : Bytes :=
  let s := schedule d.binding
  sub s (u32 s 32 + 32 * d.position) 32
/-- A pass of a micro-batch may start. -/
def passMay (d : Dev) (a : Active) (r : Run) (m : Nat) : Bool :=
  bindStationed d.binding && d.position = 0 && r.begun && m < u8 d.passRecord 7 && !d.work.passesInFlight.contains m
    && (d.ctx a.ctx).barrier == .open && !d.pwr.stopped
/-- The items of a micro-batch whose pass starts take the version table's values (R208). -/
def passVersions (d : Dev) (m : Nat) : Dev :=
  let v := versions d.activeEdition
  d.onWork fun w => { w with
    passesInFlight := w.passesInFlight ++ [m]
    jobs := w.jobs.map fun j => if j.op = Op.item && j.mb = some m then
        { j with verMin := if j.verMax = 0 then v.1 else min j.verMin v.1, verMax := max j.verMax v.2
                 verChanged := j.verChanged || (j.opened && j.verMax != 0), opened := false }
      else j }
/-- A pass of micro-batch `m` starts at position 0: items join, and each of its sequences takes the version table's values. -/
def passStart (d : Dev) (m : Nat) : Dev :=
  match d.work.active, d.work.run with
  | some a, some r => if d.passMay a r m then (d.takeItems a.ctx m (u8 d.passRecord 6) r.job 64).passVersions m else d
  | _, _ => d

/-! ### Abort (R295) -/

/-- Items of a RUN that leaves before it takes effect join the next RUN accepted after them. -/
def rejoin (d : Dev) (no c : Nat) : Dev :=
  let next := (d.work.jobs.find? fun j => j.ctx = c && j.op = Op.run && j.phase == .accepted && j.no > no).map (·.no)
  d.onWork fun w => { w with jobs := w.jobs.map fun j => if j.op = Op.item && j.run = some no then { j with run := next } else j }

/-- An accepted descriptor in an ABORT's scope is settled. -/
def abortJob (d : Dev) (no : Nat) : Dev :=
  match d.work.jobs.find? fun j => j.no = no with
  | none => d
  | some j =>
    if j.op = Op.item then d.failJob j (d.abortStatus j.ctx)
    else if j.op = Op.run then
      match j.phase with
      | .accepted => (d.settle j St.abortedByHost 0 0).rejoin no j.ctx
      | .begun => d.endRun St.abortedByHost
      | .ended => match j.run, j.entry with
        | some n, none => (d.launchControl 6 0 (d.controlBytes 2 n 0 St.abortedByHost)).abortEnded n St.abortedByHost
        | _, _ => d
    else if j.op = Op.kettle && (j.kstep = 2 || j.kstep = 5) && j.entry.isNone then
      (d.settle j St.abortedByHost 0 0).onCtx j.ctx fun x => { x with barrier := if x.barrier == .closing then .open else x.barrier }
    else if j.phase == .accepted || j.op = Op.map then d.settle j St.abortedByHost 0 0 else d

/-- A fetched descriptor that is not accepted is settled. -/
def abortFetched (d : Dev) (c r : Nat) (f : Fetched) : Dev :=
  let st := if u8 f.bytes 0 = Op.item then d.abortStatus c else St.abortedByHost
  (d.onRing c r fun x => { x with window := x.window.filter fun g => g.no != f.no }).postRecord c r f.bytes st 0 0 0 0 0

/-- Every descriptor of a context that is fetched and has no record, as ring, fetch number and TAG, the ABORT itself left out. -/
def fetchedAll (d : Dev) (c : Nat) : List (Nat × Nat × Nat) :=
  ((List.range 16).flatMap fun r => (d.ring c r).window.map fun f => (r, f.no, u64 f.bytes 8))
    ++ (d.work.jobs.filter fun j => j.ctx = c).map fun j => (j.ring, j.fetchNo, j.tag)

/-- An ABORT of a scope acts: 0 the descriptor fetched first with a TAG, 1 a ring pair, 2 the context, whose run it ends. Answers
how many descriptors it settled. Items are settled before their RUN. -/
def abortScope (d : Dev) (c scope r tag : Nat) : Nat × Dev :=
  let all := d.fetchedAll c
  let hit := match scope with
    | 0 => match (all.filter (fun (x : Nat × Nat × Nat) => decide (x.2.2 = tag))).foldl (fun (b : Option Nat) (x : Nat × Nat × Nat) => match b with
          | none => some x.2.1 | some y => some (min x.2.1 y)) none with
        | some n => all.filter (fun (x : Nat × Nat × Nat) => decide (x.2.1 = n))
        | none => []
    | 1 => all.filter (fun (x : Nat × Nat × Nat) => decide (x.1 = r))
    | _ => all
  let nos := hit.map (fun (x : Nat × Nat × Nat) => x.2.1)
  let jobs := d.work.jobs.filter fun j => j.ctx = c && nos.contains j.fetchNo
  let d1 := d.each ((jobs.filter fun j => j.op = Op.item) ++ jobs.filter fun j => j.op != Op.item) fun d j => d.abortJob j.no
  let d2 := d1.each (List.range 16) fun d q => d.each ((d.ring c q).window.filter fun f => nos.contains f.no) fun d f => d.abortFetched c q f
  (hit.length, if scope ≥ 2 && d2.activeHere c then d2.endRun St.abortedByHost else d2)

/-- The oldest fetched ABORT of a pair acts (R295). -/
def abortRing (d : Dev) (c r : Nat) : Dev :=
  match (d.ring c r).window.find? fun f => u8 f.bytes 0 = Op.abort && !malformed f.bytes with
  | none => d
  | some f =>
    let d1 := d.onRing c r fun x => { x with window := x.window.filter fun g => g.no != f.no }
    let x := d1.abortScope c (u8 f.bytes 16) (u8 f.bytes 17) (u64 f.bytes 24)
    x.2.postRecord c r f.bytes St.ok x.1 0 0 0 0

/-- CTX_ABORT is written (R295): its fields hold, and GO aborts. -/
def abortReg (d : Dev) (c : Nat) (v : Word) : Dev :=
  let d1 := d.onRegs c fun x => { x with abort := v &&& 0x1F }
  if flag v 31 then (d1.abortScope c (if flag v 4 then 2 else 1) (fld v 3 0) 0).2 else d1

/-- TIME_US has passed since the first record that was not signalled (R297). -/
def moderationTime (d : Dev) (c r : Nat) : Dev :=
  let g := d.ring c r
  let t := fld g.irqMod 31 16
  match g.irqFirst with
  | some f => if t = 0 || g.irqCount = 0 then d else (d.reach (f + 1000 * t)).ringSignal c r
  | none => d

end Dev

/-! ### The rows -/

/-- R276. -/
def execSqTailDoorbell (fn : CtxId) (offset size : Nat) (value : Dword) (s : State) : Answer :=
  s.on fun d => d.live fun d => d.doorbell fn offset size value
/-- R279. -/
def execCqHeadDoorbell (fn : CtxId) (offset size : Nat) (value : Dword) (s : State) : Answer :=
  s.on fun d => d.live fun d => d.doorbell fn offset size value
/-- R280. -/
def execDescriptorFetch (ctx : CtxId) (ring : RingId) (resp : HostRead) (s : State) : Answer :=
  s.on fun d => d.live fun d => d.fetch ctx.val ring.val resp
/-- R282. -/
def execDescriptorAccept (ctx : CtxId) (s : State) : Answer := s.on fun d => d.live fun d => d.acceptNext ctx.val
/-- R295. -/
def execAbort (ctx : CtxId) (ring : RingId) (s : State) : Answer := s.on fun d => d.live fun d => d.abortRing ctx.val ring.val
/-- R297. -/
def execIrqModerationTimeout (ctx : CtxId) (ring : RingId) (s : State) : Answer :=
  s.on fun d => d.live fun d => d.moderationTime ctx.val ring.val
/-- R179. -/
def execPassStart (mb : Fin 8) (s : State) : Answer := s.on fun d => d.live fun d => d.passStart mb.val

end Sys2Proof.Machine
end

