-- ==== Sys2Proof/Machine/Editions.lean ====
section
/-! DEFINITION. Editions (R186 to R199, R208, R209, R291, R292): manifests, loads, the bind pass over a load, digests, unloading and
scrubbing. -/

namespace Sys2Proof.Machine

/-! ### The manifest (R186 to R188) -/

namespace Manifest
def edition (b : Bytes) : Nat := u64 b 8
def positions (b : Bytes) : Nat := u16 b 16
def layerCount (b : Bytes) : Nat := u16 b 18
def shardCount (b : Bytes) : Nat := u32 b 20
def imageBytes (b : Bytes) : Nat := u64 b 40
/-- Layer record `i`. -/
def layer (b : Bytes) (i : Nat) : Layer :=
  let o := 64 + 32 * i
  { layer := u16 b o, version := u16 b (o + 2), srcfmt := u8 b (o + 4), form := u8 b (o + 5), cxl := u8 b (o + 6) = 1
    subn := u8 b (o + 7), blocks := u32 b (o + 8), eps := u32 b (o + 12), iters := u8 b (o + 16), rateSet := u8 b (o + 17)
    lbase := 0, hbase := 0 }
def layers (b : Bytes) : List Layer := (List.range (layerCount b)).map (layer b)
/-- Where the shard records begin. -/
def shardsAt (b : Bytes) : Nat := 64 + 32 * layerCount b
/-- Shard record `i`. -/
def shard (b : Bytes) (i : Nat) : Shard :=
  let o := shardsAt b + 96 * i
  { layer := u16 b o, position := u16 b (o + 2), first := u32 b (o + 4), count := u32 b (o + 8), offset := u64 b (o + 16)
    nbytes := u64 b (o + 24), digest := sub b (o + 32) 32, derived := sub b (o + 64) 32, damaged := false }
def shards (b : Bytes) : List Shard := (List.range (shardCount b)).map (shard b)

/-- A layer record keeps R187. -/
def layerOk (b : Bytes) (i : Nat) : Bool :=
  let o := 64 + 32 * i
  let x := layer b i
  let two := decide (x.form = 2)
  1 ≤ x.version && (x.srcfmt = 1 || x.srcfmt = 2) && (x.form = 1 || x.form = 2) && u8 b (o + 6) ≤ 1
    && (if two then x.subn ≤ 1 else x.subn = 0 && x.eps = 0 && x.iters = 0 && x.rateSet = 0)
    && x.blocks % 16 = 0 && x.blocks ≤ 16777200 && zeroAt b (o + 18) 14 && (i = 0 || (layer b (i - 1)).layer < x.layer)
/-- A shard record keeps R188, and lies within the image. -/
def shardOk (b : Bytes) (i : Nat) : Bool :=
  let o := shardsAt b + 96 * i
  let x := shard b i
  match (layers b).find? fun l => l.layer = x.layer with
  | none => false
  | some l =>
    (x.position < positions b || x.position = 0xFFFF) && x.first % 16 = 0 && x.count % 16 = 0 && 16 ≤ x.count
      && x.first + x.count ≤ l.blocks && zeroAt b (o + 12) 4 && x.offset + x.nbytes ≤ imageBytes b
      && (if l.form = 2 then x.nbytes = x.count / 16 * 131088 else zeroAt b (o + 64) 32)
      && (i = 0 || (let y := shard b (i - 1); y.layer < x.layer || (y.layer = x.layer && y.first ≤ x.first)))
      && ((List.range i).all fun j =>
            let y := shard b j
            !(y.layer = x.layer && (y.position = x.position || y.position = 0xFFFF || x.position = 0xFFFF)
              && y.first < x.first + x.count && x.first < y.first + y.count))
/-- The manifest keeps R186 to R188. -/
def ok (b : Bytes) (patch : Bool) : Bool :=
  let n := shardsAt b + 96 * shardCount b
  sub b 0 4 == ofNats [0x4F, 0x58, 0x45, 0x44] && u16 b 4 = 1 && u16 b 6 = b2n patch && 1 ≤ positions b && positions b ≤ 1024
    && 1 ≤ layerCount b && (!patch || layerCount b = 1) && 1 ≤ shardCount b && u64 b 24 = alignUp n 64 + 64
    && b.length = u64 b 24 && zeroAt b 48 16 && zeroAt b n (alignUp n 64 - n)
    && (List.range (layerCount b)).all (layerOk b) && (List.range (shardCount b)).all (shardOk b)
/-- The shards a station takes for a position (R190). -/
def own (b : Bytes) (pos : Nat) : List Shard := (shards b).filter fun s => s.position = pos || s.position = 0xFFFF
/-- A FORM 2 layer's fold inputs equal the context's registers (R190). -/
def foldInputsOk (b : Bytes) (r : CtxRegs) : Bool := (layers b).all fun l =>
  l.form != 2 || (l.subn = b2n r.subn && l.eps = r.foldEps.toNat && l.iters = fld r.foldCfg 11 8 && l.rateSet = fld r.foldCfg 2 0)
end Manifest

/-! ### Placement (R191) -/

/-- A page range to map: first page, pages, tier. -/
abbrev PageRange := Nat × Nat × Bool

/-- The layout of the layers with own shards from the tiers' cursors: the layers placed, the page ranges, and the cursors. -/
def placeLayers (own : List Shard) : List Layer → Nat → Nat → List Layer × List PageRange × Nat × Nat
  | [], a, b => ([], [], a, b)
  | l :: ls, a, b =>
    let mine := own.filter fun s => s.layer = l.layer
    match mine with
    | [] => let r := placeLayers own ls a b; (l :: r.1, r.2)
    | s :: ss =>
      let f := ss.foldl (fun m x => min m x.first) s.first
      let e := ss.foldl (fun m x => max m (x.first + x.count)) (s.first + s.count)
      let c := if l.cxl then b else a
      let c1 := alignUp (c + 8192 * (e - f)) Dev.pageBytes
      let c2 := alignUp (c1 + 32 * (e - f)) Dev.pageBytes
      let r := placeLayers own ls (if l.cxl then a else c2) (if l.cxl then c2 else b)
      ({ l with lbase := (c : Int) - 8192 * f, hbase := (c1 : Int) - 32 * f } :: r.1,
       (c / Dev.pageBytes, (c2 - c) / Dev.pageBytes, l.cxl) :: r.2.1, r.2.2)

/-! ### Digest entries (R197) -/

/-- A digest table entry. -/
def digestEntry (ed : Nat) (s : Shard) (version kind : Nat) (adopted : Bool) (dg : Bytes) : Bytes :=
  leBytes 8 ed ++ leBytes 2 s.layer ++ leBytes 2 s.position ++ leBytes 2 version ++ ofNats [kind, b2n adopted]
    ++ leBytes 4 s.first ++ leBytes 4 s.count ++ zeros 8 ++ dg
/-- The key of an entry: everything but FLAGS and DIGEST. -/
def digestKey (e : Bytes) : Bytes := e.take 15 ++ sub e 16 8
/-- The DIGEST of the entry with a key. -/
def digestFind (t : List Bytes) (key : Bytes) : Option Bytes := (t.find? fun e => digestKey e == key).map fun e => sub e 32 32
/-- Put an entry in place of the one with its key, or at the end; `none` in a full table. -/
def digestPut (t : List Bytes) (e : Bytes) : Option (List Bytes) :=
  if t.any fun x => digestKey x == digestKey e then some (t.map fun x => if digestKey x == digestKey e then e else x)
  else if t.length < 4096 then some (t ++ [e]) else none
/-- Entries put in order; `none` when the table has no room for them all. -/
def digestPutAll (t : List Bytes) : List Bytes → Option (List Bytes)
  | [] => some t
  | e :: es => (digestPut t e).bind fun t' => digestPutAll t' es
/-- The place of an entry in the table. -/
def digestIndex (t : List Bytes) (e : Bytes) : Nat := (t.findIdx? fun x => digestKey x == digestKey e).getD 0

/-! ### Sealed units (R119, R120, R192, R354) -/

/-- The key of a layer version (R354). -/
def layerKey (ctxKey : Bytes) (ed layer version : Nat) : Bytes :=
  hmac ctxKey (ofNats [0x4F, 0x58, 0x4C, 0x4B] ++ leBytes 8 ed ++ leBytes 2 layer ++ leBytes 2 version)
/-- The nonce (R354). -/
def unitNonce (path unit : Nat) (req : Bytes) : Bytes := [byte path] ++ leBytes 3 unit ++ req

/-- Checks of a sealed record at the head of `b` for block `blk` (R120): its header in service form and its body. BLOCK is held
against the block that the shard's record says comes next, and LAYER against the manifest's layer (DESIGN CHOICE, log 79; R121 names record 0 of the
tile). -/
def openRecord (key : Option Bytes) (path : Nat) (req : Bytes) (layer srcfmt blk : Nat) (b : Bytes) : Except Status (Bytes × Bytes) :=
  let len := u32 b 8
  if b.length < 48 + len || crc32c (sub b 0 28 ++ sub b 32 (len + 16)) != BitVec.ofNat 32 (u32 b 28) then .error St.blockCheck
  else match rateInfo (u8 b 3) with
    | none => .error St.foldHeader
    | some r =>
      if !(u8 b 0 = 0x46 && u8 b 1 = 0x42 && u8 b 2 = 1) || u8 b 4 ≠ srcfmt || u8 b 5 ≥ 4 || !zeroAt b 18 2 || !zeroAt b 24 4
          || u32 b 12 ≠ blk || u16 b 16 ≠ layer then .error St.foldHeader
      else if len ≠ r.len || u16 b 6 ≠ 4096 then .error St.foldSize
      else match key.bind fun k => Config.gcmOpen k (unitNonce path blk req) (sub b 0 28) (sub b 32 len) (sub b (32 + len) 16) with
        | none => .error St.blockCheck
        | some body => .ok (blockHeader (u8 b 3) (u8 b 4) (u8 b 5 / 2 * 2) len blk layer (word (u32 b 20)) body, body)

/-- The sealed form of a record in service form (R119): ENC set, the body encrypted and its tag appended, CHECK over them. -/
def sealRecord (key : Bytes) (path : Nat) (req : Bytes) (blk : Nat) (h body : Bytes) : Bytes :=
  let a := h.take 5 ++ [byte (u8 h 5 / 2 * 2 + 1)] ++ sub h 6 22
  let s := Config.gcmSeal key (unitNonce path blk req) a body
  a ++ leBytes 4 (crc32c (a ++ s.1 ++ s.2)).toNat ++ s.1 ++ s.2

/-- The records of a shard, from block `blk` on, in service form: header and body of each block, or the first failing block. -/
def openRecords (key : Option Bytes) (path : Nat) (req : Bytes) (layer srcfmt : Nat) : Nat → Nat → Bytes →
    Except (Status × Nat) (List (Nat × Bytes × Bytes))
  | 0, _, _ => .ok []
  | n + 1, blk, b =>
    match openRecord key path req layer srcfmt blk b with
    | .error st => .error (st, blk)
    | .ok (h, body) =>
      (openRecords key path req layer srcfmt n (blk + 1) (b.drop (48 + body.length))).map fun r => (blk, h, body) :: r

/-- The chunks of a shard, from chunk `i` on: the source values of 16 blocks each, or the first block of a failing chunk. -/
def openChunks (key : Option Bytes) (ed layer version : Nat) : Nat → Nat → Bytes → Except (Status × Nat) (List (Nat × Bytes))
  | 0, _, _ => .ok []
  | n + 1, i, b =>
    let aad := leBytes 8 ed ++ leBytes 2 layer ++ leBytes 2 version ++ leBytes 4 i
    match key.bind fun k => Config.gcmOpen k (unitNonce 2 i (zeros 8)) aad (b.take 131072) (sub b 131072 16) with
    | none => .error (St.blockCheck, 16 * i)
    | some v => (openChunks key ed layer version n (i + 1) (b.drop 131088)).map fun r => (i, v) :: r

/-- A shard as fetched and checked: where each piece goes and its bytes, and what its source digest covers. -/
structure Fetch where
  /-- Headers by block, bodies or source values by first block. -/
  headers : List (Nat × Bytes)
  bodies : List (Nat × Bytes)
  cover : Bytes

/-- A shard's units are fetched from the image and checked (R192). A peer's slots hold records in either form (R119, R194, R201). -/
def fetchShard (key : Option Bytes) (path : Nat) (req : Bytes) (ed : Nat) (l : Layer) (s : Shard) (image : Bytes) :
    Except (Status × Nat) Fetch :=
  let b := sub image s.offset s.nbytes
  if l.form = 2 && path ≠ 4 then
    (openChunks key ed l.layer l.version (s.count / 16) (s.first / 16) b).map fun r =>
      ⟨[], r.map fun x => (16 * x.1, x.2), r.flatMap (·.2)⟩
  else
    (openRecords key path req l.layer l.srcfmt s.count s.first b).map fun r =>
      ⟨r.map fun x => (x.1, x.2.1), r.map fun x => (x.1, x.2.2), r.flatMap fun x => x.2.1 ++ x.2.2⟩

namespace Dev

/-! ### Captures and marks (R199, R209) -/

/-- A failure is captured; a capture raises the edition cause (R209). -/
def editionErr (d : Dev) (cause ctx layer : Nat) (st : Status) (block : Nat) : Dev :=
  if flag d.err.edition 31 then d
  else (d.onErr fun e => { e with
    edition := word (2 ^ 31 + cause % 8 * 2 ^ 28 + ctx % 64 * 2 ^ 22 + layer % 65536)
    editionLoc := word (st.toNat * 2 ^ 24 + block % 2 ^ 24) }).cause cEdition

/-- The edition of a context by its ID. -/
def edition (d : Dev) (c id : Nat) : Option Edition := (d.ctx c).editions.find? fun e => e.id = id
/-- Change an edition. -/
def onEdition (d : Dev) (c id : Nat) (f : Edition → Edition) : Dev := d.onCtx c fun x => { x with
  editions := x.editions.map fun e => if e.id = id then f e else e }
/-- A held edition is LOADED or DAMAGED, and its load has ended. -/
def editionHeld (d : Dev) (c id : Nat) : Bool := match d.edition c id with | some e => d.heldNow c e | none => false

/-- A run of a binding that names a damaged edition ends (R199). -/
def endDamaged (d : Dev) (c id : Nat) : Dev :=
  match d.work.active with
  | some a => if a.ctx = c && bindEdition a.bytes = id then d.endRun St.digestMismatch else d
  | none => d
/-- An edition becomes DAMAGED for a layer's shards that a test names: logged as a safety action (R199, R363, R368). -/
def markDamaged (d : Dev) (c id : Nat) (st : Status) (bad : Shard → Bool) : Dev :=
  let d1 := d.onEdition c id fun e => { e with state := .damaged, shards := e.shards.map fun s => if bad s then { s with damaged := true } else s }
  (d1.logSafety 5 c 3 5 0 id st.toNat).endDamaged c id

/-- The pages that an edition mapped are unmapped (R195, R196). -/
def unmapEdition (d : Dev) (c id : Nat) : Dev :=
  let ps := (d.ctx c).pages.filter fun p => match p.2 with | some g => g.edition = some id | none => false
  d.each ps fun d p => d.unmapPage c p.1
/-- An edition leaves its context, with what was staged for it. -/
def dropEdition (d : Dev) (c id : Nat) : Dev :=
  (d.unmapEdition c id).onCtx c fun x => { x with
    editions := x.editions.filter fun e => e.id != id
    staged := x.staged.filter fun s => s.edition != id }

/-! ### Loads (R190 to R195) -/

/-- Pages mapped for a list of ranges, with frames in ascending order. -/
def mapRanges (d : Dev) (c : Nat) (ed : Option Nat) (write : Bool) (l : List PageRange) : Dev :=
  d.each l fun d r => d.mapPages c r.1 r.2.2 write ed (d.freeFrames r.2.2 r.2.1)
/-- Every page of the ranges is unmapped and within the space. -/
def rangesFree (d : Dev) (c : Nat) (l : List PageRange) : Bool :=
  l.all fun r => r.1 + r.2.1 ≤ 2 ^ 27 && (List.range r.2.1).all fun i => ((d.ctx c).pages.get none (r.1 + i)).isNone
/-- Pages of the ranges in a tier. -/
def rangePages (l : List PageRange) (cxl : Bool) : Nat := ((l.filter fun r => r.2.2 == cxl).map fun r => r.2.1).foldl (· + ·) 0

/-- A trust anchor by its KEY_ID (R193, R355). -/
def anchorFor (d : Dev) (c : Nat) (keyId : Bytes) : Option Bytes :=
  ((d.ctx c).anchors.find? fun a => (sha256 ([0x04] ++ a.2)).take 8 == keyId).map (·.2)
/-- Why the fall-back does not trust a manifest (R189, R193). -/
def signatureFault (d : Dev) (c : Nat) (m : Bytes) : Option Status :=
  match d.anchorFor c (sub m 32 8) with
  | none => some St.noAnchor
  | some k => if Config.ecdsaVerify k (sha256 (m.take (m.length - 64))) (m.drop (m.length - 64)) then none else some St.sigInvalid

/-- The digest check of a shard (R193): the status of a failure, or the entry the fall-back adopts. -/
def digestCheck (d : Dev) (c : Nat) (m : Bytes) (ed version : Nat) (s : Shard) (dg : Bytes) : Except Status (List Bytes) :=
  let e := digestEntry ed s version 1 true dg
  match digestFind (d.ctx c).digests (digestKey e) with
  | some x => if x == dg then .ok [] else .error St.digestMismatch
  | none => match d.signatureFault c m with
    | some st => .error st
    | none => if s.digest == dg then .ok [e] else .error St.digestMismatch

/-- A fetched shard is written into its slots and header table, with the status of a write that times out (R191, R262). -/
def putShard (d : Dev) (c : Nat) (l : Layer) (f : Fetch) : Option Status × Dev :=
  let w := d.eachWrite f.headers fun d h => d.slotPut c (l.hbase + 32 * (h.1 : Int)).toNat h.2 none
  let x := w.2.eachWrite f.bodies fun d b => d.slotPut c (l.lbase + 8192 * (b.1 : Int)).toNat b.2 none
  (w.1 <|> x.1, x.2)

/-- A manifest is read from host memory: its first 64 bytes, and then what they say follows (R186, R275). -/
def readManifest (d : Dev) (at_ : Nat) (m : HostRead) : Dev :=
  let d1 := d.emit (.hostRead at_ 64)
  match m with
  | some b => d1.given (64 < b.length) fun d => d.emit (.hostRead (at_ + 64) (b.length - 64))
  | none => d1
/-- The bytes of a shard are read from an image in host memory (R190, R275). -/
def readUnits (d : Dev) (at_ : Nat) (s : Shard) : Dev := d.emit (.hostRead (at_ + s.offset) s.nbytes)

/-- Step 3 of a load: the own shards in order, from an image at a host address. Answers the entries to adopt, or the failure with its layer and
block. -/
def loadShards (c : Nat) (m image : Bytes) (at_ ed : Nat) (ls : List Layer) : List Shard → Dev → Except (Status × Nat × Nat) (List Bytes) × Dev
  | [], d => (.ok [], d)
  | s :: ss, d0 =>
    let d := d0.readUnits at_ s
    match ls.find? fun l => l.layer = s.layer with
    | none => (.error (St.notPermitted, s.layer, 0xFFFFFF), d)
    | some l =>
      let key := (d.ctx c).key.map fun k => layerKey k ed l.layer l.version
      match fetchShard key 1 (zeros 8) ed l s image with
      | .error (st, blk) => (.error (st, s.layer, blk), d)
      | .ok f =>
        let w := d.putShard c l f
        match w.1 with
        | some st => (.error (st, s.layer, 0xFFFFFF), w.2)
        | none =>
          match w.2.digestCheck c m ed l.version s (sha256 f.cover) with
          | .error st => (.error (st, s.layer, 0xFFFFFF), w.2)
          | .ok a =>
            let r := loadShards c m image at_ ed ls ss w.2
            (r.1.map fun x => a ++ x, r.2)

/-- A load fails: nothing of it stays, and the failure is captured (R195). -/
def loadFails (d : Dev) (j : Job) (ed layer : Nat) (st : Status) (block : Nat) : Dev :=
  ((d.dropEdition j.ctx ed).editionErr 1 j.ctx layer st block).settle j st 0 0

/-- Reserved entries of a descriptor are used. -/
def spend (d : Dev) (no n : Nat) : Dev := (d.colRelease n).onJob no fun j => { j with room := j.room - n }
/-- Entries are reserved for a descriptor that goes on. -/
def reserve (d : Dev) (no n : Nat) : Dev := (d.colReserve n).onJob no fun j => { j with room := j.room + n }

/-- Entries are adopted into the table, each with its entry of the colophon, of those that the descriptor has reserved (R193, R363, R367). -/
def adoptAll (d : Dev) (no c : Nat) (es : List Bytes) : Dev :=
  d.each es fun d e => match digestPut (d.ctx c).digests e with
    | none => d
    | some t => ((d.spend no 1).onCtx c fun x => { x with digests := t }).log 3 c 6 7 0 0 (digestIndex t e % 256)

/-- A load ends well (R190 step 5); an edition that the reset of a CXL link has damaged meanwhile stays DAMAGED (R262). -/
def loadDone (d : Dev) (j : Job) (ed : Nat) (adopt : List Bytes) : Dev :=
  if (digestPutAll (d.ctx j.ctx).digests adopt).isNone then d.loadFails j ed 0xFFFF St.notPermitted 0xFFFFFF
  else
    let d1 := (d.spend j.no 1).logDesc j 0 ed
    let d2 := d1.adoptAll j.no j.ctx adopt
    let d3 := d2.onEdition j.ctx ed fun e => { e with state := if e.state == .damaged then .damaged else .loaded }
    (d3.onCtx j.ctx fun x => { x with sweepAt := match x.sweepAt with | some t => some t | none => some d.now }).settle j St.ok 0 0

/-- The placed layers fit the descriptor's regions, and there are pages for them (R190, R191). -/
def loadFits (d : Dev) (j : Job) (p : List Layer × List PageRange × Nat × Nat) : Bool :=
  p.2.2.1 - u32 j.bytes 40 * pageBytes ≤ u32 j.bytes 44 * pageBytes && p.2.2.2 - u32 j.bytes 48 * pageBytes ≤ u32 j.bytes 52 * pageBytes
    && d.rangesFree j.ctx p.2.1 && rangePages p.2.1 false ≤ d.freeCount false && rangePages p.2.1 true ≤ d.freeCount true
/-- Enough frames of both tiers are free now, none of them still being cleared. -/
def loadFrames (d : Dev) (pages : List PageRange) : Bool :=
  rangePages pages false ≤ (d.freeFrames false (rangePages pages false)).length
    && rangePages pages true ≤ (d.freeFrames true (rangePages pages true)).length
/-- The pages of a load are mapped and its edition is LOADING (R190 step 2). -/
def beginLoad (d : Dev) (j : Job) (m : Bytes) (ls : List Layer) (pages : List PageRange) : Dev :=
  (d.mapRanges j.ctx (some (Manifest.edition m)) false pages).onCtx j.ctx fun y => { y with
    editions := y.editions ++ [⟨Manifest.edition m, u16 j.bytes 56, .loading, ls, Manifest.own m (u16 j.bytes 56)⟩] }
/-- A load whose shards are placed waits for its bind pass (R124, R194). -/
def awaitPass (d : Dev) (j : Job) (ed : Nat) (adopt : List Bytes) : Dev :=
  (d.onJob j.no fun y => { y with phase := .begun }).onWork fun w => { w with
    passes := w.passes ++ [⟨j.ctx, j.no, ed, none, adopt, u64 j.bytes 32, none⟩] }
/-- The pages are mapped, the shards fetched, checked and placed; with a FORM 2 shard the load waits for its pass (R190 steps 2, 3). -/
def loadImage (d : Dev) (j : Job) (m : Bytes) (ls : List Layer) (pages : List PageRange) (image : HostRead) : Dev :=
  let ed := Manifest.edition m
  let own := Manifest.own m (u16 j.bytes 56)
  let d1 := (d.readManifest (u64 j.bytes 16) (some m)).beginLoad j m ls pages
  match image with
  | none => d1.loadFails j ed 0xFFFF St.memUnc 0xFFFFFF
  | some img =>
    let r := loadShards j.ctx m (padTo img (Manifest.imageBytes m)) (u64 j.bytes 24) ed ls own d1
    match r.1 with
    | .error (st, layer, blk) => r.2.loadFails j ed layer st blk
    | .ok adopt =>
      if own.any fun s => ls.any fun l => l.layer = s.layer && l.form = 2 then r.2.awaitPass j ed adopt
      else r.2.loadDone j ed adopt

/-- A load is refused for its manifest. -/
def loadRefused (d : Dev) (j : Job) (m : HostRead) : Dev :=
  ((d.readManifest (u64 j.bytes 16) m).editionErr 1 j.ctx 0xFFFF St.notPermitted 0xFFFFFF).settle j St.notPermitted 0 0
/-- A load with a good manifest, whose entries are reserved: it takes its pages, or waits for frames being cleared. -/
def loadPlaced (d : Dev) (j : Job) (m : Bytes) (image : HostRead) : Dev :=
  let p := placeLayers (Manifest.own m (u16 j.bytes 56)) (Manifest.layers m) (u32 j.bytes 40 * pageBytes) (u32 j.bytes 48 * pageBytes)
  if !d.loadFits j p then d.loadRefused j (some m)
  else if !d.loadFrames p.2.1 then d
  else d.loadImage j m p.1 p.2.1 image
/-- The checks of a manifest against the context (R117 to R122). -/
def manifestFits (d : Dev) (j : Job) (m : Bytes) : Bool :=
  Manifest.ok m false && u16 j.bytes 56 < Manifest.positions m && (d.edition j.ctx (Manifest.edition m)).isNone
    && (d.ctx j.ctx).editions.length < 4 && Manifest.foldInputsOk m (d.ctx j.ctx).regs
/-- EDITION_LOAD (R190): steps 1 to 3, and step 5 when no own shard is FORM 2; else the load waits for its bind pass. A manifest that cannot be read
fails step 1. Its entries are reserved before step 1: one for the load and two for each own shard, once for a load that waits (R367). -/
def editionLoad (d : Dev) (j : Job) (manifest image : HostRead) : Dev :=
  match manifest with
  | none => d.logJob j 1 fun d => d.loadRefused j none
  | some m =>
    if !d.manifestFits j m then d.logJob j 1 fun d => d.loadRefused j (some m)
    else
      let n := 1 + 2 * (Manifest.own m (u16 j.bytes 56)).length - j.room
      d.logJob j n fun d => (d.reserve j.no n).loadPlaced j m image

/-! ### The bind pass (R124 to R130, R194) -/

/-- The pending pass of a context begins, when no run is active and no other pass runs; it reads its parameters now. -/
def passBegin (d : Dev) (c : Nat) : Dev :=
  if d.work.run.isSome || d.work.passes.any (fun p => p.params.isSome) then d
  else match d.work.passes.find? fun p => p.ctx = c with
    | none => d
    | some p =>
      let r := (d.ctx c).regs
      d.onWork fun w => { w with passes := w.passes.map fun q =>
        if q = p then { q with params := some (fld r.foldCfg 11 8, fld r.foldCfg 2 0, r.foldEps, r.subn) } else q }

/-- The counts of a layer's report record (R130). -/
structure PassCount where
  layer : Nat
  nonfinite : Nat := 0
  q : Nat := 0
  e : Nat := 0
  h : Nat := 0
  raw : Nat := 0
  errMax : Word := 0
  packed : Nat := 0

/-- A block's fold counted. -/
def PassCount.add (p : PassCount) (x : Folded) : PassCount :=
  { p with nonfinite := min 65535 (p.nonfinite + b2n x.nonfinite)
           q := p.q + b2n (x.rate = 3), e := p.e + b2n (x.rate = 2), h := p.h + b2n (x.rate = 1), raw := p.raw + b2n (x.rate = 4)
           errMax := if x.rate = 4 then p.errMax else if flt p.errMax x.err then x.err else p.errMax
           packed := p.packed + 32 + x.body.length }
/-- A report record's bytes. -/
def PassCount.bytes (p : PassCount) : Bytes :=
  leBytes 2 p.layer ++ leBytes 2 p.nonfinite ++ leBytes 4 p.q ++ leBytes 4 p.e ++ leBytes 4 p.h ++ leBytes 4 p.raw
    ++ leBytes 4 p.errMax.toNat ++ leBytes 8 p.packed

/-- A body takes the first bytes of its slot; what the rest of the slot holds is undefined: free values (R109; log 2). -/
def putSlot (d : Dev) (c a : Nat) (body : Bytes) : Option Status × Dev :=
  let x := d.freeBytes (8192 - body.length)
  x.2.slotPut c a (body ++ x.1) none
/-- The blocks of a shard are folded in place, `n` from `blk` on: the derived service form and the counts, or the status of a mark or of a write that times out
(R194, R262). -/
def foldBlocks (c : Nat) (l : Layer) (p : Nat × Nat × Word × Bool) : Nat → Nat → PassCount → Dev →
    Except (Status × Nat) (Bytes × PassCount) × Dev
  | 0, _, k, d => (.ok ([], k), d)
  | n + 1, blk, k, d =>
    let a := (l.lbase + 8192 * (blk : Int)).toNat
    let g := d.memGet c a 8192
    match g.2.1 with
    | some st => (.error (if st = St.cxlTimeout then st else St.memUnc, blk), g.2.2)
    | none =>
      let x := foldBlock l.srcfmt p g.1
      let h := foldHeader l.srcfmt blk l.layer x
      let w := g.2.2.slotPut c (l.hbase + 32 * (blk : Int)).toNat h none
      let v := w.2.putSlot c a x.body
      match w.1 <|> v.1 with
      | some st => (.error (st, blk), v.2)
      | none =>
        let r := foldBlocks c l p n (blk + 1) (k.add x) v.2
        (r.1.map fun y => (h ++ x.body ++ y.1, y.2), r.2)

/-- The derived digest's check (R194): a failure, or the entry to adopt. -/
def derivedCheck (d : Dev) (c ed version : Nat) (s : Shard) (dg : Bytes) : Except Status (List Bytes) :=
  let e := digestEntry ed s version 2 true dg
  if !(s.derived.all (· == 0)) && s.derived != dg then .error St.digestMismatch
  else match digestFind (d.ctx c).digests (digestKey e) with
    | some x => if x == dg then .ok [] else .error St.digestMismatch
    | none => .ok [e]

/-- The FORM 2 shards of a pass are folded and checked in order. -/
def foldShards (c ed : Nat) (p : Nat × Nat × Word × Bool) : List (Layer × Shard) → List PassCount → Dev →
    Except (Status × Nat × Nat) (List Bytes × List PassCount) × Dev
  | [], ks, d => (.ok ([], ks), d)
  | (l, s) :: rest, ks, d =>
    let k := match ks.getLast? with | some k => if k.layer = l.layer then k else { layer := l.layer } | none => { layer := l.layer }
    let before := match ks.getLast? with | some k => if k.layer = l.layer then ks.dropLast else ks | none => ks
    let r := foldBlocks c l p s.count s.first k d
    match r.1 with
    | .error (st, blk) => (.error (st, l.layer, blk), r.2)
    | .ok (cover, k') =>
      match r.2.derivedCheck c ed l.version s (sha256 cover) with
      | .error st => (.error (st, l.layer, 0xFFFFFF), r.2)
      | .ok a =>
        let z := foldShards c ed p rest (before ++ [k']) r.2
        (z.1.map fun y => (a ++ y.1, y.2), z.2)

/-- The report of a pass (R129). -/
def passReport (p : Nat × Nat × Word × Bool) (ks : List PassCount) : Bytes :=
  ofNats [0x46, 0x42, 0x52, 0x50] ++ leBytes 2 1 ++ leBytes 2 ks.length ++ leBytes 4 p.2.2.1.toNat
    ++ ofNats [p.1, p.2.1, b2n p.2.2.2, 0] ++ leBytes 8 ((ks.map fun k => k.q + k.e + k.h + k.raw).foldl (· + ·) 0) ++ zeros 8
    ++ ks.flatMap PassCount.bytes

/-- The shards a pass folds: an edition's FORM 2 shards, or those of one layer. -/
def passShards (e : Edition) (layer : Option Nat) : List (Layer × Shard) :=
  e.layers.flatMap fun l =>
    if l.form = 2 && (match layer with | some x => l.layer = x | none => true) then
      (e.shards.filter fun s => s.layer = l.layer).map fun s => (l, s)
    else []

/-- The bind pass of a load ends (R194). -/
def loadPassEnd (d : Dev) (j : Job) (p : PassJob) (e : Edition) (q : Nat × Nat × Word × Bool) : Dev :=
  let r := foldShards p.ctx e.id q (passShards e none) [] d
  match r.1 with
  | .error (st, layer, blk) => r.2.loadFails j e.id layer st blk
  | .ok (adopt, ks) => (r.2.emit (.hostWrite p.report (passReport q ks))).loadDone j e.id (p.adopt ++ adopt)

/-! ### Unloading and the digest table (R196, R197, R292) -/

/-- EDITION_UNLOAD. -/
def editionUnload (d : Dev) (j : Job) : Dev :=
  let id := u64 j.bytes 16
  let used := match d.work.active with | some a => a.ctx = j.ctx && bindEdition a.bytes = id | none => false
  if !d.editionHeld j.ctx id || used then d.settle j St.notPermitted 0 0
  else d.logJob j 1 fun d => ((d.logDesc j id 0).dropEdition j.ctx id).settle j St.ok 0 0

/-- An entry that the host may install. -/
def installable (e : Bytes) : Bool := (u8 e 14 = 1 || u8 e 14 = 2) && u8 e 15 = 0 && zeroAt e 24 8

/-- Entries are installed in order to the first that fails, each with one of the entries that the descriptor has reserved: how many, its status, and the station. -/
def installAll (j : Job) : List Bytes → Nat → Dev → Nat × Status × Dev
  | [], n, d => (n, St.ok, d)
  | e :: es, n, d =>
    match (if installable e then digestPut (d.ctx j.ctx).digests e else none) with
    | none => (n, St.notPermitted, d)
    | some t => installAll j es (n + 1) (((d.spend j.no 1).logDesc j 0 0).onCtx j.ctx fun x => { x with digests := t })

/-- DIGEST_INSTALL. -/
def digestInstall (d : Dev) (j : Job) (resp : HostRead) : Dev :=
  let n := u32 j.bytes 24
  if n < 1 || n > 4096 then d.settle j St.notPermitted 0 0
  else d.logJob j n fun d =>
    let d1 := (d.reserve j.no n).emit (.hostRead (u64 j.bytes 16) (64 * n))
    match resp with
    | none => d1.settle j St.memUnc 0 0
    | some b =>
      let r := installAll j (chunks 64 n (padTo b (64 * n))) 0 d1
      r.2.2.settle j r.2.1 r.1 0

/-- DIGEST_REMOVE. -/
def digestRemove (d : Dev) (j : Job) : Dev :=
  let key := sub j.bytes 16 15 ++ sub j.bytes 32 8
  let t := (d.ctx j.ctx).digests
  if (digestFind t key).isNone then d.settle j St.notPermitted 0 0
  else d.logJob j 1 fun d =>
    ((d.logDesc j 0 0).onCtx j.ctx fun x => { x with digests := x.digests.filter fun e => digestKey e != key }).settle j St.ok 0 0

/-! ### Scrubbing (R198, R199) -/

/-- The service form of a shard as memory holds it, with the first mark met. -/
def serviceForm (c : Nat) (l : Layer) : Nat → Nat → Dev → Bytes × Option (Status × Nat) × Dev
  | 0, _, d => ([], none, d)
  | n + 1, blk, d =>
    let h := d.memGet c (l.hbase + 32 * (blk : Int)).toNat 32
    let b := h.2.2.memGet c (l.lbase + 8192 * (blk : Int)).toNat (min 8192 (u32 h.1 8))
    let r := serviceForm c l n (blk + 1) b.2.2
    (h.1 ++ b.1 ++ r.1, (match orMark h.2.1 b.2.1 with | some st => some (st, blk) | none => r.2.1), r.2.2)
/-- The first block of a shard whose CHECK fails (R118, R199). -/
def failingBlock (d : Dev) (c : Nat) (l : Layer) (s : Shard) : Option Nat :=
  ((List.range s.count).map (· + s.first)).find? fun blk =>
    let h := d.rawGet c (l.hbase + 32 * (blk : Int)).toNat 32
    let b := d.rawGet c (l.lbase + 8192 * (blk : Int)).toNat (min 8192 (u32 h 8))
    crc32c (h.take 28 ++ b) != BitVec.ofNat 32 (u32 h 28)
/-- A COMMIT of the layer is pending or running; that of a REPLACE that waits for its OPEN has ended. -/
def commitPending (d : Dev) (c id layer : Nat) : Bool := d.work.jobs.any fun j => j.ctx = c && j.op = Op.kettle
  && (j.kstep = 3 || (j.kstep = 5 && j.entry != some 2)) && j.kedition = id && j.klayer = layer && j.phase == .begun

/-- The layer record of what the slots hold: the latest committed replacement's, before its OPEN. -/
def storedLayer (d : Dev) (c id : Nat) (l : Layer) : Layer :=
  match (d.ctx c).staged.reverse.find? fun s => s.edition = id && s.layer.layer = l.layer && s.committed with
  | some s => s.layer
  | none => l
/-- A shard is scrubbed; one without an entry in the table is passed over. The first block that a mark or its CHECK fails is named (R199). -/
def scrubShard (d : Dev) (c : Nat) (e : Edition) (l0 : Layer) (s : Shard) : Dev :=
  let l := d.storedLayer c e.id l0
  if d.commitPending c e.id l.layer then d
  else match digestFind (d.ctx c).digests (digestKey (digestEntry e.id s l.version (if l.form = 2 then 2 else 1) false [])) with
    | none => d
    | some want =>
      let r := serviceForm c l s.count s.first d
      if r.2.1.isNone && sha256 r.1 == want then r.2.2
      else
        let st := match r.2.1 with | some x => x.1 | none => St.digestMismatch
        let check := (r.2.2.failingBlock c l s).getD 0xFFFFFF
        let blk := match r.2.1 with | some x => min x.2 check | none => check
        (r.2.2.editionErr 4 c l.layer st blk).markDamaged c e.id St.digestMismatch fun x =>
          decide (x.layer = s.layer) && decide (x.first = s.first) && decide (x.position = s.position)

/-- A sweep of a context's editions begins when it is due, and takes every shard in order. -/
def scrubSweep (d : Dev) (c : Nat) : Dev :=
  match d.sweepDue c with
  | none => d
  | some t =>
    let d1 := d.reach t
    let d2 := d1.onCtx c fun x => { x with sweepAt := some d1.now }
    d2.each ((d2.ctx c).editions.filter (d2.heldNow c)) fun d e =>
      d.each (e.layers.flatMap fun l => (e.shards.filter fun s => s.layer = l.layer).map fun s => (l, s)) fun d x =>
        d.scrubShard c e x.1 x.2

end Dev

/-! ### The rows -/

/-- R190: loads of one context run one at a time. -/
def execEditionLoad (ctx : CtxId) (manifest image : HostRead) (s : State) : Answer := s.on fun d => d.live fun d =>
  match d.jobOf ctx.val Op.editionLoad .accepted with
  | some j => if d.memUp && d.work.passes.all (fun p => p.ctx != ctx.val || p.layer.isSome) then d.editionLoad j manifest image else d
  | none => d
/-- R196. -/
def execEditionUnload (ctx : CtxId) (s : State) : Answer := s.on fun d => d.live fun d =>
  match d.jobOf ctx.val Op.editionUnload .accepted with
  | some j => if d.memUp then d.editionUnload j else d
  | none => d
/-- R292. -/
def execDigestInstall (ctx : CtxId) (entries : HostRead) (s : State) : Answer := s.on fun d => d.live fun d =>
  match d.jobOf ctx.val Op.digestInstall .accepted with
  | some j => d.digestInstall j entries
  | none => d
/-- R292. -/
def execDigestRemove (ctx : CtxId) (s : State) : Answer := s.on fun d => d.live fun d =>
  match d.jobOf ctx.val Op.digestRemove .accepted with
  | some j => d.digestRemove j
  | none => d
/-- R124. -/
def execBindPassStart (ctx : CtxId) (s : State) : Answer := s.on fun d => d.live fun d => if d.memUp then d.passBegin ctx.val else d
/-- R198. -/
def execScrubSweepStart (ctx : CtxId) (found : List Found) (s : State) : Answer := s.on fun d0 => d0.live fun d0 =>
  let d := d0.given (d0.sweepDue ctx.val).isSome (·.awake)
  if d.memUp && (d.ctx ctx.val).regs.enable then (d.found found).scrubSweep ctx.val else d

end Sys2Proof.Machine
end

