-- ==== Sys2Proof/Machine/Kettle.lean ====
section
/-! DEFINITION. Replacing weights in use: the steps of a KETTLE descriptor (R200 to R207, R284, R293) and the end of a bind pass (R194,
R204). -/

namespace Sys2Proof.Machine

namespace Dev

/-- The staged replacement of a layer. -/
def stagedOf (d : Dev) (c id layer : Nat) : Option Staged :=
  (d.ctx c).staged.find? fun s => s.edition = id && s.layer.layer = layer && !s.committed
/-- Replace what is staged for a layer; what a COMMIT has put in place stays known until the layer's OPEN (R203). -/
def setStaged (d : Dev) (c id layer : Nat) (x : Option Staged) : Dev := d.onCtx c fun y => { y with
  staged := (y.staged.filter fun s => !(s.edition = id && s.layer.layer = layer && !s.committed)) ++ x.toList }
/-- The replacement of a layer by a version that a COMMIT has put in place since the layer's last OPEN (R203). -/
def committedOf (d : Dev) (c id layer version : Nat) : Option Staged :=
  (d.ctx c).staged.reverse.find? fun s => s.edition = id && s.layer.layer = layer && s.committed && s.layer.version = version
/-- An OPEN of a layer: no COMMIT of it is remembered any more. -/
def dropCommitted (d : Dev) (c id layer : Nat) : Dev := d.onCtx c fun y => { y with
  staged := y.staged.filter fun s => !(s.edition = id && s.layer.layer = layer && s.committed) }
/-- A layer of an edition that is LOADED or DAMAGED. -/
def heldLayer (d : Dev) (c id layer : Nat) : Option (Edition × Layer) :=
  match d.edition c id with
  | some e => if !d.heldNow c e then none else (e.layers.find? fun l => l.layer = layer).map fun l => (e, l)
  | none => none
/-- The shards of a layer that the station holds. -/
def layerShards (e : Edition) (layer : Nat) : List Shard := e.shards.filter fun s => s.layer = layer
/-- The context's active binding is stationed. -/
def stationedHere (d : Dev) (c : Nat) : Bool := d.activeHere c && bindStationed d.binding

/-! ### STAGE (R201) -/

/-- Bytes of a shard in the staging region: packed records, or source values. -/
def stagedBytes (l : Layer) (s : Shard) : Nat := if l.form = 2 then 8192 * s.count else s.nbytes - 16 * s.count

/-- Whether a patch manifest fits a KETTLE descriptor and what is loaded. -/
def patchOk (d : Dev) (j : Job) (m : Bytes) (e : Edition) (l : Layer) : Bool :=
  let n := Manifest.layer m 0
  let own := Manifest.own m e.pos
  Manifest.ok m true && Manifest.edition m = e.id && n.layer = l.layer && n.version = j.kversion && e.pos < Manifest.positions m
    && Manifest.foldInputsOk m (d.ctx j.ctx).regs && n.blocks = l.blocks && n.srcfmt = l.srcfmt && n.cxl == l.cxl
    && l.version ≤ n.version && own.map (fun s => (s.first, s.count)) == (layerShards e l.layer).map (fun s => (s.first, s.count))
    && (own.map (stagedBytes n)).foldl (· + ·) 0 ≤ u32 j.bytes 52 * pageBytes
    && !(n.form = 2 && d.stationedHere j.ctx)

/-- The sealed copy of a shard that this station serves as a peer, or gives back for test: the records of its slots, `n` from block `blk` on, under a
path and a request (R119, R354), with the first mark that reading them meets, and its block (R254, R262). -/
def sealShard (c : Nat) (key : Bytes) (l : Layer) (path : Nat) (req : Bytes) : Nat → Nat → Dev → Bytes × Option (Status × Nat) × Dev
  | 0, _, d => ([], none, d)
  | n + 1, blk, d =>
    let h := d.memGet c (l.hbase + 32 * (blk : Int)).toNat 32
    let b := h.2.2.memGet c (l.lbase + 8192 * (blk : Int)).toNat (min 8192 (u32 h.1 8))
    let r := sealShard c key l path req n (blk + 1) b.2.2
    (sealRecord key path req blk h.1 b.1 ++ r.1, (match orMark h.2.1 b.2.1 with | some st => some (st, blk) | none => r.2.1), r.2.2)
/-- What is fetched of a shard: its request, the sealed units, and the mark met in reading them. -/
structure Units where
  shard : Shard
  req : Bytes
  src : Bytes
  bad : Option (Status × Nat)
deriving DecidableEq, Repr
/-- The units are checked (R192). -/
def fetchUnits (key : Option Bytes) (path ed : Nat) (l : Layer) (u : Units) : Except (Status × Nat) Fetch :=
  match u.bad with
  | some e => .error e
  | none => fetchShard key path u.req ed l { u.shard with offset := 0, nbytes := u.src.length } u.src

/-- The digest check of a staged shard (R193, R201). A FORM 2 shard of a peer comes folded, so that its derived digest is what can be compared
(R194); with no source entry the manifest's signature must be valid as well (log 50). -/
def stagedCheck (d : Dev) (c : Nat) (m : Bytes) (ed : Nat) (l : Layer) (packed : Bool) (s : Shard) (dg : Bytes) : Except Status (List Bytes) :=
  if !(packed && l.form = 2) then d.digestCheck c m ed l.version s dg
  else match digestFind (d.ctx c).digests (digestKey (digestEntry ed s l.version 1 true dg)) with
    | some _ => d.derivedCheck c ed l.version s dg
    | none => match d.signatureFault c m with
      | some st => .error st
      | none => d.derivedCheck c ed l.version s dg

/-- The own shards are checked and written to the staging region from an address on, each in order: the shards as staged and the entries to
adopt, or the failure with its block. -/
def stageShards (c : Nat) (m : Bytes) (ed : Nat) (l : Layer) (path : Nat) :
    List Units → Nat → Dev → Except (Status × Nat) (List Shard × List Bytes) × Dev
  | [], _, d => (.ok ([], []), d)
  | u :: us, va, d =>
    let s := u.shard
    let key := (d.ctx c).key.map fun k => layerKey k ed l.layer l.version
    match fetchUnits key path ed l u with
    | .error e => (.error e, d)
    | .ok f =>
      let packed := l.form ≠ 2 || path = 4
      let b := if packed then f.cover else f.bodies.flatMap (·.2)
      let w := d.memPut c va b none
      match w.1 with
      | some st => (.error (st, 0xFFFFFF), w.2)
      | none =>
        let dg := sha256 f.cover
        match w.2.stagedCheck c m ed l packed s dg with
        | .error st => (.error (st, 0xFFFFFF), w.2)
        | .ok a =>
          let r := stageShards c m ed l path us (va + b.length) w.2
          (r.1.map fun x => ({ s with offset := va, nbytes := b.length, digest := dg } :: x.1, a ++ x.2), r.2)

/-- Bytes of the next sealed records, as their headers give them (R119). -/
def sealedLen : Nat → Bytes → Nat
  | 0, _ => 0
  | n + 1, b => let k := 48 + min 8192 (u32 b 8); k + sealedLen n (b.drop k)
/-- The units of a layer's own shards from the host's image. -/
def hostUnits (m : Bytes) (at_ : Nat) (img : Bytes) (own : List Shard) (d : Dev) : List Units × Dev :=
  (own.map fun s => ⟨s, zeros 8, sub (padTo img (Manifest.imageBytes m)) s.offset s.nbytes, none⟩, d.each own fun d s => d.readUnits at_ s)
/-- The units of a layer's own shards from a peer, each fetched under a request drawn for it (R354): a peer's answers come with the command, end to
end, and a station that is its own peer seals its slots itself, as the layer stored there stands (log 50). -/
def peerUnits (j : Job) (layer : Nat) (self : Option Layer) : List Shard → Bytes → Dev → List Units × Dev
  | [], _, d => ([], d)
  | s :: ss, img, d =>
    let req := leBytes 8 (Config.entropy d.free).toNat
    let x : Bytes × Option (Status × Nat) × Dev := match self with
      | some old => sealShard j.ctx (match (d.ctx j.ctx).key with | some k => layerKey k j.kedition old.layer old.version | none => [])
          old 4 req s.count s.first d
      | none => (img.take (sealedLen s.count img), none, d)
    let r := peerUnits j layer self ss (img.drop x.1.length)
      (x.2.2.tookFree.emit (.peerFetch (u16 j.bytes 22) j.kedition layer s.first s.count req))
    (⟨s, req, x.1, x.2.1⟩ :: r.1, r.2)

/-- The descriptor names a peer as its source (R293). -/
def fromPeer (j : Job) : Bool := u8 j.bytes 17 = 1
/-- The shards of a patch are fetched for staging, from the host or, sealed under fresh requests, from the peer's slots (R119, R201, R354). -/
def stageFetch (d : Dev) (j : Job) (m : Bytes) (e : Edition) (n : Layer) (img : Bytes) :
    Except (Status × Nat) (List Shard × List Bytes) × Dev :=
  let own := Manifest.own m e.pos
  let self : Option Layer := if u16 j.bytes 22 = d.station then
    (e.layers.find? fun l => l.layer = n.layer).map (d.storedLayer j.ctx j.kedition) else none
  let u := if fromPeer j then peerUnits j n.layer self own img d else hostUnits m (u64 j.bytes 40) img own d
  -- what a peer sends is staged in service form, whose size its records give
  if fromPeer j && decide (u32 j.bytes 52 * pageBytes < (u.1.map fun x => x.src.length - 16 * x.shard.count).foldl (· + ·) 0) then
    (.error (St.notPermitted, 0xFFFFFF), u.2)
  else stageShards j.ctx m j.kedition n (if fromPeer j then 4 else 1) u.1 (u32 j.bytes 48 * pageBytes) u.2
/-- STAGE: what comes from the peer comes sealed under a request of the station's own (R119, R354). -/
def kettleStage (d : Dev) (j : Job) (manifest image : HostRead) : Dev :=
  let c := j.ctx; let id := j.kedition; let layer := j.klayer
  let fails := fun (d : Dev) (ly : Nat) (st : Status) (blk : Nat) => (d.editionErr 2 c ly st blk).settle j st 0 0
  let d := d.readManifest (u64 j.bytes 32) manifest
  match manifest, d.heldLayer c id layer with
  | none, _ => fails d 0xFFFF St.notPermitted 0xFFFFFF
  | some _, none => fails d 0xFFFF St.notPermitted 0xFFFFFF
  | some m, some (e, l) =>
    if !d.patchOk j m e l then fails d 0xFFFF St.notPermitted 0xFFFFFF
    else
      let d1 := d.setStaged c id layer none
      match image with
      | none => fails d1 layer St.memUnc 0xFFFFFF
      | some img =>
        let n := { Manifest.layer m 0 with lbase := l.lbase, hbase := l.hbase }
        let r := d1.stageFetch j m e n img
        match r.1 with
        | .error (st, blk) => fails r.2 layer st blk
        | .ok (ss, adopt) =>
          (r.2.setStaged c id layer (some ⟨id, n, ss, adopt, u32 j.bytes 48, false, n.form ≠ 2 || fromPeer j⟩)).settle j St.ok 0 0

/-! ### CLOSE and the barrier (R202) -/

/-- A CLOSE, or a REPLACE as a CLOSE, begins to close the barrier, with `n` entries reserved. -/
def closing (d : Dev) (j : Job) (n : Nat) : Dev :=
  if d.stationedHere j.ctx && d.position ≠ 0 then d.settle j St.notPermitted 0 0
  else d.logJob j n fun d =>
    ((d.reserve j.no n).onJob j.no fun x => { x with phase := .begun }).onCtx j.ctx fun x => { x with
      barrier := if x.barrier == .closed then .closed else .closing }

/-- What a descriptor at place `no` of the context's order waits for before the barrier is closed; an item whose record is held is not complete
(R296). -/
def barrierReady (d : Dev) (c no : Nat) : Bool :=
  if d.stationedHere c then d.work.passesInFlight.isEmpty
  else (d.work.jobs.all fun x => !(x.ctx = c && x.no < no && (x.op = Op.item || x.op = Op.run)))
    && (d.ctx c).rings.all fun r => r.2.held.all fun h => match h.item with | some n => decide (no ≤ n) | none => true

/-- A barrier that is closing is closed, and the CLOSE completes. -/
def barrierShuts (d : Dev) (c : Nat) : Dev :=
  match d.work.jobs.find? fun j => j.ctx = c && j.op = Op.kettle && (j.kstep = 2 || j.kstep = 5) && j.phase == .begun && j.entry.isNone with
  | none => d
  | some j =>
    if !d.barrierReady c j.no || d.boot.restarting then d
    else
      let d1 := ((d.onCtx c fun x => { x with barrier := .closed }).spend j.no 1).logDesc { j with bytes := j.bytes.set 16 2 } 0 0
      if j.kstep = 2 then d1.settle j St.ok 0 0 else d1.onJob j.no fun x => { x with entry := some 1 }

/-! ### COMMIT (R204, R205) -/

/-- A pass of a stationed binding, of any context's, is in progress on the station: at position 0 a micro-batch in flight, elsewhere an instruction in a
queue other than the ring agents' (log 60). -/
def passHere (d : Dev) : Bool :=
  d.work.active.isSome && bindStationed d.binding && if d.position = 0 then !d.work.passesInFlight.isEmpty
    else d.work.coreMap.any fun n => let q := (d.core n).q
      !(q.ar.isEmpty && q.ex.isEmpty && q.vu.isEmpty && q.se.isEmpty && q.cx.isEmpty && q.fscs.isEmpty)

/-- What a COMMIT of a descriptor would put in place; `none` where R204 refuses it. -/
def commitOk (d : Dev) (j : Job) : Option Staged :=
  match d.stagedOf j.ctx j.kedition j.klayer with
  | none => none
  | some s =>
    if (d.heldLayer j.ctx j.kedition j.klayer).isNone || s.layer.version ≠ j.kversion || d.passHere
        || (!d.stationedHere j.ctx && (d.ctx j.ctx).barrier != .closed) then none
    else some s

/-- Staged records are copied to their slots and header entries, `n` from block `blk` and address `va` on; marks travel. Answers the block whose
write first times out (R262). -/
def copyRecords (c : Nat) (l : Layer) : Nat → Nat → Nat → Dev → Option (Status × Nat) × Dev
  | 0, _, _, d => (none, d)
  | n + 1, blk, va, d =>
    let h := d.memGet c va 32
    let len := min 8192 (u32 h.1 8)
    let b := h.2.2.memGet c (va + 32) len
    let w := b.2.2.slotPut c (l.hbase + 32 * (blk : Int)).toNat h.1 h.2.1
    let v := w.2.slotPut c (l.lbase + 8192 * (blk : Int)).toNat b.1 b.2.1
    let r := copyRecords c l n (blk + 1) (va + 32 + len) v.2
    ((w.1 <|> v.1).map (·, blk) <|> r.1, r.2)
/-- Staged source values are copied to their slots. -/
def copySource (c : Nat) (l : Layer) : Nat → Nat → Nat → Dev → Option (Status × Nat) × Dev
  | 0, _, _, d => (none, d)
  | n + 1, blk, va, d =>
    let b := d.memGet c va 8192
    let w := b.2.2.slotPut c (l.lbase + 8192 * (blk : Int)).toNat b.1 b.2.1
    let r := copySource c l n (blk + 1) (va + 8192) w.2
    (w.1.map (·, blk) <|> r.1, r.2)

/-- A COMMIT fails: the edition is DAMAGED, the staged copy stays and the barrier stays closed (R205). -/
def commitFails (d : Dev) (j : Job) (st : Status) (block : Nat) (bad : Shard → Bool) : Dev :=
  ((d.markDamaged j.ctx j.kedition st bad).editionErr 3 j.ctx j.klayer st block).settle j st 0 0

/-- Every digest is equal: the staged copy is discarded, new entries are adopted, and shards of the layer are damaged no more. -/
def commitDone (d : Dev) (j : Job) (s : Staged) (adopt : List Bytes) : Dev :=
  let c := j.ctx
  if (digestPutAll (d.ctx c).digests adopt).isNone then
    (d.editionErr 3 c j.klayer St.notPermitted 0xFFFFFF).settle j St.notPermitted 0 0
  else
    let d1 := (d.adoptAll j.no c adopt).onEdition c j.kedition fun e =>
      let ss := e.shards.map fun x => if x.layer = j.klayer then { x with damaged := false } else x
      { e with shards := ss, state := if ss.any (·.damaged) then .damaged else .loaded }
    let d2 := (d1.setStaged c j.kedition j.klayer none).onCtx c fun y => { y with staged := y.staged ++ [{ s with committed := true }] }
    if j.kstep = 3 then d2.settle j St.ok 0 0 else d2.onJob j.no fun x => { x with entry := some 2 }

/-- The status of a mark that a COMMIT's copy carries (R205). -/
def commitStatus (st : Status) : Status := if st = St.memUnc || st = St.cxlTimeout then st else St.digestMismatch
/-- Source values of a FORM 2 shard as its slots hold them, `n` blocks from `blk` on, with the first mark met. -/
def sourceForm (c : Nat) (l : Layer) : Nat → Nat → Dev → Bytes × Option (Status × Nat) × Dev
  | 0, _, d => ([], none, d)
  | n + 1, blk, d =>
    let b := d.memGet c (l.lbase + 8192 * (blk : Int)).toNat 8192
    let r := sourceForm c l n (blk + 1) b.2.2
    (b.1 ++ r.1, (match b.2.1 with | some st => some (st, blk) | none => r.2.1), r.2.2)
/-- One copy of a staged shard, read back, hashed and compared with the entry STAGE checked against: why it fails, with the block (R204 steps 1, 2
and 4, R262). -/
def commitOnce (c : Nat) (packed : Bool) (l : Layer) (s : Shard) (d : Dev) : Option (Status × Nat) × Dev :=
  let w := if packed then copyRecords c l s.count s.first s.offset d else copySource c l s.count s.first s.offset d
  let r := if packed then serviceForm c l s.count s.first w.2 else sourceForm c l s.count s.first w.2
  match w.1 <|> r.2.1 with
  | some (st, blk) => (some (commitStatus st, blk), r.2.2)
  | none =>
    if sha256 r.1 == s.digest then (none, r.2.2)
    else (some (St.digestMismatch, if !packed then 0xFFFFFF else (r.2.2.failingBlock c l s).getD 0xFFFFFF), r.2.2)
/-- The staged shards of a layer are copied and verified in order, each once more where that fails (R205): the first that fails twice, with its
status and block. -/
def commitShards (c : Nat) (packed : Bool) (l : Layer) : List Shard → Dev → Option (Shard × Status × Nat) × Dev
  | [], d => (none, d)
  | s :: ss, d =>
    let a := commitOnce c packed l s d
    match a.1 with
    | none => commitShards c packed l ss a.2
    | some _ =>
      let b := commitOnce c packed l s a.2
      match b.1 with
      | none => commitShards c packed l ss b.2
      | some x => (some (s, x), b.2)
/-- A FORM 2 shard is copied and verified once more from staging, and folded (R205). -/
def commitAgain (c ed : Nat) (q : Nat × Nat × Word × Bool) (l : Layer) (s : Shard) (d : Dev) :
    Except (Status × Nat × Nat) (List Bytes × List PassCount) × Dev :=
  let a := commitOnce c false l s d
  match a.1 with
  | some (st, blk) => (.error (st, l.layer, blk), a.2)
  | none => foldShards c ed q [(l, s)] [] a.2
/-- The copied FORM 2 shards of a layer are folded and their derived digests checked in order, each copied, verified and folded once more where
that fails (R204 steps 3 and 4, R205). -/
def commitFolds (c ed : Nat) (q : Nat × Nat × Word × Bool) (l : Layer) : List Shard → Dev →
    Except (Shard × Status × Nat) (List Bytes) × Dev
  | [], d => (.ok [], d)
  | s :: ss, d =>
    let a := foldShards c ed q [(l, s)] [] d
    let b := match a.1 with
      | .ok _ => a
      | .error _ => commitAgain c ed q l s a.2
    match b.1 with
    | .error (st, _, blk) => (.error (s, commitStatus st, blk), b.2)
    | .ok (adopt, _) =>
      let r := commitFolds c ed q l ss b.2
      (r.1.map fun x => adopt ++ x, r.2)

/-- Whether a shard is one that failed. -/
def sameShard (s x : Shard) : Bool := x.layer = s.layer && x.first = s.first

/-- The writes of a COMMIT (R204 steps 1, 2 and 4); a FORM 2 layer goes on to its bind pass (step 3). -/
def commitGo (d : Dev) (j : Job) (s : Staged) : Dev :=
  let c := j.ctx
  let r := commitShards c s.packed s.layer s.shards (d.logDesc { j with bytes := j.bytes.set 16 3 } 0 0)
  match r.1 with
  | some (x, st, blk) => r.2.commitFails j st blk (sameShard x)
  | none =>
    if !s.packed then
      (r.2.onJob j.no fun x => { x with phase := .begun }).onWork fun w => { w with
        passes := w.passes ++ [⟨c, j.no, j.kedition, some j.klayer, s.adopt, 0, none⟩] }
    else r.2.commitDone j s s.adopt

/-- A COMMIT that R204 refuses: a COMMIT failure, which is captured (R209). -/
def commitRefused (d : Dev) (j : Job) : Dev :=
  (d.editionErr 3 j.ctx j.klayer St.notPermitted 0xFFFFFF).settle j St.notPermitted 0 0
/-- COMMIT is checked, its entries are reserved, and it waits for earlier reads of the slots. -/
def commitStart (d : Dev) (j : Job) : Dev :=
  match d.commitOk j with
  | none => d.commitRefused j
  | some s =>
    let n := 1 + 2 * s.shards.length
    d.logJob j n fun d => (d.reserve j.no n).onJob j.no fun x => { x with phase := .begun }

/-- The bind pass of a COMMIT ends (R194, R204). -/
def commitPassEnd (d : Dev) (j : Job) (p : PassJob) (q : Nat × Nat × Word × Bool) : Dev :=
  match d.edition p.ctx p.edition, d.stagedOf p.ctx p.edition j.klayer with
  | some _, some s =>
    let r := commitFolds p.ctx p.edition q s.layer s.shards d
    match r.1 with
    | .error (x, st, blk) => r.2.commitFails j st blk (sameShard x)
    | .ok adopt => r.2.commitDone j s (p.adopt ++ adopt)
  | _, _ => d.commitRefused j

/-- The running bind pass of a context ends. Its changes wait while the finisher restarts, and a load's report while the host link is not
Secure (R358, R365). -/
def passFinish (d : Dev) (c : Nat) : Dev :=
  match d.work.passes.find? fun p => p.ctx = c && p.params.isSome with
  | none => d
  | some p =>
    if d.boot.restarting || (p.layer.isNone && !d.hostOpen) then d else
    let d1 := d.onWork fun w => { w with passes := w.passes.erase p }
    match d1.work.jobs.find? (fun (j : Job) => decide (j.no = p.job)), p.params with
    | some j, some q =>
      (match p.layer with
       | some _ => d1.commitPassEnd j p q
       | none => match d1.edition c p.edition with
         | some e => d1.loadPassEnd j p e q
         | none => d1.settle j St.notPermitted 0 0).tryRun
    | _, _ => d1.tryRun

/-! ### OPEN (R203) -/

/-- Held work is released: the barrier opens, the timers of what was held restart, and a run that waits may begin. -/
def release (d : Dev) (c : Nat) : Dev :=
  if (d.ctx c).barrier == .open then d
  else
    let d1 := (d.onCtx c fun x => { x with barrier := .open }).onCirc fun q => { q with
      transfers := q.transfers.map fun t => { t with arrivedAt := d.now } }
    (d1.onWork fun w => { w with
      starts := w.starts.map fun s => (s.1, s.2.1, d.now, s.2.2.2)
      jobs := w.jobs.map fun j => if j.op = Op.item && j.ctx = c && j.mb.isSome then { j with opened := true } else j }).tryRun

/-- A layer's new version becomes current in the version table, with its entry of CLASS 5 (R363). -/
def openLayer (d : Dev) (j : Job) : Dev :=
  let c := j.ctx
  match d.heldLayer c j.kedition j.klayer with
  | none => d
  | some (_, l) =>
    let d1 := (d.spend j.no (b2n (j.room > 0))).log 3 c 5 j.klayer l.version j.kversion j.kedition
    match d.committedOf c j.kedition j.klayer j.kversion with
    | some s =>
      (d1.onEdition c j.kedition fun e => { e with
        layers := e.layers.map fun x => if x.layer = j.klayer then s.layer else x
        shards := e.shards.map fun x => if x.layer = j.klayer then
            (match s.shards.find? fun y => y.first = x.first with
             | some y => { x with position := y.position, derived := y.derived, digest := y.digest }
             | none => x) else x }).dropCommitted c j.kedition j.klayer
    | none => d1.onEdition c j.kedition fun e => { e with
        layers := e.layers.map fun x => if x.layer = j.klayer then { x with version := j.kversion } else x }

/-- The conditions of R203. -/
def openOk (d : Dev) (j : Job) : Bool :=
  (match d.heldLayer j.ctx j.kedition j.klayer with
   | none => false
   | some (e, _) => (layerShards e j.klayer).isEmpty || (d.committedOf j.ctx j.kedition j.klayer j.kversion).isSome)
    && ((d.ctx j.ctx).barrier == .closed || (d.stationedHere j.ctx && d.position != 0))

/-- OPEN. -/
def kettleOpens (d : Dev) (j : Job) : Dev :=
  if !d.openOk j then d.settle j St.notPermitted 0 0
  else d.logJob j 1 fun d => ((d.openLayer j).settle j St.ok 0 0).release j.ctx

/-! ### REPLACE (R284) -/

/-- The REPLACE descriptors of a context in work. -/
def replaces (d : Dev) (c : Nat) : List Job := d.work.jobs.filter fun j => j.ctx = c && j.op = Op.kettle && j.kstep = 5
/-- A descriptor of the context waits at the head of a ring: one that can be accepted, or one still to be fetched. -/
def headWaits (d : Dev) (c : Nat) : Bool := (List.range 16).any fun r =>
  let g := d.ring c r
  match g.window.head? with
  | some f => d.canAccept c f.bytes
  | none => flag g.cfg 31 && !g.stopped && g.sqHead != g.sqTail

/-- A REPLACE whose barrier is closed commits; a station without a shard of the layer has nothing to commit. -/
def replaceCommit (d : Dev) (j : Job) : Dev :=
  match d.heldLayer j.ctx j.kedition j.klayer with
  | none => d.commitRefused j
  | some (e, _) =>
    if (layerShards e j.klayer).isEmpty then d.onJob j.no fun x => { x with entry := some 2 }
    else match d.commitOk j with
      | none => d.commitRefused j
      | some s => (d.spend j.no 1).commitGo j s

/-- REPLACEs that have committed open together, and the hold ends. -/
def replacesOpen (d : Dev) (c : Nat) (l : List Job) : Dev := (d.each l fun d x => (d.openLayer x).settle x St.ok 0 0).release c
/-- The REPLACEs of a context go on, those of the older hold first: a descriptor that is no REPLACE was accepted after them, and later ones begin a
hold of their own when it has ended (R284). The next one begins its CLOSE, or joins a hold that is closed; one whose barrier is closed
commits; and when all have committed and no other REPLACE follows, all open together. -/
def replaceGo (d : Dev) (c : Nat) : Dev :=
  let rs := d.replaces c
  let old := rs.filter (·.opened)
  let mine := if old.isEmpty then rs else old
  match mine.find? fun j => j.phase == .accepted && j.entry.isNone with
  | some j =>
    d.closing j (3 + 2 * (match d.heldLayer c j.kedition j.klayer with | some (e, _) => (layerShards e j.klayer).length | none => 0))
  | none =>
    match mine.find? fun j => j.entry = some 1 && !(d.work.passes.any fun p => p.job = j.no) with
    | some j => if d.boot.restarting then d else d.replaceCommit j
    | none =>
      if mine.isEmpty || !(mine.all fun j => j.entry = some 2) || (old.isEmpty && d.headWaits c) || d.boot.restarting then d
      else d.replacesOpen c mine

/-- The oldest KETTLE descriptor of a context with a step, in a phase. -/
def kettleJob (d : Dev) (c step : Nat) (ph : JobPhase) : Option Job :=
  d.work.jobs.find? fun j => j.ctx = c && j.op = Op.kettle && j.kstep = step && j.phase == ph

end Dev

/-! ### The rows -/

/-- R194, R204. -/
def execBindPassEnd (ctx : CtxId) (s : State) : Answer := s.on fun d => d.live fun d => if d.memUp then d.passFinish ctx.val else d
/-- R201. -/
def execStage (ctx : CtxId) (manifest image : HostRead) (s : State) : Answer := s.on fun d => d.live fun d =>
  match d.kettleJob ctx.val 1 .accepted with
  | some j => if d.memUp then d.kettleStage j manifest image else d
  | none => d
/-- R202. -/
def execClose (ctx : CtxId) (s : State) : Answer := s.on fun d => d.live fun d =>
  match d.kettleJob ctx.val 2 .accepted with
  | some j => d.closing j 1
  | none => d
/-- R202. -/
def execBarrierClosed (ctx : CtxId) (s : State) : Answer := s.on fun d => d.live fun d => d.barrierShuts ctx.val
/-- R204. -/
def execCommit (ctx : CtxId) (s : State) : Answer := s.on fun d => d.live fun d =>
  match d.kettleJob ctx.val 3 .accepted with
  | some j => if d.memUp then d.commitStart j else d
  | none => d
/-- R204, R205: a COMMIT whose conditions fell while it waited is refused (log 62). -/
def execCommitWrite (ctx : CtxId) (s : State) : Answer := s.on fun d => d.live fun d =>
  match d.kettleJob ctx.val 3 .begun with
  | some j =>
    if !d.memUp || d.boot.restarting || (d.work.passes.any fun p => p.job = j.no) then d
    else match d.commitOk j with
      | some x => (d.spend j.no 1).commitGo j x
      | none => d.commitRefused j
  | none => d
/-- R203. -/
def execKettleOpen (ctx : CtxId) (s : State) : Answer := s.on fun d => d.live fun d =>
  match d.kettleJob ctx.val 4 .accepted with
  | some j => d.kettleOpens j
  | none => d
/-- R284. -/
def execReplace (ctx : CtxId) (s : State) : Answer := s.on fun d => d.live fun d => if d.memUp then d.replaceGo ctx.val else d

end Sys2Proof.Machine
end

