-- ==== Sys2Proof/Machine/Access.lean ====
section
/-! DEFINITION. Which registers an origin reaches (R349, R360, R373, R390, R391, R409), who may write them, and free bytes. -/

namespace Sys2Proof.Machine

namespace Dev

/-- A register of BAR0 is in service: in the boot ROM's recovery the mailbox's only, before READY those of the global block and the mailbox,
and PWR_STOP of a station that a coolant fault holds at start-up (R349, R373, R410; log 65). -/
def inService (d : Dev) (ofs : Nat) : Bool :=
  d.powered &&
    (if d.boot.mailboxOnly then 0x1000 ≤ ofs && ofs < 0x2000
     else match d.boot.stage with
      | .ready => true
      | .shutdown => true
      | .recovery => d.boot.liveRecovery || ofs < 0x2000
      | .stopped => ofs < 0x2000 || ofs = 0x1001C
      | _ => ofs < 0x2000)

/-- What debug level 1 opens to the JTAG port: the debug registers, the counters and the captures (R360). -/
def jtagArea (ofs : Nat) : Bool :=
  let within := fun (a n : Nat) => a ≤ ofs && ofs < a + n
  within 0x90000 0x10000 || within 0x20010 0xFFF0 || within 0x18 16 || within 0x50 4 || within 0x3008 16 || within 0x4000 8
    || within 0x10100 64 || within 0x30008 16 || within 0x60000 24 || within 0x70018 8 || within 0x70100 192
    || (match pageOf ofs with | some (_, o) => 0x20 ≤ o && o < 0x34 | none => false)
/-- An origin's accesses reach a register: a function those of its BARs while it takes requests, a virtual function its own page, the JTAG
port by debug level. -/
def reaches (d : Dev) (org : Origin) (ofs : Nat) : Bool :=
  d.inService ofs && match org with
    | .fn c => d.fnOpen c.val && (c.val = 0 || (match pageOf ofs with | some (k, _) => k = c.val | none => false))
    | .mgmt m => d.hears m
    | .jtag => d.sec.debug ≥ 1 && jtagArea ofs
/-- The management path asks outside a secure session, or while no firmware hears it (R378, R387). -/
def unheard (d : Dev) : Origin → Bool
  | .mgmt m => !d.hears m || !d.inSession (.mctp m.medium) m.session
  | _ => false
/-- No origin may write at an offset: a misaligned one, or once the station has shut down any but the mailbox's (R388, R392). -/
def sealedOff (d : Dev) (ofs : Nat) : Bool := ofs % 4 != 0 || (d.boot.shutDown && !(0x1000 ≤ ofs && ofs < 0x2000))
/-- A write by any origin that reaches the register; JTAG reaches what its level opens. A request of the management path that firmware does not
hear is dropped; one that it hears wakes the station (R326), is refused outside a session, and is answered STATUS_OK where its register is not in
service. -/
def written (d0 : Dev) (org : Origin) (ofs : Nat) (f : Dev → Dev) : Dev :=
  let heard := match org with | .mgmt m => d0.hears m | _ => false
  let d := d0.given heard (·.rouse)
  if d.unheard org then (if heard then d.refuse org ofs St.notPermitted else d)
  else if !d.reaches org ofs then d.accepted org
  else if d.sealedOff ofs then d.refuse org ofs St.notPermitted
  else f d
/-- A write that only the physical function may make; from any other origin it is refused. -/
def pfOnly (d : Dev) (org : Origin) (ofs : Nat) (f : Dev → Dev) : Dev :=
  d.written org ofs fun d => if org = .fn 0 then f d else d.refuse org ofs St.notPermitted

end Dev
end Sys2Proof.Machine
end

