-- ==== Sys2Proof/Machine/Memory.lean ====
section
/-! DEFINITION. Pages and frames (R249, R250, R253, R255, R293) and the CXL tier (R261 to R263, R375), with their rows of the table. -/

namespace Sys2Proof.Machine

namespace Dev

/-! ### MAP, UNMAP and COPY (R249, R250, R289, R293) -/

/-- The page range of a MAP or UNMAP descriptor lies within the space at a page boundary. -/
def rangeOk (j : Job) : Bool :=
  u64 j.bytes 16 % pageBytes = 0 && 1 ≤ u32 j.bytes 24 && u64 j.bytes 16 / pageBytes + u32 j.bytes 24 ≤ 2 ^ 27
/-- First page and pages of a MAP or UNMAP descriptor. -/
def mapFirst (j : Job) : Nat := u64 j.bytes 16 / pageBytes
def mapCount (j : Job) : Nat := u32 j.bytes 24
/-- The tier of a MAP. -/
def mapCxl (j : Job) : Bool := u8 j.bytes 28 = 1

/-- The pages of a MAP are mapped to frames that are free and clear. -/
def mapNow (d : Dev) (j : Job) : Dev :=
  let c := mapCxl j
  ((d.logDesc j 0 0).mapPages j.ctx (mapFirst j) c (bitOf (u8 j.bytes 29) 0) none (d.freeFrames c (mapCount j))).settle j St.ok 0 0
/-- Enough frames of a tier are free and clear. -/
def framesReady (d : Dev) (cxl : Bool) (n : Nat) : Bool := (d.freeFrames cxl n).length = n

/-- MAP: refused, done at once, or waiting for frames that are being cleared. -/
def mapDesc (d : Dev) (j : Job) : Dev :=
  let c := mapCxl j; let n := mapCount j
  if !(rangeOk j && u8 j.bytes 28 ≤ 1 && d.rangesFree j.ctx [(mapFirst j, n, c)] && n ≤ d.freeCount c) then
    d.settle j St.notPermitted 0 0
  else d.logJob j 1 fun d =>
    if d.framesReady c (n + d.promised c) then d.mapNow j
    else (d.reserve j.no 1).onJob j.no fun x => { x with phase := .begun }

/-- The oldest MAP that waits maps its pages when its frames are there; a range mapped meanwhile refuses it. -/
def mapReady (d : Dev) : Dev :=
  match d.work.jobs.find? fun j => j.op = Op.map && j.phase == .begun with
  | none => d
  | some j =>
    if d.boot.restarting || !d.framesReady (mapCxl j) (mapCount j) then d
    else if !d.rangesFree j.ctx [(mapFirst j, mapCount j, mapCxl j)] then d.settle j St.notPermitted 0 0
    else (d.spend j.no 1).mapNow j

/-- A page of a kept binding (R289). -/
def keptPage (d : Dev) (c page : Nat) : Bool := (d.ctx c).bindings.any fun b => match b.2 with
  | some k => k.dev / pageBytes ≤ page && page * pageBytes < k.dev + max 1 k.bytes.length
  | none => false
/-- UNMAP. -/
def unmapDesc (d : Dev) (j : Job) : Dev :=
  let ps := (List.range (mapCount j)).map (· + mapFirst j)
  if !(rangeOk j && ps.all fun p => ((d.ctx j.ctx).pages.get none p).isSome && !d.keptPage j.ctx p) then
    d.settle j St.notPermitted 0 0
  else d.logJob j 1 fun d => ((d.logDesc j 0 0).each ps fun d p => d.unmapPage j.ctx p).settle j St.ok 0 0

/-- The first bad sector of a range is one whose read times out: no mark that is stored there (R262, R293). -/
def readLate (d : Dev) (c va n : Nat) : Bool :=
  match (sectorsOf va n).filterMap fun s => match d.physOf c s.1 with
    | some p => if (d.tierMark p).isSome then some p else none
    | none => none with
  | p :: _ => d.tierLate p false
  | [] => false

/-- COPY. Poison that it meets, whatever its cause, is STATUS_MEM_UNCORRECTABLE (R293), a read without completion STATUS_CXL_TIMEOUT (R262). The bytes
at the destination of one that failed on its data are free values. -/
def copyDesc (d : Dev) (j : Job) (data : HostRead) : Dev :=
  let n := u64 j.bytes 40; let va := u64 j.bytes 32; let host := u64 j.bytes 24
  if n = 0 || u8 j.bytes 16 > 1 then d.settle j St.notPermitted 0 0
  else if u8 j.bytes 16 = 0 then
    let d := d.emit (.hostRead host n)
    match data with
    | some b =>
      let x := d.memPut j.ctx va (padTo b n) none
      x.2.settle j (x.1.getD St.ok) 0 0
    | none =>
      let f := d.freeBytes n
      let x := f.2.memPut j.ctx va f.1 none
      x.2.settle j (x.1.getD St.memUnc) 0 0
  else
    let x := d.memGet j.ctx va n
    match x.2.1 with
    | none => (x.2.2.emit (.hostWrite host x.1)).settle j St.ok 0 0
    | some st =>
      if !d.mapped j.ctx va n false then x.2.2.settle j St.notPermitted 0 0
      else
        let f := x.2.2.freeBytes n
        (f.2.emit (.hostWrite host f.1)).settle j (if d.readLate j.ctx va n then st else St.memUnc) 0 0

/-! ### Retirement (R255) -/

/-- A frame is due for retirement: an uncorrectable sector, or 24 corrected sectors within 24 h. -/
def retireDue (d : Dev) (f : Nat) : Bool :=
  d.mem.unc.contains f || ((d.mem.ceTimes.get [] f).filter fun t => t + 86400000000000 > d.now).length ≥ 24
/-- What a table holds in a range of keys, at the same places from another key on. -/
def copyKeys {α : Type} [DecidableEq α] (t : Table α) (dflt : α) (a b n : Nat) : Table α :=
  (t.filter fun e => a ≤ e.1 && e.1 < a + n).foldl (fun u e => u.set dflt (b + (e.1 - a)) e.2) (t.clearRange b n)
/-- A frame joins the retired list, and what was kept about it goes. -/
def retireFrame (d : Dev) (f : Nat) : Dev :=
  { d with
    flash := { d.flash with retired := d.flash.retired ++ [f] }
    mem := { d.mem with retirePending := d.mem.retirePending.erase f, unc := d.mem.unc.erase f, ceTimes := d.mem.ceTimes.set [] f []
                        gddrUsed := d.mem.gddrUsed.erase f, gddrClearing := d.mem.gddrClearing.erase f } }
/-- A frame that is due is counted as pending. -/
def retireLater (d : Dev) (f : Nat) : Dev := d.onMem fun m =>
  { m with retirePending := if m.retirePending.contains f then m.retirePending else m.retirePending ++ [f] }
/-- A page of one GDDR7 frame is moved to another. -/
def movePage (f g : Nat) (p : Nat × Option Page) : Nat × Option Page :=
  (p.1, p.2.map fun x => if !x.cxl && x.frame = f then { x with frame := g } else x)
/-- The bytes and marks of a GDDR7 frame are copied to another, and the page that maps it follows. -/
def moveFrame (d : Dev) (f g : Nat) : Dev :=
  let a := f * pageBytes; let b := g * pageBytes
  let d1 := d.onMem fun m => { m with
    gddr := copyKeys m.gddr 0 a b pageBytes, gddrMarks := copyKeys m.gddrMarks none (a / 64) (b / 64) (pageBytes / 64)
    gddrUsed := m.gddrUsed ++ [g] }
  { d1 with ctxs := d1.ctxs.map (fun (e : Nat × Ctx) => (e.1, { e.2 with pages := e.2.pages.map (movePage f g) })) }
/-- A frame that is due, or was and is pending, moves to a free frame, poison included; one in no use is retired as it stands (R255). -/
def retire (d : Dev) (f : Nat) : Dev :=
  if !(d.retireDue f || d.mem.retirePending.contains f) || d.flash.retired.contains f then d
  else if d.boot.restarting || !d.colRoom 1 || d.flash.retired.length ≥ 1024 then d.retireLater f
  else if !d.mem.gddrUsed.contains f then (d.log 5 255 4 1 f f 0).retireFrame f
  else match d.freeFrames false 1 with
    | [] => d.retireLater f
    | g :: _ =>
      ((d.log 5 255 4 1 f g 0).moveFrame f g).retireFrame f

/-! ### The CXL tier (R261 to R263) -/

/-- Some context has a CXL frame mapped. -/
def cxlMapped (d : Dev) : Bool := d.ctxs.any fun e => e.2.pages.any fun p => match p.2 with | some x => x.cxl | none => false
/-- CXL_STATUS (R272). -/
def cxlStatus (d : Dev) : Nat := min (d.tierFrames true * pageBytes / 2 ^ 30) 8192 * 2 ^ 16 + d.mem.cxlUp % 16
/-- A device's link is reset: every edition with a layer in the tier becomes DAMAGED, and the reset is logged, with CXL_STATUS before and after
(R199, R262, R363; log 66). -/
def cxlResets (d : Dev) (mask : Nat) (logIt : Bool) : Dev :=
  let d1 := d.onMem fun m => { m with
    cxlUp := m.cxlUp - (m.cxlUp &&& mask), cxlDue := m.cxlDue - (m.cxlDue &&& mask)
    cxlTimeouts := m.cxlTimeouts.filter fun e => !bitOf mask e.1 }
  let d2 := if logIt && d1.colRoom 1 && !d1.boot.restarting then d1.log 5 255 0 0x40008 d.cxlStatus d1.cxlStatus 0 else d1
  d2.each (d2.ctxs.flatMap fun e => (e.2.editions.filter fun x => x.layers.any (·.cxl)).map fun x => (e.1, x)) fun d x =>
    d.markDamaged x.1 x.2.id St.digestMismatch fun s => x.2.layers.any fun l => l.layer = s.layer && l.cxl

/-- The finisher resets links, once it runs and the colophon takes the entry (R262, R365, R367); till then the resets are due. -/
def cxlWant (d : Dev) (mask : Nat) : Dev :=
  if d.colRoom 1 && !d.boot.restarting then d.cxlResets mask true else d.onMem fun m => { m with cxlDue := m.cxlDue ||| mask }
/-- Resets that are due are performed when they can be. -/
def cxlDueGo (d : Dev) : Dev := if d.mem.cxlDue = 0 then d else d.cxlWant d.mem.cxlDue
/-- The link of a device goes down: no request to it is answered, and it is reset (R262). -/
def cxlLost (d : Dev) (mask : Nat) : Dev := let d1 := d.cxlWant mask; d1.onMem fun m => { m with cxlUp := m.cxlUp - (m.cxlUp &&& mask) }

/-- The next request to a sector runs out of time: its reader meets STATUS_CXL_TIMEOUT, its writer fails with it, and the bytes of a write are
then free values (`memGet`, `memPut`); the 16th within 1 s resets the link (R254, R262; log 66). -/
def cxlTimedOut (d : Dev) (dev c va : Nat) (write : Bool) : Dev :=
  match d.physOf c va with
  | some (true, a) =>
    let l := a / 64
    let d1 := d.errMem 4 c 31 0 va
    let d2 : Dev := d1.onMem fun m => if write then { m with cxlLateWrite := m.cxlLateWrite ++ [l] } else { m with cxlLateRead := m.cxlLateRead ++ [l] }
    let ts := ((d2.mem.cxlTimeouts.get [] dev).filter fun t => t + 1000000000 > d2.now) ++ [d2.now]
    let d3 := d2.onMem fun m => { m with cxlTimeouts := m.cxlTimeouts.set [] dev ts }
    if ts.length ≥ 16 then d3.cxlLost (2 ^ dev) else d3
  | _ => d

/-- The port is enumerated under CXL_CFG: the layout takes the devices that are up, and others have 2 s to become ready (R261, R375). -/
def cxlEnum (d : Dev) : Dev := d.onMem fun m =>
  { m with cxlLayout := m.cxlCfg
           cxlEnum := m.cxlUp % 2 ^ (match fld m.cxlCfg 1 0 with | 1 => 2 | 2 => 4 | _ => 1), cxlShut := false }
/-- A new value of CXL_CFG's fields; a reserved code leaves its field unchanged. -/
def cxlCfgOf (old v : Word) : Word :=
  let b := fld v 1 0; let w := fld v 5 4
  setFld (setFld old 1 0 (if b = 3 then fld old 1 0 else b)) 5 4 (if w = 3 then fld old 5 4 else w)
/-- A write of CXL_CFG (R261, R272). -/
def cxlCfgWrite (d : Dev) (org : Origin) (v : Word) : Dev :=
  if flag v 8 && d.cxlMapped then d.refuse org 0x40000 St.notPermitted
  else
    let new := cxlCfgOf d.mem.cxlCfg v
    d.loggedReg org 0x40000 d.mem.cxlCfg.toNat new.toNat fun d =>
      let d1 := d.onMem fun m => { m with cxlCfg := new }
      if flag v 8 then d1.cxlEnum else d1

/-- A device's link is up with media ready: a device of the layout answers again; another joins while the 2 s run and no frame of
the tier is in use, else it is left down (R375; log 67). A device whose reset is due stays down until it is reset. -/
def cxlReady (d0 : Dev) (dev cap : Nat) : Dev :=
  let d := d0.cxlDueGo
  let links := match fld d.mem.cxlLayout 1 0 with | 1 => 2 | 2 => 4 | _ => 1
  if dev ≥ links || bitOf d.mem.cxlDue dev then d
  else if bitOf d.mem.cxlEnum dev then d.onMem fun m => { m with cxlUp := m.cxlUp ||| 2 ^ dev }
  else if d.mem.cxlShut || d.cxlMapped then d
  else d.onMem fun m => { m with
    cxlUp := m.cxlUp ||| 2 ^ dev, cxlEnum := m.cxlEnum ||| 2 ^ dev, cxlCap := m.cxlCap.set 0 dev cap }

end Dev

/-! ### The rows -/

/-- R249. -/
def execMap (ctx : CtxId) (s : State) : Answer := s.on fun d => d.live fun d =>
  match d.jobOf ctx.val Op.map .accepted with
  | some j => if d.memUp then d.mapDesc j else d
  | none => d
/-- R250. -/
def execMapFramesReady (s : State) : Answer := s.on fun d => d.live fun d => if d.memUp then d.mapReady else d
/-- R250. -/
def execUnmap (ctx : CtxId) (s : State) : Answer := s.on fun d => d.live fun d =>
  match d.jobOf ctx.val Op.unmap .accepted with
  | some j => if d.memUp then d.unmapDesc j else d
  | none => d
/-- R250: a frame that its unmapping left to be cleared. -/
def execFrameClear (cxl : Bool) (frame : Nat) (s : State) : Answer := s.on fun d => d.live fun d =>
  if d.memUp && (if cxl then d.mem.cxlClearing else d.mem.gddrClearing).contains frame then d.clearFrame cxl frame else d
/-- R293. -/
def execCopy (ctx : CtxId) (data : HostRead) (found : List Found) (s : State) : Answer := s.on fun d => d.live fun d =>
  match d.jobOf ctx.val Op.copy .accepted with
  | some j => if d.memUp && d.hostOpen then (d.found found).copyDesc j data else d
  | none => d
/-- R253: corrected sectors are written back, so the frame's bytes stay as they are. -/
def execPatrol (frame : Nat) (found : List Found) (s : State) : Answer := s.on fun d => d.live fun d =>
  if d.memUp then d.found (found.filter fun f => match f with | .gddr g _ _ => g = frame | .crcRetry _ => true | _ => false) else d
/-- R255. -/
def execFrameRetirement (frame : Nat) (s : State) : Answer := s.on fun d => d.live fun d => if d.memUp then d.retire frame else d
/-- R262. -/
def execCxlTimeout (device : Fin 4) (ctx : CtxId) (va : Nat) (write : Bool) (s : State) : Answer :=
  s.on fun d => d.live fun d => d.cxlTimedOut device.val ctx.val va write
/-- R262. -/
def execCxlLinkDown (device : Fin 4) (s : State) : Answer := s.on fun d => d.live fun d =>
  if bitOf d.mem.cxlUp device.val then d.cxlLost (2 ^ device.val) else d
/-- R261. -/
def execCxlEnumerate (org : Origin) (value : Word) (s : State) : Answer := s.on fun d => d.live fun d =>
  d.written org 0x40000 fun d => d.cxlCfgWrite org (value ||| 0x100)
/-- R375. -/
def execCxlReadyTimeout (s : State) : Answer := s.on fun d => d.live fun d => d.onMem fun m => { m with cxlShut := true }
/-- R263: an event record is logged as a change of CXL_STATUS that leaves it as it is (R363; log 66); it waits while the colophon refuses. -/
def execCxlEventRecord (device : Fin 4) (record : Bytes) (s : State) : Answer := s.on fun d => d.live fun d =>
  if d.boot.restarting || !d.colRoom 1 then d else d.log 5 255 0 0x40008 d.cxlStatus d.cxlStatus 0
/-- R375. -/
def execCxlMediaReady (device : Fin 4) (capacityMib : Nat) (s : State) : Answer :=
  s.on fun d => d.live fun d => d.cxlReady device.val capacityMib

end Sys2Proof.Machine
end

