-- ==== Sys2Proof/Machine/Contexts.lean ====
section
/-! DEFINITION. Setting up, closing and resetting contexts (R266, R278, R295, R302, R394, R401), with their rows of the table. -/

namespace Sys2Proof.Machine

/-- BAR0 offset of a register of a context's page (R404). -/
def ctxOfs (c o : Nat) : Nat := 0x100000 + 0x1000 * c + o
/-- Page offset of register `k` (in words) of a ring pair: 0 SQ base, 2 CQ base, 4 configuration, 5 moderation, 6 SQ head, 7 CQ tail. -/
def ringOfs (r k : Nat) : Nat := 0x100 + 0x40 * r + 4 * k

namespace Dev

/-- A write to a context's page by the context's function or the physical function; from any other origin it is refused (R302). -/
def ctxWrite (d : Dev) (org : Origin) (c o : Nat) (f : Dev → Dev) : Dev :=
  let ofs := ctxOfs c o
  d.written org ofs fun d => match org with
    | .fn k => if k.val = 0 || k.val = c then f d else d
    | _ => d.refuse org ofs St.notPermitted

/-! ### Disable (R196, R249, R266, R278, R353) -/

/-- A context key is erased (R353), with its entry of CLASS 6, code 2: one that the change has reserved, or one that is held where it cannot be
written yet, for an erasure that nothing refuses (log 68). -/
def eraseKey (d : Dev) (c : Nat) (reserved : Bool) : Dev :=
  match (d.ctx c).key with
  | none => d
  | some k =>
    let id := u64 (hmac k [0x4F, 0x58, 0x49, 0x44]) 0
    (if reserved then d.logNext 5 c 6 2 id 0 0 else d.logOwed 5 c 6 2 id 0 0).onCtx c fun x => { x with key := none }

/-- What context disable does beside the ABORT. -/
def closeContext (d : Dev) (c : Nat) (reserved : Bool) : Dev :=
  let d1 := if d.activeHere c then (d.dropRuns).deactivate else d
  let d2 := d1.each ((d1.ctx c).pages.map (·.1)) fun d p => d.unmapPage c p
  ((d2.syncClearRange c).onCtx c fun x => { x with
    editions := [], digests := [], staged := [], bindings := [], barrier := .open, sweepAt := none, hint := none }).eraseKey c reserved

/-- A context is disabled: an ABORT of the whole context, and the rest. BUSY stands until every record is written. The change that
disables it may have reserved the entry of its key's erasure. -/
def disable (d : Dev) (c : Nat) (reserved : Bool) : Dev :=
  let d1 := d.onRegs c fun r => { r with enable := false, busy := true }
  (((d1.abortScope c 2 0 0).2).closeContext c reserved).busyCheck c

/-- Ranges of enabled contexts do not overlap (R266). -/
def rangeClash (d : Dev) (c : Nat) : Bool :=
  let r := (d.ctx c).regs
  let b := r.syncBase.toNat; let n := r.syncCount.toNat
  d.ctxs.any fun e => e.1 != c && e.2.regs.enable && n > 0 && e.2.regs.syncCount.toNat > 0
    && e.2.regs.syncBase.toNat < b + n && b < e.2.regs.syncBase.toNat + e.2.regs.syncCount.toNat

/-- A write of CTX_ENABLE with ENABLE = 1 (R278, R373, R375). -/
def enableWrite (d : Dev) (org : Origin) (c : Nat) : Dev :=
  let ofs := ctxOfs c 0
  if d.boot.stage != .ready || d.rangeClash c then d.refuse org ofs St.notPermitted
  else d.loggedReg org ofs (b2n (d.ctx c).regs.enable) 1 fun d => d.onRegs c fun r => { r with enable := true }
/-- A write of CTX_ENABLE with ENABLE = 0 (R278): it and the erasure of a key have an entry each. -/
def disableWrite (d : Dev) (org : Origin) (c : Nat) : Dev :=
  let ofs := ctxOfs c 0
  d.loggedAll org ofs (1 + b2n (d.ctx c).key.isSome) fun d =>
    (d.logNext (originCode org) c 0 ofs (b2n (d.ctx c).regs.enable) 0 0).disable c true

/-! ### Ring pairs (R278) -/

/-- CTX_RING_CFG_n with the fields of a write: a size outside 6 to 16 leaves its field unchanged. -/
def ringCfgOf (old v : Word) : Word :=
  let sz := fun (hi lo : Nat) => let x := fld v hi lo; if 6 ≤ x && x ≤ 16 then x else fld old hi lo
  word (fld v 31 31 * 2 ^ 31 + fld v 20 16 * 2 ^ 16 + sz 12 8 * 2 ^ 8 + sz 4 0)
/-- Every descriptor fetched from a pair has its record written, and, unless the pair is stopped, none waits to be fetched. -/
def ringIdle (d : Dev) (c r : Nat) : Bool :=
  let g := d.ring c r
  (g.stopped || g.sqHead == g.sqTail) && g.window.isEmpty && g.held.isEmpty
    && d.work.jobs.all fun j => !(j.ctx = c && j.ring = r)
/-- A write of CTX_RING_CFG_n: a size does not change while EN is set, and EN falls only when the pair has nothing left (R278). -/
def ringCfgWrite (d : Dev) (org : Origin) (c r : Nat) (v : Word) : Dev :=
  let ofs := ctxOfs c (ringOfs r 4)
  let g := d.ring c r
  let new := ringCfgOf g.cfg v
  let on := flag g.cfg 31
  if (on && (fld new 12 8 ≠ fld g.cfg 12 8 || fld new 4 0 ≠ fld g.cfg 4 0)) || (on && !flag v 31 && !d.ringIdle c r) then
    d.refuse org ofs St.notPermitted
  else d.loggedReg org ofs g.cfg.toNat new.toNat fun d => d.onRing c r fun x =>
    if flag v 31 && !on then
      { x with cfg := new, sqTail := 0, sqHead := 0, cqTail := 0, cqHead := 0, stopped := false, window := [], held := []
               irqCount := 0, irqFirst := none }
    else if !flag v 31 then { x with cfg := new, stopped := false } else { x with cfg := new }

/-! ### Resets (R278, R394, R401) -/

/-- What is left in work of a context whose records are not written any more goes: its descriptors with the colophon's entries they hold,
a formation under way with its detours, and bind passes that have not begun. -/
def dropJobs (d : Dev) (c : Nat) : Dev :=
  let js := d.work.jobs.filter fun j => j.ctx = c
  let d1 := match d.work.forming with
    | some f => if js.any fun j => j.no = f.job then (d.releaseSetups f.gath f.gath.nbrs).onWork fun w => { w with forming := none } else d
    | none => d
  ((d1.colRelease ((js.map (·.room)).foldl (· + ·) 0)).onWork fun w => { w with
    jobs := w.jobs.filter fun j => j.ctx != c
    passes := w.passes.filter fun p => p.ctx != c || p.params.isSome }).tryRun
/-- The registers of a page after a function level reset of its function: the fields that the function can write return to reset; the sync range
and the RO fields that other rules set keep their values (R38, R75, R394). -/
def regsReset (r : CtxRegs) : CtxRegs :=
  { subnActive := r.subnActive, syncBase := r.syncBase, syncCount := r.syncCount, bindRefuse := r.bindRefuse, bindRefuseOfs := r.bindRefuseOfs }
/-- A ring pair after it: disabled, with its indices, of which the page shows two as RO fields, until it is enabled (R278, R394). -/
def ringReset (g : Ring) : Ring := { sqTail := g.sqTail, sqHead := g.sqHead, cqTail := g.cqTail, cqHead := g.cqHead }
/-- The pairs of a context after it. -/
def ringsReset (t : Table Ring) : Table Ring := (List.range 16).foldl (fun u r => u.set {} r (ringReset (t.get {} r))) []
/-- A function level reset: the context is disabled without records, its page returns to reset, and with it the function's standard registers (R273,
R278, R394; log 76). -/
def flr (d : Dev) (c : Nat) : Dev :=
  let rings := ringsReset (d.ctx c).rings
  let d1 := d.onCtx c fun x => { x with rings := [] }
  let d2 := (d1.disable c false).dropJobs c
  { d2 with glb := { d2.glb with latch := d2.glb.latch.erase c }, fns := d2.fns.set {} c {} }.onCtx c fun x => { x with
    rings := rings, turn := 0, regs := regsReset x.regs }
/-- Change the global registers. -/
def onGlb (d : Dev) (f : Glb → Glb) : Dev := { d with glb := f d.glb }
/-- Every function is reset. -/
def flrAll (d : Dev) : Dev := d.each (List.range 64) fun d c => d.flr c
/-- PERST_N or a hot reset of the link. -/
def linkReset (d : Dev) : Dev := d.flrAll.onGlb fun g => { g with refuse := 0, refuseOfs := 0, win := [], winErr := 0 }

/-- Where an offset of a function's own BAR0 stands in the physical function's: a virtual function's is its context's page, and past its
4 KiB it reaches nothing, as at offset 0 (R391). -/
def bar0Ofs (org : Origin) (ofs : Nat) : Nat :=
  match org with
  | .fn c => if c.val = 0 then ofs else if ofs < 0x1000 then ctxOfs c.val ofs else 0
  | _ => ofs
/-- A write of CTX_ENABLE: before READY it is refused, though the page is not yet in service (R278, R373). -/
def enableReg (d : Dev) (org : Origin) (c : Nat) (v : Word) : Dev :=
  let asks := match org with | .fn k => d.fnOpen k.val && (k.val = 0 || k.val = c) | .mgmt _ => d.fwRuns | .jtag => false
  if asks && d.boot.stage != .ready then d.refuse org (ctxOfs c 0) St.notPermitted
  else d.ctxWrite org c 0 fun d => if flag v 0 then d.enableWrite org c else d.disableWrite org c

end Dev

/-! ### The rows -/

/-- R278, R373: before READY the write is refused, though the page is not yet in service. -/
def execContextEnable (org : Origin) (ctx : CtxId) (value : Word) (s : State) : Answer :=
  s.on fun d => d.live fun d => d.enableReg org ctx.val value
/-- R278. -/
def execContextDisable (org : Origin) (ctx : CtxId) (value : Word) (s : State) : Answer :=
  s.on fun d => d.live fun d => d.enableReg org ctx.val value
/-- R278. -/
def execRingPairEnable (org : Origin) (ctx : CtxId) (ring : RingId) (value : Word) (s : State) : Answer := s.on fun d => d.live fun d =>
  d.ctxWrite org ctx.val (ringOfs ring.val 4) fun d => d.ringCfgWrite org ctx.val ring.val value
/-- R278. -/
def execRingPairDisable (org : Origin) (ctx : CtxId) (ring : RingId) (value : Word) (s : State) : Answer := s.on fun d => d.live fun d =>
  d.ctxWrite org ctx.val (ringOfs ring.val 4) fun d => d.ringCfgWrite org ctx.val ring.val value
/-- R295. -/
def execCtxAbort (org : Origin) (ctx : CtxId) (value : Word) (s : State) : Answer := s.on fun d => d.live fun d =>
  d.ctxWrite org ctx.val 0x2C fun d => (d.abortReg ctx.val value).accepted org
/-- R278, R394. -/
def execFunctionLevelReset (fn : CtxId) (s : State) : Answer := s.on fun d => d.live fun d => d.flr fn.val
/-- R373, R394, R408: the reset acts as the level falls; as it rises, what waits for the host link goes on. -/
def execPerstN (level : Bool) (s : State) : Answer := s.on fun d =>
  let d1 := { d with pins := { d.pins with perstN := level } }
  if level then d1.live fun d => d.drainRings.finishRuns
  else if d.pins.perstN then d1.live (·.linkReset) else d1
/-- R394. -/
def execHotReset (s : State) : Answer := s.on fun d => d.live fun d => d.linkReset

end Sys2Proof.Machine
end

