-- ==== Sys2Proof/Machine/Ports.lean ====
section
/-! DEFINITION. Ports and their cords: training, width, loss and power (R219 to R224), discovery and the verdict (R225, R227, R228, R231,
R246), and the keys of encrypting ports (R226, R356, R357), with their rows of the table. -/

namespace Sys2Proof.Machine

namespace Dev

/-! ### Cords and what a port is -/

/-- Change a cord of a port. -/
def onCord (d : Dev) (p k : Nat) (f : Cord → Cord) : Dev := d.onPort p fun x => { x with cords := x.cords.modify {} k f }
/-- A cord of a port. -/
def cord (d : Dev) (p k : Nat) : Cord := (d.port p).cords.get {} k
/-- The plan entry in force, or, without a plan, one that fits every cord (R230). -/
def planOf (d : Dev) (p : Nat) : Word := if d.lnk.planValid then (d.port p).inForce else 0xFFF
/-- A neighbour is expected on the port. -/
def portUsed (d : Dev) (p : Nat) : Bool := d.lnk.planValid && flag (d.planOf p) 31
/-- The reach class of the port (R212). -/
def portClass (d : Dev) (p : Nat) : Nat := fld (d.planOf p) 27 26
/-- The port encrypts (R225). -/
def portEnc (d : Dev) (p : Nat) : Bool := d.lnk.planValid && d.portClass p = 2 && flag (d.planOf p) 25
/-- A CORD_SET message (R227) with the cords joined, effective from a flit. -/
def sendCordSet (d : Dev) (p at_ : Nat) : Dev := d.linkOut p ([2] ++ leBytes 2 (d.joinedMask p) ++ leBytes 2 at_)
/-- The receiver asks for flits from the first that it lacks, and discards what comes until a replay marker (R215). -/
def sendNak (d : Dev) (p : Nat) : Dev :=
  (d.onLink p fun x => { x with naked := true }).flitOut p 0 0 2 (d.port p).ll.rx []
/-- The flits of an open group that are held are given up: the first of them is the first flit that the receiver lacks (R226). -/
def rewind (d : Dev) (p : Nat) : Dev := d.onPort p fun x =>
  if x.keys.rxHeld.isEmpty then x else { x with ll := { x.ll with rx := x.keys.rxFirst }, keys := { x.keys with rxHeld := [] } }

/-! ### The verdict (R228, R231) and link keys' agreement (R356, R357) -/

/-- The HELLO last heard: its fields. -/
def helloB (d : Dev) (p : Nat) : Bytes := (d.port p).hello.getD []
def helloSerial (d : Dev) (p : Nat) : Nat := u64 (d.helloB p) 16
/-- Keys are in force in both directions. -/
def keyed (d : Dev) (p : Nat) : Bool := (d.port p).keys.txKey.isSome && (d.port p).keys.rxKey.isSome

/-- VERDICT, port state and CAUSE (R231). -/
def verdict (d : Dev) (p : Nat) : Nat × PortSt × Nat :=
  let h := d.helloB p; let e := d.planOf p
  if !d.lnk.planValid then (0, .discovery, 1)
  else if !flag e 31 then (2, .quarantine, 2)
  else if u16 h 2 % 4096 ≠ fld e 23 12 then (2, .quarantine, 3)
  else if u8 h 1 ≠ fld e 30 28 then (2, .quarantine, 4)
  else if (u8 h 8 = 1) != d.portEnc p then (2, .quarantine, 5)
  else if u8 h 7 = 2 then (1, .quarantine, 6)
  else if d.portEnc p && !d.keyed p then (1, if (d.port p).keys.failed then .quarantine else .discovery, if (d.port p).keys.failed then 5 else 0)
  else if u8 h 7 = 0 then (1, .discovery, 0)
  else (1, .active, 0)
/-- A HELLO (R228), with the verdict last reached. -/
def helloBytes (d : Dev) (p : Nat) : Bytes :=
  ofNats [1, p] ++ leBytes 2 (d.station + 32768 * b2n d.lnk.planValid) ++ leBytes 2 (fld d.lnk.slice 11 0)
    ++ ofNats [d.portClass p, (d.port p).said, b2n (d.portEnc p)] ++ zeros 7 ++ leBytes 8 d.fuses.serial ++ leBytes 2 (d.joinedMask p)

/-- The certificates of R350 without the root leave in fragments of 240 bytes. -/
def sendCerts (d : Dev) (p : Nat) : Dev :=
  let c := d.boot.certs
  let fs := chunks 240 (c.length / 240 + 1) c
  d.each fs.zipIdx fun d f =>
    d.linkOut p (ofNats [5, 1] ++ leBytes 2 f.2 ++ leBytes 2 fs.length ++ leBytes 2 f.1.length ++ f.1)
/-- A SHARE for the next epoch leaves, with a fresh ephemeral key. -/
def sendShare (d : Dev) (p : Nat) : Dev :=
  let n := d.free
  let b := ofNats [5, 2] ++ leBytes 4 ((d.port p).keys.epoch + 1) ++ padTo (Config.ephemeral n) 64
  let sig := Config.aliasSign d.boot.aliasKey n (sha256 (b ++ leBytes 8 (d.helloSerial p)))
  ((d.tookFree).onPort p fun x => { x with keys := { x.keys with ephNo := some n } }).linkOut p (b ++ padTo sig 64)

/-- Runs that use a port end; transfers and board accesses that wait on it fail (R222). -/
def portFails (d : Dev) (p : Nat) (st : Status) : Dev :=
  let used := match d.work.gath with | some g => g.nbrs.any fun n => n.port = p | none => false
  let d1 := (d.recvsLose p used).given used (·.endRun st)
  let d2 := d1.each (d1.circ.sends.filter fun s => s.waiting.any fun w => w.2 = p) fun d s =>
    ((d.onCirc fun q => { q with sends := q.sends.erase s }).sendEnds s.core s.no (some St.linkLost)).failTransfer true s.tag St.linkLost
  let d3 := d2.each (d2.circ.boards.filter fun b => b.port = p) fun d b => d.boardEnd b [] (some St.linkLost) false
  (d3.onPort p fun x => { x with ll := {}, keys := {} }).spine
/-- A port is lost and returns to DETECT (R222). -/
def lostPort (d : Dev) (p : Nat) (st : Status) : Dev :=
  (d.portChange p fun d => (d.portFails p st).onPort p fun x => { x with
    st := .training, cause := 0, cords := [], hello := none, said := 0, helloAt := none, firstCordAt := none, noCordAt := none
    enc := false, alignedCord := false, trainAt := some d.now }).cause cLink

/-- The verdict takes effect on a port with a joined cord and a HELLO; it waits while the finisher restarts (R370). A port that leaves
ACTIVE carries no packet any more: what waits on it fails. -/
def applyVerdict (d : Dev) (p : Nat) : Dev :=
  if d.joinedMask p = 0 || (d.port p).hello.isNone || d.boot.restarting then d
  else
    let v := d.verdict p
    let d1 := if (d.port p).st == .active && v.2.1 != .active then d.portFails p St.linkLost else d
    let d2 := d1.portChange p fun d => d.onPort p fun x => { x with st := v.2.1, cause := v.2.2, said := v.1, enc := d.portEnc p }
    if d2.portEnc p && v.1 = 1 && v.2.1 == .discovery && !d2.keyed p && (d2.port p).keys.ephNo.isNone && (d2.port p).keys.frags.isEmpty
        && (d2.port p).keys.peerKey.isNone && !(d2.port p).keys.failed then d2.sendCerts p else d2
/-- Agreement fails: a port that has no keys yet is held in QUARANTINE with CAUSE ENC; one whose renewal fails goes on with the keys it
has, up to the limits of R226 (R357). Either tries again after 10 s. -/
def keysFail (d : Dev) (p : Nat) : Dev :=
  if d.keyed p then d.onPort p fun x => { x with keys := { x.keys with ephNo := none, failed := true, failedAt := d.now } }
  else (d.onPort p fun x => { x with keys := { failed := true, failedAt := d.now } }).applyVerdict p

/-! ### Training, loss and power of cords (R219 to R222) -/

/-- A cord joins at both ends; the port's first cord opens discovery. -/
def joinCord (d : Dev) (p k : Nat) : Dev := d.portChange p fun d =>
  let d1 := d.onCord p k fun x => { x with st := .joined, backoff := 1, off := false }
  d1.onPort p fun x => { x with
    firstCordAt := match x.firstCordAt with | some t => some t | none => some d.now
    noCordAt := none, st := if x.st == .training then .discovery else x.st
    cause := if x.st == .training && !d.lnk.planValid then 1 else x.cause }
/-- A cord of the port may have an optical module: by its class, or, without a plan, where one answers on the two-wire bus. -/
def optical (d : Dev) (p lanes : Nat) : Bool := if d.lnk.planValid then d.portClass p = 2 else lanes > 0
/-- The finisher's accesses to a module: pages 00h and 01h, its state machine and, for one that is used, lane status (R224; log 77). -/
def moduleAccesses (p k : Nat) (good : Bool) : List Out :=
  [.twoWire p k 0 128 none, .twoWire p k 0 200 none, .twoWire p k 1 128 none, .twoWire p k 0 26 (some (if good then 0 else 0x10)),
    .twoWire p k 0 3 none] ++ (if good then [.twoWire p k 0x11 128 none] else [])
/-- The finisher manages a module: it reads what the module is, and drives one of 4 host lanes at 128 Gb/s to ModuleReady; another kind is
kept in low power. What the pages show besides is free (R224; logs 2, 77). -/
def manageModule (d : Dev) (p k lanes gbps : Nat) : Dev :=
  let good := decide (lanes = 4 ∧ gbps = 128)
  let free := fun i => Config.freeNat (d.free + i) % 256
  let m : OptModule := { lanes := lanes, gbps := gbps, ready := good, lowPower := !good && lanes > 0, flagged := false
                         identity := free 0, powerClass := free 1, laneStatus := free 2, warnC := free 3, alarmC := free 4 }
  let d1 := d.each (moduleAccesses p k good) fun d o => d.emit o
  { d1 with free := d.free + 5 }.onPort p fun x =>
    let ms : Table OptModule := x.modules.set {} k m
    { x with modSel := k, modules := ms, modIntN := !(ms.any fun m => m.2.flagged) }
/-- A cord goes on to its next state; cords outside the plan's mask are never trained, and an optical one leaves DETECT when its module
reports ready; the finisher's restart leaves modules as they are (R370). -/
def cordAdvance (d : Dev) (p k lanes gbps : Nat) : Dev :=
  if !bitOf (fld (d.planOf p) 11 0) k || (d.port p).st == .down then d
  else match (d.cord p k).st with
    | .detect =>
      let d1 := if d.optical p lanes && !d.boot.restarting then d.manageModule p k lanes gbps else d
      if d.optical p lanes && !((d1.port p).modules.get {} k).ready then d1
      else d1.onCord p k fun x => { x with st := .equalise }
    | .equalise => d.onCord p k fun x => { x with st := .align }
    | .align => d.onCord p k fun x => { x with st := .verify }
    | .verify => d.onCord p k fun x => { x with st := .join }
    | .join => let d1 := d.joinCord p k; (d1.sendCordSet p (d1.port p).ll.tx).applyVerdict p
    | .joined => d
    | .dropped => d
/-- A cord exceeds the limit of its state: back to DETECT, or, for one that retrains, out until its next interval. -/
def cordLate (d : Dev) (p k : Nat) : Dev :=
  let x := d.cord p k
  if x.st == .equalise || x.st == .align || x.st == .verify || x.st == .join then
    d.onCord p k fun y => if y.backoff > 1 then { y with st := .dropped, dropAt := d.now } else { y with st := .detect }
  else d
/-- A joined cord is out: counted; with no other cord on, those turned off are woken; without a cord left the port's 10 ms run. -/
def cordOut (d : Dev) (p k : Nat) : Dev := d.portChange p fun d =>
  let d1 := d.onCord p k fun x => { x with st := .dropped, dropAt := d.now, off := false }
  let d2 := d1.onPort p fun x => { x with
    cordDrop := satAdd x.cordDrop 1, noCordAt := if d1.joinedMask p = 0 then some d.now else x.noCordAt }
  if (d2.activeCords p).isEmpty then d2.wakeCords p else d2
/-- The port drops a cord: it asks for the first flit it lacks and names the cords left, effective from that flit. -/
def dropCord (d : Dev) (p k : Nat) : Dev :=
  if (d.cord p k).st != .joined then d
  else
    let d1 := (d.cordOut p k).rewind p
    (d1.sendNak p).sendCordSet p (d1.port p).ll.rx
/-- A dropped cord retrains after its interval, which doubles up to 64 s. -/
def retrain (d : Dev) (p k : Nat) : Dev :=
  let x := d.cord p k
  if x.st != .dropped then d
  else (d.reach (x.dropAt + 1000000000 * x.backoff)).onCord p k fun y => { y with st := .detect, backoff := min 64 (2 * y.backoff) }
/-- A replay marker with the number of the first flit resent, and every flit from a number on, over the active cords (R215). -/
def resend (d : Dev) (p no : Nat) : Dev :=
  let x := (d.port p).ll
  let fs := x.replay.filter fun f => !seqBefore 16 f.no no
  let first := match fs with | f :: _ => f.no | [] => x.tx
  let d1 := (d.onPort p fun y => { y with replayCount := satAdd y.replayCount fs.length }).flitOut p 5 0 0 0 (leBytes 2 first)
  d1.each fs fun d f => d.flitOut p f.kind 0 0 0 f.data
/-- The far end's CORD_SET: cords it has left are out, and the flits from the effective number on are resent over those that remain; cords
that wait to join with it join (R220, R227). -/
def cordSetIn (d : Dev) (p : Nat) (msg : Bytes) : Dev :=
  let m := u16 msg 1 % 4096
  let out := (List.range 12).filter fun k => (d.cord p k).st == .joined && !bitOf m k
  let d1 := (d.each out fun d k => d.cordOut p k).given (!out.isEmpty) (·.resend p (u16 msg 3))
  (d1.each ((List.range 12).filter fun k => (d.cord p k).st == .join && bitOf m k) fun d k => d.joinCord p k).applyVerdict p
/-- A port has flits queued: packets or flits that wait to leave, or wait for their acknowledgement. -/
def portBusy (d : Dev) (p : Nat) : Bool :=
  let x := (d.port p).ll
  !(x.replay.isEmpty && x.ctl.isEmpty && x.circ.wait.isEmpty && x.circ.out.isEmpty && x.act.wait.isEmpty && x.act.out.isEmpty)
/-- CORD_POWER: a request to turn cords off is refused while flits are queued, and never takes the lowest cord; a request to turn them on
is answered when they are on. Cords that were agreed to go off are woken again where traffic has come meanwhile. -/
def cordPowerIn (d : Dev) (p : Nat) (msg : Bytes) : Dev :=
  let m := u16 msg 1 % 4096
  let set := fun (d : Dev) (off : Bool) => d.each ((List.range 12).filter fun k => bitOf m k && (d.cord p k).st == .joined) fun d k =>
    d.onCord p k fun x => { x with off := off }
  let low := lowBit (d.joinedMask p)
  match u8 msg 3 with
  | 0 =>
    if d.portBusy p || m &&& low ≠ 0 then d.linkOut p (cordPowerBytes m 3)
    else (set d true).linkOut p (cordPowerBytes m 2)
  | 1 => (set d false).linkOut p (cordPowerBytes m 4)
  | 2 => if m &&& low ≠ 0 then d else if d.portBusy p then (set d true).wakeCords p else set d true
  | 4 => set d false
  | _ => d
/-- STOPPING: the port is lost, and the runs end with the status that the message carries. -/
def stoppingIn (d : Dev) (p : Nat) (msg : Bytes) : Dev :=
  if d.joinedMask p = 0 || u8 msg 0 ≠ 7 then d else d.lostPort p (msg.getD 1 St.linkLost)
/-- Why a port would be lost without a message: no cord for 10 ms, four failed tags, or a key at its limits (R222, R226, R357). -/
def portLoses (d : Dev) (p : Nat) : Dev :=
  let x := d.port p
  match x.noCordAt with
  | some t => if d.joinedMask p = 0 then (d.reach (t + 10000000)).lostPort p St.linkLost else d
  | none =>
    if x.ll.nakRun ≥ 32 || x.keys.badTags ≥ 4 || x.keys.txGroup ≥ 2 ^ 32 || (x.keys.txKey.isSome && d.now ≥ x.keys.agreedAt + 86400000000000) then
      d.lostPort p St.linkLost
    else d

/-! ### Discovery (R228, R231) -/

/-- HELLO arrives. -/
def helloIn (d : Dev) (p : Nat) (msg : Bytes) : Dev :=
  if u8 msg 0 ≠ 1 || d.joinedMask p = 0 then d
  else (d.onPort p fun x => { x with hello := some msg, heard := u16 msg 2 % 4096, helloAt := some d.now }).applyVerdict p
/-- A port with a neighbour expected becomes ABSENT: no cord within 2 s of training start, 10 s on class 2, or no HELLO within 1 s of
the first cord. -/
def absent (d : Dev) (p : Nat) : Dev :=
  let x := d.port p
  let go := fun (d : Dev) => (d.portChange p fun d => d.onPort p fun y => { y with st := .absent, cause := 0 }).cause cLink
  if !d.portUsed p || x.hello.isSome || d.boot.restarting then d
  else if d.joinedMask p = 0 then
    match x.trainAt with
    | some t => if x.st == .training then go (d.reach (t + (if d.portClass p = 2 then 10000000000 else 2000000000))) else d
    | none => d
  else match x.firstCordAt with
    | some t => if x.st == .discovery then go (d.reach (t + 1000000000)) else d
    | none => d

/-! ### Link keys (R356, R357) -/

/-- CERT: with the last fragment the chain is verified, its serial held against the HELLO's, and the end with the lower serial begins. -/
def certIn (d : Dev) (p : Nat) (msg : Bytes) : Dev :=
  let i := u16 msg 2; let n := u16 msg 4; let len := u16 msg 6
  if !d.portEnc p || i ≥ n || len > 240 || (d.port p).hello.isNone then d
  else
    let d1 := d.onPort p fun x => { x with keys := { x.keys with frags := x.keys.frags.set [] i (sub msg 8 len) } }
    let fs := (d1.port p).keys.frags
    if !((List.range n).all fun j => !(fs.get [] j).isEmpty) then d1
    else match Config.chainVerify ((List.range n).flatMap fun j => fs.get [] j) with
      | none => d1.keysFail p
      | some (serial, key) =>
        if serial.toNat ≠ d1.helloSerial p then d1.keysFail p
        else
          let d2 := d1.onPort p fun x => { x with keys := { x.keys with peerKey := some key } }
          if d2.fuses.serial < serial.toNat && (d2.port p).keys.ephNo.isNone then d2.sendShare p else d2
/-- The key that a station seals with towards another (R356). -/
def linkKey (z : Bytes) (epoch a b : Nat) : Bytes :=
  hmac z (ofNats [0x4F, 0x58, 0x4C, 0x4E] ++ leBytes 4 epoch ++ leBytes 8 a ++ leBytes 8 b)
/-- SHARE: its signature is verified, this end's SHARE sent if it has not been, and the keys of the next epoch derived. At epoch 1 they
take effect at once; later, at the group that SWITCH names. -/
def shareIn (d : Dev) (p : Nat) (msg : Bytes) : Dev :=
  let k := (d.port p).keys
  match k.peerKey with
  | none => d
  | some key =>
    let epoch := u32 msg 2
    if epoch ≠ k.epoch + 1 || !Config.ecdsaVerify key (sha256 (msg.take 70 ++ leBytes 8 d.fuses.serial)) (sub msg 70 64) then d.keysFail p
    else
      let d1 := if k.ephNo.isNone then d.sendShare p else d
      let z := Config.ecdhX ((d1.port p).keys.ephNo.getD 0) (sub msg 6 64)
      let me := d1.fuses.serial; let peer := d1.helloSerial p
      let tx := linkKey z epoch me peer; let rx := linkKey z epoch peer me
      if epoch = 1 then
        ((d1.onPort p fun x => { x with keys := { x.keys with
          epoch := 1, rxEpoch := 1, txKey := some tx, rxKey := some rx, txGroup := 0, rxGroup := 0, ephNo := none, agreedAt := d.now } }).linkOut
            p (ofNats [5, 3] ++ leBytes 4 1 ++ leBytes 8 0)).applyVerdict p
      else
        let now := k.txOpen.isEmpty
        let g := if now then k.txGroup else k.txGroup + 1
        (d1.onPort p fun x => { x with keys :=
          let y := { x.keys with nextRx := some rx, ephNo := none, agreedAt := d.now, failed := false }
          if now then { y with txKey := some tx, epoch := epoch, txGroup := 0 } else { y with nextTx := some tx, txSwitchAt := some g } }).linkOut
            p (ofNats [5, 3] ++ leBytes 4 epoch ++ leBytes 8 g)
/-- The receive key changes when the group that SWITCH named comes. -/
def rxSwitch (x : LinkKeys) : LinkKeys :=
  match x.rxSwitchAt, x.nextRx with
  | some g, some k => if x.rxGroup = g then { x with rxKey := some k, rxEpoch := x.rxEpoch + 1, rxGroup := 0, rxSwitchAt := none, nextRx := none } else x
  | _, _ => x
/-- SWITCH. -/
def switchIn (d : Dev) (p : Nat) (msg : Bytes) : Dev :=
  if u32 msg 2 ≠ (d.port p).keys.rxEpoch + 1 then d
  else d.onPort p fun x => { x with keys := rxSwitch { x.keys with rxSwitchAt := some (u64 msg 6) } }

/-- Agreement begins again after a failure: from the certificates, or, while keys are in force, with the lower serial's SHARE (R357). -/
def agreeAgain (d : Dev) (p : Nat) : Dev :=
  if d.keyed p then
    (d.onPort p fun x => { x with keys := { x.keys with failed := false } }).given (d.fuses.serial < d.helloSerial p) (·.sendShare p)
  else (d.onPort p fun x => { x with keys := {} }).applyVerdict p
/-- KEY messages by their kind. -/
def keyIn (d : Dev) (p : Nat) (msg : Bytes) : Dev :=
  match u8 msg 1 with
  | 1 => d.certIn p msg
  | 2 => d.shareIn p msg
  | 3 => d.switchIn p msg
  | _ => d
/-- A module pulls MOD_INT_N low with a flag for loss of signal or a fault: the finisher reads it at the module's position and the cord is
dropped (R224). -/
def moduleFlag (d : Dev) (p k : Nat) : Dev :=
  if d.portClass p = 2 || !d.lnk.planValid then
    ((((d.given (!d.boot.restarting) fun d => (d.emit (.twoWire p k 0 8 none)).emit (.twoWire p k 0x11 128 none))).onPort p fun x => { x with
      modSel := k, modIntN := false
      modules := x.modules.modify {} k fun m => { m with flagged := true, laneStatus := Config.freeNat d.free % 256 } }).tookFree).dropCord p k
  else d

end Dev

/-! ### The rows -/

/-- R219. -/
def execCordStateAdvance (port : PortId) (cord : CordId) (lanes gbps : Nat) (s : State) : Answer := s.on fun d => d.live fun d =>
  d.cordAdvance port.val cord.val lanes gbps
/-- R219. -/
def execCordTrainingTimeout (port : PortId) (cord : CordId) (s : State) : Answer := s.on fun d => d.live fun d => d.cordLate port.val cord.val
/-- R220. -/
def execCordDrop (port : PortId) (cord : CordId) (s : State) : Answer := s.on fun d => d.live fun d => d.dropCord port.val cord.val
/-- R220. -/
def execCordRetrain (port : PortId) (cord : CordId) (s : State) : Answer := s.on fun d => d.live fun d => d.retrain port.val cord.val
/-- R220. -/
def execCordSet (port : PortId) (msg : Bytes) (s : State) : Answer := s.on fun d => d.live fun d => d.cordSetIn port.val msg
/-- R221. -/
def execCordPower (port : PortId) (msg : Bytes) (s : State) : Answer := s.on fun d => d.live fun d => d.cordPowerIn port.val msg
/-- R221. -/
def execCordWake (port : PortId) (s : State) : Answer := s.on fun d => d.live fun d => d.wakeCords port.val
/-- R222. -/
def execStopping (port : PortId) (msg : Bytes) (s : State) : Answer := s.on fun d => d.live fun d => d.stoppingIn port.val msg
/-- R222. -/
def execPortLost (port : PortId) (s : State) : Answer := s.on fun d => d.live fun d => d.portLoses port.val
/-- R228. -/
def execHelloSend (port : PortId) (s : State) : Answer := s.on fun d => d.live fun d =>
  if d.joinedMask port.val = 0 then d else d.linkOut port.val (d.helloBytes port.val)
/-- R231. -/
def execHelloReceive (port : PortId) (msg : Bytes) (s : State) : Answer := s.on fun d => d.live fun d => d.helloIn port.val msg
/-- R228: an ACTIVE port that hears no HELLO for 5 s is lost. -/
def execHelloTimeout (port : PortId) (s : State) : Answer := s.on fun d => d.live fun d =>
  match (d.port port.val).helloAt with
  | some t => if (d.port port.val).st == .active then (d.reach (t + 5000000000)).lostPort port.val St.linkLost else d
  | none => d
/-- R231. -/
def execPortAbsent (port : PortId) (s : State) : Answer := s.on fun d => d.live fun d => d.absent port.val
/-- R224. -/
def execModuleFlag (port : PortId) (cord : CordId) (s : State) : Answer := s.on fun d => d.live fun d => d.moduleFlag port.val cord.val
/-- R356. -/
def execKeyCert (port : PortId) (msg : Bytes) (s : State) : Answer := s.on fun d => d.live fun d => d.certIn port.val msg
/-- R356. -/
def execKeyShare (port : PortId) (msg : Bytes) (s : State) : Answer := s.on fun d => d.live fun d => d.shareIn port.val msg
/-- R357. -/
def execKeySwitch (port : PortId) (msg : Bytes) (s : State) : Answer := s.on fun d => d.live fun d => d.switchIn port.val msg
/-- R357: the end with the lower serial begins. -/
def execKeyEpochRenewal (port : PortId) (s : State) : Answer := s.on fun d => d.live fun d =>
  let k := (d.port port.val).keys
  if k.txKey.isSome && k.ephNo.isNone && k.nextTx.isNone && !k.failed && d.fuses.serial < d.helloSerial port.val then d.sendShare port.val
  else d
/-- R357: every 10 s after a failure. -/
def execKeyAgreementRetry (port : PortId) (s : State) : Answer := s.on fun d => d.live fun d =>
  let k := (d.port port.val).keys
  if !k.failed then d else (d.reach (k.failedAt + 10000000000)).agreeAgain port.val

end Sys2Proof.Machine
end

