-- ==== Sys2Proof/Machine/Gathering.lean ====
section
/-! DEFINITION. The plan (R229, R230, R232, R374), forming and releasing a gathering (R233 to R237, R290) and timestamp alignment (R241,
R242), with their rows of the table. -/

namespace Sys2Proof.Machine

-- A gathering record (R233).
namespace Rec
def number (b : Bytes) : Nat := u16 b 0
def slice (b : Bytes) : Nat := u16 b 2
def dim (b : Bytes) (a : Nat) : Nat := u16 b (4 + 2 * a)
def size (b : Bytes) : Nat := dim b 0 * dim b 1 * dim b 2
def axis (b : Bytes) (a : Nat) : Nat := u8 b 10 / 4 ^ a % 4
def station (b : Bytes) (i : Nat) : Nat := u16 b (16 + 2 * i)
def stations (b : Bytes) : List Nat := (List.range (size b)).map (station b)
/-- The record's ranges. -/
def ok (b : Bytes) (bytes : Nat) : Bool :=
  slice b < 4096 && (List.range 3).all (fun a => 1 ≤ dim b a) && 2 ≤ size b && size b ≤ 1024 && bytes = 16 + 2 * size b
    && (List.range 3).all (fun a => dim b a = 1 || axis b a < 3) && u8 b 11 ≤ 1 && zeroAt b 12 4 && (stations b).all (· < 4096)
end Rec

namespace Dev

/-! ### The plan (R229, R230, R374) -/

/-- A port's entry takes effect: cords outside its mask are out, and the port is taken back through the verdict. An ACTIVE port that leaves
ACTIVE by it, as one without a cord left does, counts as lost (R232). -/
def planPort (d : Dev) (p : Nat) (e : Word) : Dev :=
  let d1 := d.portChange p fun d =>
    let d2 := d.onPort p fun x => { x with
      plan := e, inForce := e
      cords := x.cords.map fun c => if bitOf (fld e 11 0) c.1 then c else (c.1, {}) }
    d2.onPort p fun x => { x with noCordAt := if d.joinedMask p ≠ 0 && d2.joinedMask p = 0 then some d.now else x.noCordAt }
  if (d.port p).st == .active && !d.boot.restarting && (d1.joinedMask p = 0 || (d1.verdict p).2.1 != .active) then d1.lostPort p St.linkLost
  else d1.applyVerdict p
/-- The plan takes effect: the station ID and every port's entry, and the verdicts again. -/
def applyPlan (d : Dev) (self : Word) (ps : List Word) : Dev :=
  let id := fld self 11 0
  let up := if id % 4 > 0 && id / 4 % 16 = 0 then 1 else if id / 4 % 16 > 0 then 3
    else if id / 64 = 0 then 7 else if id / 64 ≤ 32 then 5 else 4
  let d1 := { d with
    lnk := { d.lnk with self := word id, station := id, planValid := true }
    clk := { d.clk with upstream := up } }
  d1.each (List.range 6) fun d p => d.planPort p (ps.getD p 0)
/-- A write of LNK_PLAN_SELF: with APPLY its x must be the latched MODULE_POS; the plan is also stored in flash. -/
def planWrite (d : Dev) (org : Origin) (v : Word) : Dev :=
  let new := word (fld v 11 0)
  if flag v 31 && fld v 1 0 ≠ d.pins.modulePos then d.refuse org 0x70000 St.notPermitted
  else d.loggedReg org 0x70000 (d.lnk.self.toNat) new.toNat fun d =>
    if flag v 31 then
      let ps := (List.range 6).map fun p => (d.port p).plan
      ({ d with flash := { d.flash with plan := some (new :: ps) } }).applyPlan new ps
    else { d with lnk := { d.lnk with self := new } }
/-- The stored plan is applied again at start-up, logged with origin finisher (R374). -/
def reapplyPlan (d : Dev) : Dev :=
  match d.flash.plan with
  | some (self :: ps) =>
    if fld self 1 0 = d.pins.modulePos && d.colRoom 1 then (d.log 5 255 0 0x70000 0 self.toNat 0).applyPlan self ps else d
  | _ => d

/-! ### Neighbours (R234, R235) -/

/-- A port is ACTIVE and its HELLO names a station. -/
def names (d : Dev) (p st : Nat) : Bool := d.portUp p && (d.port p).heard = st
/-- The port that reaches a neighbour without a detour. -/
def nbrPort (d : Dev) (phys : Nat) (plus : Bool) (st : Nat) : Option Nat :=
  let side := 2 * phys + b2n (!plus)
  if d.names side st then some side else (List.range 6).find? fun p => d.names p st
/-- The slice that the HELLO last heard on a port carries. -/
def helloSlice (d : Dev) (p : Nat) : Nat := u16 (d.helloB p) 4 % 4096
/-- The position one step on along an axis. -/
def stepPos (dims : List Nat) (pos a : Nat) (plus : Bool) : Nat :=
  let n := dims.getD a 1
  let x := coord dims pos a
  let y := if plus then (x + 1) % n else (x + n - 1) % n
  let stride := match a with | 0 => 1 | 1 => dims.getD 0 1 | _ => dims.getD 0 1 * dims.getD 1 1
  pos - x * stride + y * stride

/-- The neighbours of a gathering are found in order; a detour's set-up leaves. `none` when one is unreachable, as one whose HELLO carries
another slice is; the set-ups that have left are released then. -/
def findNbrs (g : Gathering) : List (Nat × Bool) → Dev → Option (List Nbr) × Dev
  | [], d => (some [], d)
  | (a, plus) :: rest, d =>
    let st := g.stations.getD (stepPos g.dims g.pos a plus) 0
    match d.nbrPort (g.axes.getD a 0) plus st with
    | some p =>
      if d.helloSlice p ≠ g.slice then (none, d)
      else let r := findNbrs g rest d; (r.1.map fun l => ⟨a, plus, st, p, []⟩ :: l, r.2)
    | none =>
      if !g.detour then (none, d)
      else match Config.detourPort g.number st d.free with
        | none => (none, d.tookFree)
        | some (p, hops) =>
          if p ≥ 6 || !d.portUp p || hops.isEmpty || hops.length > 3 then (none, d.tookFree)
          else
            let n : Nbr := ⟨a, plus, st, p, hops⟩
            let r := findNbrs g rest ((d.tookFree).linkOut p (transitBytes 1 g.number g.slice st hops))
            match r.1 with
            | some l => (some (n :: l), r.2)
            | none => (none, r.2.releaseSetups g [n])

/-! ### Formation (R236) -/

/-- A formation message (class 9): the gathering and the record's hash. -/
def sendFormation (d : Dev) (g : Gathering) (hash : Bytes) (n : Nbr) : Dev :=
  let b := leBytes 2 g.number ++ hash
  d.packetOut n.port (d.head 9 false n.station b.length noTag ++ b)

/-- Every neighbour has sent its matching message, and every detour is accepted. -/
def matchedUp (f : Forming) : Bool := f.setups.isEmpty && f.gath.nbrs.all fun n => f.got.contains n.station
/-- A formation that has failed ends: detours are released and the descriptor completes with STATUS_RING_INCOMPLETE. -/
def formEnds (d : Dev) (f : Forming) : Dev :=
  let d2 := (d.releaseSetups f.gath f.gath.nbrs).onWork fun w => { w with forming := none }
  match d2.work.jobs.find? (fun (j : Job) => decide (j.no = f.job)) with
  | some j => d2.settle j St.ringIncomplete 0 0
  | none => d2

/-- Formation fails; while the finisher restarts its end waits (R370). -/
def formFails (d : Dev) (f : Forming) : Dev :=
  if d.boot.restarting then d.onWork fun w => { w with forming := some { f with failed := true } } else d.formEnds f
/-- A formation that has failed during a restart ends as the finisher resumes (R370). -/
def formLapses (d : Dev) : Dev :=
  match d.work.forming with
  | some f => if f.failed then d.formEnds f else d
  | none => d

/-- The routing entries of a gathering's members: shortest paths in the order X, Y, Z, ties to the plus port (R237). -/
def routeEntries (g : Gathering) : List (Nat × Word) :=
  (List.range g.stations.length).map fun pos =>
    let port := match [0, 1, 2].find? fun a => coord g.dims pos a ≠ coord g.dims g.pos a with
      | none => 6
      | some a =>
        let n := g.dims.getD a 1
        let fwd := (coord g.dims pos a + n - coord g.dims g.pos a) % n
        let plus := decide (2 * fwd ≤ n)
        ((g.nbrs.find? fun x => x.axis = a && x.plus == plus).map (·.port)).getD 7
    (g.stations.getD pos 0, word (2 ^ 31 + port * 2 ^ 28 + g.slice))

/-- A station whose neighbours have all sent matching messages is formed. -/
def tryFormed (d : Dev) : Dev :=
  match d.work.forming with
  | none => d
  | some f =>
    if !matchedUp f || f.failed || d.boot.restarting then d
    else match d.work.jobs.find? (fun (j : Job) => decide (j.no = f.job)) with
      | none => d
      | some j =>
        let d1 := ((d.spend j.no 1).logDesc j 0 f.gath.number).onWork fun w => { w with gath := some f.gath, forming := none, early := [] }
        ({ d1 with lnk := { d1.lnk with rte := (routeEntries f.gath).foldl (fun (t : Table Word) (e : Nat × Word) => t.set 0 e.1 e.2) d1.lnk.rte } }).settle j St.ok 0 0

/-- A formation message is taken into the formation under way: one that disagrees fails it. One that comes before the descriptor is
kept for the 100 ms its sender waits; a further one of the gathering that is formed says nothing new. -/
def formGot (d : Dev) (src gath : Nat) (hash : Bytes) : Dev :=
  match d.work.forming with
  | none =>
    if d.work.gath.any fun g => g.number = gath then d else d.onWork fun w => { w with early := (w.early.filter fun (e : EarlyMsg) => e.src != src) ++ [⟨src, gath, hash, d.now⟩] }
  | some f =>
    if f.failed || !(f.gath.nbrs.any fun n => n.station = src) then d
    else if gath ≠ f.gath.number || hash != f.hash then d.formFails f
    else (d.onWork fun w => { w with forming := some { f with got := if f.got.contains src then f.got else f.got ++ [src] } }).tryFormed

/-- The gathering of a record, at a station, its neighbours still to be found (R151, R233). -/
def gatheringOf (b : Bytes) (station : Nat) : Gathering :=
  ⟨Rec.number b, Rec.slice b, (List.range 3).map (Rec.dim b), (List.range 3).map (Rec.axis b), bitOf (u8 b 11) 0, Rec.stations b,
    ((Rec.stations b).findIdx? fun s => s = station).getD 0, []⟩
/-- The axes and sides on which a station of a gathering has a neighbour. -/
def sidesOf (g : Gathering) : List (Nat × Bool) :=
  [0, 1, 2].flatMap fun a => if g.dims.getD a 1 > 1 then [(a, true), (a, false)] else []
/-- Formation begins (R236): a message goes to each neighbour that is reached without a detour, and those that came before the
descriptor are taken. -/
def beginForming (d : Dev) (j : Job) (g : Gathering) (hash : Bytes) : Dev :=
  let f : Forming := ⟨j.no, g, hash, [], ((g.nbrs.filter fun x => !x.hops.isEmpty).map (·.station)).dedup, d.now, false⟩
  let d1 := ((d.reserve j.no 1).onJob j.no fun x => { x with phase := .begun }).onWork fun w => { w with forming := some f }
  let d2 := d1.each (g.nbrs.filter fun x => x.hops.isEmpty) fun d x => d.sendFormation g hash x
  let early := d2.work.early.filter fun e => decide (d2.now < e.since + 100000000)
  (d2.onWork fun w => { w with early := [] }).each early fun d e => d.formGot e.src e.gath e.hash

/-- GATHER_FORM (R236, R290). -/
def gatherForm (d : Dev) (j : Job) (record : HostRead) : Dev :=
  let n := u32 j.bytes 24
  let refused := fun (d : Dev) (st : Status) => d.settle j st 0 0
  if d.work.gath.isSome || d.work.forming.isSome then refused d St.notPermitted
  else d.logJob j 1 fun d0 =>
    let d := d0.emit (.hostRead (u64 j.bytes 16) n)
    match record with
    | none => refused d St.memUnc
    | some b0 =>
      let b := padTo b0 n
      let sts := Rec.stations b
      if !(Rec.ok b n && d.lnk.planValid && sts.count d.station = 1 && Rec.slice b ≠ 0 && Rec.slice b = fld d.lnk.slice 11 0) then
        refused d St.notPermitted
      else
        let g := gatheringOf b d.station
        let r := findNbrs g (sidesOf g) d
        match r.1 with
        | none => refused r.2 St.ringIncomplete
        | some nbrs =>
          r.2.beginForming j { g with nbrs := nbrs } (sha256 b)

/-- A formation message arrives. -/
def formationIn (d : Dev) (port : Nat) (b : Bytes) : Dev :=
  match d.receive port b with
  | (d1, none) => d1
  | (d1, some h) => if h.cls ≠ 9 then d1 else d1.formGot h.src (u16 h.body 0) (sub h.body 2 32)

/-- GATHER_RELEASE (R290). -/
def gatherRelease (d : Dev) (j : Job) : Dev :=
  match d.work.gath with
  | none => d.settle j St.notPermitted 0 0
  | some g =>
    if g.number ≠ u16 j.bytes 16 then d.settle j St.notPermitted 0 0
    else d.logJob j 1 fun d => (((d.logDesc j g.number 0).leaveBinding).releaseGath).settle j St.ok 0 0

/-- A TRANSIT message (R235): a station on the path takes an entry for its own slice and passes the set-up on; the last answers; answers
and releases follow the entries. -/
def transitDo (d : Dev) (port : Nat) (msg : Bytes) : Dev :=
  let gath := u16 msg 2; let slice := u16 msg 4; let target := u16 msg 6
  let hops := (List.range (u8 msg 8)).map fun i => u8 msg (9 + i)
  if !d.portUp port || u8 msg 0 ≠ 8 then d
  else match u8 msg 1 with
    | 1 =>
      match hops with
      | [] => d.linkOut port (transitBytes (if target = d.station && slice = fld d.lnk.slice 11 0 then 2 else 3) gath slice target [])
      | out :: rest =>
        if slice ≠ fld d.lnk.slice 11 0 || d.lnk.transits.length ≥ 8 || out ≥ 6 || !d.portUp out then
          d.linkOut port (transitBytes 3 gath slice target [])
        else ({ d with lnk := { d.lnk with transits := d.lnk.transits ++ [(⟨gath, slice, target, port, out⟩ : TransitEnt)] } }).linkOut out
          (transitBytes 1 gath slice target rest)
    | 4 =>
      match d.lnk.transits.find? fun t => t.gath = gath && t.target = target && t.inPort = port with
      | some t => ({ d with lnk := { d.lnk with transits := d.lnk.transits.erase t } }).linkOut t.outPort (transitBytes 4 gath slice target (hops.drop 1))
      | none => d
    | k =>
      match d.lnk.transits.find? fun t => t.gath = gath && t.target = target && t.outPort = port with
      | some t =>
        (if k = 3 then { d with lnk := { d.lnk with transits := d.lnk.transits.erase t } } else d).linkOut t.inPort
          (transitBytes k gath slice target [])
      | none => match d.work.forming with
        | none => d
        | some f =>
          if f.gath.number ≠ gath || !f.setups.contains target then d
          else if k = 3 then d.formFails f
          else
            let d1 := d.onWork fun w => { w with forming := some { f with setups := f.setups.erase target } }
            (d1.each (f.gath.nbrs.filter fun n => n.station = target && !n.hops.isEmpty) fun d n => d.sendFormation f.gath f.hash n).tryFormed
/-- A TRANSIT message arrives; one that comes while the finisher restarts waits (R370). -/
def transitIn (d : Dev) (port : Nat) (msg : Bytes) : Dev :=
  if d.boot.restarting then { d with lnk := { d.lnk with transitWait := d.lnk.transitWait ++ [(port, msg)] } } else d.transitDo port msg
/-- TRANSIT messages that have waited leave and are taken up, and a formation that has failed meanwhile ends (R370). -/
def transitsGo (d : Dev) : Dev :=
  let d1 := ({ d with lnk := { d.lnk with transitWait := [], transitOut := [] } }.each d.lnk.transitOut fun d x => d.linkOut x.1 x.2).formLapses
  d1.each d.lnk.transitWait fun d x => d.transitDo x.1 x.2

/-! ### Timestamp alignment (R241, R242) -/

/-- The ASYM correction of a port, in ps. -/
def asymPs (d : Dev) (p : Nat) : Int := let v := fld (d.port p).asym 15 0; if v < 32768 then (v : Int) else (v : Int) - 65536
/-- The station roots a rack other than rack 0. -/
def rackRoot (d : Dev) : Bool := d.station % 64 = 0 && d.station ≠ 0
/-- TIME_STEER leaves for the stations that align to this one, on its plus ports within the rack (log 71). -/
def sendSteer (d : Dev) (ppm : Int) (at_ : Nat) : Dev :=
  let ps := (if d.station / 4 % 16 = 0 then [0] else []) ++ [2]
  d.each (ps.filter d.portUp) fun d p => d.linkOut p ([4] ++ leBytes 4 (ppm % 2 ^ 32).toNat ++ leBytes 8 at_)
/-- The timestamp in ps. -/
def nowPs (d : Dev) : Nat := d.now * 1000 + d.clk.frac / 100
/-- TIME_SYNC (log 15): a request with t1, or a reply with t1, t2 and t3. -/
def timeBytes (reply : Bool) (ts : List Nat) : Bytes := ofNats [3, b2n reply] ++ ts.flatMap fun t => leBytes 8 t
/-- A request of a neighbour that aligns to this station, sent at t1 and here at t2, is answered; the reply leaves at the station's own
time. -/
def timeReply (d : Dev) (p t1 t2 : Nat) : Dev := if d.portUp p then d.linkOut p (timeBytes true [t1, t2, d.nowPs]) else d
/-- The exchange's result: the counter is set once, then slewed; a rack root chooses a rate within ±100 ppm and a later moment for
it, which the manual leaves open (free values). On a port that is not the upstream one the exchange is a neighbour's. -/
def timeSync (d : Dev) (p t1 t2 t3 t4 : Nat) : Dev :=
  if p ≠ d.clk.upstream then d.timeReply p t1 t2
  else if !d.portUp p then d
  else
    let off : Int := (((t2 : Int) - t1) - ((t4 : Int) - t3)) / 2 - d.asymPs p
    let bound : Int := if d.rackRoot then 20000 else 4000
    let d1 := { d with clk := { d.clk with
      offsetPs := max (-32767) (min 32767 off), aligned := decide (-bound ≤ off ∧ off ≤ bound)
      set := true, slewPs := if d.clk.set then off else 0 } }
    let d2 := if d.clk.set then d1 else d1.setTs ((d.now : Int) + off / 1000).toNat
    let d3 := { d2 with lnk := { d2.lnk with ports := d2.lnk.ports.map fun x => (x.1, { x.2 with alignedCord := decide (x.1 = p) }) } }
    if !d3.rackRoot then d3
    else
      let ppm : Int := (d3.freeValue % 201 : Nat) - 100
      let d4 := d3.tookFree
      let at_ := d4.now + 1 + d4.freeValue
      ({ d4.tookFree with clk := { d4.clk with steer := some (ppm, at_) } }).sendSteer ppm at_

/-- TIME_STEER: within the rack the message is passed on. -/
def steerIn (d : Dev) (p : Nat) (ppm : Int) (at_ : Nat) : Dev :=
  if d.clk.upstream ≠ p || !d.portUp p || ppm < -100 || ppm > 100 then d
  else ({ d with clk := { d.clk with steer := some (ppm, at_) } }).sendSteer ppm at_

end Dev

/-! ### The rows -/

/-- R230. -/
def execPlanApply (org : Origin) (value : Word) (s : State) : Answer := s.on fun d => d.live fun d =>
  d.written org 0x70000 fun d => d.planWrite org (value ||| 0x80000000)
/-- R236. -/
def execGatherForm (ctx : CtxId) (record : HostRead) (s : State) : Answer := s.on fun d => d.live fun d =>
  match d.jobOf ctx.val Op.gatherForm .accepted with
  | some j => d.gatherForm j record
  | none => d
/-- R236. -/
def execFormationMessage (port : PortId) (packet : Bytes) (s : State) : Answer := s.on fun d => d.live fun d =>
  (d.rouseAt port.val).formationIn port.val packet
/-- R236: 100 ms pass without a match. A formation that has matched, and waits for the finisher to resume, does not fail (R370). -/
def execGatherFormTimeout (s : State) : Answer := s.on fun d => d.live fun d =>
  match d.work.forming with
  | some f => let d1 := d.reach (f.since + 100000000); if d.boot.restarting && Dev.matchedUp f then d1 else d1.formFails f
  | none => d
/-- R290: when every item accepted before it has completed or failed. -/
def execGatherRelease (ctx : CtxId) (s : State) : Answer := s.on fun d => d.live fun d =>
  match d.jobOf ctx.val Op.gatherRelease .accepted with
  | some j => if d.itemsSettled j.no then d.gatherRelease j else d
  | none => d
/-- R235. -/
def execTransit (port : PortId) (msg : Bytes) (s : State) : Answer := s.on fun d => d.live fun d => d.transitIn port.val msg
/-- R241: the station asks its upstream neighbour; the time root is its own reference. -/
def execTimeSyncExchange (s : State) : Answer := s.on fun d => d.live fun d =>
  let p := d.clk.upstream
  if d.lnk.planValid && d.station = 0 then { d with clk := { d.clk with set := true, aligned := true, offsetPs := 0 } }
  else if p < 6 && d.portUp p then d.linkOut p (Dev.timeBytes false [d.nowPs]) else d
/-- R241. -/
def execTimeSync (port : PortId) (t1 t2 t3 t4 : Nat) (s : State) : Answer := s.on fun d => d.live fun d => d.timeSync port.val t1 t2 t3 t4
/-- R241. -/
def execTimeSteer (port : PortId) (ppm : Int) (at_ : Nat) (s : State) : Answer := s.on fun d => d.live fun d => d.steerIn port.val ppm at_
/-- R241. -/
def execTimeSteerApply (s : State) : Answer := s.on fun d => d.live fun d =>
  match d.clk.steer with
  | some (ppm, at_) => let d1 := d.reach at_; { d1 with clk := { d1.clk with ppm := ppm, steer := none } }
  | none => d

end Sys2Proof.Machine
end

