-- ==== Sys2Proof/Machine/LinkLayer.lean ====
section
/-! DEFINITION. The link layer's receiver and replay (R213 to R218), the tags of encrypting ports (R226) and what packets and messages that
flits bring set off (R216, R227), with their rows of the table. -/

namespace Sys2Proof.Machine

/-- HEAD's fields (R214). -/
def flitKind (b : Bytes) : Nat := bitsOf (le b 0 3) 23 21
def flitCr (b : Bytes) : Nat := bitsOf (le b 0 3) 20 18
def flitAk (b : Bytes) : Nat := bitsOf (le b 0 3) 17 16
def flitAseq (b : Bytes) : Nat := le b 0 2

/-- The packets that a channel's stream holds whole, and what it keeps: the rest of a flit after a CLASS of 0 is fill (R216). -/
def splitStream : Nat → Bytes → List Bytes × Bytes
  | 0, b => ([], b)
  | n + 1, b =>
    if b.isEmpty || u8 b 0 = 0 then ([], [])
    else if b.length < 16 || b.length < 16 + u32 b 8 then ([], b)
    else
      let r := splitStream n (b.drop (16 + u32 b 8))
      (b.take (16 + u32 b 8) :: r.1, r.2)

namespace Dev

/-! ### What flits bring (R216, R227) -/

/-- A packet that flits have brought whole wakes the station, and is acted upon by its CLASS (R216, R326). -/
def packetIn (d0 : Dev) (p : Nat) (b : Bytes) : Dev :=
  let d := d0.rouseAt p
  match u8 b 0 with
  | 1 => d.sigArrive p b
  | 2 => (d.transferPacket p 2 b).coresGo
  | 3 => (d.transferPacket p 3 b).coresGo
  | 4 => if u8 b 19 = 1 then d.controlStart p b else d.controlAbort p b
  | 5 => (d.boardStoreIn p b).coresGo
  | 6 => d.boardLoadIn p b
  | 7 => (d.boardResponseIn p b).coresGo
  | 8 => (d.ackArrive p b).coresGo
  | 9 => d.formationIn p b
  | _ => (d.receive p b).1
/-- TIME_SYNC in a flit: the counter as it arrives is the time of its receipt. -/
def timeIn (d : Dev) (p : Nat) (msg : Bytes) : Dev :=
  if u8 msg 1 = 0 then d.timeReply p (u64 msg 2) d.nowPs
  else if p = d.clk.upstream then d.timeSync p (u64 msg 2) (u64 msg 10) (u64 msg 18) d.nowPs else d
/-- A link control message that a flit has brought is acted upon by its TYPE. -/
def controlMsg (d : Dev) (p : Nat) (msg : Bytes) : Dev :=
  match u8 msg 0 with
  | 1 => d.helloIn p msg
  | 2 => d.cordSetIn p msg
  | 3 => d.timeIn p msg
  | 4 => d.steerIn p (BitVec.ofNat 32 (u32 msg 1)).toInt (u64 msg 5)
  | 5 => d.keyIn p msg
  | 6 => d.cordPowerIn p msg
  | 7 => d.stoppingIn p msg
  | 8 => d.transitIn p msg
  | _ => d
/-- A payload has come in order: a channel's joins its stream, and packets that are whole leave it; a link control message acts. -/
def deliver (d : Dev) (p kind : Nat) (payload : Bytes) : Dev :=
  if kind = 3 then d.controlMsg p payload
  else if kind = 1 || kind = 2 then
    let circ : Bool := kind = 1
    let r := splitStream 256 (((d.port p).ll.chan circ).rx ++ payload)
    (d.onLink p fun x => x.onChan circ fun c => { c with rx := r.2 }).each r.1 fun d b => d.packetIn p b
  else d

/-! ### Acknowledgements and credits (R214, R215, R218) -/

/-- The number of the last flit that is received for good: those of a group that is held are not (R226). -/
def received (d : Dev) (p : Nat) : Nat :=
  let x := d.port p
  ((if x.keys.rxHeld.isEmpty then x.ll.rx else x.keys.rxFirst) + 65535) % 65536
/-- The CR codes that return a channel's free granules: the escape granule's first, which has been taken where more are owed than the
plain ones (DESIGN CHOICE, log 64). -/
def returned (free owed plain cr esc : Nat) : List Nat :=
  if free > 0 && owed > plain then esc :: List.replicate (free - 1) cr else List.replicate free cr
/-- Idle flits carry an acknowledgement of what is received and the credits of granules that are free again, one to a flit. -/
def sendAcks (d : Dev) (p : Nat) : Dev :=
  let x := (d.port p).ll
  let a := x.circ.owed - d.portHeld p; let b := x.act.owed - d.actHeld p
  let ak := b2n (x.sinceAck > 0)
  let crs := returned a x.circ.owed 63 1 3 ++ returned b x.act.owed 20 2 4
  if (d.activeCords p).isEmpty then d
  else
    let d1 := d.each (if crs.isEmpty && ak = 1 then [0] else crs) fun d cr => d.flitOut p 0 cr ak (d.received p) []
    d1.onLink p fun y => { y with
      sinceAck := 0, circ := { y.circ with owed := y.circ.owed - a }, act := { y.act with owed := y.act.owed - b } }

/-- An acknowledgement releases every flit up to its number, and flits that wait for room in the replay buffer go. -/
def ackIn (d : Dev) (p no : Nat) : Dev :=
  (d.onLink p fun x => { x with
    replay := x.replay.filter fun f => seqBefore 16 no f.no
    nakRun := if seqBefore 16 no x.nakNo then x.nakRun else 0 }).flush p

/-- A NAK: every flit from the one named is resent; the 32nd NAK in a row of one flit loses the port (R215, R222). -/
def nakIn (d : Dev) (p no : Nat) : Dev :=
  let x := (d.port p).ll
  let run := if x.nakRun > 0 && x.nakNo = no then x.nakRun + 1 else 1
  if run ≥ 32 then d.lostPort p St.linkLost else (d.onLink p fun y => { y with nakNo := no, nakRun := run }).resend p no

/-- A granule of a channel, or its escape granule, is granted again. -/
def creditIn (d : Dev) (p : Nat) (circ esc : Bool) : Dev :=
  ((d.onLink p fun x => x.onChan circ fun c =>
    if esc then { c with esc := c.esc + 1, since := d.now } else { c with credit := c.credit + 1, since := d.now }).channelGo p circ).spine
/-- Credits and acknowledgements that a flit's HEAD carries. -/
def headIn (d : Dev) (p : Nat) (b : Bytes) : Dev :=
  let d1 := match flitCr b with
    | 1 => d.creditIn p true false
    | 2 => d.creditIn p false false
    | 3 => d.creditIn p true true
    | 4 => d.creditIn p false true
    | _ => d
  match flitAk b with
  | 1 => d1.ackIn p (flitAseq b)
  | 2 => d1.nakIn p (flitAseq b)
  | _ => d1

/-! ### The receiver (R215, R226) -/

/-- A numbered flit is in order: it is counted, and with every 64th an acknowledgement leaves. -/
def inOrder (d : Dev) (p : Nat) : Dev :=
  let d1 := d.onLink p fun x => { x with rx := (x.rx + 1) % 65536, sinceAck := x.sinceAck + 1 }
  if (d1.port p).ll.sinceAck ≥ 64 then d1.sendAcks p else d1
/-- A flit is received for good: the credit and the acknowledgement in its HEAD count, and what it carries is delivered. -/
def takeFlit (d : Dev) (p : Nat) (b payload : Bytes) : Dev :=
  let d1 := d.headIn p b
  if d1.joinedMask p = 0 then d1 else d1.deliver p (flitKind b) payload
/-- A flit of a group is held until the group's tag verifies, with what its HEAD returns; so is a link control flit that comes after the group's
first, since a tag that fails discards it with them. -/
def holdFlit (d : Dev) (p : Nat) (b : Bytes) : Dev :=
  (d.onPort p fun y => { y with keys := { y.keys with
    rxFirst := if y.keys.rxHeld.isEmpty then y.ll.rx else y.keys.rxFirst, rxHeld := y.keys.rxHeld ++ [b] } }).inOrder p
/-- The held flits of a group with its payloads in the clear are delivered, in order. -/
def deliverHeld (p : Nat) : List Bytes → Bytes → Dev → Dev
  | [], _, d => d
  | f :: fs, plain, d =>
    if d.joinedMask p = 0 then d
    else if flitKind f = 3 then deliverHeld p fs plain (d.takeFlit p f (sub f 3 249))
    else deliverHeld p fs (plain.drop 249) (d.takeFlit p f (plain.take 249))
/-- A tag flit: the group's payload is forwarded when the tag verifies; else the group is asked for again from its first flit, and
the fourth failure in a row loses the port (R226). -/
def tagIn (d : Dev) (p : Nat) (b : Bytes) : Dev :=
  let k := (d.port p).keys
  let group := k.rxHeld.filter fun f => flitKind f ≠ 3
  match k.rxKey with
  | none => (d.inOrder p).takeFlit p b []
  | some key =>
    match Config.gcmOpen key (leBytes 4 k.rxEpoch ++ leBytes 8 k.rxGroup) (group.flatMap fun f => f.take 3)
        (group.flatMap fun f => sub f 3 249) (sub b 3 16) with
    | some plain =>
      let d1 := (d.onPort p fun x => { x with
        keys := rxSwitch { x.keys with rxHeld := [], rxGroup := x.keys.rxGroup + 1, badTags := 0 } }).inOrder p
      let d2 := deliverHeld p k.rxHeld plain d1
      if d2.joinedMask p = 0 then d2 else d2.headIn p b
    | none =>
      if k.badTags + 1 ≥ 4 then d.lostPort p St.linkLost
      else ((d.onPort p fun x => { x with keys := { x.keys with badTags := x.keys.badTags + 1 } }).rewind p).sendNak p

/-- A numbered flit that is next in order takes effect by its KIND; reserved ones only count (R214). -/
def flitNext (d : Dev) (p : Nat) (b : Bytes) : Dev :=
  let k := (d.port p).keys
  match flitKind b with
  | 4 => d.tagIn p b
  | 3 => if k.rxHeld.isEmpty then (d.inOrder p).takeFlit p b (sub b 3 249) else d.holdFlit p b
  | 1 => if k.rxKey.isSome then d.holdFlit p b else (d.inOrder p).takeFlit p b (sub b 3 249)
  | 2 => if k.rxKey.isSome then d.holdFlit p b else (d.inOrder p).takeFlit p b (sub b 3 249)
  | _ => (d.inOrder p).takeFlit p b []
/-- A replay marker says the number of the flit that comes next: flits that have been received already are passed over, and one beyond
the next expected is asked for again. -/
def markerIn (d : Dev) (p n : Nat) : Dev :=
  let x := (d.port p).ll
  if seqBefore 16 x.rx n then d.sendNak p
  else d.onLink p fun y => { y with naked := false, skip := (x.rx + 65536 - n) % 65536 }
/-- A flit arrives: one that fails a check is asked for again; after it no numbered flit counts until the marker, nor does one that comes
again, so that the credit in its HEAD is not taken twice (R214, R215). -/
def flitIn (d : Dev) (p : Nat) (f : FlitIn) : Dev :=
  if d.joinedMask p = 0 then d
  else match f with
    | .uncorrectable => d.sendNak p
    | .decoded n b =>
      let d1 := d.onPort p fun x => { x with corr := satAdd x.corr n }
      if crc32c (b.take 252) != BitVec.ofNat 32 (u32 b 252) then d1.sendNak p
      else
        let x := (d1.port p).ll
        if flitKind b = 0 then d1.headIn p b
        else if flitKind b = 5 then
          let d2 := d1.headIn p b
          if d2.joinedMask p = 0 then d2 else d2.markerIn p (u16 b 3)
        else if x.naked then d1
        else if x.skip > 0 then d1.onLink p fun y => { y with skip := y.skip - 1 }
        else d1.flitNext p b

end Dev

/-! ### The rows -/

/-- R215. -/
def execFlitReceive (port : PortId) (flit : FlitIn) (s : State) : Answer := s.on fun d => d.live fun d => d.flitIn port.val flit
/-- R215: a NAK in an idle flit. -/
def execNakReceive (port : PortId) (number : Half) (s : State) : Answer := s.on fun d => d.live fun d =>
  if d.joinedMask port.val = 0 then d else d.nakIn port.val number.toNat
/-- R215, R218. -/
def execAckTimer (port : PortId) (s : State) : Answer := s.on fun d => d.live fun d =>
  if d.joinedMask port.val = 0 then d else d.sendAcks port.val
/-- R226. -/
def execTagGroupClose (port : PortId) (s : State) : Answer := s.on fun d => d.live fun d => d.closeGroup port.val
/-- R226. -/
def execTagFlit (port : PortId) (flit : Bytes) (s : State) : Answer := s.on fun d => d.live fun d =>
  if d.joinedMask port.val = 0 || flitKind flit ≠ 4 then d else d.flitIn port.val (.decoded 0 flit)

end Sys2Proof.Machine
end

