-- ==== Sys2Proof/Machine/Faults.lean ====
section
/-! DEFINITION. Core faults, parking and its test (R18, R337, R338), internal faults (R339) and the stall watchdog (R269), with their
rows of the table. -/

namespace Sys2Proof.Machine

namespace Dev

/-! ### Core faults (R18, R337) -/

/-- The issuer of an operation is an FE of one of these cores. -/
def SyncReq.feOf (cores : List Nat) (r : SyncReq) : Bool := match r.iss with | .fe c _ _ _ => cores.contains c | _ => false
/-- Operations that cross the spine arrive. -/
def spineAll (d : Dev) : Dev :=
  let a := d.each (List.range d.sync.flyA.length) fun d _ => d.spineArrive 0
  a.each (List.range d.sync.flyB.length) fun d _ => d.spineArrive 1
/-- Operations of FEs of these cores that are queued or held. -/
def feOps (d : Dev) (cores : List Nat) : List SyncReq :=
  ((d.sync.words.flatMap fun e => e.2.q) ++ d.sync.held.map (·.2)).filter (SyncReq.feOf cores)
/-- Those operations are withdrawn without effect. -/
def withdraw (d : Dev) (cores : List Nat) : Dev :=
  let keep := fun (r : SyncReq) => !SyncReq.feOf cores r
  { d with sync := { d.sync with
      words := (d.sync.words.map fun e => (e.1, { e.2 with q := e.2.q.filter keep })).filter fun e => e.2 != {}
      held := d.sync.held.filter fun e => keep e.2 } }

/-- The rest of a core's program of the phase is skipped: each instruction signals DONE, up to the boundary (R337). -/
def skipRest (c : Nat) : Nat → Dev → Dev
  | 0, d => d.onSeq c fun q => { q with st := if q.st == .run then .atPhase else q.st }
  | n + 1, d =>
    let s := (d.core c).seq
    if s.st != .run then d
    else
      let w := (s.program.get 0 s.pc).toNat
      let d1 := d.onSeq c fun q => { q with
        pc := q.pc + 1
        st := if IW.opc w = IW.oPhase then .atPhase else if IW.opc w = IW.oHalt then .halted else .run }
      skipRest c n (if IW.dn w then d1.signal c (IW.doneId w) else d1)
/-- Words of a core's program store, to its last that is not zero. -/
def programLength (s : Seq) : Nat := match s.program.getLast? with | some e => e.1 + 1 | none => 0

/-- The faulting phase is abandoned on one core: what has begun goes on, what has not is skipped (R337). -/
def abandon (d : Dev) (c : Nat) : Dev :=
  let onBoard := fun (no : Nat) => d.circ.boards.any fun b => match b.sync with
    | some r => (match r.iss with | .fe k m _ _ => k = c && m = no | _ => false)
    | none => false
  let skipped := allUnits.flatMap fun u => (d.queue c u).filter fun e => e.token.isNone && e.st == .queued
  let stays := fun (e : QEnt) => match e.token with | some no => onBoard no | none => e.st != .queued
  let d1 := d.each allUnits fun d u => d.putQueue c u ((d.queue c u).filter stays)
  let d2 := d1.each skipped fun d e => if IW.dn e.word.toNat then d.signal c (IW.doneId e.word.toNat) else d
  let d3 := match (d2.core c).seq.bar with
    | some w =>
      let x := d2.onSeq c fun s => { s with bar := none, barMet := false, pc := s.pc + 1 }
      if IW.dn w.toNat then x.signal c (IW.doneId w.toNat) else x
    | none => d2
  skipRest c (programLength (d3.core c).seq + 1) d3

/-- A core stops at once: nothing of it goes on. -/
def coreStops (d : Dev) (c : Nat) : Dev :=
  let d1 := (d.withdraw [c]).onCore c fun x => { x with q := {}, seq := { x.seq with st := .atPhase, fe := none, bar := none } }
  d1.onCirc fun q => { q with sends := q.sends.filter fun s => s.core != c, boards := q.boards.filter fun b => b.core != some c }

/-- The phase in progress is abandoned: every FE of the station that waits is withdrawn and releases, and every other core skips to its
boundary; items with rows in the phase fail (R337). -/
def abandonPhase (d : Dev) : Dev :=
  let cs := d.work.coreMap.filter d.healthy
  let ops := d.feOps cs
  let d1 := (d.withdraw cs).each ops fun d r =>
    let x := d.syncDone r
    match x.2 with | none => x.1 | some (leaf, w, r') => x.1.syncIssue leaf w r'
  ((d1.each cs abandon).failOwners St.coreParked).coresGo

/-- A fault between a boundary's decision and the start of its phase: the decision is made again with the core parked (R337). -/
def decideAgain (d : Dev) (r : Run) : Dev :=
  let d1 := d.keepCount.boundaryDecisions r.phase
  if d1.work.run.isNone || !r.begun then d1
  else
    let d2 := if d1.pwr.fold ≠ d.pwr.fold then d1.redoStep r.step else d1
    if d2.work.run.isNone then d2 else d2.startOrWait

/-- A core is parked: the capture and the cause, its place in the parked mask, its entry, and nothing of it goes on (R18, R337). -/
def parkCore (d : Dev) (c kind : Nat) : Dev :=
  let d1 := (d.onErr fun e => { e with
    core := capture e.core (kind * 2 ^ 28 + c * 2 ^ 25 + d.workCtx % 64 * 2 ^ 16 + d.phaseNow % 65536) }).cause cCore
  ({ d1 with flash := { d1.flash with parked := d1.flash.parked ||| 2 ^ c } }.logOwed 5 255 4 2 c c 0).coreStops c
/-- What a parked core leaves of a run: its phase is abandoned, or, before the phase has begun, its decision made again (R337). -/
def afterParking (d : Dev) (c : Nat) : Dev :=
  match d.work.run with
  | none => d
  | some r =>
    if !d.work.coreMap.contains c then d
    else if !r.begun || d.work.pendingBoundary then d.decideAgain r
    else d.abandonPhase
/-- A core faults (R18, R337). -/
def coreFault (d : Dev) (c kind : Nat) : Dev :=
  if kind = 0 || kind ≥ 7 || !d.healthy c || d.pwr.stopped then d
  else (d.spineAll.parkCore c kind).afterParking c

/-! ### The test of a parked core (R338) -/

/-- ERR_CORE_PARK is written: its RETEST bits are set. -/
def retestWrite (d : Dev) (org : Origin) (v : Word) : Dev :=
  d.pfOnly org 0x20014 fun d => (d.onErr fun e => { e with retest := e.retest ||| fld v 15 8 }).accepted org
/-- The finisher's test of a core ends; a core that passes is unparked once its entry can be written. -/
def retestEnd (d : Dev) (c : Nat) (passed : Bool) : Dev :=
  if !bitOf d.err.retest c || d.work.run.isSome || d.boot.restarting then d
  else
    let clear := fun (d : Dev) => d.onErr fun e => { e with retest := setBits e.retest c c 0 }
    if passed && !d.healthy c then
      if d.colRoom 1 then
        let d1 := d.log 5 255 4 3 c c 0
        clear { d1 with flash := { d1.flash with parked := setBits d1.flash.parked c c 0 } }
      else d
    else clear d

/-! ### Internal faults (R339) -/

/-- An error in control state: the station stops under the sequence of R327. -/
def internalError (d : Dev) (leaf unit : Nat) : Dev :=
  let d1 := ((d.onErr fun e => { e with internal := capture e.internal (leaf % 2 * 2 ^ 30 + unit % 256) }).cause cInternal).emit .aer
  if d1.pwr.stopped then d1
  else (d1.stopStation 0 3 St.internalFault).onPwr fun p => { p with internalStop := true }
/-- The leaf test ends: the station resumes by itself, or stays stopped. -/
def leafTested (d : Dev) (passed : Bool) : Dev :=
  if !d.pwr.internalStop then d
  else if !passed then d.onPwr fun p => { p with internalStop := false }
  else (d.resumeStation).onErr fun e => { e with internal := if flag e.internal 31 then setFld e.internal 29 29 1 else e.internal }

end Dev

/-! ### The stall watchdog (R269) -/

/-- UNIT of a stall record. -/
def unitCode : CoreUnit → Nat
  | .ar => 1 | .ex => 2 | .vu => 3 | .se => 4 | .cx => 5 | .rg => 6

/-- A wait the watchdog watches: the fields of its record, and what tells it from the others with the same. -/
structure Wait where
  kind : Nat
  unit : Nat
  core : Nat
  ctx : Nat
  object : Nat
  key : Nat
  /-- When it began. -/ since : Nat
deriving DecidableEq, Repr

/-- The key a wait is remembered by, and when it began: a later wait with the same fields is another. -/
def Wait.id (w : Wait) : Nat × Nat :=
  (w.kind + 8 * (w.unit + 8 * (w.core + 8 * (w.ctx % 64 + 64 * (w.object % 65536 + 65536 * w.key)))), w.since)

namespace Dev

/-- The wait of a sync operation that is queued or held. -/
def syncWait (w : Nat) (r : SyncReq) : Wait :=
  match r.iss with
  | .fe c no gate _ => ⟨0, ((allUnits.find? fun u => bitOf gate (unitBit u)).map unitCode).getD 0, c, r.ctx, w, no + 1, r.since⟩
  | .dn c => ⟨0, 0, c, r.ctx, w, 0, r.since⟩
  | .board m _ => ⟨0, 7, syncLeaf w, r.ctx, w, m + 1, r.since⟩
  | .rsig | .agent | .plan | .debugger => ⟨0, 7, syncLeaf w, r.ctx, w, 0, r.since⟩
/-- The unit of a core whose queue holds an entry. -/
def entryUnit (d : Dev) (c no : Nat) : Nat :=
  ((allUnits.find? fun u => (d.queue c u).any fun e => e.no = no && e.token.isNone).map unitCode).getD 0

/-- Every wait of the table of R269. -/
def waits (d : Dev) : List Wait :=
  let a := (d.sync.words.flatMap fun e => e.2.q.map fun r => syncWait e.1 r) ++ d.sync.held.map fun e => syncWait e.1 e.2
  let b := (List.range 8).flatMap fun c => match (d.queue c .se).find? fun e => e.st == .queued with
    | some e => if e.token.isNone && IW.opc e.word.toNat = IW.oFsc && d.fscHeld c e then
        [(⟨1, 4, c, d.workCtx, IW.fRecord e.word.toNat, e.no, e.since⟩ : Wait)] else []
    | none => []
  let t := d.circ.boards.map fun (x : BoardOut) => match x.core with
    | some c => (⟨3, d.entryUnit c x.entry, c, d.workCtx, x.module, x.no, x.since⟩ : Wait)
    | none => ⟨3, 7, 0, fld (d.glb.win.get 0 x.module) 21 16, x.module, x.no, x.since⟩
  let v := (List.range 8).flatMap fun c => ((d.queue c .rg).filter fun e => e.token.isNone && e.st == .begun
    && IW.opc e.word.toNat = IW.oRecv).map fun e => (⟨4, 6, c, d.workCtx, IW.nTag e.word.toNat, e.no, e.since⟩ : Wait)
  let p := (List.range 6).flatMap fun p => [true, false].filterMap fun circ =>
    let x := (d.port p).ll.chan circ
    if x.wait.isEmpty then none else some (⟨2, 7, portLeaf p, d.workCtx, p, 2 * p + b2n circ, x.since⟩ : Wait)
  a ++ b ++ p ++ t ++ v

/-- The keys remembered, without those of waits that have ended. -/
def stillReported (d : Dev) (ws : List Wait) : List (Nat × Nat) :=
  d.err.reported.foldl (fun acc k => if acc.count k < (ws.map Wait.id).count k then acc ++ [k] else acc) []
/-- A wait that is older than the watchdog time is reported, once: the command says that its age has come to exceed the time (log 8). -/
def stallFound (d : Dev) (index : Nat) : Dev :=
  let ws := d.waits
  let seen := d.stillReported ws
  match ws[index]? with
  | none => d
  | some w =>
    if ((ws.take index).map Wait.id).count w.id < seen.count w.id then d
    else ((d.reach (w.since + 1000000 * fld d.sync.wdog 15 0 + 1)).onErr fun e => { e with reported := seen ++ [w.id] }).stallRecord w.kind w.unit w.core w.ctx w.object

end Dev

/-! ### The rows -/

/-- R337. -/
def execCoreFault (core : CoreId) (kind : Fin 8) (s : State) : Answer := s.on fun d => d.live fun d => d.coreFault core.val kind.val
/-- R338. -/
def execCoreRetestRequest (org : Origin) (value : Word) (s : State) : Answer := s.on fun d => d.live fun d => d.retestWrite org value
/-- R338. -/
def execCoreRetest (core : CoreId) (passed : Bool) (s : State) : Answer := s.on fun d => d.live fun d => d.retestEnd core.val passed
/-- R339. -/
def execInternalFault (leaf : LeafId) (unit : Byte) (s : State) : Answer :=
  s.on fun d => d.live fun d => d.internalError leaf.val unit.toNat
/-- R339. -/
def execLeafTestEnd (passed : Bool) (s : State) : Answer := s.on fun d => d.live fun d => d.leafTested passed
/-- R269. -/
def execStallDetected (index : Nat) (s : State) : Answer := s.on fun d => d.live fun d => d.stallFound index

end Sys2Proof.Machine
end

