-- ==== Sys2Proof/Machine/Colophon.lean ====
section
/-! DEFINITION. Draining the colophon (R366, R367) and checkpoints that fall due by time (R364), with their rows of the table. -/

namespace Sys2Proof.Machine

/-- Two runs of entries, each with rising SEQ, as one. -/
def colMerge : Nat → List Bytes → List Bytes → List Bytes
  | 0, _, _ => []
  | _ + 1, [], r => r
  | _ + 1, m, [] => m
  | n + 1, x :: m, y :: r => if u64 x 0 < u64 y 0 then x :: colMerge n m (y :: r) else y :: colMerge n (x :: m) r

namespace Dev

/-- Undrained entries of both areas in SEQ order (R366). -/
def colEntries (d : Dev) : List Bytes := colMerge (d.col.main.length + d.col.reserved.length) d.col.main d.col.reserved
/-- SEQs of the entries that are on their way by a record not yet written, or in the output FIFO of LOG_READ. -/
def colOnWay (d : Dev) : List Nat :=
  (d.heldRecords.flatMap fun h => if h.drain = 0 then [] else d.col.ways.get [] h.drain) ++ d.mbx.outFifo.filterMap (·.2)
/-- The entries that a drain path takes next, in SEQ order: each is delivered once. -/
def colWaiting (d : Dev) : List Bytes := let l := d.colOnWay; d.colEntries.filter fun e => !l.contains (u64 e 0)
/-- The units of an entry: a checkpoint is delivered with its signature unit. -/
def colUnits (d : Dev) (e : Bytes) : List Bytes :=
  if bitOf (u8 e 17) 1 then [e, padTo (d.col.sigs.get [] (u64 e 0)) 64] else [e]
/-- The units delivered from entries while they fit: the SEQs of the entries, and the units. -/
def colFit (d : Dev) : Nat → List Bytes → List Nat × List Bytes
  | _, [] => ([], [])
  | room, e :: es =>
    let us := d.colUnits e
    if us.length > room then ([], [])
    else
      let x := colFit d (room - us.length) es
      (u64 e 0 :: x.1, us ++ x.2)

/-- A record that will deliver entries is formed: they are on their way under a key (R366). -/
def colSend (d : Dev) (seqs : List Nat) : Nat × Dev :=
  match seqs with
  | [] => (0, d)
  | s :: _ => (s + 1, { d with col := { d.col with ways := d.col.ways.set [] (s + 1) seqs } })
/-- COLOPHON_DRAIN (R366): the units are freed when the record is written. -/
def drainDesc (d : Dev) (j : Job) : Dev :=
  let n := u32 j.bytes 24
  if j.ctx ≠ 0 || n % 64 ≠ 0 || n < 128 then d.settle j St.notPermitted 0 0
  else
    let x := d.colFit (n / 64) d.colWaiting
    let k := d.colSend x.1
    (k.2.given (!x.2.isEmpty) (·.emit (.hostWrite (u64 j.bytes 16) x.2.flatten))).settle j St.ok x.2.length k.1

/-- A checkpoint falls due 60 s after the last, with at least one entry since; it waits while the finisher restarts (R364, R370). -/
def checkpointDue (d : Dev) : Dev :=
  if d.col.sinceCkpt = 0 || d.boot.restarting || d.boot.shutDown then d else (d.reach (d.col.ckptAt + 60000000000)).colCheckpoint

end Dev

/-! ### The rows -/

/-- R366. -/
def execColophonDrain (ctx : CtxId) (s : State) : Answer := s.on fun d => d.live fun d =>
  match d.jobOf ctx.val Op.drain .accepted with
  | some j => if d.hostOpen then (d.drainDesc j).cxlDueGo else d
  | none => d
/-- R364. -/
def execCheckpoint (s : State) : Answer := s.on fun d => d.live fun d => d.checkpointDue

end Sys2Proof.Machine
end

