-- ==== Sys2Proof/Machine/Security.lean ====
section
/-! DEFINITION. The SPDM responder and its measurements (R351, R352), context keys (R353), PCIe IDE (R358), debug unlock (R359, R360) and
trust anchors (R355), with their rows of the table. -/

namespace Sys2Proof.Machine

namespace Dev

/-! ### Measurements and SPDM (R351, R352) -/

/-- KEY_ID of a context key: bytes 0 to 7 of its HMAC of "OXID" (R353). -/
def keyId (k : Bytes) : Nat := u64 (hmac k [0x4F, 0x58, 0x49, 0x44]) 0
/-- The bytes a measurement hashes; how the fields lie in them is the model's (log 12). -/
def measured (d : Dev) (index : Nat) : Option Bytes :=
  match index with
  | 2 => some (padTo d.boot.header 192)
  | 3 => some (ofNats [d.fuses.svn, d.fuses.revoke, b2n d.fuses.debugDisable, b2n d.fuses.ownerKey.isSome])
  | 4 => some [byte d.sec.debug]
  | 5 => some (ofNats ([b2n d.sec.ideOn, b2n d.sec.ideSecure] ++ (List.range 6).map fun p => b2n (d.port p).enc))
  | 6 => some (leBytes 8 d.flash.ckptSeq ++ d.flash.ckptChain)
  | n =>
    if n < 16 || n ≥ 80 then none
    else
      let c := n - 16
      some ((if d.activeHere c then sub d.binding 32 32 else zeros 32)
        ++ (((d.ctx c).editions.filter (d.heldNow c)).flatMap fun e => leBytes 8 e.id) ++ (match (d.ctx c).key with | some k => leBytes 8 (keyId k) | none => []))
/-- A measurement of R352. -/
def measurement (d : Dev) (index : Nat) : Option Bytes :=
  if index = 1 then some Config.bootRomDigest else (d.measured index).map sha256
/-- The indices that measure something. -/
def measurementIndices : List Nat := (List.range 6).map (· + 1) ++ (List.range 64).map (· + 16)
/-- The kind of value that a measurement is, as DMTF numbers them: boot ROM, firmware, hardware and firmware configuration (log 15). -/
def measurementType (index : Nat) : Nat := match index with | 1 => 0 | 2 => 1 | 3 => 2 | _ => 3
/-- A measurement in the DMTF format (R352): its index, the specification, the size of what follows, then its value's type, size and digest. -/
def measurementBlock (d : Dev) (index : Nat) : Option Bytes :=
  (d.measurement index).map fun m =>
    byte index :: 1 :: leBytes 2 (m.length + 3) ++ byte (measurementType index) :: leBytes 2 m.length ++ m
/-- The measurements that a request of an index asks for: 0 asks for their number alone and 255 for every one (log 15). -/
def measurementsAsked (d : Dev) (index : Nat) : Option (List Bytes) :=
  if index = 0 then some [] else if index = 255 then some (measurementIndices.filterMap d.measurementBlock)
  else (d.measurementBlock index).map fun b => [b]
/-- The finisher serves management messages (R387, R388). -/
def served (d : Dev) : Bool := d.fwRuns && !d.boot.shutDown
/-- Change the security state. -/
def onSec (d : Dev) (f : Sec → Sec) : Dev := { d with sec := f d.sec }
/-- A request of the management path or of SPDM wakes the station, and is served while firmware serves such (R326). -/
def serve (d : Dev) (f : Dev → Dev) : Dev := if d.served then f d.rouse else d
/-- One that comes by a carrier. -/
def serveOn (d : Dev) (c : Carrier) (f : Dev → Dev) : Dev := if d.carries c then d.serve f else d
/-- An SPDM 1.2 message of a code (R351; log 15). -/
def spdmRsp (code : Nat) (b : Bytes) : Bytes := 0x12 :: byte code :: b
/-- An error response of a code. -/
def spdmError (code : Nat) : Bytes := spdmRsp 0x7F [byte code, 0]
/-- The capabilities of R351, as the flags of SPDM 1.2: CERT, CHAL, MEAS with signature, ENCRYPT, MAC, KEY_EX, HBEAT (log 15). -/
def spdmCaps : Nat := 0x22D6
/-- The algorithms of R351, as the flags of SPDM 1.2: ECDSA P-256, SHA-256, secp256r1, AES-256-GCM (log 15). -/
def spdmAlgs : Bytes := leBytes 4 0x10 ++ leBytes 4 1 ++ leBytes 2 8 ++ leBytes 2 2
/-- A response leaves with the alias key's signature after it (R350), sealed where its request came in a session. -/
def saySigned (d : Dev) (c : Carrier) (session : Option Nat) (b : Bytes) : Dev :=
  d.tookFree.answer c session 5 (b ++ Config.aliasSign d.boot.aliasKey d.free (sha256 b))
/-- KEY_EXCHANGE opens a session, of which at most four stand at once (R351). -/
def keyExchange (d : Dev) (c : Carrier) : Dev :=
  if d.sec.sessions.length ≥ 4 then d.say c 5 (spdmError 0x0A)
  else
    let n := d.sec.sessionNo
    (d.onSec fun x => { x with sessions := x.sessions ++ [⟨n, c, 0⟩], sessionNo := n + 1 }).tookFree.saySigned c none
      (spdmRsp 0x64 (leBytes 4 n ++ Config.ephemeral d.free))
/-- A request comes where its session stands: most in clear or in a session, those that set one up or challenge the station in clear alone,
and a heartbeat and the end of a session inside one. The code of the error where it does not (log 15). -/
def spdmPlace (d : Dev) (m : SpdmMsg) : Option Nat :=
  match m.session, m.req with
  | none, .heartbeat | none, .endSession => some 2
  | none, _ => none
  | some n, r =>
    if !d.inSession m.carrier (some n) then some 2
    else match r with
      | .getDigests | .getCertificate _ | .getMeasurements _ | .heartbeat | .endSession => none
      | _ => some 4
/-- The answer to an SPDM request that comes in its place (R351). -/
def spdmAnswer (d : Dev) (m : SpdmMsg) : Dev :=
  let tell := fun b => d.answer m.carrier m.session 5 b
  match m.req with
  | .getVersion => tell (spdmRsp 4 [0x12])
  | .getCapabilities => tell (spdmRsp 0x61 (leBytes 4 spdmCaps))
  | .negotiateAlgorithms => tell (spdmRsp 0x63 spdmAlgs)
  | .getDigests => tell (spdmRsp 1 (0 :: 1 :: sha256 d.boot.certs))
  | .getCertificate slot => tell (if slot = 0 then spdmRsp 2 d.boot.certs else spdmError 1)
  | .challenge slot =>
    if slot ≠ 0 then tell (spdmError 1)
    else d.saySigned m.carrier m.session
      (spdmRsp 3 (sha256 d.boot.certs ++ sha256 (measurementIndices.flatMap fun i => (d.measurementBlock i).getD [])))
  | .getMeasurements i => match d.measurementsAsked i with
    | some l => d.saySigned m.carrier m.session
        (spdmRsp 0x60 (byte (if i = 0 then measurementIndices.length else 0) :: 0 :: byte l.length :: leBytes 3 l.flatten.length ++ l.flatten))
    | none => tell (spdmError 1)
  | .keyExchange => d.keyExchange m.carrier
  | .heartbeat => tell (spdmRsp 0x68 [])
  | .endSession =>
    (tell (spdmRsp 0x6C [])).onSec fun x => { x with sessions := x.sessions.filter fun s => some s.id != m.session }
/-- The answer to an SPDM request; an error where it does not come in its place. -/
def spdmServe (d : Dev) (m : SpdmMsg) : Dev :=
  match d.spdmPlace m with
  | some code => d.answer m.carrier m.session 5 (spdmError code)
  | none => d.spdmAnswer m
/-- An SPDM request comes: while the finisher restarts, DOE answers busy and MCTP drops it (R387). -/
def spdm (d : Dev) (m : SpdmMsg) : Dev :=
  if d.boot.restarting && m.carrier = .doe then d.say .doe 5 (spdmError 3) else d.serveOn m.carrier fun d => d.spdmServe m
/-- The session of a number. -/
def sessionOf (d : Dev) (n : Nat) : Option Session := d.sec.sessions.find? fun s => s.id = n

/-! ### Context keys (R353) -/

/-- A change of CLASS 6 made by a message: refused while the colophon refuses; answers its status. -/
def loggedSec (d : Dev) (origin ctx code old new detail : Nat) (make : Dev → Dev) : Status × Dev :=
  if d.boot.restarting then (St.notPermitted, d)
  else if !d.colRoom 1 then (St.logFull, d.logRefused)
  else (St.ok, make (d.log origin ctx 6 code old new detail))
/-- SET_CONTEXT_KEY inside a session: its status, and what it makes. -/
def newKey (d : Dev) (c : Nat) (key : Bytes) : Status × Dev :=
  if !(d.ctx c).regs.enable then (St.notPermitted, d)
  else
    let old := match (d.ctx c).key with | some k => keyId k | none => 0
    d.loggedSec 5 c 1 old (keyId key) 0 fun d => d.onCtx c fun y => { y with key := some key }
/-- SET_CONTEXT_KEY comes; outside a session it has no effect. -/
def setKey (d : Dev) (session c : Nat) (key : Bytes) : Dev :=
  match d.sessionOf session with
  | some s => d.serveOn s.carrier fun d => let x := d.newKey c key; x.2.saySealed s 0x7E [x.1]
  | none => d

/-! ### PCIe IDE (R358) -/

/-- The stream's state changes; writing resumes once the link is open. -/
def ideState (d : Dev) (on secure : Bool) : Dev := { d with sec := { d.sec with ideOn := on, ideSecure := secure } }.drainRings.finishRuns
/-- What an IDE_KM request does: a key set is installed, the stream switches to it and is enabled, and it comes back to Secure. Disabling the
stream is no change that R358 names as logged. -/
def ideDo (d : Dev) (req : IdeReq) : Status × Dev :=
  match req with
  | .setKey k => d.loggedSec 5 255 6 0 0 0 fun d => d.onSec fun x => { x with ideNext := some k }
  | .enable =>
    if d.sec.ideKey.isNone && d.sec.ideNext.isNone then (St.notPermitted, d)
    else d.loggedSec 5 255 6 (b2n d.sec.ideOn) 1 0 fun d =>
      (d.onSec fun x => { x with ideKey := x.ideNext <|> x.ideKey, ideNext := none }).ideState true true
  | .disable => (St.ok, d.ideState false false)
  | .secureAgain => if d.sec.ideOn && d.sec.ideKey.isSome then (St.ok, d.ideState true true) else (St.notPermitted, d)
/-- An IDE_KM request comes inside a session over DOE; elsewhere it has no effect (R358). -/
def ide (d : Dev) (session : Nat) (req : IdeReq) : Dev :=
  match d.sessionOf session with
  | some s => if s.carrier = .doe then d.serveOn .doe fun d => let x := d.ideDo req; x.2.saySealed s 5 [x.1] else d
  | none => d

/-! ### Debug unlock (R359, R360) -/

/-- A new challenge is drawn. -/
def newChallenge (d : Dev) : Dev := ({ d with sec := { d.sec with chal := Config.entropy d.free } }).tookFree
/-- The public key a token names. -/
def debugKeyOf (d : Dev) (n : Nat) : Option Bytes :=
  if n = 0 then (if d.fuses.debugKey.isEmpty then none else some d.fuses.debugKey) else if n = 1 then d.fuses.ownerKey else none
/-- Entries that a token's unlock makes: its own, and at level 2 one for each context key that goes (R353, R360). -/
def unlockEntries (d : Dev) (level : Nat) : Nat := 1 + (if level = 2 then (d.ctxs.filter fun e => e.2.key.isSome).length else 0)
/-- Why a token is refused. -/
def tokenFault (d : Dev) (t : Bytes) : Option Status :=
  if d.fuses.debugDisable || t.take 4 != [0x4F, 0x58, 0x44, 0x54] || !zeroAt t 6 2 || !zeroAt t 24 8 || u8 t 4 < 1 || u8 t 4 > 2
      || u64 t 8 ≠ d.fuses.serial || u64 t 16 ≠ d.sec.chal.toNat then some St.notPermitted
  else match d.debugKeyOf (u8 t 5) with
    | none => some St.noAnchor
    | some k =>
      if !Config.ecdsaVerify k (sha256 (t.take 32)) (sub t 32 64) then some St.sigInvalid
      else if d.boot.restarting then some St.notPermitted
      else if !d.colRoom (d.unlockEntries (u8 t 4)) then some St.logFull else none
/-- Every context is disabled, and its key erased. -/
def dropContexts (d : Dev) : Dev := d.each (List.range 64) fun d c => d.disable c true
/-- Every link key is erased. -/
def dropLinkKeys (d : Dev) : Dev := d.each (List.range 6) fun d p => (d.onPort p fun x => { x with keys := {} }).applyVerdict p
/-- Level 2: every context is disabled, every context key and link key erased, and the IDE stream leaves Secure. -/
def openAll (d : Dev) : Dev := d.dropContexts.dropLinkKeys.onSec fun s => { s with ideSecure := false }
/-- A whole token is checked; the attempt ends with a new challenge. -/
def tryToken (d : Dev) (org : Origin) (t : Bytes) : Dev :=
  match d.tokenFault t with
  | some st =>
    let n := d.sec.failures + 1
    ((if st = St.logFull then d.logRefused else d).newChallenge).onSec fun x => { x with
      token := [], unlockStatus := st, failures := if n ≥ 3 then 0 else n, locked := decide (n ≥ 3), lockedAt := d.now }
  | none =>
    let lvl := max d.sec.debug (u8 t 4)
    let d1 := ((d.colReserve (d.unlockEntries (u8 t 4))).logNext (originCode org) 255 6 4 d.sec.debug lvl 0).onSec fun x => { x with
      token := [], unlockStatus := St.ok, failures := 0, debug := lvl }
    (if u8 t 4 = 2 then d1.openAll else d1).newChallenge
/-- A word of a token, from the JTAG port or over the management path (R359); while locked out the station accepts none. -/
def tokenWord (d : Dev) (org : Origin) (w : Word) : Dev :=
  let take := fun (d : Dev) =>
    if d.sec.locked then d.accepted org
    else
      let ws := d.sec.token ++ [w]
      let d1 := d.onSec fun x => { x with token := ws }
      (if ws.length < 24 then d1 else d1.tryToken org (ws.flatMap fun x => leBytes 4 x.toNat)).accepted org
  match org with
  | .fn _ => d.written org 0x90028 fun d => d.refuse org 0x90028 St.notPermitted
  | .mgmt _ => d.written org 0x90028 take
  | .jtag => if d.sealedOff 0x90028 then d.refuse org 0x90028 St.notPermitted else take d

/-! ### Trust anchors (R355) -/

/-- The key in the DATA words of a context. -/
def anchorKey (d : Dev) (c : Nat) : Bytes := (List.range 16).flatMap fun m => leBytes 4 ((d.ctx c).regs.anchorData.get 0 m).toNat
/-- KEY_ID of a publisher key: bytes 0 to 7 of the SHA-256 of 0x04 ‖ X ‖ Y. -/
def anchorId (k : Bytes) : Nat := u64 (sha256 (0x04 :: k)) 0
/-- The KEY_ID of an entry; 0 for an empty one. -/
def anchorAt (d : Dev) (c i : Nat) : Nat := match (d.ctx c).anchors.get [] i with | [] => 0 | k => anchorId k
/-- A write of CTX_ANCHOR_SEL: its index holds; COMMIT installs the DATA words, REMOVE empties the entry. -/
def anchorWrite (d : Dev) (org : Origin) (c : Nat) (v : Word) : Dev :=
  let ofs := ctxOfs c 0x40
  d.written org ofs fun d =>
    let i := fld v 2 0
    let sel := fun (d : Dev) => d.onRegs c fun r => { r with anchorSel := word i }
    let key := d.anchorKey c
    let put := fun (k : Bytes) (d : Dev) => (sel d).onCtx c fun x => { x with anchors := x.anchors.set [] i k }
    if flag v 31 then
      if !Config.onCurve key || (List.range 8).any (fun e => e != i && d.anchorAt c e = anchorId key && !((d.ctx c).anchors.get [] e).isEmpty)
        then d.refuse org ofs St.notPermitted
      else d.logged org ofs c 6 3 (d.anchorAt c i) (anchorId key) i (put key)
    else if flag v 30 then d.logged org ofs c 6 3 (d.anchorAt c i) 0 i (put [])
    else (sel d).accepted org

end Dev

/-! ### The rows -/

/-- R351. -/
def execSpdmRequest (msg : SpdmMsg) (s : State) : Answer := s.on fun d => d.live fun d => d.spdm msg
/-- R353. -/
def execSetContextKey (session : Nat) (ctx : CtxId) (key : Bytes) (s : State) : Answer :=
  s.on fun d => d.live fun d => d.setKey session ctx.val key
/-- R358. -/
def execIdeKm (session : Nat) (req : IdeReq) (s : State) : Answer := s.on fun d => d.live fun d => d.ide session req
/-- R358. -/
def execIdeNotSecure (s : State) : Answer := s.on fun d => d.live fun d =>
  if d.sec.ideOn then { d with sec := { d.sec with ideSecure := false } } else d
/-- R359. -/
def execUnlockTokenWord (org : Origin) (word : Word) (s : State) : Answer := s.on fun d => d.live fun d => d.tokenWord org word
/-- R359. -/
def execUnlockLockoutExpiry (s : State) : Answer := s.on fun d => d.live fun d =>
  if d.sec.locked then
    let d1 := d.reach (d.sec.lockedAt + 60000000000)
    { d1 with sec := { d1.sec with locked := false } }
  else d
/-- R355. -/
def execAnchorCommit (org : Origin) (ctx : CtxId) (value : Word) (s : State) : Answer :=
  s.on fun d => d.live fun d => d.anchorWrite org ctx.val value
/-- R355. -/
def execAnchorRemove (org : Origin) (ctx : CtxId) (value : Word) (s : State) : Answer :=
  s.on fun d => d.live fun d => d.anchorWrite org ctx.val value

end Sys2Proof.Machine
end

