-- ==== Sys2Proof/Machine/Startup.lean ====
section
/-! DEFINITION. The firmware image and its checks (R346 to R349), power-up (R345, R365, R372 to R376, R389, R410, R411), the finisher's
restart (R371, R386, R387) and the supply (R305, R308, R334, R405, R413), with their rows of the table. -/

namespace Sys2Proof.Machine

-- A firmware image (R346).
namespace Image
def length (b : Bytes) : Nat := u32 b 16
def keyIndex (b : Bytes) : Nat := u8 b 6
def svn (b : Bytes) : Nat := u8 b 7
def code (b : Bytes) : Bytes := sub b 192 (length b)
/-- The first check of R347 that fails, with its status. -/
def fault (f : Fuses) (b : Bytes) : Option Status :=
  if b.take 4 != [0x4F, 0x58, 0x46, 0x57] || u16 b 4 ≠ 1 || length b < 1 || length b > 3145728 || !zeroAt b 20 12 || b.length < 192 + length b then
    some St.notPermitted
  else if keyIndex b > 3 || bitOf f.revoke (keyIndex b) || sha256 (0x04 :: sub b 64 64) != f.fwKeyHash.getD (keyIndex b) [] then some St.noAnchor
  else if !Config.ecdsaVerify (sub b 64 64) (sha256 (b.take 128)) (sub b 128 64) then some St.sigInvalid
  else if sha256 (code b) != sub b 32 32 then some St.digestMismatch
  else if svn b < f.svn then some St.notPermitted
  else none
end Image

namespace Dev

/-! ### The image that runs -/

/-- Change start-up and the finisher. -/
def onBoot (d : Dev) (f : Boot → Boot) : Dev := { d with boot := f d.boot }
/-- SVN advances to an accepted image's, with its entry (R348); without room for the entry it waits for the next boot (R361). -/
def advanceSvn (d : Dev) (image : Bytes) : Dev :=
  let n := min (Image.svn image) 64
  if n > d.fuses.svn && d.colRoom 1 then
    { d.log 8 255 6 5 d.fuses.svn n 0 with fuses := { d.fuses with svn := n } }
  else d
/-- An image runs. -/
def runImage (d : Dev) (image : Bytes) (recovered : Bool) : Dev :=
  (d.advanceSvn image).onSec (fun s => { s with keyIndex := Image.keyIndex image % 4, recovered := recovered })
    |>.onBoot fun b => { b with header := image.take 192, recovery := false, liveRecovery := false, mailboxOnly := false, held := [], update := none }

/-! ### Power-up -/

/-- What is left of the station without power: fuses, flash and the pins (R334, R365). -/
def withoutPower (d : Dev) (s : Supply) (pins : Pins) : Dev :=
  { Dev.reset with supply := s, pins := { pins with thermAlertN := true }, fuses := d.fuses, flash := d.flash, free := d.free, out := d.out }
/-- The entry of CLASS 8, code 1: SEQ jumps past what the last checkpoint in flash leaves uncertain (R365). -/
def powerUpEntry (d : Dev) : Dev :=
  let f := d.flash
  let d1 := { d with
    col := { d.col with seq := if f.powerUps = 0 then 0 else f.ckptSeq + 4096, chain := f.ckptChain, ckptSeq := f.ckptSeq, ckptAt := d.now }
    flash := { f with powerUps := f.powerUps + 1 } }
  d1.colPutMain (colBody d.now 8 0 255 8 1 f.ckptSeq (f.powerUps + 1) f.ckptDrained)
/-- Firmware takes over, 1 ms after the checks (R372): the alias certificate is issued and the DeviceID key erased, flash is read
and the clean mark taken (R345, R376, R389). The alias key is derived from the UDS that step 2 has read (log 12). -/
def handOver (d : Dev) (image : Bytes) (recovered : Bool) : Dev :=
  let clean := d.flash.clean
  let ak := Config.aliasKey d.fuses.uds (sub image 32 32) (Image.svn image)
  let d1 := ((d.reach (d.now + 1000000)).runImage image recovered).onBoot fun b => { b with
    aliasKey := ak, deviceIdKey := [], clean := clean
    certs := d.flash.intermediateCert ++ d.flash.deviceIdCert
      ++ Config.aliasCert b.deviceIdKey ak (sub image 32 32) (Image.svn image) (le image 8 8) }
  { d1 with
    flash := { d1.flash with clean := false }
    pc := { d1.pc with
      boostSpent := if clean then d1.flash.boostSpent else satAdd d1.flash.boostSpent 14400000, boostEarned := d1.flash.boostEarned } }.resumeBoost
/-- Firmware starts: the rails ramp unless a coolant fault has come since VAON was up (R410). -/
def startFirmware (d : Dev) (image : Bytes) (recovered : Bool) : Dev :=
  let d2 := d.handOver image recovered
  if d2.pins.coolantN && !d2.boot.coolantLow then d2.beginMemory
  else ((d2.onPwr fun p => { p with stopped := true, stopCause := 1 }).onBoot fun b => { b with stage := .stopped }).thermAlert
/-- The boot ROM enters recovery with the status of the check that failed (R349). -/
def enterRecovery (d : Dev) (st : Status) : Dev :=
  let d1 := d.onBoot fun b => { b with recovery := true, held := [], update := none }
  { d1 with mbx := { d1.mbx with status := st, busy := false, run := none } }
/-- Why flash gives no image that may run; one that cannot be read fails as at check 1. -/
def flashFault (d : Dev) (readOk : Bool) : Option Status := if readOk then Image.fault d.fuses d.flash.image else some St.notPermitted
/-- The boot ROM runs (R345, R372): the reference is there. The identity key is derived and UDS locked before anything is read. -/
def coldBoot (d : Dev) (readOk : Bool) : Dev :=
  let d1 := ((d.onBoot fun b => { b with waiting := none, udsLocked := true, deviceIdKey := Config.deviceIdKey d.fuses.uds }).reach
    27700000).powerUpEntry
  match d1.flashFault readOk with
  | none => d1.startFirmware d1.flash.image false
  | some st => (d1.enterRecovery st).onBoot fun b => { b with stage := .recovery, mailboxOnly := true }
/-- The input passes 46 V; a boot ROM without the reference waits for it (R411). -/
def powerOn (d : Dev) (pos : Nat) (readOk : Bool) : Dev :=
  let d1 := (d.withoutPower .on { d.pins with modulePos := pos, coolantLowAt := none, coolantHighAt := none }).newChallenge
  let d2 := d1.onBoot fun b => { b with coolantLow := !d1.pins.coolantN }
  if d2.pins.refclk then d2.coldBoot readOk else d2.onBoot fun b => { b with waiting := some readOk }
/-- The stored plan is re-applied once, 190 ms after training began, while the finisher works (R370, R372, R374). -/
def planOnce (d : Dev) : Dev :=
  if d.boot.planned || d.boot.restarting then d
  else (((d.reach (d.boot.trainAt + 190000000)).reapplyPlan).onBoot fun b => { b with planned := true })
/-- GDDR7 training ends, and the stored plan follows (R372, R374, R375). -/
def memoryTrained (d : Dev) (ok : Bool) : Dev :=
  if d.boot.stage != .memory || d.boot.trained || d.pwr.stopped then d
  else
    let d1 := d.reach (d.boot.trainAt + 180000000)
    if ok then (d1.onBoot fun b => { b with trained := true }).planOnce else d1.onBoot fun b => { b with stage := .failed }
/-- The station is READY, 210 ms after training began (R372, R373). -/
def ready (d : Dev) : Dev :=
  if d.boot.stage != .memory || !d.boot.trained || d.boot.restarting || d.pwr.stopped then d
  else
    let d1 := d.planOnce.reach (d.boot.trainAt + 210000000)
    d1.onBoot fun b => { b with stage := .ready, readyMs := min (d1.now / 1000000) 65535 }

/-! ### The finisher's restart (R371, R386, R387) -/

/-- A restart begins: the mailbox, an update and the sessions end. -/
def restartBegin (d : Dev) : Dev :=
  let d1 := d.onBoot fun b => { b with restarting := true, held := [], update := none, applied := false }
  { d1 with
    sec := { d1.sec with sessions := [] }
    mbx := { d1.mbx with busy := false, run := none, mctp := none, inFifo := [], outFifo := [] } }
/-- The firmware resumes: the restart entry and held safety entries are written, and what waited goes on. -/
def restartEnd (d : Dev) (image : Bytes) (recovered : Bool) : Dev :=
  let d1 := (d.runImage image recovered).onBoot fun b => { b with restarting := false }
  let d2 := d1.logOwed 5 255 8 2 0 0 0
  let d3 := (d2.flushSafety).each (List.range 6) fun d p => d.applyVerdict p
  (((((d3.transitsGo).tryFormed).drainRings).finishRuns).resumeBoost).cxlDueGo
/-- The boot ROM of a restart has read the image: it resumes, or enters recovery with the cores running. -/
def restartRead (d : Dev) (readOk : Bool) : Dev :=
  if !d.boot.restarting || d.boot.recovery then d
  else match d.flashFault readOk with
    | none => d.restartEnd d.flash.image false
    | some st => (d.enterRecovery st).onBoot fun b => { b with liveRecovery := true }
/-- An image that recovery has taken is booted (R349, R386). -/
def bootRecovered (d : Dev) (image : Bytes) : Dev :=
  if d.boot.liveRecovery then d.restartEnd image true else d.startFirmware image true

end Dev

/-! ### The rows -/

/-- R372. -/
def execPowerUp (modulePos : BitVec 2) (flashReadOk : Bool) (s : State) : Answer := s.on fun d =>
  if d.supply == .off then d.powerOn modulePos.toNat flashReadOk else d
/-- R375. -/
def execGddr7Trained (ok : Bool) (s : State) : Answer := s.on fun d => d.live fun d => d.memoryTrained ok
/-- R372. -/
def execStationReady (s : State) : Answer := s.on fun d => d.live fun d => d.ready
/-- R305, R334. -/
def execSupplyCollapse (s : State) : Answer := s.on fun d => d.withoutPower .off d.pins
/-- R334, R405: the module's inputs are no longer driven, and its pulls hold them low (R408). -/
def execModuleRemoval (s : State) : Answer := s.on fun d => d.withoutPower .off {}
/-- R413. -/
def execHotswapOpen (s : State) : Answer := s.on fun d => if d.supply == .on then d.withoutPower .open d.pins else d
/-- R413. -/
def execHotswapClose (modulePos : BitVec 2) (flashReadOk : Bool) (s : State) : Answer := s.on fun d =>
  if d.supply == .open then d.powerOn modulePos.toNat flashReadOk else d
/-- R308. -/
def execRefclkLoss (s : State) : Answer := s.on fun d =>
  { d with pins := { d.pins with refclk := false }, clk := { d.clk with aligned := false } }
/-- R411. -/
def execReferenceClockReturn (s : State) : Answer := s.on fun d =>
  let d1 := { d with pins := { d.pins with refclk := true } }
  d1.live fun d => match d.boot.waiting with | some ok => d.coldBoot ok | none => d
/-- R386. -/
def execFinisherRestartDone (flashReadOk : Bool) (s : State) : Answer := s.on fun d => d.live fun d => d.restartRead flashReadOk
/-- R371: before GDDR7 is trained no dump is taken. -/
def execFinisherWatchdog (dump : Bytes) (s : State) : Answer := s.on fun d => d.live fun d =>
  if !d.fwRuns then d
  else ((if d.boot.trained then d.onBoot fun b => { b with dump := some dump } else d)).restartBegin

end Sys2Proof.Machine
end

