-- ==== Sys2Proof/Machine/Mailbox.lean ====
section
/-! DEFINITION. The mailbox and its commands (R381 to R385, R388), PLDM and MCTP control (R377, R379, R380), with their rows of the
table. -/

namespace Sys2Proof.Machine

/-- Words of a string, the last padded with zero bytes (R382). -/
def wordsOf (b : Bytes) : List Word := (chunks 4 (b.length / 4 + 1) b).map fun w => word (u32 (padTo w 4) 0)
/-- Words that follow one another, none of which delivers a colophon entry. -/
def plainWords (l : List Word) : List (Word × Option Nat) := l.map fun w => (w, none)
/-- Words of the delivery of a colophon entry of a SEQ, whose last delivers it (R383). -/
def unitWords (seq : Nat) (b : Bytes) : List (Word × Option Nat) :=
  let l := wordsOf b; l.zipIdx.map fun x => (x.1, if x.2 + 1 = l.length then some seq else none)
/-- Words of the output FIFO. -/
def outWords : Nat := 1024
/-- Words of the input FIFO. -/
def inWords : Nat := 512
/-- Output words of one MCTP reply (R378). -/
def replyWords : Nat := 120

/-- The unit of a sensor (R379). -/
inductive SensorUnit where
  | mv10 | ma10 | watt | mv | celsius | state | mj
deriving DecidableEq, Repr
/-- How grave a threshold is. -/
inductive Gravity where
  | warning | critical | fatal
deriving DecidableEq, Repr
/-- Its rank. -/
def Gravity.rank : Gravity → Nat
  | .warning => 0 | .critical => 1 | .fatal => 2
/-- A numeric sensor PDR (R379): low thresholds are passed below their value, high ones at it and above. -/
structure Pdr where
  id : Nat
  unit : SensorUnit
  low : List (Gravity × Nat)
  high : List (Gravity × Nat)
deriving DecidableEq, Repr

namespace Dev

/-- Change the mailbox. -/
def onMbx (d : Dev) (f : Mbx → Mbx) : Dev := { d with mbx := f d.mbx }
/-- Codes of the commands of R382. -/
def mbxCodes : List Nat := [0x01, 0x10, 0x11, 0x12, 0x18, 0x20, 0x21, 0x30, 0x40]
/-- ARG lies in its range (R382). -/
def argOk (code arg : Nat) : Bool := if code = 0x20 then 1 ≤ arg && arg < 65536 else if code = 0x40 then arg ≤ 1 else arg = 0
/-- A command the station can serve in its state: in recovery the image's, and after SHUTDOWN those that read (R382, R388). -/
def mbxAllowed (d : Dev) (code : Nat) : Bool :=
  (!d.boot.recovery || code = 0x10 || code = 0x11) && (!d.boot.shutDown || [0x01, 0x20, 0x21, 0x30].contains code)
/-- A command ends with its status and output words: in the FIFO, or in the reply of the request that carried it. -/
def mbxEnd (d : Dev) (st : Status) (l : List Word) : Dev :=
  let d1 := d.onMbx fun m => { m with busy := false, run := none, mctp := none, status := st }
  match d.mbx.mctp with
  | some m => d1.mgmtReply m st (l.take replyWords)
  | none => d1.onMbx fun m => { m with outFifo := (m.outFifo ++ plainWords l).take outWords }
/-- A command goes on after its GO. A request over MCTP that it does not end is answered with STATUS_OK. -/
def mbxRuns (d : Dev) (r : MbxRun) (l : List Word) : Dev :=
  let d1 := d.onMbx fun m => { m with busy := true, run := some r }
  match d.mbx.mctp with
  | some m => d1.mgmtReply m St.ok l
  | none => d1

/-! ### The image (R384, R385) -/

/-- Words of an image: its header and ⌈LENGTH ÷ 4⌉. -/
def imageWords (b : Bytes) : Nat := 48 + ceilDiv (Image.length b) 4
/-- FW_BEGIN takes words; it ends with the last of the image. -/
def fwFeed (d : Dev) (got : Bytes) (ws : List Word) : Dev :=
  let b := got ++ ws.flatMap fun w => leBytes 4 w.toNat
  if b.length ≥ 20 && b.length ≥ 4 * imageWords b then
    (d.onBoot fun x => { x with held := b.take (192 + Image.length b) }).mbxEnd St.ok []
  else d.mbxRuns (.fwBegin b) []
/-- The words that wait in the input FIFO leave it. -/
def takeIn (d : Dev) : List Word × Dev := (d.mbx.inFifo, d.onMbx fun m => { m with inFifo := [] })
/-- The held image is written to flash and compared; `false` when that failed. -/
def flashImage (d : Dev) (image : Bytes) (ok : Bool) : Dev :=
  if ok then { d with flash := { d.flash with image := image } }
  else { d with flash := { d.flash with image := [] } }.onSec fun s => { s with flashBad := true }
/-- FW_END: the checks, then flash. A FW_BEGIN still under way has an image that stops short (R384). In recovery an image that passes is
booted, from SRAM where flash failed (R349). -/
def fwEnd (d : Dev) (ok : Bool) : Dev :=
  if d.boot.update == some .pldm then d.mbxEnd St.notPermitted []
  else
    let image := match d.mbx.run with | some (.fwBegin b) => b | _ => d.boot.held
    let d1 := d.onBoot fun b => { b with held := [], update := none }
    match Image.fault d.fuses image with
    | some st => d1.mbxEnd st []
    | none =>
      let d2 := (d1.flashImage image ok).mbxEnd (if ok then St.ok else St.notPermitted) []
      if d.boot.recovery then d2.bootRecovered image else d2

/-! ### The colophon and the dump (R383) -/

/-- LOG_READ places whole deliveries in the output FIFO while they fit, and ends when ARG units or all held units are out. -/
def logFill : Nat → Nat → Dev → Dev
  | 0, left, d => d.mbxRuns (.logRead left) []
  | n + 1, left, d =>
    match d.colWaiting with
    | [] => d.mbxEnd St.ok []
    | e :: _ =>
      let us := d.colUnits e
      if us.length > left then d.mbxEnd St.ok []
      else if d.mbx.outFifo.length + 16 * us.length > outWords then d.mbxRuns (.logRead left) []
      else logFill n (left - us.length) (d.onMbx fun m => { m with outFifo := m.outFifo ++ unitWords (u64 e 0) us.flatten })
/-- LOG_READ. Over MCTP the reply holds the units, and they are delivered with it. -/
def logRead (d : Dev) (arg : Nat) : Dev :=
  if d.mbx.mctp.isSome then
    let x := d.colFit (min arg (replyWords / 16)) d.colWaiting
    ((d.colFree x.1).cxlDueGo).mbxEnd St.ok (wordsOf x.2.flatten)
  else logFill (outWords / 16 + 1) arg d
/-- DUMP_READ goes on: the FIFO is filled, or a reply holds the next words. -/
def dumpOn (d : Dev) (rest : Bytes) : Dev :=
  if d.mbx.mctp.isSome then
    let l := wordsOf (rest.take (4 * replyWords))
    let rest' := rest.drop (4 * replyWords)
    if rest'.isEmpty then d.mbxEnd St.ok l else d.mbxRuns (.dumpRead rest') l
  else
    let n := outWords - d.mbx.outFifo.length
    let d1 := d.onMbx fun m => { m with outFifo := m.outFifo ++ plainWords (wordsOf (rest.take (4 * n))) }
    if d1.mbx.outFifo.isEmpty then d1.mbxEnd St.ok [] else d1.mbxRuns (.dumpRead (rest.drop (4 * n))) []
/-- A read of MBX_DATA consumes a word; a word that ends a delivery frees its entry, and the running command goes on (R381, R383). -/
def mbxPop (d : Dev) : Word × Dev :=
  match d.mbx.outFifo with
  | [] => (0, d)
  | (w, last) :: rest =>
    let d1 := d.onMbx fun m => { m with outFifo := rest }
    let d2 := match last with | some s => (d1.colFree [s]).cxlDueGo | none => d1
    (w, match d2.mbx.run with
      | some (.logRead left) => if d2.mbx.mctp.isSome then d2 else logFill (outWords / 16 + 1) left d2
      | some (.dumpRead b) => if d2.mbx.mctp.isSome then d2 else d2.dumpOn b
      | _ => d2)
/-- A word written to MBX_DATA enters the input FIFO; beyond an image's last word it is discarded (R381, R384). -/
def mbxPush (d : Dev) (w : Word) : Dev :=
  if d.mbx.inFifo.length ≥ inWords || (!d.mbx.busy && d.boot.update == some .mailbox) then d
  else
    let d1 := d.onMbx fun m => { m with inFifo := m.inFifo ++ [w] }
    match d1.mbx.run with
    | some (.fwBegin got) => if d1.mbx.mctp.isSome then d1 else let x := d1.takeIn; x.2.fwFeed got x.1
    | _ => d1

/-! ### Sensors (R379) -/

/-- Set points of the 20 rails of R304, mV: the VCORE rails follow the running point. -/
def setPoints (d : Dev) : List Nat :=
  ((List.range 8).map fun c => d.volt c d.pwr.point) ++ [750, 750, 720, 720, 750, 850, 850, 850, 800, 800, 1200, 1800]
/-- A port's state and joined cords as LNK_PORT_STATUS_n holds them (R244). -/
def portStatus (d : Dev) (p : Nat) : Nat :=
  let x := d.port p
  let st := match x.st with | .down => 0 | .training => 1 | .discovery => 2 | .active => 3 | .quarantine => 4 | .absent => 5
  st * 2 ^ 29 + x.cause % 8 * 2 ^ 26 + b2n x.enc * 2 ^ 25 + b2n (x.alignedCord && decide (d.joinedMask p ≠ 0)) * 2 ^ 24 + x.heard % 4096 * 2 ^ 12 + d.joinedMask p % 4096
/-- Code of an idle state. -/
def idleCode : Idle → Nat
  | .s0 => 0 | .s1 => 1 | .s2 => 2 | .s3 => 3
/-- Every sensor's value now, in ascending ID: means of the samples since the last refresh for current and power; what only the GDDR7
devices and the optical modules measure is a free value (log 2). -/
def sensorValues (d : Dev) : List Nat :=
  let m := d.mgmt
  let mean := fun (sum last : Nat) => if m.samples = 0 then last else sum / m.samples
  let rail := fun (f : Nat → Nat) => (List.range 20).map f
  let free := fun (i n : Nat) => (List.range n).map fun k => Config.freeNat (d.free + i + k) % 256
  [m.inMv10, mean m.sumMa m.inMa10, mean m.sumW d.pwr.sampleW, d.meanW]
    ++ (rail fun i => (m.rails.getD i {}).mv)
    ++ (rail fun i => mean (m.railSums.getD i (0, 0)).1 (m.rails.getD i {}).ma10)
    ++ (rail fun i => mean (m.railSums.getD i (0, 0)).2 (m.rails.getD i {}).watts)
    ++ ((List.range 72).map fun i => m.dieTemps.getD i 0) ++ [d.heat.tj] ++ free 0 48 ++ free 48 72
    ++ [d.pwr.point, d.pwr.fold, idleCode d.pwr.idle, b2n d.pins.coolantN, d.pwr.stopCause]
    ++ ((List.range 6).map d.portStatus) ++ [d.pc.energy.toNat % 2 ^ 32, d.pc.energy.toNat / 2 ^ 32]
/-- Sensors of R379. -/
def sensorCount : Nat := 270
/-- The ID of the `i`-th sensor. -/
def sensorId (i : Nat) : Nat :=
  if i < 4 then 1 + i else if i < 24 then 0x10 + (i - 4) else if i < 44 then 0x30 + (i - 24) else if i < 64 then 0x50 + (i - 44)
  else if i < 136 then 0x100 + (i - 64) else if i = 136 then 0x150 else if i < 185 then 0x160 + (i - 137)
  else if i < 257 then 0x200 + (i - 185) else if i < 262 then 0x300 + (i - 257) else if i < 268 then 0x310 + (i - 262) else 0x400 + (i - 268)
/-- The unit of the `i`-th sensor. -/
def sensorUnit (i : Nat) : SensorUnit :=
  if i = 0 then .mv10 else if i = 1 then .ma10 else if i < 4 then .watt else if i < 24 then .mv else if i < 44 then .ma10
  else if i < 64 then .watt else if i < 257 then .celsius else if i < 268 then .state else .mj
/-- The PDR of the `i`-th sensor: a rail's thresholds are 5 % off its set point, a module's those it reports. -/
def sensorPdr (d : Dev) (i : Nat) : Pdr :=
  let s := d.setPoints.getD (i - 4) 0
  let m := (d.port ((i - 185) / 12)).modules.get {} ((i - 185) % 12)
  { id := sensorId i, unit := sensorUnit i
    low := if i = 0 then [(.warning, 4600)] else if 4 ≤ i && i < 24 then [(.critical, ceilDiv (95 * s) 100)] else []
    high := if i = 0 then [(.warning, 6001)] else if 4 ≤ i && i < 24 then [(.critical, 105 * s / 100 + 1)]
      else if i = 136 then [(.warning, fld d.pr.thermCfg 7 0), (.critical, 105), (.fatal, 112)]
      else if 137 ≤ i && i < 185 then [(.warning, 95)]
      else if 185 ≤ i && i < 257 && m.lanes > 0 then [(.warning, m.warnC), (.critical, m.alarmC)] else [] }
/-- The state that a sensor's value stands in: normal, or past the last of the thresholds it has passed, coded as PLDM codes sensor
states (log 15). -/
def sensorLevel (d : Dev) (i v : Nat) : Nat :=
  let p := d.sensorPdr i
  match (p.high.filter fun t => t.2 ≤ v).getLast?, (p.low.filter fun t => v < t.2).getLast? with
  | some t, _ => 8 + t.1.rank
  | none, some t => 5 + t.1.rank
  | none, none => 1
/-- The sensors are refreshed; each that crosses a threshold sends its event. -/
def refresh (d : Dev) : Dev :=
  if !d.fwRuns then d
  else
    let vs := d.sensorValues
    let old := d.mgmt.sensors
    let d1 := { d with
      free := d.free + 120
      mgmt := { d.mgmt with sensors := vs, samples := 0, sumMa := 0, sumW := 0, railSums := [] } }
    d1.each (List.range sensorCount) fun e i =>
      let l := d.sensorLevel i (vs.getD i 0)
      if old.isEmpty || l = d.sensorLevel i (old.getD i 0) then e else e.platformEvent (sensorId i) l

/-! ### Shutdown (R388) -/

/-- SHUTDOWN begins: descriptors are no longer fetched, and with ABORT every context is aborted. -/
def shutdownBegin (d : Dev) (abort : Bool) : Dev :=
  let d1 := (d.onBoot fun b => { b with shuttingDown := true, shuttingAbort := abort }).onMbx fun m => { m with busy := true, run := some .shutdown }
  if abort then d1.each (List.range 64) fun d c => (d.abortScope c 2 0 0).2 else d1
/-- Every accepted descriptor has its record. -/
def allRecorded (d : Dev) : Bool := d.work.jobs.isEmpty && d.ctxs.all fun e => e.2.rings.all fun r => r.2.held.isEmpty
/-- What SHUTDOWN waits for is over: every accepted descriptor has its record, and with ABORT nothing is left that the abort did not end. -/
def mayShut (d : Dev) : Bool :=
  if d.boot.shuttingAbort then d.work.jobs.all fun j => j.phase == .ended else d.allRecorded
/-- SHUTDOWN ends: STOPPING, the last checkpoint, boost counters and the clean mark in flash, then S3. -/
def shutdownEnd (d : Dev) : Dev :=
  if !d.boot.shuttingDown || !d.mayShut || d.boot.restarting then d
  else
    let d1 := d.each ((List.range 6).filter d.portUp) fun d p => d.linkOut p [7, St.abortedByHost]
    let d2 := d1.colCheckpoint
    let d3 := { d2 with flash := { d2.flash with boostSpent := d2.pc.boostSpent, boostEarned := d2.pc.boostEarned, clean := true } }
    let d4 := (d3.enterIdle .s3).onBoot fun b => { b with shuttingDown := false, shuttingAbort := false, shutDown := true, stage := .shutdown }
    d4.mbxEnd St.ok []

/-! ### Commands (R381, R382) -/

/-- What a command does once it starts, with its input words. -/
def mbxDo (d : Dev) (code arg : Nat) (ws : List Word) (flashOk : Bool) : Dev :=
  match code with
  | 0x01 => d.mbxEnd St.ok (wordsOf (padTo d.boot.header 192) |>.take 48)
  | 0x10 =>
    match d.mbx.run with
    | some (.fwBegin got) => d.fwFeed got ws
    | _ =>
      if d.boot.update.isSome then d.mbxEnd St.notPermitted []
      else (d.onBoot fun b => { b with update := some .mailbox, held := [] }).fwFeed [] ws
  | 0x11 => d.fwEnd flashOk
  | 0x12 => (d.mbxEnd St.ok []).restartBegin
  | 0x18 => (d.mbxEnd St.ok []).restartBegin
  | 0x20 => d.logRead arg
  | 0x21 =>
    match d.mbx.run with
    | some (.dumpRead b) => d.dumpOn b
    | _ => match d.boot.dump with
      | none => d.mbxEnd St.ok []
      | some b => d.dumpOn b
  | 0x30 => d.mbxEnd St.ok ((List.range sensorCount).map fun i => word (d.mgmt.sensors.getD i 0))
  | _ => d.shutdownBegin (bitOf arg 0)

/-- A GO with a command and its ARG. One written while a command runs, or while the finisher restarts, is discarded; FW_END ends a
FW_BEGIN whose words stop short (R381, R384, R387; log 67). -/
def mbxGo (d : Dev) (code arg : Nat) (flashOk : Bool) : Dev :=
  let short := code = 0x11 && arg = 0 && (match d.mbx.run with | some (.fwBegin _) => d.mbx.mctp.isNone | _ => false)
  if (d.boot.restarting && !d.boot.recovery) || d.boot.stage == .bootRom || (d.mbx.busy && !short) then d
  else
    let d1 := d.onMbx fun m => { m with cmd := word (code % 256 * 65536 + arg % 65536) }
    if !mbxCodes.contains code || !argOk code arg || !d1.mbxAllowed code then
      (d1.mbxEnd St.notPermitted []).onMbx fun m => { m with inFifo := [] }
    else if code = 0x10 then let x := d1.takeIn; x.2.mbxDo code arg x.1 flashOk
    else d1.mbxDo code arg [] flashOk
/-- A command over MCTP, with its input words; the registers and the input FIFO of the physical function stay as they are. One that changes
configuration needs a secure session (R378); the next part of an image or of a dump goes on with the command that runs. -/
def mbxMctp (d0 : Dev) (via : Mctp) (code arg : Nat) (ws : List Word) (flashOk : Bool) : Dev :=
  let d := d0.given (d0.hears via) (·.rouse)
  let goesOn := d.mbx.mctp.isSome && (match d.mbx.run with
    | some (.fwBegin _) => code = 0x10 || code = 0x11
    | some (.dumpRead _) => code = 0x21
    | _ => false)
  if !d.hears via then d
  else if (d.mbx.busy && !goesOn) || !(code = 0x01 || code = 0x30 || d.inSession (.mctp via.medium) via.session)
      || !mbxCodes.contains code || !argOk code arg || !d.mbxAllowed code then d.mgmtReply via St.notPermitted []
  else (d.onMbx fun m => { m with mctp := some via }).mbxDo code arg (ws.take replyWords) flashOk
/-- A mailbox command by either path. -/
def mbxVia (d : Dev) (via : MbxVia) (code arg : Nat) (flashOk : Bool) : Dev :=
  match via with
  | .bar0 => if d.fnOpen 0 then d.mbxGo code arg flashOk else d
  | .mctp m ws => d.mbxMctp m code arg ws flashOk
/-- Whether a flash write succeeds, where no command tells: a free value (log 2). -/
def freeFlash (d : Dev) : Bool × Dev := (d.freeValue % 2 = 0, d.tookFree)

/-! ### PLDM firmware update (R380) -/

/-- The one component's identifier (R380). -/
def component : Nat := 1
/-- Bytes of one transfer of the image (R380). -/
def pldmBytes : Nat := 1024
/-- A PLDM message to the update agent, about the component, as type 1 (R377, R380; log 15): the step's code, then what it says. -/
def pldmSay (d : Dev) (code : Nat) (b : Bytes) : Dev := d.emit (.message none 1 [1 :: byte code :: leBytes 2 component ++ b])
/-- RequestFirmwareData: the station asks for a transfer of the image. -/
def pldmAsk (d : Dev) : Dev := d.pldmSay 0x15 (leBytes 4 d.boot.held.length ++ leBytes 4 pldmBytes)
/-- RequestUpdate opens an update unless one runs, and the station asks for the image's first transfer; 0 stands for success, 0x81 for the
busy code (log 15). -/
def pldmBegin (d : Dev) : Dev := d.serve fun d =>
  if d.boot.update.isSome then d.pldmSay 0x10 [0x81]
  else ((d.onBoot fun b => { b with update := some .pldm, held := [], applied := false }).pldmSay 0x10 [0]).pldmAsk
/-- An image that has come whole: VerifyComplete reports the checks and ApplyComplete the flash write (R380, R385). -/
def pldmApply (d : Dev) (image : Bytes) : Dev :=
  match Image.fault d.fuses image with
  | some st => (d.onBoot fun x => { x with held := [], update := none }).pldmSay 0x17 [st]
  | none =>
    let x := d.freeFlash
    let d1 := ((x.2.pldmSay 0x17 [St.ok]).flashImage image x.1).pldmSay 0x18 [if x.1 then St.ok else St.notPermitted]
    d1.onBoot fun y => { y with held := [], applied := x.1, update := if x.1 then some .pldm else none }
/-- A transfer of the image arrives: the 1,024 bytes asked for, or fewer with the image's last. One that was not asked for is dropped. -/
def pldmData (d : Dev) (offset : Nat) (data : Bytes) : Dev := d.serve fun d =>
  if d.boot.update != some .pldm || d.boot.applied || offset ≠ d.boot.held.length || data.isEmpty || data.length > pldmBytes then d
  else
    let b := d.boot.held ++ data
    if b.length ≥ 192 && b.length ≥ 192 + Image.length b then d.pldmApply (b.take (192 + Image.length b))
    else if data.length < pldmBytes then d.pldmApply b
    else (d.onBoot fun x => { x with held := b }).pldmAsk
/-- ActivateFirmware restarts the finisher onto the applied image; the answer gives the most that it takes, 1 s. -/
def pldmActivate (d : Dev) : Dev := d.serve fun d =>
  if d.boot.update != some .pldm || !d.boot.applied then d else (d.pldmSay 0x1A [0, 1, 0]).restartBegin

/-! ### MCTP control (R377, R379) -/

/-- A bus owner assigns an endpoint ID. -/
def setEid (d : Dev) (m : Medium) (eid : Byte) : Dev := d.serveOn (.mctp m) fun d =>
  { d with mgmt := match m with | .i3c => { d.mgmt with eidI3c := eid } | .vdm => { d.mgmt with eidVdm := eid } }.say (.mctp m) 0 [0, eid]

end Dev

/-! ### The rows -/

/-- R382. -/
def execInfo (via : MbxVia) (arg : Half) (s : State) : Answer := s.on fun d => d.live fun d => d.mbxVia via 0x01 arg.toNat true
/-- R384. -/
def execFwBegin (via : MbxVia) (arg : Half) (s : State) : Answer := s.on fun d => d.live fun d => d.mbxVia via 0x10 arg.toNat true
/-- R385. -/
def execFwEnd (via : MbxVia) (arg : Half) (flashOk : Bool) (s : State) : Answer :=
  s.on fun d => d.live fun d => d.mbxVia via 0x11 arg.toNat flashOk
/-- R386. -/
def execFwActivate (via : MbxVia) (arg : Half) (s : State) : Answer := s.on fun d => d.live fun d => d.mbxVia via 0x12 arg.toNat true
/-- R386. -/
def execRestart (via : MbxVia) (arg : Half) (s : State) : Answer := s.on fun d => d.live fun d => d.mbxVia via 0x18 arg.toNat true
/-- R383. -/
def execLogRead (via : MbxVia) (arg : Half) (s : State) : Answer := s.on fun d => d.live fun d => d.mbxVia via 0x20 arg.toNat true
/-- R382. -/
def execDumpRead (via : MbxVia) (arg : Half) (s : State) : Answer := s.on fun d => d.live fun d => d.mbxVia via 0x21 arg.toNat true
/-- R382. -/
def execTelemetry (via : MbxVia) (arg : Half) (s : State) : Answer := s.on fun d => d.live fun d => d.mbxVia via 0x30 arg.toNat true
/-- R388. -/
def execShutdown (via : MbxVia) (arg : Half) (s : State) : Answer := s.on fun d => d.live fun d => d.mbxVia via 0x40 arg.toNat true
/-- R388. -/
def execShutdownFinish (s : State) : Answer := s.on fun d => d.live fun d => d.shutdownEnd
/-- R378. -/
def execMctpMailbox (via : Mctp) (cmd : Byte) (arg : Half) (words : List Word) (s : State) : Answer := s.on fun d => d.live fun d =>
  if cmd.toNat = 0x11 then
    let x := d.freeFlash
    x.2.mbxMctp via cmd.toNat arg.toNat words x.1
  else d.mbxMctp via cmd.toNat arg.toNat words true
/-- R381. -/
def execMbxDataWrite (org : Origin) (word : Word) (s : State) : Answer := s.on fun d => d.live fun d =>
  d.pfOnly org 0x1008 fun d => (d.mbxPush word).accepted org
/-- R381. -/
def execMbxDataRead (org : Origin) (s : State) : Answer := s.on fun d => d.live fun d =>
  if d.reaches org 0x1008 then let x := d.mbxPop; x.2.emit (.regValue x.1.toNat) else d.emit (.regValue 0)
/-- R377. -/
def execSetEndpointId (medium : Medium) (eid : Byte) (s : State) : Answer := s.on fun d => d.live fun d => d.setEid medium eid
/-- R380. -/
def execRequestUpdate (s : State) : Answer := s.on fun d => d.live fun d => d.pldmBegin
/-- R380. -/
def execRequestFirmwareData (offset : Nat) (data : Bytes) (s : State) : Answer := s.on fun d => d.live fun d => d.pldmData offset data
/-- R380. -/
def execActivateFirmware (s : State) : Answer := s.on fun d => d.live fun d => d.pldmActivate
/-- R379. -/
def execSetEventReceiver (medium : Medium) (eid : Byte) (s : State) : Answer := s.on fun d => d.live fun d =>
  d.serveOn (.mctp medium) fun d => { d with mgmt := { d.mgmt with receiver := some (medium, eid) } }.say (.mctp medium) 1 [0]
/-- R379. -/
def execSensorRefresh (s : State) : Answer := s.on fun d => d.live fun d => d.refresh

end Sys2Proof.Machine
end

