-- ==== Sys2Proof/Machine/Registers.lean ====
section
/-! DEFINITION. What the registers of BAR0 read as (R38, R40, R69, R123, R128, R147 to R150, R183 to R185, R209, R230 to R245, R271, R272,
R302, R328, R329, R341, R342, R369, R375, R381, R390 to R404), with the latch of R398. -/

namespace Sys2Proof.Machine

/-- A half of a 64-bit value. -/
def half (v : Nat) (hi : Bool) : Word := word (if hi then v / 2 ^ 32 else v)
/-- A bit at its place. -/
def at_ (b : Bool) (i : Nat) : Nat := b2n b * 2 ^ i
/-- An offset that is one of `n` registers spaced by `step` from `base`: its number. -/
def nth (ofs base step n : Nat) : Option Nat :=
  if base ≤ ofs && ofs < base + step * n && (ofs - base) % step = 0 then some ((ofs - base) / step) else none

/-- Code of a start-up stage (R375). -/
def stageCode : Stage → Nat
  | .bootRom => 0 | .recovery => 1 | .firmware => 2 | .memory => 3 | .ready => 4 | .stopped => 5 | .shutdown => 6 | .failed => 7
/-- FOP code of a sync operation (R97). -/
def fopCode : SyncOp → Nat
  | .writeFill => 0 | .readEmpty => 1 | .readPeek => 2 | .fetchAddFull => 3 | .clear => 4 | .writeForce => 5

namespace Dev

/-- GLB_RING_ERR: one bit per context from `base` (R400). -/
def ringErrBits (d : Dev) (base : Nat) : Nat :=
  ((List.range 32).map fun i => at_ (flag (d.ctx (base + i)).regs.ringErr 31) i).foldl (· + ·) 0
/-- GLB_ registers (R397, R399, R400, R403). -/
def readGlb (d : Dev) (o : Nat) : Word :=
  match o with
  | 0x00 => 0x71605A20 | 0x04 => 0x00014230 | 0x08 => 0x18084010 | 0x0C => 0x6C6082E1
  | 0x18 => word (d.ringErrBits 0) | 0x1C => word (d.ringErrBits 32)
  | 0x20 => d.glb.refuse | 0x24 => d.glb.refuseOfs | 0x50 => d.glb.winErr
  | _ => match nth o 0x40 4 4 with | some n => d.glb.win.get 0 n | none => 0
/-- MBX_BOOT.STAGE: recovery and a stop stand over the stage, and firmware starts the memory's training once the rails have ramped (R372,
R375). -/
def stageField (d : Dev) : Nat :=
  if d.boot.recovery then 1
  else match d.boot.stage with
    | .ready => if d.pwr.stopped then 5 else 4
    | .memory => if d.pwr.stopped then 5 else if d.now < d.boot.trainAt then 2 else 3
    | st => stageCode st
/-- MBX_ registers (R375, R381). -/
def readMbx (d : Dev) (o : Nat) : Word :=
  let m := d.mbx
  match o with
  | 0x0 => m.cmd
  | 0x4 => word (at_ m.busy 31 + at_ d.boot.recovery 30 + at_ (d.boot.restarting && !d.boot.recovery) 29 + m.status.toNat * 2 ^ 21
      + (inWords - m.inFifo.length) * 2 ^ 11 + m.outFifo.length)
  | 0xC => word (d.stageField * 2 ^ 28 + at_ d.boot.clean 27 + d.boot.readyMs)
  | _ => 0
/-- SEC_STATUS (R360). -/
def readSec (d : Dev) (o : Nat) : Word :=
  if o ≠ 0 then 0
  else word (d.sec.debug * 2 ^ 26 + at_ d.fuses.debugDisable 25 + at_ d.fuses.ownerKey.isSome 24 + at_ d.sec.recovered 23
    + at_ d.sec.flashBad 22 + d.fuses.revoke % 16 * 2 ^ 18 + d.sec.keyIndex % 4 * 2 ^ 16 + d.fuses.svn % 128)
/-- COL_ registers (R369). -/
def readCol (d : Dev) (o : Nat) : Word :=
  let c := d.col
  match o with
  | 0x00 => c.cfg
  | 0x04 => word (at_ (decide (d.colHeld ≥ colMain)) 31 + at_ (decide (d.colHeld ≥ fld c.cfg 14 0)) 30 + at_ c.resUsed 29
      + at_ c.refusedFlag 28 + c.reserved.length % 512 * 2 ^ 16 + d.colHeld % 32768)
  | 0x08 => half c.seq false | 0x0C => half c.seq true
  | 0x10 => half c.refused.toNat false | 0x14 => half c.refused.toNat true
  | _ => 0
/-- PWR_ counters in the order of R404. -/
def pwrCounter (d : Dev) (i : Nat) : Dword :=
  match i with
  | 0 => d.pc.energy | 1 => d.pc.stretch | 2 => d.pc.limit | 3 => d.pc.oppChange | 4 => d.pc.oppPause | 5 => d.pc.foldChange
  | 6 => d.pc.boostSpent | _ => d.pc.boostEarned
/-- PWR_ registers (R69, R328, R329). -/
def readPwr (d : Dev) (o : Nat) : Word :=
  let p := d.pwr
  match o with
  | 0x00 => d.pr.capCfg | 0x04 => d.pr.mode | 0x08 => d.pr.idleCfg | 0x0C => d.pr.thermCfg
  | 0x10 => word (min p.sampleW 4095 * 2 ^ 20 + at_ (p.stopped && decide (p.stopCause ≠ 0)) 19 + idleCode p.idle * 2 ^ 17
      + at_ (decide (p.limiter > 0)) 16 + at_ p.learning 15 + at_ p.boostAge 14 + at_ (decide (d.heat.steps ≥ 1)) 13 + p.fold % 16 * 2 ^ 9
      + p.point % 8 * 2 ^ 6)
  | 0x14 => word (min p.above 511 * 2 ^ 12 + d.meanW % 4096)
  | 0x18 => word (d.heat.sensor % 256 * 2 ^ 16 + min d.heat.tj 255)
  | 0x1C => word (at_ p.stopped 30 + p.stopCause % 4 * 2 ^ 28 + p.stopStatus.toNat)
  | 0x20 => d.pr.keepwarm
  | 0x24 => word (d.fuses.reserveH % 65536 * 256 + d.fuses.fracPct % 256)
  | _ =>
    match nth o 0x40 4 16, nth o 0x100 4 16 with
    | some k, _ =>
      let v := fun i => d.volt (k / 2) (k % 2 * 3 + i) % 1024
      word (v 2 * 2 ^ 20 + v 1 * 2 ^ 10 + v 0)
    | none, some k => half (d.pwrCounter (k / 2)).toNat (k % 2 = 1)
    | none, none => 0
/-- Captures of a core. -/
def coreErrAt (d : Dev) (c : Nat) : CoreErr := d.coreErr.get {} c
/-- ERR_ registers, ERR_STALL_LIST apart (R40, R123, R150, R185, R209, R238, R272, R338, R341, R342). -/
def readErr (d : Dev) (o : Nat) : Word :=
  let e := d.err
  match o with
  | 0x00 => e.irqStatus | 0x04 => e.irqEnable | 0x08 => e.irqVec | 0x10 => e.core
  | 0x14 => word (e.retest % 256 * 256 + d.flash.parked % 256)
  | 0x18 => e.internal | 0x20 => e.mem | 0x28 => half e.memAddr.toNat false | 0x2C => half e.memAddr.toNat true
  | 0x30 => e.cmem | 0x34 => e.slice | 0x38 => e.slip | 0x3C => e.slipLate | 0x40 => e.edition | 0x44 => e.editionLoc | 0x48 => e.stall
  | 0x50 => word (at_ e.stallOver 30)
  | 0x60 => half e.itemFail.toNat false | 0x64 => half e.itemFail.toNat true
  | 0x68 => half e.itemInfo.toNat false | 0x6C => half e.itemInfo.toNat true
  | _ =>
    match nth o 0x100 4 16, nth o 0x140 4 16 with
    | some k, _ => if k % 2 = 0 then (d.coreErrAt (k / 2)).numPos else (d.coreErrAt (k / 2)).numSrc
    | none, some k => if k % 2 = 0 then (d.coreErrAt (k / 2)).fold else (d.coreErrAt (k / 2)).foldBlk
    | none, none => 0
/-- MEM_ registers (R255, R272). -/
def readMem (d : Dev) (o : Nat) : Word :=
  match o with
  | 0x00 => d.mem.split
  | 0x04 => word (min d.mem.retirePending.length 2047 * 2 ^ 16 + d.flash.retired.length % 2048)
  | 0x08 => half d.mem.ce.toNat false | 0x0C => half d.mem.ce.toNat true
  | 0x10 => half d.mem.crcRetry.toNat false | 0x14 => half d.mem.crcRetry.toNat true
  | _ => 0
/-- CXL_ registers (R272). -/
def readCxl (d : Dev) (o : Nat) : Word :=
  match o with
  | 0x00 => d.mem.cxlCfg | 0x04 => d.mem.cxlTimeoutCfg
  | 0x08 => word d.cxlStatus
  | _ => 0
/-- CMP_ counters (R147 to R149). -/
def readCmp (d : Dev) (o : Nat) : Word :=
  match o with
  | 0x00 => half d.cmem.pass.toNat false | 0x04 => half d.cmem.pass.toNat true
  | 0x08 => half d.cmem.repass.toNat false | 0x0C => half d.cmem.repass.toNat true
  | 0x10 => half d.cmem.ce.toNat false | 0x14 => half d.cmem.ce.toNat true
  | _ => 0
/-- LNK_TS_STATUS.OFFSET_PS: signed, saturating. -/
def offsetField (d : Dev) : Nat := ((max (-32767) (min 32767 d.clk.offsetPs)) % 65536).toNat
/-- LNK_ registers (R183, R230, R238, R240 to R245). -/
def readLnk (d : Dev) (o : Nat) : Word :=
  match o with
  | 0x00 => word (at_ d.lnk.planValid 30 + fld d.lnk.self 11 0)
  | 0x04 => d.lnk.slice
  | 0x08 => word (at_ d.clk.aligned 31 + d.clk.upstream % 8 * 2 ^ 28 + d.offsetField)
  | 0x10 => half d.lnk.boardOpen.toNat false | 0x14 => half d.lnk.boardOpen.toNat true
  | 0x18 => half d.lnk.sliceDrop.toNat false | 0x1C => half d.lnk.sliceDrop.toNat true
  | 0x20 => word (min d.circ.peakA 511 * 2 ^ 16 + min (d.stageOcc 0) 511)
  | 0x24 => word (min d.circ.peakB 511 * 2 ^ 16 + min (d.stageOcc 1) 511)
  | _ =>
    match nth o 0x40 4 6, nth o 0x60 4 6, nth o 0x80 4 6, nth o 0x100 4 48 with
    | some p, _, _, _ => (d.port p).plan
    | _, some p, _, _ => (d.port p).asym
    | _, _, some p, _ => word (d.portStatus p)
    | _, _, _, some k =>
      let x := d.port (k / 8)
      match k % 8 / 2 with
      | 0 => half x.corr.toNat (k % 2 = 1)
      | 1 => half x.replayCount.toNat (k % 2 = 1)
      | 2 => half x.cordDrop.toNat (k % 2 = 1)
      | _ => 0
    | none, none, none, none => 0
/-- The sync word that DBG_SYNC_SEL names. -/
def dbgWord (d : Dev) : SyncWord := d.sync.words.get {} (fld d.sync.dbgSel 15 0)
/-- DBG_ registers (R70, R184, R271, R272, R359). -/
def readDbg (d : Dev) (o : Nat) : Word :=
  let w := d.dbgWord
  match o with
  | 0x00 => d.sync.dbgSel
  | 0x04 => word (at_ w.full 31 + at_ w.bad 30 + (match w.q.head? with | some r => fopCode r.op | none => 7) * 2 ^ 13 + w.q.length % 8192)
  | 0x08 => half w.val.toNat false | 0x0C => half w.val.toNat true
  | 0x10 => half d.sync.dbgWval.toNat false | 0x14 => half d.sync.dbgWval.toNat true
  | 0x18 => word (at_ d.sync.dbgRefused 30 + at_ d.sync.dbgOp 0)
  | 0x20 => half d.sec.chal.toNat false | 0x24 => half d.sec.chal.toNat true
  | 0x2C => word (d.sec.unlockStatus.toNat * 2 ^ 24 + d.sec.token.length % 32)
  | 0x40 => half d.circ.placedCount.toNat false | 0x44 => half d.circ.placedCount.toNat true
  | 0x48 => half d.circ.dup.toNat false | 0x4C => half d.circ.dup.toNat true
  | 0x50 => half d.circ.slip.toNat false | 0x54 => half d.circ.slip.toNat true
  | 0x58 => half d.circ.detachCount.toNat false | 0x5C => half d.circ.detachCount.toNat true
  | _ => match nth o 0x100 4 64 with
    | some k =>
      let a := (d.core (k / 8)).arr
      half (match k % 8 / 2 with | 0 => a.rows | 1 => a.bubbles | 2 => a.dummy | _ => a.tiles).toNat (k % 2 = 1)
    | none => 0
/-- Registers of a ring pair (R302). -/
def readRing (g : Ring) (k : Nat) : Word :=
  match k with
  | 0 => half g.sqBase.toNat false | 1 => half g.sqBase.toNat true | 2 => half g.cqBase.toNat false | 3 => half g.cqBase.toNat true
  | 4 => word (setBits g.cfg.toNat 30 30 (b2n g.stopped)) | 5 => g.irqMod | 6 => g.sqHead | 7 => g.cqTail | _ => 0
/-- Registers of a context's page (R404). -/
def readCtx (d : Dev) (c o : Nat) : Word :=
  let r := (d.ctx c).regs
  match o with
  | 0x00 => word (at_ r.busy 1 + at_ r.enable 0) | 0x04 => word (at_ r.subnActive 1 + at_ r.subn 0)
  | 0x08 => r.foldCfg | 0x0C => r.foldEps | 0x10 => r.mcastLag | 0x14 => r.scrubCfg | 0x18 => r.syncBase | 0x1C => r.syncCount
  | 0x20 => r.bindRefuse | 0x24 => r.bindRefuseOfs | 0x28 => r.ringErr | 0x2C => r.abort | 0x30 => r.regRefuse | 0x40 => r.anchorSel
  | 0x48 => half (d.anchorAt c (fld r.anchorSel 2 0)) false | 0x4C => half (d.anchorAt c (fld r.anchorSel 2 0)) true
  | _ => match nth o 0x80 4 16 with
    | some m => r.anchorData.get 0 m
    | none => if 0x100 ≤ o && o < 0x500 && o % 4 = 0 then readRing (d.ring c ((o - 0x100) / 0x40)) ((o - 0x100) % 0x40 / 4) else 0

/-- What a 4-byte read of a register sees, before any side effect; an offset that R404 does not list reads as zero (R390). -/
def regAt (d : Dev) (ofs : Nat) : Word :=
  match pageOf ofs with
  | some (c, o) => d.readCtx c o
  | none =>
    match ofs / 0x1000 with
    | 0x00 => d.readGlb ofs
    | 0x01 => d.readMbx (ofs - 0x1000)
    | 0x02 => d.readSec (ofs - 0x2000)
    | 0x03 => d.readCol (ofs - 0x3000)
    | 0x04 => if ofs = 0x4000 then half d.clk.ts false else if ofs = 0x4004 then half d.clk.ts true else 0
    | 0x10 => d.readPwr (ofs - 0x10000)
    | 0x20 => d.readErr (ofs - 0x20000)
    | 0x30 => d.readMem (ofs - 0x30000)
    | 0x40 => d.readCxl (ofs - 0x40000)
    | 0x50 => if ofs = 0x50000 then d.sync.wdog else 0
    | 0x60 => d.readCmp (ofs - 0x60000)
    | 0x70 => d.readLnk (ofs - 0x70000)
    | 0x90 => d.readDbg (ofs - 0x90000)
    | _ => match nth ofs 0x80000 4 4096 with | some n => d.lnk.rte.get 0 n | none => 0

end Dev

/-- The _LO register of a pair stands at an offset (R392, R404). -/
def loAt (ofs : Nat) : Bool :=
  match Dev.pageOf ofs with
  | some (_, o) => o = 0x48 || (0x100 ≤ o && o < 0x500 && (o % 0x40 = 0 || o % 0x40 = 8))
  | none => [0x18, 0x3008, 0x3010, 0x4000, 0x20028, 0x20060, 0x20068, 0x30008, 0x30010, 0x60000, 0x60008, 0x60010, 0x70010, 0x70018,
      0x90008, 0x90010, 0x90020].contains ofs
    || (nth ofs 0x10040 8 8).isSome || (nth ofs 0x10100 8 8).isSome || (nth ofs 0x90040 8 4).isSome || (nth ofs 0x90100 8 32).isSome
    || (match nth ofs 0x70100 8 24 with | some k => k % 4 < 3 | none => false)

/-- A requester's place among the latches (R398). -/
def requester : Origin → Nat
  | .fn c => c.val
  | .mgmt _ => 64
  | .jtag => 65

namespace Dev

/-- ERR_STALL_LIST is read: the oldest record leaves it (R269, R301). -/
def popStall (d : Dev) : Word × Dev :=
  match d.err.stallList with
  | [] => (0, d)
  | w :: ws => (w, d.onErr fun e => { e with stallList := ws })

/-- A read of a low half latches the high half for its requester (R398). -/
def latchHigh (d : Dev) (org : Origin) (ofs : Nat) : Dev :=
  { d with glb := { d.glb with latch := d.glb.latch.set (0, 0) (requester org) (ofs + 1, d.regAt (ofs + 4)) } }

/-- A read of BAR0 by an origin (R390 to R393, R398): its value, and the station with what the read consumed or latched. -/
def readBar0 (d : Dev) (org : Origin) (ofs : Nat) (wide : Bool) : Nat × Dev :=
  if !d.reaches org ofs || ofs % 4 ≠ 0 || (wide && !(loAt ofs && ofs % 8 = 0)) then (0, d)
  else if wide then ((d.regAt ofs).toNat + (d.regAt (ofs + 4)).toNat * 2 ^ 32, d)
  else if ofs = 0x1008 then let x := d.mbxPop; (x.1.toNat, x.2)
  else if ofs = 0x2004C then let x := d.popStall; (x.1.toNat, x.2)
  else if loAt ofs then
    ((d.regAt ofs).toNat, d.latchHigh org ofs)
  else if ofs ≥ 4 && loAt (ofs - 4) then
    let l := d.glb.latch.get (0, 0) (requester org)
    ((if l.1 = ofs - 4 + 1 then l.2 else d.regAt ofs).toNat, d)
  else ((d.regAt ofs).toNat, d)
/-- A read whose value goes back to its requester. Past BAR0 stand a function's standard registers, from 2^24 on, and the doorbell pages of
BAR2, from 2^25 on, which read as zero (R273, R279; log 76). -/
def readOut (d : Dev) (org : Origin) (ofs : Nat) (wide : Bool) : Dev :=
  if ofs ≥ 2 ^ 25 then d.emit (.regValue 0)
  else if ofs ≥ 2 ^ 24 then d.emit (.regValue (match org with | .fn c => if d.pins.perstN then d.pcieRead c.val (ofs - 2 ^ 24) else 0 | _ => 0))
  else
    let x := d.readBar0 org (bar0Ofs org ofs) wide
    x.2.emit (.regValue x.1)

end Dev

/-! ### The rows -/

/-- R392, R398. -/
def execLoReadLatch (org : Origin) (offset : Nat) (wide : Bool) (s : State) : Answer := s.on fun d => d.live fun d => d.readOut org offset wide
/-- R398. -/
def execHiReadLatched (org : Origin) (offset : Nat) (s : State) : Answer := s.on fun d => d.live fun d => d.readOut org offset false
/-- R269. -/
def execStallListRead (org : Origin) (s : State) : Answer := s.on fun d => d.live fun d => d.readOut org 0x2004C false
/-- R378: a request that firmware does not hear, during a finisher restart above all, is dropped (R387). -/
def execRegRead (req : MgmtRead) (s : State) : Answer := s.on fun d => d.live fun d =>
  if !d.hears req.via then d
  else
    let x := d.rouse.readBar0 (.mgmt req.via) req.offset false
    x.2.mgmtReply req.via St.ok [word x.1]

end Sys2Proof.Machine
end

