-- ==== Sys2Proof/Machine/RegisterWrites.lean ====
section
/-! DEFINITION. What a write of each register of BAR0 does (R38, R69, R70, R128, R182, R183, R198, R223, R230, R237 to R240, R242, R259 to
R272, R278, R302, R328, R338, R341, R355, R359, R369, R381, R390 to R404), accesses of unsupported size (R392), the management path's
writes (R378), the JTAG port (R409) and the board window (R402, R403). -/

namespace Sys2Proof.Machine

/-- A register's field takes its part of a written value on a condition; otherwise it keeps its own. -/
def setIf (b : Bool) (hi lo : Nat) (v old : Word) : Word := if b then setFld old hi lo (fld v hi lo) else old
/-- A half of a 64-bit value is replaced. -/
def setHalf (x : Dword) (hi : Bool) (v : Word) : Dword :=
  BitVec.ofNat 64 (if hi then v.toNat * 2 ^ 32 + x.toNat % 2 ^ 32 else x.toNat / 2 ^ 32 * 2 ^ 32 + v.toNat)
/-- W1C: the written ones clear. -/
def w1c (old v : Word) : Word := old &&& ~~~v

namespace Dev

/-- A write that changes nothing the rules name: ignored (R393). -/
def ignored (d : Dev) (org : Origin) (ofs : Nat) : Dev := d.written org ofs fun d => d.accepted org
/-- A write without a colophon entry. -/
def plainWrite (d : Dev) (org : Origin) (ofs : Nat) (f : Dev → Dev) : Dev := d.written org ofs fun d => (f d).accepted org
/-- A write of VALID = 1 clears a capture. -/
def clearWrite (d : Dev) (org : Origin) (ofs : Nat) (v : Word) (f : Dev → Dev) : Dev :=
  d.plainWrite org ofs fun d => if flag v 31 then f d else d
/-- A logged write: the register's new value is computed from the old and put in its place. -/
def putLogged (d : Dev) (org : Origin) (ofs : Nat) (old new : Word) (put : Word → Dev → Dev) : Dev :=
  d.loggedReg org ofs old.toNat new.toNat (put new)
/-- A logged write by any origin that reaches the register. -/
def loggedWrite (d : Dev) (org : Origin) (ofs : Nat) (old new : Word) (put : Word → Dev → Dev) : Dev :=
  d.written org ofs fun d => d.putLogged org ofs old new put
/-- A logged write by the physical function alone. -/
def loggedPf (d : Dev) (org : Origin) (ofs : Nat) (old new : Word) (put : Word → Dev → Dev) : Dev :=
  d.pfOnly org ofs fun d => d.putLogged org ofs old new put

/-! ### GLB_ (R397, R401, R403) -/

/-- The configuration changes of a write of GLB_RESET, in their order (R401). -/
def resetBits (v : Word) : List Nat :=
  (if flag v 16 then [0x10000] else []) ++ (if flag v 8 then [0x100] else [])
    ++ ((List.range 6).filter fun p => flag v p).map fun p => 2 ^ p
/-- One change of GLB_RESET. -/
def resetOne (d : Dev) (b : Nat) : Dev :=
  if b = 0x10000 then d.each (List.range 64) fun d c => d.disable c true
  else if b = 0x100 then d.cxlResets 15 false
  else d.lostPort b.log2 St.linkLost
/-- A write of GLB_RESET: each bit has its own entry, and each context key that goes has one (R353, R401). -/
def globReset (d : Dev) (org : Origin) (v : Word) : Dev :=
  d.pfOnly org 0x10 fun d =>
    let bits := resetBits v
    let keys := if flag v 16 then (d.ctxs.filter fun e => e.2.key.isSome).length else 0
    if bits.isEmpty then d.accepted org
    else d.loggedAll org 0x10 (bits.length + keys) fun d => d.each bits fun d b => (d.logNext (originCode org) 255 0 0x10 0 b 0).resetOne b
/-- GLB_ registers. -/
def writeGlb (d : Dev) (org : Origin) (o : Nat) (v : Word) : Dev :=
  match o with
  | 0x10 => d.globReset org v
  | 0x20 => d.clearWrite org o v fun d => { d with glb := { d.glb with refuse := 0, refuseOfs := 0 } }
  | 0x50 => d.clearWrite org o v fun d => { d with glb := { d.glb with winErr := 0 } }
  | _ => match nth o 0x40 4 4 with
    | some n => d.loggedWrite org o (d.glb.win.get 0 n) (v &&& 0x803F0FFF) fun w d =>
        { d with glb := { d.glb with win := d.glb.win.set 0 n w } }
    | none => d.ignored org o

/-! ### MBX_ and COL_ (R369, R381) -/

/-- MBX_CMD: GO starts the command; without it the fields are stored. A firmware image's write to flash succeeds or fails as a free
value says (log 2). -/
def mbxCmdWrite (d : Dev) (v : Word) : Dev :=
  if !flag v 31 then d.onMbx fun m => { m with cmd := v &&& 0xFFFFFF }
  else if fld v 23 16 = 0x11 then let x := d.freeFlash; x.2.mbxGo 0x11 (fld v 15 0) x.1
  else d.mbxGo (fld v 23 16) (fld v 15 0) true
/-- MBX_ registers. -/
def writeMbx (d : Dev) (org : Origin) (ofs : Nat) (v : Word) : Dev :=
  match ofs with
  | 0x1000 => d.pfOnly org ofs fun d => (d.mbxCmdWrite v).accepted org
  | 0x1008 => d.pfOnly org ofs fun d => (d.mbxPush v).accepted org
  | _ => d.ignored org ofs
/-- COL_ registers. -/
def writeCol (d : Dev) (org : Origin) (ofs : Nat) (v : Word) : Dev :=
  match ofs with
  | 0x3000 => d.loggedPf org ofs d.col.cfg (setIf (decide (1 ≤ fld v 14 0) && decide (fld v 14 0 ≤ colMain)) 14 0 v d.col.cfg) fun w d =>
      { d with col := { d.col with cfg := w } }
  | 0x3004 => d.plainWrite org ofs fun d =>
      { d with col := { d.col with resUsed := d.col.resUsed && !flag v 29, refusedFlag := d.col.refusedFlag && !flag v 28 } }
  | _ => d.ignored org ofs

/-! ### PWR_ (R69, R328) -/

/-- Change the power registers. -/
def onPr (d : Dev) (f : PwrRegs → PwrRegs) : Dev := { d with pr := f d.pr }
/-- PWR_CAP_CFG with a write's fields. -/
def capCfgOf (old v : Word) : Word :=
  setFld (setIf (decide (1 ≤ fld v 19 12)) 19 12 v
    (setIf (decide (1200 ≤ fld v 11 0) && decide (fld v 11 0 ≤ 2300)) 11 0 v old)) 27 20 (fld v 27 20)
/-- Whether what stopped the station lets it resume (R327, R328): the coolant signal high for 10 s, or T_j at 80 °C or below. -/
def mayResume (d : Dev) : Bool :=
  match d.pwr.stopCause with
  | 1 => (match d.pins.coolantHighAt with | some t => decide (d.now ≥ t + 10000000000) | none => false)
  | 2 => decide (d.heat.tj ≤ 80)
  | _ => false
/-- A write of PWR_STOP: RESUME ends a coolant stop 10 s after the signal rose, a thermal stop at 80 °C or less (R327, R328). -/
def stopWrite (d : Dev) (org : Origin) (v : Word) : Dev :=
  d.pfOnly org 0x1001C fun d =>
    if !flag v 31 || !d.pwr.stopped then d.accepted org
    else if d.mayResume then (d.resumeStation).accepted org
    else d.refuse org 0x1001C St.notPermitted

/-- PWR_ registers. -/
def writePwr (d : Dev) (org : Origin) (ofs : Nat) (v : Word) : Dev :=
  match ofs with
  | 0x10000 => d.loggedPf org ofs d.pr.capCfg (capCfgOf d.pr.capCfg v) fun w d => d.onPr fun p => { p with capCfg := w }
  | 0x10004 => d.loggedPf org ofs d.pr.mode (v &&& 0x1F) fun w d => d.onPr fun p => { p with mode := w }
  | 0x10008 => d.loggedPf org ofs d.pr.idleCfg (setIf (decide (1 ≤ fld v 1 0)) 1 0 v d.pr.idleCfg) fun w d =>
      d.onPr fun p => { p with idleCfg := w }
  | 0x1000C => d.loggedPf org ofs d.pr.thermCfg
      (setIf (decide (70 ≤ fld v 7 0) && decide (fld v 7 0 ≤ 105)) 7 0 v d.pr.thermCfg) fun w d =>
      (d.onPr fun p => { p with thermCfg := w }).thermAlert
  | 0x1001C => d.stopWrite org v
  | 0x10020 => d.loggedWrite org ofs d.pr.keepwarm (v &&& 0xFF03) fun w d => d.onPr fun p => { p with keepwarm := w }
  | _ => d.ignored org ofs

/-! ### ERR_ (R40, R123, R150, R185, R209, R238, R272, R338, R341, R342) -/

/-- ERR_ registers. -/
def writeErr (d : Dev) (org : Origin) (ofs : Nat) (v : Word) : Dev :=
  let clr := fun (f : ErrRegs → ErrRegs) => d.clearWrite org ofs v fun d => d.onErr f
  match ofs with
  | 0x20000 => d.plainWrite org ofs fun d => d.onErr fun e => { e with irqStatus := w1c e.irqStatus v }
  | 0x20004 => d.plainWrite org ofs fun d => d.onErr fun e => { e with irqEnable := v &&& 0xFFF }
  | 0x20008 => d.plainWrite org ofs fun d => d.onErr fun e => { e with irqVec := v &&& 0x1F }
  | 0x20010 => clr fun e => { e with core := 0 }
  | 0x20014 => d.retestWrite org v
  | 0x20018 => clr fun e => { e with internal := 0 }
  | 0x20020 => clr fun e => { e with mem := 0, memAddr := 0 }
  | 0x20030 => clr fun e => { e with cmem := 0 }
  | 0x20034 => clr fun e => { e with slice := 0 }
  | 0x20038 => clr fun e => { e with slip := 0, slipLate := 0 }
  | 0x20040 => clr fun e => { e with edition := 0, editionLoc := 0 }
  | 0x20048 => clr fun e => { e with stall := 0 }
  | 0x20050 => d.plainWrite org ofs fun d => d.onErr fun e => { e with stallOver := e.stallOver && !flag v 30 }
  | _ =>
    match nth ofs 0x20100 8 8, nth ofs 0x20140 8 8 with
    | some c, _ => d.clearWrite org ofs v fun d =>
        { d with coreErr := d.coreErr.modify {} c fun x => { x with numPos := 0, numSrc := 0 } }
    | none, some c => d.clearWrite org ofs v fun d =>
        { d with coreErr := d.coreErr.modify {} c fun x => { x with fold := 0, foldBlk := 0 } }
    | none, none => d.ignored org ofs

/-! ### MEM_, CXL_ and SYNC_ (R259, R261, R262, R269, R272) -/

/-- P3's slots are each 1 to 18 and sum to 20 (R259). -/
def splitOk (v : Word) : Bool :=
  let s := [fld v 17 13, fld v 12 8, fld v 7 3]
  fld v 1 0 ≠ 3 || (s.all (fun n => decide (1 ≤ n) && decide (n ≤ 18)) && s.foldl (· + ·) 0 = 20)
/-- MEM_, CXL_ and SYNC_ registers. -/
def writeMem (d : Dev) (org : Origin) (ofs : Nat) (v : Word) : Dev :=
  match ofs with
  | 0x30000 => d.pfOnly org ofs fun d =>
      if d.ctxs.any (fun e => e.2.regs.enable) || !splitOk v then d.refuse org ofs St.notPermitted
      else d.putLogged org ofs d.mem.split (v &&& 0x3FFFB) fun w d => d.onMem fun m => { m with split := w }
  | 0x40000 => d.written org ofs fun d => d.cxlCfgWrite org v
  | 0x40004 => d.loggedWrite org ofs d.mem.cxlTimeoutCfg
      (setIf (decide (50 ≤ fld v 15 0) && decide (fld v 15 0 ≤ 50000)) 15 0 v d.mem.cxlTimeoutCfg) fun w d =>
      d.onMem fun m => { m with cxlTimeoutCfg := w }
  | 0x50000 => d.loggedWrite org ofs d.sync.wdog (setIf (decide (fld v 15 0 ≠ 0)) 15 0 v d.sync.wdog) fun w d =>
      { d with sync := { d.sync with wdog := w } }
  | _ => d.ignored org ofs

/-! ### LNK_ and RTE_ (R183, R223, R230, R237, R238, R240, R242) -/

/-- Change the links. -/
def onLnk (d : Dev) (f : Lnk → Lnk) : Dev := { d with lnk := f d.lnk }
/-- LNK_STAGE_OCC_n: PEAK_RST sets PEAK to CUR (R183). -/
def peakReset (d : Dev) (org : Origin) (leaf : Nat) (v : Word) : Dev :=
  d.plainWrite org (0x70020 + 4 * leaf) fun d =>
    if flag v 15 then d.onCirc fun q => if leaf = 0 then { q with peakA := d.stageOcc 0 } else { q with peakB := d.stageOcc 1 } else d
/-- A half of LNK_BOARD_OPEN. -/
def boardOpenWrite (d : Dev) (org : Origin) (hi : Bool) (v : Word) : Dev :=
  d.loggedWrite org (if hi then 0x70014 else 0x70010) (half d.lnk.boardOpen.toNat hi) v fun w d =>
    d.onLnk fun l => { l with boardOpen := setHalf l.boardOpen hi w }
/-- LNK_ registers. -/
def writeLnk (d : Dev) (org : Origin) (ofs : Nat) (v : Word) : Dev :=
  match ofs with
  | 0x70000 => d.written org ofs fun d => d.planWrite org v
  | 0x70004 => d.written org ofs fun d =>
      if d.work.gath.isSome then d.refuse org ofs St.notPermitted
      else d.putLogged org ofs d.lnk.slice (v &&& 0xFFF) fun w d => d.onLnk fun l => { l with slice := w }
  | 0x70010 => d.boardOpenWrite org false v
  | 0x70014 => d.boardOpenWrite org true v
  | 0x70020 => d.peakReset org 0 v
  | 0x70024 => d.peakReset org 1 v
  | _ =>
    match nth ofs 0x70040 4 6, nth ofs 0x70060 4 6 with
    | some p, _ => d.loggedWrite org ofs (d.port p).plan (v &&& 0xFEFFFFFF) fun w d => d.onPort p fun x => { x with plan := w }
    | none, some p => d.loggedWrite org ofs (d.port p).asym (v &&& 0xFFFF) fun w d => d.onPort p fun x => { x with asym := w }
    | none, none => d.ignored org ofs
/-- RTE_TABLE_n: PORT 7 is reserved and leaves its field unchanged. -/
def writeRte (d : Dev) (org : Origin) (n : Nat) (v : Word) : Dev :=
  let old := d.lnk.rte.get 0 n
  let new := if fld v 30 28 = 7 then setFld (v &&& 0xF0000FFF) 30 28 (fld old 30 28) else v &&& 0xF0000FFF
  d.loggedPf org (0x80000 + 4 * n) old new fun w d => d.onLnk fun l => { l with rte := l.rte.set 0 n w }

/-! ### DBG_ (R271, R272, R359) -/

/-- Change the sync memory's registers. -/
def onSync (d : Dev) (f : Sync → Sync) : Dev := { d with sync := f d.sync }
/-- The enabled context that owns a sync word; 255 for none. -/
def wordOwner (d : Dev) (w : Nat) : Nat :=
  match d.ctxs.find? fun e => e.2.regs.enable && e.2.regs.syncBase.toNat ≤ w && w < e.2.regs.syncBase.toNat + e.2.regs.syncCount.toNat with
  | some e => e.1
  | none => 255
/-- A hand-set that is refused sets REFUSED. -/
def handRefused (d : Dev) (org : Origin) (st : Status) : Dev :=
  (d.onSync fun s => { s with dbgRefused := true }).refuse org 0x90018 st
/-- The hand-set itself: its entry, then the operation on the selected word as a debugger's (R271, R272). -/
def handGo (d : Dev) (org : Origin) (clear : Bool) : Dev :=
  let w := fld d.sync.dbgSel 15 0
  let x := d.dbgWord
  let val : Dword := if clear then 0 else d.sync.dbgWval
  let c := d.wordOwner w
  let d1 := d.log (originCode org) c 7 w x.val.toNat val.toNat (b2n x.full + b2n (!clear) * 2)
  let d2 := d1.onSync fun s => { s with dbgOp := clear, dbgRefused := false }
  ((d2.syncArrive w { op := if clear then .clear else .writeForce, ge := false, imm := val, ctx := c, iss := .debugger, since := d2.now }).coresGo).accepted org
/-- A write of DBG_SYNC_SET: by the physical function or the JTAG port (R271). -/
def handSet (d : Dev) (org : Origin) (v : Word) : Dev :=
  d.written org 0x90018 fun d =>
    let clear := flag v 0
    if !(org = .fn 0 || org = .jtag) then d.handRefused org St.notPermitted
    else if !flag v 31 then (d.onSync fun s => { s with dbgOp := clear }).accepted org
    else if d.boot.restarting then d.handRefused org St.notPermitted
    else if !d.colRoom 1 then d.logRefused.handRefused org St.logFull
    else d.handGo org clear
/-- DBG_ registers. -/
def writeDbg (d : Dev) (org : Origin) (ofs : Nat) (v : Word) : Dev :=
  match ofs with
  | 0x90000 => d.plainWrite org ofs fun d => d.onSync fun s => { s with dbgSel := v &&& 0xFFFF }
  | 0x90010 => d.plainWrite org ofs fun d => d.onSync fun s => { s with dbgWval := setHalf s.dbgWval false v }
  | 0x90014 => d.plainWrite org ofs fun d => d.onSync fun s => { s with dbgWval := setHalf s.dbgWval true v }
  | 0x90018 => d.handSet org v
  | 0x90028 => if d.inService ofs then d.tokenWord org v else d.accepted org
  | _ => d.ignored org ofs

/-! ### CTX_ (R38, R128, R182, R198, R266, R278, R302, R355) -/

/-- A logged write of a register of a context's page by any origin that reaches it. -/
def ctxLogged (d : Dev) (org : Origin) (c o : Nat) (old new : Word) (put : CtxRegs → CtxRegs) : Dev :=
  d.loggedWrite org (ctxOfs c o) old new fun _ d => d.onRegs c put
/-- CTX_SYNC_BASE and CTX_SYNC_COUNT: by the physical function, while the context is disabled, within the 65,536 words (R266). -/
def rangeWrite (d : Dev) (org : Origin) (c o : Nat) (base count old new : Word) (put : CtxRegs → CtxRegs) : Dev :=
  d.pfOnly org (ctxOfs c o) fun d =>
    if (d.ctx c).regs.enable || base.toNat + count.toNat > 65536 then d.refuse org (ctxOfs c o) St.notPermitted
    else d.putLogged org (ctxOfs c o) old new fun _ d => d.onRegs c put
/-- A half of a ring base: a write that changes it while the pair is enabled is refused (R278). -/
def baseWrite (d : Dev) (org : Origin) (c r k : Nat) (v : Word) : Dev :=
  let o := ringOfs r k
  let hi := k % 2 = 1
  let new : Word := if hi then v else v &&& 0xFFFFF000
  d.ctxWrite org c o fun d =>
    let g := d.ring c r
    let old := half (if k < 2 then g.sqBase else g.cqBase).toNat hi
    if flag g.cfg 31 && old ≠ new then d.refuse org (ctxOfs c o) St.notPermitted
    else d.putLogged org (ctxOfs c o) old new fun w d => d.onRing c r fun x =>
      if k < 2 then { x with sqBase := setHalf x.sqBase hi w } else { x with cqBase := setHalf x.cqBase hi w }
/-- Registers of a ring pair. -/
def writeRing (d : Dev) (org : Origin) (c r k : Nat) (v : Word) : Dev :=
  match k with
  | 4 => d.ctxWrite org c (ringOfs r 4) fun d => d.ringCfgWrite org c r v
  | 5 => d.ctxWrite org c (ringOfs r 5) fun d => d.putLogged org (ctxOfs c (ringOfs r 5)) (d.ring c r).irqMod v fun w d =>
      d.onRing c r fun x => { x with irqMod := w }
  | k => if k < 4 then d.baseWrite org c r k v else d.ignored org (ctxOfs c (ringOfs r k))
/-- Registers of a context's page. -/
def writeCtx (d : Dev) (org : Origin) (c o : Nat) (v : Word) : Dev :=
  let x := (d.ctx c).regs
  match o with
  | 0x00 => d.enableReg org c v
  | 0x04 => d.ctxLogged org c o (word (b2n x.subn + 2 * b2n x.subnActive)) (word (b2n (flag v 0) + 2 * b2n x.subnActive)) fun r => { r with subn := flag v 0 }
  | 0x08 =>
    let new := setFld (setIf (decide (fld v 11 8 ≠ 0)) 11 8 v x.foldCfg) 2 0 (fld v 2 0)
    d.ctxLogged org c o x.foldCfg new fun r => { r with foldCfg := new }
  | 0x0C => d.ctxLogged org c o x.foldEps v fun r => { r with foldEps := v }
  | 0x10 =>
    let new := setIf (decide (fld v 15 0 ≠ 0)) 15 0 v x.mcastLag
    d.ctxLogged org c o x.mcastLag new fun r => { r with mcastLag := new }
  | 0x14 =>
    let new := setFld (setIf (decide (60 ≤ fld v 16 0) && decide (fld v 16 0 ≤ 86400)) 16 0 v x.scrubCfg) 31 31 (fld v 31 31)
    d.ctxLogged org c o x.scrubCfg new fun r => { r with scrubCfg := new }
  | 0x18 =>
    let new := v &&& 0xFFFF
    d.rangeWrite org c o new x.syncCount x.syncBase new fun r => { r with syncBase := new }
  | 0x1C =>
    let new := v &&& 0x1FFFF
    d.rangeWrite org c o x.syncBase new x.syncCount new fun r => { r with syncCount := new }
  | 0x28 => d.ctxWrite org c o fun d => (if flag v 31 then d.onRegs c fun r => { r with ringErr := 0 } else d).accepted org
  | 0x2C => d.ctxWrite org c o fun d => (d.abortReg c v).accepted org
  | 0x30 => d.clearWrite org (ctxOfs c o) v fun d => d.onRegs c fun r => { r with regRefuse := 0 }
  | 0x40 => d.anchorWrite org c v
  | _ => match nth o 0x80 4 16 with
    | some m => d.plainWrite org (ctxOfs c o) fun d => d.onRegs c fun r => { r with anchorData := r.anchorData.set 0 m v }
    | none => if 0x100 ≤ o && o < 0x500 && o % 4 = 0 then d.writeRing org c ((o - 0x100) / 0x40) ((o - 0x100) % 0x40 / 4) v
      else d.ignored org (ctxOfs c o)

/-! ### Any register -/

/-- A 4-byte write of BAR0 at an aligned offset, by its block (R390, R396). -/
def writeReg (d : Dev) (org : Origin) (ofs : Nat) (v : Word) : Dev :=
  match pageOf ofs with
  | some (c, o) => d.writeCtx org c o v
  | none =>
    match ofs / 0x1000 with
    | 0x00 => d.writeGlb org ofs v
    | 0x01 => d.writeMbx org ofs v
    | 0x03 => d.writeCol org ofs v
    | 0x10 => d.writePwr org ofs v
    | 0x20 => d.writeErr org ofs v
    | 0x30 => d.writeMem org ofs v
    | 0x40 => d.writeMem org ofs v
    | 0x50 => d.writeMem org ofs v
    | 0x70 => d.writeLnk org ofs v
    | 0x90 => d.writeDbg org ofs v
    | _ => match nth ofs 0x80000 4 4096 with | some n => d.writeRte org n v | none => d.ignored org ofs
/-- A size or alignment that BAR0 does not accept: the write is refused (R392). -/
def badWrite (d : Dev) (org : Origin) (ofs : Nat) : Dev := d.written org ofs fun d => d.refuse org ofs St.notPermitted
/-- The halves of a pair are logged registers: a write of both has two entries. -/
def pairLogged (ofs : Nat) : Bool :=
  ofs = 0x70010 || (match pageOf ofs with | some (_, o) => 0x100 ≤ o && o < 0x500 && (o % 0x40 = 0 || o % 0x40 = 8) | none => false)
/-- An 8-byte write covers a pair, both halves at one moment: where the colophon lacks room for both entries, it is refused whole, and the entry of
the second half is reserved while the first is written (R367, R392, R396). -/
def writeWide (d : Dev) (org : Origin) (ofs : Nat) (v : Dword) : Dev :=
  if !(loAt ofs && ofs % 8 = 0) then d.badWrite org ofs
  else if pairLogged ofs && d.colRoom 1 && !d.colRoom 2 && !d.boot.restarting then
    d.written org ofs fun d => d.logRefused.refuse org ofs St.logFull
  else
    let n := b2n (pairLogged ofs)
    (((d.colReserve n).writeReg org ofs (half v.toNat false)).colRelease n).writeReg org (ofs + 4) (half v.toNat true)
/-- A write of a function's standard registers (R273; log 76): vectors that are unmasked signal, and what waited on D0 goes on. -/
def standardWrite (d : Dev) (org : Origin) (ofs : Nat) (v : Word) : Dev :=
  match org with
  | .fn c => if d.pins.perstN then ((d.pcieWrite c.val ofs v).drainRings).finishRuns else d
  | _ => d

/-! ### JTAG (R360, R409) -/

/-- Bytes of a memory as debug level 2 reads them, as they stand (R360; log 27). -/
def debugRead (d : Dev) (mem : DebugMem) (a n : Nat) : Bytes :=
  match mem with
  | .buffer c => d.bufGet c.val a n
  | .gddr => d.mem.gddr.getRange 0 a n
  | .cxl => d.mem.cxl.getRange 0 a n
  | .cmem => d.cmem.bytes.getRange 0 a n
  | .sync => (List.range n).map fun i => byte ((d.sync.words.get {} ((a + i) / 8)).val.toNat / 2 ^ (8 * ((a + i) % 8)))
/-- Debug level 2 writes bytes of a memory: nothing else of it changes, and no waiter is woken (R360; log 27). -/
def debugWrite (d : Dev) (mem : DebugMem) (a : Nat) (b : Bytes) : Dev :=
  match mem with
  | .buffer c => d.onCore c.val fun x => { x with buf := { x.buf with bytes := x.buf.bytes.setRange 0 a b } }
  | .gddr => d.onMem fun m => { m with gddr := m.gddr.setRange 0 a b }
  | .cxl => d.onMem fun m => { m with cxl := m.cxl.setRange 0 a b }
  | .cmem => { d with cmem := { d.cmem with bytes := d.cmem.bytes.setRange 0 a b } }
  | .sync => d.onSync fun s => { s with words := b.zipIdx.foldl (fun t x =>
      Table.modify {} t ((a + x.2) / 8) fun w => { w with val := BitVec.ofNat 64 (setBits w.val.toNat (8 * ((a + x.2) % 8) + 7) (8 * ((a + x.2) % 8)) x.1.toNat) }) s.words }
/-- What the JTAG port does with an instruction. -/
def jtagDo (d : Dev) : JtagReq → Dev
  | .idcode => d.emit (.jtag true 0x07160AB5)
  | .bypass => d.emit (.jtag true 0)
  | .readReg ofs =>
    if d.sec.debug ≥ 1 && jtagArea ofs then let x := d.readBar0 .jtag ofs false; x.2.emit (.jtag true (word x.1))
    else d.emit (.jtag false 0)
  | .writeReg ofs v =>
    if ofs = 0x90028 || (d.sec.debug ≥ 1 && jtagArea ofs) then (d.writeReg .jtag ofs v).emit (.jtag true 0)
    else d.emit (.jtag false 0)
  | .boundaryScan => if d.sec.debug ≥ 2 then (d.emit (.jtag true (word d.freeValue))).tookFree else d.emit (.jtag false 0)
  | .scanChain => if d.sec.debug ≥ 2 then (d.emit (.jtag true (word d.freeValue))).tookFree else d.emit (.jtag false 0)
  | .readMem mem a n => if d.sec.debug ≥ 2 then d.emit (.jtagMem (d.debugRead mem a n)) else d.emit (.jtag false 0)
  | .writeMem mem a b => if d.sec.debug ≥ 2 then (d.debugWrite mem a b).emit (.jtag true 0) else d.emit (.jtag false 0)

/-! ### The board window (R402, R403) -/

/-- What an access asks: whether it writes, its bytes, and how many they are. -/
def accOf : WinAccess → Bool × Bytes × Nat
  | .read n => (false, [], n)
  | .write b => (true, b, b.length)
/-- A window access to this module's own memory. -/
def winLocal (d : Dev) (n c va : Nat) (acc : WinAccess) : Dev :=
  let a := accOf acc
  if !(d.ctx c).regs.enable || !d.memUp then d.winFails a.1 n a.2.2 St.notPermitted false
  else if a.1 then
    let x := d.memPut c va a.2.1 none
    match x.1 with
    | some st => x.2.winFails true n a.2.2 st false
    | none => x.2
  else
    let x := d.memGet c va a.2.2
    match x.2.1 with
    | some st => x.2.2.winFails false n a.2.2 st (d.mapped c va a.2.2 false)
    | none => x.2.2.emit (.window x.1 false)
/-- An access of BAR4. -/
def window (d : Dev) (offset : Nat) (acc : WinAccess) : Dev := if !d.fnOpen 0 then d else
  let n := offset / 2 ^ 34 % 4
  let w := d.glb.win.get 0 n
  let c := fld w 21 16
  let va := fld w 11 0 * 2 ^ 34 + offset % 2 ^ 34
  let a := accOf acc
  if !flag w 31 then d.winFails a.1 n a.2.2 St.notPermitted false
  else if n = d.moduleNo then d.winLocal n c va acc
  else
    let head : Bytes := byte c :: zeros 7 ++ leBytes 8 va
    let x := d.boardOut none 0 n (if a.1 then 5 else 6) a.1 va a.2.2 none (head ++ if a.1 then a.2.1 else leBytes 8 a.2.2)
    match x.1 with
    | none => x.2
    | some st => x.2.winFails a.1 n a.2.2 st false

end Dev

/-! ### The rows -/

/-- R401. -/
def execResetContexts (org : Origin) (value : Word) (s : State) : Answer := s.on fun d => d.live fun d => d.globReset org value
/-- R401. -/
def execResetCxl (org : Origin) (value : Word) (s : State) : Answer := s.on fun d => d.live fun d => d.globReset org value
/-- R401. -/
def execResetPorts (org : Origin) (value : Word) (s : State) : Answer := s.on fun d => d.live fun d => d.globReset org value
/-- R327: only the physical function can write PWR_STOP (R328); a RESUME before its conditions hold is refused. -/
def execPwrStopResume (org : Origin) (value : Word) (s : State) : Answer := s.on fun d => d.live fun d => d.stopWrite org value
/-- R271. -/
def execDbgSyncSetForce (org : Origin) (value : Word) (s : State) : Answer := s.on fun d => d.live fun d => d.handSet org value
/-- R271. -/
def execDbgSyncSetClear (org : Origin) (value : Word) (s : State) : Answer := s.on fun d => d.live fun d => d.handSet org value
/-- R183. -/
def execLnkStagePeakReset (org : Origin) (leaf : LeafId) (value : Word) (s : State) : Answer :=
  s.on fun d => d.live fun d => d.peakReset org leaf.val value
/-- R392: an access of a size and alignment that BAR0 accepts is another row's. -/
def execBar0BadAccess (org : Origin) (write : Bool) (offset size : Nat) (s : State) : Answer := s.on fun d => d.live fun d =>
  let ofs := Dev.bar0Ofs org offset
  if (size = 4 && offset % 4 = 0) || (size = 8 && offset % 8 = 0 && loAt ofs) then d
  else if write then d.badWrite org ofs else d.emit (.regValue 0)
/-- R392, R396. -/
def execRegisterWrite (org : Origin) (offset : Nat) (wide : Bool) (value : Dword) (s : State) : Answer := s.on fun d => d.live fun d =>
  if offset ≥ 2 ^ 24 then d.standardWrite org (offset - 2 ^ 24) (half value.toNat false)
  else if wide then d.writeWide org (Dev.bar0Ofs org offset) value else d.writeReg org (Dev.bar0Ofs org offset) (half value.toNat false)
/-- R378. -/
def execRegWrite (via : Mctp) (offset : Nat) (value : Word) (s : State) : Answer :=
  s.on fun d => d.live fun d => d.writeReg (.mgmt via) offset value
/-- R409. -/
def execJtagInstruction (req : JtagReq) (s : State) : Answer := s.on fun d => d.live fun d => d.jtagDo req
/-- R402, R403. -/
def execBoardWindowAccess (offset : Nat) (acc : WinAccess) (s : State) : Answer := s.on fun d => d.live fun d => d.window offset acc

end Sys2Proof.Machine
end

