-- ==== Sys2Proof/Machine/Dispatch.lean ====
section
/-! DEFINITION. What each command does: one arm per row of the opcode table, each a call of that row's meaning. -/

namespace Sys2Proof.Machine

def exec (i : Instr) (s : State) : Host.Outcome State Fault Refusal :=
  match i with
  | .nop core => Sys2Proof.Machine.execNop core s
  | .halt core => Sys2Proof.Machine.execHalt core s
  | .phase core => Sys2Proof.Machine.execPhase core s
  | .bar core => Sys2Proof.Machine.execBar core s
  | .mxm core => Sys2Proof.Machine.execMxm core s
  | .dist core => Sys2Proof.Machine.execDist core s
  | .ldw core found => Sys2Proof.Machine.execLdw core found s
  | .vec core found => Sys2Proof.Machine.execVec core found s
  | .cvt core found => Sys2Proof.Machine.execCvt core found s
  | .mov core found => Sys2Proof.Machine.execMov core found s
  | .fsc core => Sys2Proof.Machine.execFsc core s
  | .fusedStageIteration core run stage gap bubbles found => Sys2Proof.Machine.execFusedStageIteration core run stage gap bubbles found s
  | .topkCmem core found => Sys2Proof.Machine.execTopkCmem core found s
  | .topkScan core found => Sys2Proof.Machine.execTopkScan core found s
  | .topkMerge core found => Sys2Proof.Machine.execTopkMerge core found s
  | .send core found => Sys2Proof.Machine.execSend core found s
  | .recv core => Sys2Proof.Machine.execRecv core s
  | .writeFill core => Sys2Proof.Machine.execWriteFill core s
  | .readEmpty core => Sys2Proof.Machine.execReadEmpty core s
  | .readPeek core => Sys2Proof.Machine.execReadPeek core s
  | .fetchAddFull core => Sys2Proof.Machine.execFetchAddFull core s
  | .clear core => Sys2Proof.Machine.execClear core s
  | .writeForce core => Sys2Proof.Machine.execWriteForce core s
  | .syncOpArrival arrival found => Sys2Proof.Machine.execSyncOpArrival arrival found s
  | .heldOpRepresent leaf found => Sys2Proof.Machine.execHeldOpRepresent leaf found s
  | .instructionComplete core unit found => Sys2Proof.Machine.execInstructionComplete core unit found s
  | .mxmLoadBegin core => Sys2Proof.Machine.execMxmLoadBegin core s
  | .blockStreamBegin core gap bubbles found => Sys2Proof.Machine.execBlockStreamBegin core gap bubbles found s
  | .rowDrain core array => Sys2Proof.Machine.execRowDrain core array s
  | .keepwarmTimeout core slots => Sys2Proof.Machine.execKeepwarmTimeout core slots s
  | .keepwarmStepDown core => Sys2Proof.Machine.execKeepwarmStepDown core s
  | .phaseBoundary => Sys2Proof.Machine.execPhaseBoundary s
  | .runStart => Sys2Proof.Machine.execRunStart s
  | .oppSwitchWindow => Sys2Proof.Machine.execOppSwitchWindow s
  | .oppWindowResume pausedNs => Sys2Proof.Machine.execOppWindowResume pausedNs s
  | .oppChangeAbandon => Sys2Proof.Machine.execOppChangeAbandon s
  | .droopCrossing core level => Sys2Proof.Machine.execDroopCrossing core level s
  | .stretchDecay core => Sys2Proof.Machine.execStretchDecay core s
  | .powerSample inMv10 inMa10 inW rails => Sys2Proof.Machine.execPowerSample inMv10 inMa10 inW rails s
  | .thermalSample readings => Sys2Proof.Machine.execThermalSample readings s
  | .thermalStep => Sys2Proof.Machine.execThermalStep s
  | .thermalStepUndo => Sys2Proof.Machine.execThermalStepUndo s
  | .thermalStop => Sys2Proof.Machine.execThermalStop s
  | .boostAccounting => Sys2Proof.Machine.execBoostAccounting s
  | .boostFlashUpdate => Sys2Proof.Machine.execBoostFlashUpdate s
  | .coolantFaultLow => Sys2Proof.Machine.execCoolantFaultLow s
  | .coolantStop => Sys2Proof.Machine.execCoolantStop s
  | .pwrStopResume org value => Sys2Proof.Machine.execPwrStopResume org value s
  | .idleEntry => Sys2Proof.Machine.execIdleEntry s
  | .idleWake => Sys2Proof.Machine.execIdleWake s
  | .unannouncedWake => Sys2Proof.Machine.execUnannouncedWake s
  | .sqTailDoorbell fn offset size value => Sys2Proof.Machine.execSqTailDoorbell fn offset size value s
  | .cqHeadDoorbell fn offset size value => Sys2Proof.Machine.execCqHeadDoorbell fn offset size value s
  | .descriptorFetch ctx ring resp => Sys2Proof.Machine.execDescriptorFetch ctx ring resp s
  | .descriptorAccept ctx => Sys2Proof.Machine.execDescriptorAccept ctx s
  | .item ctx input => Sys2Proof.Machine.execItem ctx input s
  | .run ctx => Sys2Proof.Machine.execRun ctx s
  | .abort ctx ring => Sys2Proof.Machine.execAbort ctx ring s
  | .bindLoad ctx container => Sys2Proof.Machine.execBindLoad ctx container s
  | .bindSwitch ctx => Sys2Proof.Machine.execBindSwitch ctx s
  | .gatherForm ctx record => Sys2Proof.Machine.execGatherForm ctx record s
  | .formationMessage port packet => Sys2Proof.Machine.execFormationMessage port packet s
  | .gatherFormTimeout => Sys2Proof.Machine.execGatherFormTimeout s
  | .gatherRelease ctx => Sys2Proof.Machine.execGatherRelease ctx s
  | .editionLoad ctx manifest image => Sys2Proof.Machine.execEditionLoad ctx manifest image s
  | .editionUnload ctx => Sys2Proof.Machine.execEditionUnload ctx s
  | .digestInstall ctx entries => Sys2Proof.Machine.execDigestInstall ctx entries s
  | .digestRemove ctx => Sys2Proof.Machine.execDigestRemove ctx s
  | .bindPassStart ctx => Sys2Proof.Machine.execBindPassStart ctx s
  | .bindPassEnd ctx => Sys2Proof.Machine.execBindPassEnd ctx s
  | .stage ctx manifest image => Sys2Proof.Machine.execStage ctx manifest image s
  | .close ctx => Sys2Proof.Machine.execClose ctx s
  | .barrierClosed ctx => Sys2Proof.Machine.execBarrierClosed ctx s
  | .commit ctx => Sys2Proof.Machine.execCommit ctx s
  | .commitWrite ctx => Sys2Proof.Machine.execCommitWrite ctx s
  | .kettleOpen ctx => Sys2Proof.Machine.execKettleOpen ctx s
  | .replace ctx => Sys2Proof.Machine.execReplace ctx s
  | .map ctx => Sys2Proof.Machine.execMap ctx s
  | .mapFramesReady => Sys2Proof.Machine.execMapFramesReady s
  | .unmap ctx => Sys2Proof.Machine.execUnmap ctx s
  | .frameClear cxl frame => Sys2Proof.Machine.execFrameClear cxl frame s
  | .copy ctx data found => Sys2Proof.Machine.execCopy ctx data found s
  | .colophonDrain ctx => Sys2Proof.Machine.execColophonDrain ctx s
  | .itemResultCopy found => Sys2Proof.Machine.execItemResultCopy found s
  | .irqModerationTimeout ctx ring => Sys2Proof.Machine.execIrqModerationTimeout ctx ring s
  | .contextEnable org ctx value => Sys2Proof.Machine.execContextEnable org ctx value s
  | .contextDisable org ctx value => Sys2Proof.Machine.execContextDisable org ctx value s
  | .ringPairEnable org ctx ring value => Sys2Proof.Machine.execRingPairEnable org ctx ring value s
  | .ringPairDisable org ctx ring value => Sys2Proof.Machine.execRingPairDisable org ctx ring value s
  | .ctxAbort org ctx value => Sys2Proof.Machine.execCtxAbort org ctx value s
  | .functionLevelReset fn => Sys2Proof.Machine.execFunctionLevelReset fn s
  | .perstN level => Sys2Proof.Machine.execPerstN level s
  | .hotReset => Sys2Proof.Machine.execHotReset s
  | .info via arg => Sys2Proof.Machine.execInfo via arg s
  | .fwBegin via arg => Sys2Proof.Machine.execFwBegin via arg s
  | .fwEnd via arg flashOk => Sys2Proof.Machine.execFwEnd via arg flashOk s
  | .fwActivate via arg => Sys2Proof.Machine.execFwActivate via arg s
  | .restart via arg => Sys2Proof.Machine.execRestart via arg s
  | .logRead via arg => Sys2Proof.Machine.execLogRead via arg s
  | .dumpRead via arg => Sys2Proof.Machine.execDumpRead via arg s
  | .telemetry via arg => Sys2Proof.Machine.execTelemetry via arg s
  | .shutdown via arg => Sys2Proof.Machine.execShutdown via arg s
  | .shutdownFinish => Sys2Proof.Machine.execShutdownFinish s
  | .mbxDataWrite org word => Sys2Proof.Machine.execMbxDataWrite org word s
  | .mbxDataRead org => Sys2Proof.Machine.execMbxDataRead org s
  | .finisherRestartDone flashReadOk => Sys2Proof.Machine.execFinisherRestartDone flashReadOk s
  | .finisherWatchdog dump => Sys2Proof.Machine.execFinisherWatchdog dump s
  | .regRead req => Sys2Proof.Machine.execRegRead req s
  | .regWrite via offset value => Sys2Proof.Machine.execRegWrite via offset value s
  | .mctpMailbox via cmd arg words => Sys2Proof.Machine.execMctpMailbox via cmd arg words s
  | .setEndpointId medium eid => Sys2Proof.Machine.execSetEndpointId medium eid s
  | .requestFirmwareData offset data => Sys2Proof.Machine.execRequestFirmwareData offset data s
  | .activateFirmware => Sys2Proof.Machine.execActivateFirmware s
  | .setEventReceiver medium eid => Sys2Proof.Machine.execSetEventReceiver medium eid s
  | .sensorRefresh => Sys2Proof.Machine.execSensorRefresh s
  | .spdmRequest msg => Sys2Proof.Machine.execSpdmRequest msg s
  | .setContextKey session ctx key => Sys2Proof.Machine.execSetContextKey session ctx key s
  | .ideKm session req => Sys2Proof.Machine.execIdeKm session req s
  | .ideNotSecure => Sys2Proof.Machine.execIdeNotSecure s
  | .unlockTokenWord org word => Sys2Proof.Machine.execUnlockTokenWord org word s
  | .unlockLockoutExpiry => Sys2Proof.Machine.execUnlockLockoutExpiry s
  | .jtagInstruction req => Sys2Proof.Machine.execJtagInstruction req s
  | .anchorCommit org ctx value => Sys2Proof.Machine.execAnchorCommit org ctx value s
  | .anchorRemove org ctx value => Sys2Proof.Machine.execAnchorRemove org ctx value s
  | .planApply org value => Sys2Proof.Machine.execPlanApply org value s
  | .cordStateAdvance port cord lanes gbps => Sys2Proof.Machine.execCordStateAdvance port cord lanes gbps s
  | .cordTrainingTimeout port cord => Sys2Proof.Machine.execCordTrainingTimeout port cord s
  | .cordDrop port cord => Sys2Proof.Machine.execCordDrop port cord s
  | .cordRetrain port cord => Sys2Proof.Machine.execCordRetrain port cord s
  | .cordSet port msg => Sys2Proof.Machine.execCordSet port msg s
  | .cordPower port msg => Sys2Proof.Machine.execCordPower port msg s
  | .cordWake port => Sys2Proof.Machine.execCordWake port s
  | .stopping port msg => Sys2Proof.Machine.execStopping port msg s
  | .portLost port => Sys2Proof.Machine.execPortLost port s
  | .helloSend port => Sys2Proof.Machine.execHelloSend port s
  | .helloReceive port msg => Sys2Proof.Machine.execHelloReceive port msg s
  | .helloTimeout port => Sys2Proof.Machine.execHelloTimeout port s
  | .portAbsent port => Sys2Proof.Machine.execPortAbsent port s
  | .moduleFlag port cord => Sys2Proof.Machine.execModuleFlag port cord s
  | .keyCert port msg => Sys2Proof.Machine.execKeyCert port msg s
  | .keyShare port msg => Sys2Proof.Machine.execKeyShare port msg s
  | .keySwitch port msg => Sys2Proof.Machine.execKeySwitch port msg s
  | .keyEpochRenewal port => Sys2Proof.Machine.execKeyEpochRenewal port s
  | .keyAgreementRetry port => Sys2Proof.Machine.execKeyAgreementRetry port s
  | .tagGroupClose port => Sys2Proof.Machine.execTagGroupClose port s
  | .tagFlit port flit => Sys2Proof.Machine.execTagFlit port flit s
  | .transit port msg => Sys2Proof.Machine.execTransit port msg s
  | .timeSyncExchange => Sys2Proof.Machine.execTimeSyncExchange s
  | .timeSync port t1 t2 t3 t4 => Sys2Proof.Machine.execTimeSync port t1 t2 t3 t4 s
  | .timeSteer port ppm at_ => Sys2Proof.Machine.execTimeSteer port ppm at_ s
  | .timeSteerApply => Sys2Proof.Machine.execTimeSteerApply s
  | .flitReceive port flit => Sys2Proof.Machine.execFlitReceive port flit s
  | .nakReceive port number => Sys2Proof.Machine.execNakReceive port number s
  | .ackTimer port => Sys2Proof.Machine.execAckTimer port s
  | .signatureArrival port packet => Sys2Proof.Machine.execSignatureArrival port packet s
  | .signaturePlacement => Sys2Proof.Machine.execSignaturePlacement s
  | .injectionBegin found => Sys2Proof.Machine.execInjectionBegin found s
  | .signatureBuildDone leaf => Sys2Proof.Machine.execSignatureBuildDone leaf s
  | .activationMessage port packet => Sys2Proof.Machine.execActivationMessage port packet s
  | .shortlistPacket port packet => Sys2Proof.Machine.execShortlistPacket port packet s
  | .boardStore port packet => Sys2Proof.Machine.execBoardStore port packet s
  | .boardLoadRequest port packet => Sys2Proof.Machine.execBoardLoadRequest port packet s
  | .boardLoadResponse port packet => Sys2Proof.Machine.execBoardLoadResponse port packet s
  | .acknowledgement port packet => Sys2Proof.Machine.execAcknowledgement port packet s
  | .lagExpiry src tag => Sys2Proof.Machine.execLagExpiry src tag s
  | .controlStart port packet => Sys2Proof.Machine.execControlStart port packet s
  | .controlAbort port packet => Sys2Proof.Machine.execControlAbort port packet s
  | .passStart mb => Sys2Proof.Machine.execPassStart mb s
  | .scrubSweepStart ctx found => Sys2Proof.Machine.execScrubSweepStart ctx found s
  | .patrol frame found => Sys2Proof.Machine.execPatrol frame found s
  | .frameRetirement frame => Sys2Proof.Machine.execFrameRetirement frame s
  | .cxlTimeout device ctx va write => Sys2Proof.Machine.execCxlTimeout device ctx va write s
  | .cxlLinkDown device => Sys2Proof.Machine.execCxlLinkDown device s
  | .cxlEnumerate org value => Sys2Proof.Machine.execCxlEnumerate org value s
  | .cxlReadyTimeout => Sys2Proof.Machine.execCxlReadyTimeout s
  | .cxlEventRecord device record => Sys2Proof.Machine.execCxlEventRecord device record s
  | .stallDetected index => Sys2Proof.Machine.execStallDetected index s
  | .stallListRead org => Sys2Proof.Machine.execStallListRead org s
  | .checkpoint => Sys2Proof.Machine.execCheckpoint s
  | .coreFault core kind => Sys2Proof.Machine.execCoreFault core kind s
  | .coreRetestRequest org value => Sys2Proof.Machine.execCoreRetestRequest org value s
  | .coreRetest core passed => Sys2Proof.Machine.execCoreRetest core passed s
  | .internalFault leaf unit => Sys2Proof.Machine.execInternalFault leaf unit s
  | .leafTestEnd passed => Sys2Proof.Machine.execLeafTestEnd passed s
  | .powerUp modulePos flashReadOk => Sys2Proof.Machine.execPowerUp modulePos flashReadOk s
  | .gddr7Trained ok => Sys2Proof.Machine.execGddr7Trained ok s
  | .stationReady => Sys2Proof.Machine.execStationReady s
  | .supplyCollapse => Sys2Proof.Machine.execSupplyCollapse s
  | .moduleRemoval => Sys2Proof.Machine.execModuleRemoval s
  | .hotswapOpen => Sys2Proof.Machine.execHotswapOpen s
  | .hotswapClose modulePos flashReadOk => Sys2Proof.Machine.execHotswapClose modulePos flashReadOk s
  | .refclkLoss => Sys2Proof.Machine.execRefclkLoss s
  | .resetContexts org value => Sys2Proof.Machine.execResetContexts org value s
  | .resetCxl org value => Sys2Proof.Machine.execResetCxl org value s
  | .resetPorts org value => Sys2Proof.Machine.execResetPorts org value s
  | .dbgSyncSetForce org value => Sys2Proof.Machine.execDbgSyncSetForce org value s
  | .dbgSyncSetClear org value => Sys2Proof.Machine.execDbgSyncSetClear org value s
  | .lnkStagePeakReset org leaf value => Sys2Proof.Machine.execLnkStagePeakReset org leaf value s
  | .loReadLatch org offset wide => Sys2Proof.Machine.execLoReadLatch org offset wide s
  | .hiReadLatched org offset => Sys2Proof.Machine.execHiReadLatched org offset s
  | .bar0BadAccess org write offset size => Sys2Proof.Machine.execBar0BadAccess org write offset size s
  | .boardWindowAccess offset acc => Sys2Proof.Machine.execBoardWindowAccess offset acc s
  | .registerWrite org offset wide value => Sys2Proof.Machine.execRegisterWrite org offset wide value s
  | .coolantFaultHigh => Sys2Proof.Machine.execCoolantFaultHigh s
  | .referenceClockReturn => Sys2Proof.Machine.execReferenceClockReturn s
  | .requestUpdate => Sys2Proof.Machine.execRequestUpdate s
  | .cxlMediaReady device capacityMib => Sys2Proof.Machine.execCxlMediaReady device capacityMib s

end Sys2Proof.Machine
end

