-- ==== Sys2Proof/Safety.lean ====
section
/-! DEFINITION. What a safe run is, in the terms the statements use. -/

namespace Sys2Proof.Machine

/-- A step is safe in a state when it answers a next state: the machine has neither stopped nor met a command it does not know. -/
def SafeStep (s : State) : Prop := ∃ t, step s = .next t

/-- A run of `k` steps is safe from a state when every step of it answers a next state. -/
def SafeRun (k : Nat) (s : State) : Prop := ∃ t, Sys2Proof.core.run k s = .next t

/-- A command completes: it answers a next state, in which the station has become `d` and the queue stands as it was. -/
def Becomes (c : Instr) (s : State) (d : Dev) : Prop := exec c s = .next { s with dev := d }

/-- The fuses at a later moment: SVN is no smaller, and every other fuse is as it was (R345, R348). -/
def FusesForward (a b : Fuses) : Prop := a.svn ≤ b.svn ∧ { b with svn := a.svn } = a

/-- The positions at which a signature is obtained (R155, R156) from a station at position `p` that obtained it on leg `got1` − 1: every
copy that the station launches is obtained at each station of its hops, and each of those launches the later legs. -/
def obtainedFrom (d : Dev) (axes : List Nat) (split : Nat) : Nat → Nat → Nat → List Nat
  | 0, _, _ => []
  | k + 1, got1, p =>
    let e := d.onWork fun w => { w with gath := w.gath.map fun g => { g with pos := p } }
    (launches axes e.dims split got1).flatMap fun x =>
      (List.range x.2.2.2).flatMap fun i =>
        let q := e.posStep x.1 x.2.1 (i + 1)
        q :: obtainedFrom d axes split k (x.2.2.1 + 1) q

/-- The bounds of R101 over the reals, for the free constant itself: EXP and LOG within one unit in the last place, TANH, SIGMOID, GELU and
SILU within two and 2^−126. The machine rests on no such premise: it holds every free result to the bounds in exact arithmetic
(`transcExact`, `nearest`), and takes the number nearest the exact value where the constant lies outside them. GELU's constants are
PRESUMED: R100 says only that it has its tanh form (log 10). -/
def AccurateTransc : Prop := ∀ a : Word, (f32 a).isFinite = true → ∀ x : ℝ, x = (f32Rat a : ℝ) →
  (∀ w, w = Config.transc 0x10 a → |Real.exp x| < 2 ^ 127 → |(f32Rat w : ℝ) - Real.exp x| ≤ (ulpRat w : ℝ)) ∧
  (∀ w, w = Config.transc 0x11 a → 0 < x → |(f32Rat w : ℝ) - Real.log x| ≤ (ulpRat w : ℝ)) ∧
  (∀ w, w = Config.transc 0x14 a → |(f32Rat w : ℝ) - Real.tanh x| ≤ 2 * (ulpRat w : ℝ) + 1 / 2 ^ 126) ∧
  (∀ w, w = Config.transc 0x15 a → |(f32Rat w : ℝ) - 1 / (1 + Real.exp (-x))| ≤ 2 * (ulpRat w : ℝ) + 1 / 2 ^ 126) ∧
  (∀ w, w = Config.transc 0x16 a →
    |(f32Rat w : ℝ) - x / 2 * (1 + Real.tanh (Real.sqrt (2 / Real.pi) * (x + 44715 / 1000000 * x ^ 3)))|
      ≤ 2 * (ulpRat w : ℝ) + 1 / 2 ^ 126) ∧
  (∀ w, w = Config.transc 0x17 a → |(f32Rat w : ℝ) - x / (1 + Real.exp (-x))| ≤ 2 * (ulpRat w : ℝ) + 1 / 2 ^ 126)

end Sys2Proof.Machine
end

