-- ==== Sys2Proof/Certificates/Slice0/Obligations.lean ====
section
/-! DEFINITION. The statements for the provers. A statement of completion says, for each command it names, that under conditions on
the station and the operands alone the command answers a next state, which one, and so what it leaves as it was: everything that the
named change does not touch. Statements of rules then say what those changes are. -/

open Sys2Proof Sys2Proof.Machine Sys2Proof.Machine.Dev

/-! ### The machine -/

/-- A command at the front of the queue is what the step runs, on the rest of the queue. -/
def Obligations.StepRunsTheFrontCommand : Prop :=
  ∀ (c : Instr) (s : State), step { s with pending := c :: s.pending } = exec c s

/-- Every step answers a next state (the model's choice: log 1). No command stops the machine or touches the commands that wait behind it;
with nothing waiting a step is one cycle of the 100 MHz reference, which changes the clock and the free-value counter only (the model's
choice: log 8). -/
def Obligations.EveryStepAnswers : Prop :=
  (∀ (c : Instr) (s : State), ∃ d, Becomes c s d) ∧
  ∀ s : State, s.pending = [] → ∃ t, step s = .next t ∧ t.pending = [] ∧
    { t.dev with clk := s.dev.clk, free := s.dev.free } = s.dev
/-! ### The sequencers and units of the cores -/

/-- NOP, HALT, PHASE and BAR: the sequencer executes them itself (R77, R98). -/
def Obligations.SequencerCommandsComplete : Prop :=
  ∀ (s : State) (core : CoreId) (w : Nat), s.dev.powered = true → s.dev.wordAt core.val = some w →
    (IW.opc w = IW.oNop → Becomes (.nop core) s
      (((s.dev.onSeq core.val fun q => { q with pc := q.pc + 1 }).stamped core.val).doneOf core.val w)) ∧
    (IW.opc w = IW.oHalt → Becomes (.halt core) s
      (((s.dev.onSeq core.val fun q => { q with pc := q.pc + 1, st := .halted }).stamped core.val).doneOf core.val w)) ∧
    (IW.opc w = IW.oPhase → Becomes (.phase core) s
      ((((s.dev.keepStandOff core.val).onSeq core.val fun q => { q with pc := q.pc + 1, st := .atPhase }).stamped core.val).doneOf
        core.val w)) ∧
    (IW.opc w = IW.oBar → Becomes (.bar core) s
      (s.dev.barHere core.val w).coresGo)

/-- The instructions of the unit queues: issue puts one behind the others of its unit and the sequencer goes on, in order and without
a scoreboard, while the queue has room (R83); then every unit that can start does. -/
def Obligations.IssueCompletes : Prop :=
  ∀ (s : State) (core : CoreId) (fs : List Found) (w : Nat), s.dev.powered = true →
    (s.dev.wordAt core.val = some w → (s.dev.queue core.val .ar).length < unitDepth .ar →
      (IW.opc w = IW.oMxm → Becomes (.mxm core) s (s.dev.enqueue core.val .ar w).coresGo) ∧
      (IW.opc w = IW.oDist → Becomes (.dist core) s (s.dev.enqueue core.val .ar w).coresGo)) ∧
    (s.dev.wordAt core.val = some w → (s.dev.queue core.val .se).length < unitDepth .se →
      IW.opc w = IW.oFsc → Becomes (.fsc core) s (s.dev.enqueue core.val .se w).coresGo) ∧
    (s.dev.wordAt core.val = some w → (s.dev.queue core.val .rg).length < unitDepth .rg →
      IW.opc w = IW.oRecv → Becomes (.recv core) s (s.dev.enqueue core.val .rg w).coresGo) ∧
    ∀ d, d = s.dev.found fs → d.wordAt core.val = some w →
      (IW.opc w = IW.oLdw → (d.queue core.val .ex).length < unitDepth .ex →
        Becomes (.ldw core fs) s (d.enqueue core.val .ex w).coresGo) ∧
      (IW.opc w = IW.oVec → (d.queue core.val .vu).length < unitDepth .vu →
        Becomes (.vec core fs) s (d.enqueue core.val .vu w).coresGo) ∧
      (IW.opc w = IW.oCvt → (d.queue core.val .vu).length < unitDepth .vu →
        Becomes (.cvt core fs) s (d.enqueue core.val .vu w).coresGo) ∧
      (IW.opc w = IW.oMov → (d.queue core.val .se).length < unitDepth .se →
        Becomes (.mov core fs) s (d.enqueue core.val .se w).coresGo) ∧
      (IW.opc w = IW.oTopk → (d.queue core.val .cx).length < unitDepth .cx →
        (IW.tEngine w = 0 → Becomes (.topkCmem core fs) s (d.enqueue core.val .cx w).coresGo) ∧
        (IW.tEngine w = 1 → Becomes (.topkScan core fs) s (d.enqueue core.val .cx w).coresGo) ∧
        (IW.tEngine w = 2 → Becomes (.topkMerge core fs) s (d.enqueue core.val .cx w).coresGo)) ∧
      (IW.opc w = IW.oSend → (d.queue core.val .rg).length < unitDepth .rg →
        Becomes (.send core fs) s (d.enqueue core.val .rg w).coresGo)

/-- What issue does: the entry is last of its queue, the program counter has moved on by one word, the other queues of the core, its
arrays and its buffer, the other cores and everything else of the station but the issue counter are as they were (R83). -/
def Obligations.IssueFrame : Prop :=
  ∀ (d : Dev) (c : Nat) (u : CoreUnit) (w : Nat),
    (d.enqueue c u w).queue c u = d.queue c u ++ [d.newEntry c w none] ∧
    ((d.enqueue c u w).core c).seq = { (d.core c).seq with pc := (d.core c).seq.pc + 1 } ∧
    ((d.enqueue c u w).core c).arr = (d.core c).arr ∧ ((d.enqueue c u w).core c).buf = (d.core c).buf ∧
    (∀ v, v ≠ u → (d.enqueue c u w).queue c v = d.queue c v) ∧
    (∀ k, k ≠ c → (d.enqueue c u w).core k = d.core k) ∧
    { d.enqueue c u w with cores := d.cores, issueNo := d.issueNo } = d

/-- An instruction alone in its unit's queue, with nothing that holds it back, starts and has its own effect: LDW fills its slot, VEC,
CVT and MOV write their rows, TOPK its lists, FSC begins to run, SEND sends and RECV looks for what has arrived (R51, R83, R91 to R96,
R100, R105, R138).
The model's choices in it: logs 9, 10, 16 and 17. -/
def Obligations.UnitsPerformTheirInstructions : Prop :=
  ∀ (d : Dev) (c : Nat) (u : CoreUnit) (e : QEnt) (w : Nat),
    d.queue c u = [e] → e.token = none → e.st = .queued → e.word.toNat = w → d.claimed c u = false →
    (d.circ.boards.any fun b => b.core = some c && b.entry = e.no && !b.store) = false →
    missing e.got d.moduleNo (d.entryRanges c w) = [] →
    let d1 := d.onEntry c e.no fun y => { y with st := .done, since := d.now }
    let d2 := d.onEntry c e.no fun y => { y with st := .begun, since := d.now }
    (u = .ex → IW.opc w = IW.oLdw → d.slotHeld c e.no (IW.lSlot w) = false → d.startNext c u = d1.loadTile c (ldwJob w)) ∧
    (u = .vu → IW.opc w = IW.oVec → d.startNext c u =
      (d1.vecDo c e.no e.got (IW.vOp w) (IW.vImm w) (IW.vBcast w) false (d1.desc c (IW.vDa w)) (d1.desc c (IW.vDb w)) (d1.desc c (IW.vDd w))).2) ∧
    (u = .vu → IW.opc w = IW.oCvt → d.startNext c u =
      (d1.cvtDo c e.no e.pc e.got (IW.cPiece w) (if IW.cNoParam w then 0xFFFF else IW.cDp w) false (d1.desc c (IW.cDs w))
        (d1.desc c (IW.cDd w))).2) ∧
    (u = .se → IW.opc w = IW.oMov → (d.writeBanks c w).any (fun b => d.writeWaits e.no b) = false → d.startNext c u =
      (d1.movDo c e.no e.got (IW.sTrans w) (IW.sSkew w) (IW.sOblong w) false (IW.sBlocks w) (IW.sRows w) (d1.desc c (IW.cDs w))
        (d1.desc c (IW.cDd w))).2) ∧
    (u = .cx → IW.opc w = IW.oTopk → ∀ x, x = d.topkArrives c e → x.engineHolds c w e.no (e.arrival.getD d.arrivalNo) = false →
      missing e.got x.moduleNo (x.entryRanges c w) = [] → d.startNext c u =
      let y := x.onEntry c e.no fun y => { y with st := .done, since := x.now }
      (y.topkDo c e.no e.got w (y.desc c (IW.tDq w)) (y.desc c (IW.tDt w)) (y.desc c (IW.tDl w)) none true).2) ∧
    (u = .se → IW.opc w = IW.oFsc → d.fscHeld c e = false →
      ∃ f, ((d.startNext c u).core c).q.fscs = (d.core c).q.fscs ++ [f] ∧ f.no = e.no ∧ f.fin = List.replicate 8 0 ∧
        f.record = (d.core c).seq.fused.get [] (IW.fRecord w)) ∧
    (u = .rg → IW.opc w = IW.oRecv → d.startNext c u = d2.recvTry c e) ∧
    (u = .rg → IW.opc w = IW.oSend → d.startNext c u =
      let r := d2.sendDo c e.no e.got w e.lag (d2.desc c (IW.nDs w))
      if r.1 then r.2.onEntry c e.no fun y => { y with st := .done } else r.2)

/-- FE: the token stands in every gated queue, the sequencer goes on unless GATE is 0, and the operation leaves for its word; the six
operations (R97, R264, R266). -/
def Obligations.SyncInstructionsComplete : Prop :=
  ∀ (s : State) (core : CoreId) (w : Nat) (op : SyncOp), s.dev.powered = true → s.dev.wordAt core.val = some w →
    IW.opc w = IW.oFe → IW.fop w = some op → ((gates w).any fun u => (s.dev.queue core.val u).length ≥ unitDepth u) = false →
    let t := ((s.dev.feTokens core.val w).feSend core.val w s.dev.issueNo (s.dev.feReq core.val w op)).coresGo
    (op = .writeFill → Becomes (.writeFill core) s t) ∧ (op = .readEmpty → Becomes (.readEmpty core) s t) ∧
    (op = .readPeek → Becomes (.readPeek core) s t) ∧ (op = .fetchAddFull → Becomes (.fetchAddFull core) s t) ∧
    (op = .clear → Becomes (.clear core) s t) ∧ (op = .writeForce → Becomes (.writeForce core) s t)

/-- Operations that reach a word: across the spine, from another module of the board, and presented again (R240, R265, R266).
A packet that a port brings wakes the station first (R326). The model's choice in it: the layout of a board sync operation, log 15. -/
def Obligations.SyncArrivalsComplete : Prop :=
  ∀ (s : State) (fs : List Found) (leaf : LeafId) (w : Nat) (r : SyncReq) (t : List (Nat × SyncReq)) (port : PortId) (packet : Bytes)
    (x : Dev) (h : Head) (op : SyncOp), s.dev.powered = true → ∀ d, d = s.dev.found fs →
    (leaf = 0 → d.sync.flyA = (w, r) :: t →
      Becomes (.syncOpArrival (.spine leaf) fs) s (({ d with sync := { d.sync with flyA := t } }).syncArrive w r).coresGo) ∧
    (leaf = 1 → d.sync.flyB = (w, r) :: t →
      Becomes (.syncOpArrival (.spine leaf) fs) s (({ d with sync := { d.sync with flyB := t } }).syncArrive w r).coresGo) ∧
    (((s.dev.rouseAt port.val).found fs).receive port.val packet = (x, some h) → h.cls = 5 → u8 h.body 1 = 2 →
      [SyncOp.writeFill, .readEmpty, .readPeek, .fetchAddFull, .clear, .writeForce][u8 h.body 18]? = some op →
      (x.ctx (u8 h.body 0 % 64)).regs.enable = true → bitOf x.lnk.boardOpen.toNat (u8 h.body 0 % 64) = true →
      x.syncPhys (u8 h.body 0 % 64) (u16 h.body 16) = some w →
      Becomes (.syncOpArrival (.board port packet) fs) s
        (x.syncArrive w ⟨op, u8 h.body 19 = 1, BitVec.ofNat 64 (u64 h.body 24), u8 h.body 0 % 64,
          .board (h.src % 4) h.tag, x.now⟩).coresGo) ∧
    ((d.sync.held.find? fun e => syncLeaf e.1 = leaf.val) = some (w, r) →
      Becomes (.heldOpRepresent leaf fs) s
        (({ d with sync := { d.sync with held := d.sync.held.erase (w, r) } }).syncArrive w r).coresGo)

/-- The events of the arrays and queues: the completion of the head of a queue, the load of an MXM's tile, the start of its block, the
drain of a row, an iteration of a fused stage, and keep-warm's two steps (R51, R52, R55, R68, R84, R106 to R108).
The model's choices in it: logs 9, 39 and 75. -/
def Obligations.CoreEventsComplete : Prop :=
  ∀ (s : State) (core : CoreId) (fs : List Found), s.dev.powered = true → ∀ d, d = s.dev.found fs →
    (∀ u e t, d.queue core.val u = e :: t → d.headFinished core.val e = true →
      Becomes (.instructionComplete core u fs) s
        (((d.leaveQueue core.val u e t).stamped core.val).doneOf core.val e.word.toNat).coresGo) ∧
    (∀ a e b t, s.dev.loadable core.val = some (a, e, b, t) → t.bad = none → ∀ w, w = e.word.toNat →
      Becomes (.mxmLoadBegin core) s
        ((s.dev.putArrays core.val (a ++ { e with st := .loaded } :: b)).loadShadow core.val (IW.mMask w) (IW.mOblong w)
          (decide (IW.mAfmt w = 3)) t).coresGo) ∧
    (∀ a e b gap bubbles, streamable [] (d.core core.val).q.ar = some (a, e, b) → e.asked = false →
      missing e.got d.moduleNo (d.mxmRanges core.val (d.mxmJob core.val e)) = [] →
      Becomes (.blockStreamBegin core gap bubbles fs) s (d.streamGo core.val gap bubbles a e b)) ∧
    (∀ (array : Fin 4) e, s.dev.drainable core.val array.val = some e →
      let j := s.dev.mxmJob core.val e
      let r := j.m - e.drain.getD array.val 0
      let x := s.dev.drainRow core.val j ((maskArrays j.mask).takeWhile (· != array.val)).length array.val r
      let e' := drainedEntry e array.val r x.1
      let t := x.2.onCore core.val fun y => { y with q := { y.q with ar := y.q.ar.map fun z =>
        if z.no = e.no && z.token.isNone then e' else z } }
      Becomes (.rowDrain core array) s (if e'.st == .done then t.captureTile core.val j e'.flags else t)) ∧
    (∀ (run : Fin 4) (stage : Fin 8) (gap : Nat) (bubbles : List Nat) (f : FscRun) (e : QEnt), (d.core core.val).q.fscs[run.val]? = some f →
      ((d.core core.val).q.se.find? fun e => e.no = f.no && e.token.isNone) = some e →
      ∀ st i, st = fscStage f.record stage.val → i = stageNext st (fscPeriod f.record) (f.fin.getD stage.val 0) →
      f.may stage.val i = true → (d.circ.boards.any fun b => b.core = some core.val && b.entry = f.no && !b.store) = false →
      missing e.got d.moduleNo (d.stageRanges core.val f st i) = [] → d.stageWaits core.val f st i = false →
      Becomes (.fusedStageIteration core run stage gap bubbles fs) s
        ((d.stageArrives core.val run.val f st).stageGo core.val run.val stage.val f e.got e.lag gap bubbles).coresGo) ∧
    (∀ slots, ((List.range 4).any fun a => let k := s.dev.keepOf core.val a
        !k.gated && !k.slack && k.density = 0 && s.dev.kwCode core.val ≠ 0) = true →
      Becomes (.keepwarmTimeout core slots) s (s.dev.keepDown core.val
        (fun k => !k.gated && !k.slack && k.density = 0 && s.dev.kwCode core.val ≠ 0) fun k => min slots (s.dev.kwSlots k))) ∧
    (((List.range 4).any fun a => let k := s.dev.keepOf core.val a
        !k.gated && k.density ≠ 0) = true →
      Becomes (.keepwarmStepDown core) s (s.dev.keepDown core.val (fun k => !k.gated && k.density ≠ 0) s.dev.kwSlots))
/-! ### Runs, items and rings -/

/-- Runs: phase boundaries and the end of a run (R77, R78, R288), its start (R163, R78), its acceptance at position 0 and elsewhere
(R163, R283), items and their results (R287, R333), passes of stationed running (R179) and control messages (R163, R172), which wake the
station (R326).
The model's choices in it: logs 14 and 43. -/
def Obligations.RunCommandsComplete : Prop :=
  ∀ (s : State) (ctx : CtxId) (port : PortId) (packet : Bytes) (fs : List Found), s.dev.powered = true →
    (∀ r, s.dev.work.run = some r → s.dev.atBoundary = true →
      let e := phaseEntry s.dev.binding r.phase
      let d := s.dev.keepSpan.keepCount.learnDur r.phase (s.dev.now - r.phaseAt)
      (¬ r.iter + 1 < u32 e 4 → u16 e 0 = 0xFFFF → Becomes .phaseBoundary s (d.runEnd r)) ∧
      (¬ r.iter + 1 < u32 e 4 → u16 e 0 ≠ 0xFFFF →
        Becomes .phaseBoundary s (d.nextStep r (u16 e 0) 0 (s.dev.phaseBases (u16 e 0)))) ∧
      (r.iter + 1 < u32 e 4 → Becomes .phaseBoundary s (d.nextStep r r.phase (r.iter + 1) (s.dev.stepBases r.phase)))) ∧
    (∀ r r', s.dev.work.run = some r → r.begun = false → s.dev.pwr.stopped = false →
      let d := (s.dev.reach r.t0).awake.enterStep 0 true
      d.work.run = some r' →
      Becomes .runStart s (d.onWork fun w => { w with run := some { r' with begun := true } }).startOrWait) ∧
    (∀ a j, s.dev.work.active = some a → a.ctx = ctx.val → s.dev.work.run = none → s.dev.pwr.stopped = false →
      (s.dev.ctx ctx.val).barrier ≠ .closed → s.dev.work.passes = [] →
      s.dev.jobOf ctx.val Op.run .accepted = some j →
      (s.dev.work.jobs.any fun x => x.op = Op.item && x.run = some j.no && x.phase == .accepted) = false →
      (s.dev.work.aborts.find? fun x => x.1 = a.runCount) = none →
      (s.dev.position = 0 →
        let t0 := s.dev.now + u32 (schedule s.dev.binding) 16
        Becomes (.run ctx) s
          ((s.dev.launchControl 6 0 (s.dev.controlBytes 1 a.runCount t0 St.ok)).beginRun j a.runCount t0)) ∧
      (∀ n t0 rest, s.dev.position ≠ 0 → (s.dev.work.starts.find? fun x => x.1 = a.runCount) = some (n, t0, rest) →
        Becomes (.run ctx) s (s.dev.beginRun j a.runCount t0))) ∧
    (∀ j b, s.dev.jobOf ctx.val Op.item .accepted = some j →
      let x := (s.dev.emit (.hostRead (u64 j.bytes 16) (u32 j.bytes 32))).memPut ctx.val (u64 (s.dev.seqEntry (j.entry.getD 0)) 8 + u32 j.bytes 36) (padTo b (u32 j.bytes 32)) none
      x.1 = none → Becomes (.item ctx (some b)) s (x.2.onJob j.no fun y => { y with phase := .begun }).tryRun) ∧
    (∀ j d, d = s.dev.found fs → (d.work.jobs.find? fun j => j.op = Op.item && j.phase == .ended) = some j → d.hostOpen = true →
      let n := u32 j.bytes 40
      let x := d.memGet j.ctx (u64 (d.seqEntry (j.entry.getD 0)) 8 + u32 j.bytes 44) n
      x.2.1 = none →
      Becomes (.itemResultCopy fs) s
        (((x.2.2.emit (.hostWrite (u64 j.bytes 24) x.1)).settle j (jobStatus j) n 0).finishRuns)) ∧
    (∀ a r (mb : Fin 8), s.dev.work.active = some a → s.dev.work.run = some r → s.dev.passMay a r mb.val = true →
      Becomes (.passStart mb) s ((s.dev.takeItems a.ctx mb.val (u8 s.dev.passRecord 6) r.job 64).passVersions mb.val)) ∧
    (∀ d b, (s.dev.rouseAt port.val).controlIn port.val packet = (d, some b) → u8 b 3 = 1 →
      Becomes (.controlStart port packet) s
        (d.onWork fun w => { w with starts := w.starts ++ [(u32 b 8, u64 b 16, d.now, port.val)] }).touchPeak.tryRun) ∧
    (∀ d b a r, (s.dev.rouseAt port.val).controlIn port.val packet = (d, some b) → u8 b 3 = 2 → d.work.active = some a → d.work.run = some r →
      r.no = u32 b 8 → Becomes (.controlAbort port packet) s (d.stopRun (b.getD 24 0)))

/-- Doorbells, which wake the station, fetch, acceptance, ABORT and interrupt moderation (R276, R279 to R283, R295, R297, R326).
The model's choices in it: logs 47, 48, 49 and 76. -/
def Obligations.RingCommandsComplete : Prop :=
  ∀ (s : State) (fn ctx : CtxId) (ring : RingId) (offset : Nat) (value : Dword), s.dev.powered = true →
    (∀ c o d, s.dev.fnOpen fn.val = true → bar2 fn offset = some (c, o) → d = s.dev.rouse →
      (d.bellOk c o 0 8 value = true →
        let g := d.ring c (o / 8)
        (value.setWidth 32 - g.sqTail).toNat < 2 ^ 31 → (value.setWidth 32 - g.sqHead).toNat ≤ ringSize (fld g.cfg 4 0) →
        Becomes (.sqTailDoorbell fn offset 8 value) s (d.onRing c (o / 8) fun x => { x with sqTail := value.setWidth 32 })) ∧
      (d.bellOk c o 0 8 value = false → d.bellOk c o 256 8 value = true →
        let g := d.ring c ((o - 256) / 8)
        (g.cqTail - value.setWidth 32).toNat ≤ (g.cqTail - g.cqHead).toNat →
        Becomes (.cqHeadDoorbell fn offset 8 value) s
          ((((d.onRing c ((o - 256) / 8) fun x => { x with cqHead := value.setWidth 32 }).drainRing c ((o - 256) / 8)).busyCheck
            c).finishRuns))) ∧
    (∀ b, s.dev.mayFetch ctx.val ring.val = true →
      Becomes (.descriptorFetch ctx ring (some b)) s
        (((s.dev.emit (.hostRead (s.dev.sqSlot ctx.val ring.val (s.dev.ring ctx.val ring.val).sqHead.toNat) 64)).onCtx
          ctx.val fun x => { x with fetchNo := (s.dev.ctx ctx.val).fetchNo + 1 }).onRing ctx.val ring.val fun x =>
          { x with window := x.window ++ [⟨padTo b 64, (s.dev.ctx ctx.val).fetchNo⟩], sqHead := x.sqHead + 1 })) ∧
    (∀ r f, s.dev.fenced ctx.val = false → s.dev.abortWaits ctx.val = false → s.dev.boot.shutDown = false →
      ((s.dev.turnOrder ctx.val).findSome? fun r =>
        (s.dev.headOf ctx.val r).bind fun f => if s.dev.canAccept ctx.val f.bytes then some (r, f) else none) = some (r, f) →
      (malformed f.bytes = true → Becomes (.descriptorAccept ctx) s
        (((s.dev.takeHead ctx.val r).replaceOpens ctx.val).postRecord ctx.val r (f.bytes.take 4 ++ zeros 4 ++ f.bytes.drop 8)
          St.notPermitted 0 0 0 0 0)) ∧
      (malformed f.bytes = false → u8 f.bytes 0 ≠ Op.item → u8 f.bytes 0 ≠ Op.run → u8 f.bytes 0 ≠ Op.kettle →
        Becomes (.descriptorAccept ctx) s
          (((s.dev.takeHead ctx.val r).replaceOpens ctx.val).addJob ctx.val r f none none none))) ∧
    (∀ f, ((s.dev.ring ctx.val ring.val).window.find? fun f => u8 f.bytes 0 = Op.abort && !malformed f.bytes) = some f →
      let x := (s.dev.onRing ctx.val ring.val fun x => { x with window := x.window.filter fun g => g.no != f.no }).abortScope
        ctx.val (u8 f.bytes 16) (u8 f.bytes 17) (u64 f.bytes 24)
      Becomes (.abort ctx ring) s (x.2.postRecord ctx.val ring.val f.bytes St.ok x.1 0 0 0 0)) ∧
    (∀ t0, (s.dev.ring ctx.val ring.val).irqFirst = some t0 → fld (s.dev.ring ctx.val ring.val).irqMod 31 16 ≠ 0 →
      (s.dev.ring ctx.val ring.val).irqCount ≠ 0 →
      Becomes (.irqModerationTimeout ctx ring) s
        ((s.dev.reach (t0 + 1000 * fld (s.dev.ring ctx.val ring.val).irqMod 31 16)).ringSignal ctx.val ring.val))

/-! ### Power, heat and idle -/

/-- Operating-point changes, droop and the power samples (R306, R310, R313, R314, R316, R321).
The model's choices in it: log 41. -/
def Obligations.PowerCommandsComplete : Prop :=
  ∀ (s : State), s.dev.powered = true →
    (∀ c ns, s.dev.pwr.opp = some c → s.dev.drooped = false →
      (c.paused = false → (c.from_ < c.target → s.dev.boot.restarting = false) → Becomes .oppSwitchWindow s
        ((s.dev.reach (c.since + s.dev.rampNs c.from_ c.target + c.pausedNs)).oppDone c)) ∧
      (c.paused = true → Becomes (.oppWindowResume ns) s
        (s.dev.onPwr fun p => { p with opp := some { c with paused := false, pausedNs := c.pausedNs + ns } }))) ∧
    (∀ c, s.dev.pwr.opp = some c → c.from_ < c.target → (c.paused = true ∨ s.dev.drooped = true) →
      let d := ((s.dev.reach (c.since + s.dev.rampNs c.from_ c.target + 1000000)).colRelease 1).onPwr fun p => { p with opp := none }
      (s.dev.work.pendingBoundary = false → Becomes .oppChangeAbandon s d) ∧
      (s.dev.work.pendingBoundary = true → Becomes .oppChangeAbandon s d.startCores)) ∧
    (∀ (core : CoreId) (level : Fin 4), s.dev.clocked = true →
      core.val ∈ s.dev.work.coreMap ∨ (s.dev.passRuns = true ∧ s.dev.healthy core.val = true) →
      ∃ t, exec (.droopCrossing core level) s = .next t ∧
        t.dev.pwr.droop.get 0 core.val = max (s.dev.pwr.droop.get 0 core.val) (level.val + 1) ∧
        t.dev.pc.stretch = (if s.dev.pwr.droop.get 0 core.val = 0 then satAdd s.dev.pc.stretch 1 else s.dev.pc.stretch)) ∧
    (∀ core : CoreId, Becomes (.stretchDecay core) s
      (s.dev.onPwr fun p => { p with droop := p.droop.modify 0 core.val (· - 1) })) ∧
    (∀ inMv10 inMa10 inW rails, ∃ t, exec (.powerSample inMv10 inMa10 inW rails) s = .next t ∧
      t.dev.pc.energy = satAdd s.dev.pc.energy ((s.dev.pc.energyUj + 50 * inW) / 1000) ∧
      t.dev.pc.energyUj = (s.dev.pc.energyUj + 50 * inW) % 1000 ∧
      t.dev.pwr.sampleW = inW ∧ t.dev.pwr.window = (inW :: s.dev.pwr.window).take 20000 ∧
      t.dev.mgmt.inMv10 = inMv10 ∧ t.dev.mgmt.inMa10 = inMa10 ∧ t.dev.mgmt.samples = s.dev.mgmt.samples + 1 ∧
      min (s.dev.pwr.sampleAt + 50000) (2 ^ 64 - 1) ≤ t.dev.now ∧
      { t.dev with pc := s.dev.pc, pwr := s.dev.pwr, mgmt := s.dev.mgmt, clk := s.dev.clk } = s.dev)

/-- Heat and boost (R312, R319, R322, R323, R368).
The model's choices in it: logs 41 and 42. -/
def Obligations.HeatCommandsComplete : Prop :=
  ∀ (s : State), s.dev.powered = true →
    (∀ l, ∃ t, exec (.thermalSample l) s = .next t ∧ t.dev.heat.tj = (l.take 72).foldl max 0 ∧ t.dev.mgmt.dieTemps = l.take 72 ∧
      t.dev.heat.steps = s.dev.heat.steps ∧ t.dev.pwr = s.dev.pwr) ∧
    (105 ≤ s.dev.heat.tj → s.dev.heat.steps < 6 → s.dev.pwr.stopped = false →
      s.dev.safetyFull = false →
      ∃ t, exec .thermalStep s = .next t ∧ t.dev.heat.steps = s.dev.heat.steps + 1 ∧
        ((t.dev.heat.steps = 6 ∧ s.dev.work.run = none) → t.dev.heat.sixth = true)) ∧
    (∀ at_, s.dev.heat.coolSince = some at_ → 0 < s.dev.heat.steps → s.dev.heat.tj ≤ 100 → s.dev.raiseRefused = false →
      ∃ t, exec .thermalStepUndo s = .next t ∧ t.dev.heat.steps = s.dev.heat.steps - 1 ∧
        min (at_ + 10000000000) (2 ^ 64 - 1) ≤ t.dev.now) ∧
    (112 ≤ s.dev.heat.tj → Becomes .thermalStop s (s.dev.stopStation 2 2 St.thermalStop)) ∧
    (∀ t0, s.dev.heat.hotSince = some t0 → s.dev.heat.tj < 112 → 105 ≤ s.dev.heat.tj → s.dev.heat.sixth = true →
      Becomes .thermalStop s ((s.dev.reach (t0 + 10000000000)).stopStation 2 2 St.thermalStop)) ∧
    (s.dev.fwRuns = true →
      Becomes .boostFlashUpdate s
        { s.dev with flash := { s.dev.flash with boostSpent := s.dev.pc.boostSpent, boostEarned := s.dev.pc.boostEarned } } ∧
      ∃ t, exec .boostAccounting s = .next t ∧
        (let base := if s.dev.pwr.stopped then 0 else if s.dev.pwr.point = 4 then 1 else if s.dev.pwr.point = 5 then 2 else 0
         t.dev.pc.boostSpent = satAdd s.dev.pc.boostSpent (if 95 ≤ s.dev.heat.tj then 2 * base else base)) ∧
        t.dev.pc.boostEarned = satAdd s.dev.pc.boostEarned ((s.dev.pc.earnedPct + s.dev.fuses.fracPct) / 100) ∧
        (t.dev.pc.boostEarned.toNat + s.dev.fuses.reserveH * 3600000 ≤ t.dev.pc.boostSpent.toNat → t.dev.pwr.boostAge = true))

/-- The coolant signal and its stop, the resume of a stop, and the idle states (R325 to R328, R410).
The model's choices in it: log 28. -/
def Obligations.StopAndIdleCommandsComplete : Prop :=
  ∀ (s : State),
    (s.dev.pins.coolantN = true → Becomes .coolantFaultLow s
      { s.dev with
        pins := { s.dev.pins with coolantN := false, coolantLowAt := some s.dev.now, coolantHighAt := none }
        boot := { s.dev.boot with coolantLow := s.dev.boot.coolantLow ||
          (s.dev.powered && (s.dev.boot.stage == .bootRom || s.dev.boot.stage == .recovery)) } }) ∧
    (s.dev.pins.coolantN = false → Becomes .coolantFaultHigh s
      { s.dev with pins := { s.dev.pins with coolantN := true, coolantLowAt := none, coolantHighAt := some s.dev.now } }) ∧
    (s.dev.powered = true →
      (∀ t0, s.dev.pins.coolantLowAt = some t0 → s.dev.boot.stage = .ready ∨ s.dev.boot.stage = .memory ∨ s.dev.boot.stage = .failed ∨
          s.dev.boot.stage = .shutdown →
        Becomes .coolantStop s ((s.dev.reach (t0 + 10000)).stopStation 1 1 St.coolantStop)) ∧
      (∀ t0 v, s.dev.reaches (.fn 0) 0x1001C = true → s.dev.sealedOff 0x1001C = false → flag v 31 = true → s.dev.pwr.stopped = true → s.dev.pwr.stopCause = 1 →
        s.dev.pins.coolantHighAt = some t0 → t0 + 10000000000 ≤ s.dev.now →
        Becomes (.pwrStopResume (.fn 0) v) s s.dev.resumeStation) ∧
      (∀ v, s.dev.reaches (.fn 0) 0x1001C = true → s.dev.sealedOff 0x1001C = false → flag v 31 = true → s.dev.pwr.stopped = true → s.dev.pwr.stopCause = 2 →
        s.dev.heat.tj ≤ 80 → Becomes (.pwrStopResume (.fn 0) v) s s.dev.resumeStation) ∧
      (s.dev.pwr.stopped = false → s.dev.pwr.idle = .s0 →
        s.dev.inSlack = true ∨ (s.dev.noWork = true ∧ s.dev.work.run = none) →
        Becomes .idleEntry s (s.dev.enterIdle s.dev.idleChoice)) ∧
      (s.dev.pwr.stopped = false → s.dev.boot.shutDown = false → s.dev.pwr.idle ≠ .s0 →
        Becomes .idleWake s s.dev.wake ∧
        Becomes .unannouncedWake s (s.dev.reach (s.dev.now + wakeNs s.dev.pwr.idle)).wake))

/-- What a stop does (R327, R335, R368): the cores have no fold, no run, binding or gathering is left, the stop is held with its cause
and status, and the entry of CLASS 3 stands in the reserved area or is held by the power controller, unless the reserved area takes none
and the power controller's store is full.
The model's choices in it: log 28; that no fold is 0, log 41. -/
def Obligations.StopEndsEverything : Prop :=
  ∀ (d : Dev) (cause obj : Nat) (st : Status), d.powered = true → d.pwr.stopped = false →
    let t := d.stopStation cause obj st
    t.pwr.stopped = true ∧ t.pwr.stopCause = cause ∧ t.pwr.stopStatus = st ∧ t.pwr.fold = 0 ∧ t.pwr.opp = none ∧
    t.work.run = none ∧ t.work.active = none ∧ t.work.gath = none ∧ t.work.coreMap = [] ∧
    t.cmem.bytes = [] ∧ t.sync.words = [] ∧ (∀ c < 8, (t.core c).buf = {} ∧ (t.core c).q = {}) ∧
    ((∃ e ∈ t.col.reserved, sub e 8 40 = colBody t.now 4 1 255 3 obj 0 0 st.toNat) ∨
      colBody t.now 4 5 255 3 obj 0 0 st.toNat ∈ t.col.pendingSafety ∨
      ((t.boot.restarting = true ∨ colReserved ≤ t.col.reserved.length) ∧ heldSafety ≤ t.col.pendingSafety.length))

/-- A change of operating point that has passed its window (R313): the point is the target, the change is counted, and with no boundary
waiting nothing has changed but the power controller's state and counters, the colophon with its checkpoint in flash, and the cause LOG
with its interrupt.
The model's choices in it: log 41. -/
def Obligations.OperatingPointTakesEffect : Prop :=
  ∀ (d : Dev) (c : OppChange), d.work.pendingBoundary = false →
    (d.oppDone c).pwr = { d.pwr with opp := none, point := c.target } ∧
    (d.oppDone c).pc = { d.pc with oppChange := satAdd d.pc.oppChange 1 } ∧
    { d.oppDone c with pwr := d.pwr, pc := d.pc, col := d.col, flash := d.flash, err := d.err, fns := d.fns, out := d.out } = d

/-! ### Bindings, gatherings, editions and the kettle -/

/-- BIND_LOAD, kept or refused by its load check, and BIND_SWITCH whose checks pass (R74, R75, R81, R289), the formation of a gathering and its release (R236, R290).
The model's choices in it: logs 45, 46 and 54. -/
def Obligations.BindingAndGatheringCommandsComplete : Prop :=
  ∀ (s : State) (ctx : CtxId) (j : Job), s.dev.powered = true →
    (∀ b0, s.dev.jobOf ctx.val Op.bindLoad .accepted = some j → s.dev.memUp = true → u8 j.bytes 40 ≤ 3 →
      (∀ a, s.dev.work.active = some a → ¬ (a.ctx = j.ctx ∧ a.bindId = u8 j.bytes 40)) →
      s.dev.mapped j.ctx (u64 j.bytes 32) (u64 j.bytes 24) true = true → s.dev.boot.restarting = false → s.dev.colRoom 1 = true →
      let b := padTo b0 (u64 j.bytes 24)
      let g := s.dev.work.gath.map fun g => (g.stations.length, g.pos)
      let d := s.dev.emit (.hostRead (u64 j.bytes 16) (u64 j.bytes 24))
      Becomes (.bindLoad ctx (some b0)) s (match loadCheck b g, d.constFault j.ctx (constantsAt b g), (d.storeBinding j b g).1 with
        | none, none, none => ((d.storeBinding j b g).2.keepBinding j b g).settle j St.ok 0 0
        | none, none, some st => (d.storeBinding j b g).2.settle j st 0 0
        | none, some a, _ => (d.errMem 2 j.ctx 31 0 a).settle j St.notPermitted 0 0
        | some x, _, _ => (d.bindRefused j.ctx x).settle j (if x.1 = 2 then St.digestMismatch else St.notPermitted) 0 0)) ∧
    (∀ k, s.dev.jobOf ctx.val Op.bindSwitch .accepted = some j → s.dev.itemsSettled j.no = true → s.dev.memUp = true →
      s.dev.boot.restarting = false → s.dev.colRoom 1 = true →
      let d := s.dev.leaveBinding
      let fold := d.foldOf (min d.pwr.allowedFold d.heatFold)
      let cs := if k.consts then [] else constants k.bytes d.position
      fold ≠ 0 → u8 j.bytes 16 ≤ 3 → (d.ctx j.ctx).bindings.get none (u8 j.bytes 16) = some k → d.switchCheck j.ctx k = none →
      d.constFault j.ctx cs = none → (d.putConstants j.ctx cs).1 = none →
      Becomes (.bindSwitch ctx) s (((d.putConstants j.ctx cs).2.switchTo j k fold).settle j St.ok 0 0)) ∧
    (∀ b0 nbrs d, s.dev.jobOf ctx.val Op.gatherForm .accepted = some j → s.dev.work.gath = none → s.dev.work.forming = none →
      s.dev.boot.restarting = false → s.dev.colRoom 1 = true →
      let b := padTo b0 (u32 j.bytes 24)
      let g := gatheringOf b s.dev.station
      Rec.ok b (u32 j.bytes 24) = true → s.dev.lnk.planValid = true → (Rec.stations b).count s.dev.station = 1 →
      Rec.slice b ≠ 0 → Rec.slice b = fld s.dev.lnk.slice 11 0 →
      findNbrs g (sidesOf g) (s.dev.emit (.hostRead (u64 j.bytes 16) (u32 j.bytes 24))) = (some nbrs, d) →
      Becomes (.gatherForm ctx (some b0)) s (d.beginForming j { g with nbrs := nbrs } (sha256 b))) ∧
    (∀ (port : PortId) packet d h, (s.dev.rouseAt port.val).receive port.val packet = (d, some h) → h.cls = 9 →
      Becomes (.formationMessage port packet) s (d.formGot h.src (u16 h.body 0) (sub h.body 2 32))) ∧
    (∀ f, s.dev.work.forming = some f → let d := s.dev.reach (f.since + 100000000)
      (s.dev.boot.restarting = false → Becomes .gatherFormTimeout s (d.formEnds f)) ∧
      (s.dev.boot.restarting = true → Becomes .gatherFormTimeout s
        (if matchedUp f then d else d.onWork fun w => { w with forming := some { f with failed := true } }))) ∧
    (∀ g, s.dev.jobOf ctx.val Op.gatherRelease .accepted = some j → s.dev.itemsSettled j.no = true → s.dev.work.gath = some g →
      g.number = u16 j.bytes 16 → s.dev.boot.restarting = false → s.dev.colRoom 1 = true →
      Becomes (.gatherRelease ctx) s ((((s.dev.logDesc j g.number 0).leaveBinding).releaseGath).settle j St.ok 0 0))

/-- The last neighbour's matching message forms the gathering: it is in place with its routing entries, and the descriptor completes
(R236, R237).
The model's choices in it: log 54. -/
def Obligations.MatchingNeighboursFormTheGathering : Prop :=
  ∀ (d : Dev) (f : Forming) (j : Job), d.work.forming = some f → f.failed = false → f.setups = [] → (∀ n ∈ f.gath.nbrs, n.station ∈ f.got) →
    d.boot.restarting = false → d.work.jobs.find? (fun x => decide (x.no = f.job)) = some j →
    d.tryFormed.work.gath = some f.gath ∧ d.tryFormed.work.forming = none ∧
    (∀ x ∈ d.tryFormed.work.jobs, x.no ≠ j.no) ∧
    d.tryFormed.lnk.rte = (routeEntries f.gath).foldl (fun t e => t.set 0 e.1 e.2) d.lnk.rte

/-- EDITION_LOAD whose manifest and image pass, EDITION_UNLOAD, the digest table's descriptors, the start and the end of a bind pass,
and a scrub sweep (R124, R190, R193, R194, R196 to R198, R292).
The model's choices in it: log 50. -/
def Obligations.EditionCommandsComplete : Prop :=
  ∀ (s : State) (ctx : CtxId) (j : Job), s.dev.powered = true →
    (∀ m img, s.dev.jobOf ctx.val Op.editionLoad .accepted = some j → s.dev.memUp = true →
      s.dev.work.passes.all (fun p => p.ctx != ctx.val || p.layer.isSome) = true →
      Manifest.ok m false = true → u16 j.bytes 56 < Manifest.positions m → s.dev.edition j.ctx (Manifest.edition m) = none →
      (s.dev.ctx j.ctx).editions.length < 4 → Manifest.foldInputsOk m (s.dev.ctx j.ctx).regs = true →
      s.dev.boot.restarting = false →
      let own := Manifest.own m (u16 j.bytes 56)
      let p := placeLayers own (Manifest.layers m) (u32 j.bytes 40 * pageBytes) (u32 j.bytes 48 * pageBytes)
      let n := 1 + 2 * own.length - j.room
      s.dev.colRoom n = true → s.dev.loadFits j p = true → s.dev.loadFrames p.2.1 = true →
      ∀ x, x = loadShards j.ctx m (padTo img (Manifest.imageBytes m)) (u64 j.bytes 24) (Manifest.edition m) p.1 own
        (((s.dev.reserve j.no n).readManifest (u64 j.bytes 16) (some m)).beginLoad j m p.1 p.2.1) →
      ((own.any fun x => p.1.any fun l => l.layer = x.layer && l.form = 2) = false →
        Becomes (.editionLoad ctx (some m) (some img)) s
          (match x.1 with
           | .ok adopt => x.2.loadDone j (Manifest.edition m) adopt
           | .error e => x.2.loadFails j (Manifest.edition m) e.2.1 e.1 e.2.2)) ∧
      ((own.any fun x => p.1.any fun l => l.layer = x.layer && l.form = 2) = true →
        Becomes (.editionLoad ctx (some m) (some img)) s
          (match x.1 with
           | .ok adopt => x.2.awaitPass j (Manifest.edition m) adopt
           | .error e => x.2.loadFails j (Manifest.edition m) e.2.1 e.1 e.2.2))) ∧
    (s.dev.jobOf ctx.val Op.editionUnload .accepted = some j → s.dev.memUp = true →
      s.dev.editionHeld j.ctx (u64 j.bytes 16) = true →
      (∀ a, s.dev.work.active = some a → ¬ (a.ctx = j.ctx ∧ bindEdition a.bytes = u64 j.bytes 16)) →
      s.dev.boot.restarting = false → s.dev.colRoom 1 = true →
      Becomes (.editionUnload ctx) s
        (((s.dev.logDesc j (u64 j.bytes 16) 0).dropEdition j.ctx (u64 j.bytes 16)).settle j St.ok 0 0)) ∧
    (∀ b n d, s.dev.jobOf ctx.val Op.digestInstall .accepted = some j → 1 ≤ u32 j.bytes 24 → u32 j.bytes 24 ≤ 4096 →
      s.dev.boot.restarting = false → s.dev.colRoom (u32 j.bytes 24) = true →
      installAll j (chunks 64 (u32 j.bytes 24) (padTo b (64 * u32 j.bytes 24))) 0
        ((s.dev.reserve j.no (u32 j.bytes 24)).emit (.hostRead (u64 j.bytes 16) (64 * u32 j.bytes 24))) = (n, St.ok, d) →
      Becomes (.digestInstall ctx (some b)) s (d.settle j St.ok n 0)) ∧
    (s.dev.jobOf ctx.val Op.digestRemove .accepted = some j → s.dev.boot.restarting = false → s.dev.colRoom 1 = true →
      let key := sub j.bytes 16 15 ++ sub j.bytes 32 8
      (digestFind (s.dev.ctx j.ctx).digests key).isSome = true →
      Becomes (.digestRemove ctx) s
        (((s.dev.logDesc j 0 0).onCtx j.ctx fun x => { x with digests := x.digests.filter fun e => digestKey e != key }).settle
          j St.ok 0 0)) ∧
    (∀ p, s.dev.memUp = true → s.dev.work.run = none → (s.dev.work.passes.any fun p => p.params.isSome) = false →
      (s.dev.work.passes.find? fun p => p.ctx = ctx.val) = some p →
      let r := (s.dev.ctx ctx.val).regs
      Becomes (.bindPassStart ctx) s (s.dev.onWork fun w => { w with passes := w.passes.map fun q =>
        if q = p then { q with params := some (fld r.foldCfg 11 8, fld r.foldCfg 2 0, r.foldEps, r.subn) } else q })) ∧
    (∀ p q e adopt ks d, s.dev.memUp = true → (s.dev.work.passes.find? fun p => p.ctx = ctx.val && p.params.isSome) = some p →
      p.params = some q → p.layer = none →
      s.dev.boot.restarting = false → s.dev.hostOpen = true → s.dev.work.jobs.find? (fun x => decide (x.no = p.job)) = some j →
      let d0 := s.dev.onWork fun w => { w with passes := w.passes.erase p }
      s.dev.edition ctx.val p.edition = some e → foldShards ctx.val e.id q (passShards e none) [] d0 = (.ok (adopt, ks), d) →
      Becomes (.bindPassEnd ctx) s
        (((d.emit (.hostWrite p.report (passReport q ks))).loadDone j e.id (p.adopt ++ adopt)).tryRun)) ∧
    (∀ fs due, s.dev.memUp = true → (s.dev.ctx ctx.val).regs.enable = true → (s.dev.sweepDue ctx.val).isSome = true →
      (s.dev.awake.found fs).sweepDue ctx.val = some due →
      let d1 := (s.dev.awake.found fs).reach due
      let d2 := d1.onCtx ctx.val fun x => { x with sweepAt := some d1.now }
      Becomes (.scrubSweepStart ctx fs) s
        (d2.each ((d2.ctx ctx.val).editions.filter (d2.heldNow ctx.val)) fun d e =>
          d.each (e.layers.flatMap fun l => (e.shards.filter fun x => x.layer = l.layer).map fun x => (l, x)) fun d x =>
            d.scrubShard ctx.val e x.1 x.2))

/-- The kettle's steps whose conditions hold: STAGE, CLOSE and the closing of its barrier, COMMIT and its writes, OPEN, and REPLACE
(R201 to R205, R284).
The model's choices in it: logs 50, 51, 60, 61 and 62. -/
def Obligations.KettleCommandsComplete : Prop :=
  ∀ (s : State) (ctx : CtxId) (j : Job), s.dev.powered = true →
    (∀ m img e l ss adopt d, s.dev.kettleJob ctx.val 1 .accepted = some j → s.dev.memUp = true →
      s.dev.heldLayer j.ctx j.kedition j.klayer = some (e, l) → s.dev.patchOk j m e l = true →
      let n := { Manifest.layer m 0 with lbase := l.lbase, hbase := l.hbase }
      ((s.dev.readManifest (u64 j.bytes 32) (some m)).setStaged j.ctx j.kedition j.klayer none).stageFetch j m e n img = (.ok (ss, adopt), d) →
      Becomes (.stage ctx (some m) (some img)) s
        ((d.setStaged j.ctx j.kedition j.klayer (some ⟨j.kedition, n, ss, adopt, u32 j.bytes 48, false,
          n.form ≠ 2 || fromPeer j⟩)).settle j St.ok 0 0)) ∧
    (s.dev.kettleJob ctx.val 2 .accepted = some j → s.dev.stationedHere j.ctx = false ∨ s.dev.position = 0 →
      s.dev.boot.restarting = false → s.dev.colRoom 1 = true →
      Becomes (.close ctx) s
        (((s.dev.reserve j.no 1).onJob j.no fun x => { x with phase := .begun }).onCtx j.ctx fun x => { x with
          barrier := if x.barrier == .closed then .closed else .closing })) ∧
    ((s.dev.work.jobs.find? fun j => j.ctx = ctx.val && j.op = Op.kettle && (j.kstep = 2 || j.kstep = 5) && j.phase == .begun
        && j.entry.isNone) = some j → s.dev.barrierReady ctx.val j.no = true → s.dev.boot.restarting = false →
      let d := ((s.dev.onCtx ctx.val fun x => { x with barrier := .closed }).spend j.no 1).logDesc { j with bytes := j.bytes.set 16 2 } 0 0
      (j.kstep = 2 → Becomes (.barrierClosed ctx) s (d.settle j St.ok 0 0)) ∧
      (j.kstep = 5 → Becomes (.barrierClosed ctx) s (d.onJob j.no fun x => { x with entry := some 1 }))) ∧
    (∀ x, s.dev.kettleJob ctx.val 3 .accepted = some j → s.dev.memUp = true → s.dev.commitOk j = some x →
      s.dev.boot.restarting = false → s.dev.colRoom (1 + 2 * x.shards.length) = true →
      Becomes (.commit ctx) s
        ((s.dev.reserve j.no (1 + 2 * x.shards.length)).onJob j.no fun x => { x with phase := .begun })) ∧
    (∀ x, s.dev.kettleJob ctx.val 3 .begun = some j → s.dev.memUp = true → s.dev.boot.restarting = false →
      (s.dev.work.passes.any fun p => p.job = j.no) = false → s.dev.commitOk j = some x →
      Becomes (.commitWrite ctx) s ((s.dev.spend j.no 1).commitGo j x)) ∧
    (s.dev.kettleJob ctx.val 4 .accepted = some j → s.dev.openOk j = true → s.dev.boot.restarting = false → s.dev.colRoom 1 = true →
      Becomes (.kettleOpen ctx) s (((s.dev.openLayer j).settle j St.ok 0 0).release j.ctx)) ∧
    (∀ mine, mine = (if ((s.dev.replaces ctx.val).filter (·.opened)).isEmpty then s.dev.replaces ctx.val
        else (s.dev.replaces ctx.val).filter (·.opened)) → s.dev.memUp = true →
      (mine.find? fun j => j.phase == .accepted && j.entry.isNone) = none →
      (s.dev.boot.restarting = false → (mine.find? fun j => j.entry = some 1 && !(s.dev.work.passes.any fun p => p.job = j.no)) = some j →
        Becomes (.replace ctx) s (s.dev.replaceCommit j)) ∧
      (mine ≠ [] → mine.all (fun j => decide (j.entry = some 2)) = true →
        ((s.dev.replaces ctx.val).filter (·.opened)) ≠ [] ∨ s.dev.headWaits ctx.val = false → s.dev.boot.restarting = false →
        Becomes (.replace ctx) s
          ((s.dev.each mine fun d x => (d.openLayer x).settle x St.ok 0 0).release ctx.val)))

/-- OPEN makes a committed version current: the layer and its version are the committed ones, whatever has been staged since, and the
committed copy is gone (R203, R208). -/
def Obligations.OpenMakesTheVersionCurrent : Prop :=
  ∀ (d : Dev) (j : Job) (e : Edition) (l : Layer) (x : Staged),
    d.heldLayer j.ctx j.kedition j.klayer = some (e, l) → d.committedOf j.ctx j.kedition j.klayer j.kversion = some x →
    x.layer.version = j.kversion ∧ ∃ e', (d.openLayer j).edition j.ctx j.kedition = some e' ∧
      e'.layers = e.layers.map (fun y => if y.layer = j.klayer then x.layer else y) ∧ e'.state = e.state ∧
      (∀ v, (d.openLayer j).committedOf j.ctx j.kedition j.klayer v = none) ∧
      (d.openLayer j).stagedOf j.ctx j.kedition j.klayer = d.stagedOf j.ctx j.kedition j.klayer ∧ (d.openLayer j).mem = d.mem

/-! ### Memory -/

/-- MAP at once and when its frames are there, UNMAP, the clearing of a frame, COPY both ways, patrol and the retirement of a frame
(R249, R250, R253, R255, R293).
The model's choices in it: log 52. -/
def Obligations.MemoryCommandsComplete : Prop :=
  ∀ (s : State) (ctx : CtxId) (j : Job) (fs : List Found), s.dev.powered = true → s.dev.memUp = true →
    (s.dev.jobOf ctx.val Op.map .accepted = some j → rangeOk j = true → u8 j.bytes 28 ≤ 1 →
      s.dev.rangesFree j.ctx [(mapFirst j, mapCount j, mapCxl j)] = true → mapCount j ≤ s.dev.freeCount (mapCxl j) →
      s.dev.boot.restarting = false → s.dev.colRoom 1 = true →
      (s.dev.framesReady (mapCxl j) (mapCount j + s.dev.promised (mapCxl j)) = true → Becomes (.map ctx) s (s.dev.mapNow j)) ∧
      (s.dev.framesReady (mapCxl j) (mapCount j + s.dev.promised (mapCxl j)) = false →
        Becomes (.map ctx) s ((s.dev.reserve j.no 1).onJob j.no fun x => { x with phase := .begun }))) ∧
    ((s.dev.work.jobs.find? fun j => j.op = Op.map && j.phase == .begun) = some j → s.dev.boot.restarting = false →
      s.dev.framesReady (mapCxl j) (mapCount j) = true → s.dev.rangesFree j.ctx [(mapFirst j, mapCount j, mapCxl j)] = true →
      Becomes .mapFramesReady s ((s.dev.spend j.no 1).mapNow j)) ∧
    (s.dev.jobOf ctx.val Op.unmap .accepted = some j → rangeOk j = true →
      let ps := (List.range (mapCount j)).map (· + mapFirst j)
      (ps.all fun p => ((s.dev.ctx j.ctx).pages.get none p).isSome && !s.dev.keptPage j.ctx p) = true →
      s.dev.boot.restarting = false → s.dev.colRoom 1 = true →
      Becomes (.unmap ctx) s (((s.dev.logDesc j 0 0).each ps fun d p => d.unmapPage j.ctx p).settle j St.ok 0 0)) ∧
    (∀ frame, (frame ∈ s.dev.mem.gddrClearing → Becomes (.frameClear false frame) s (s.dev.clearFrame false frame)) ∧
      (frame ∈ s.dev.mem.cxlClearing → Becomes (.frameClear true frame) s (s.dev.clearFrame true frame))) ∧
    (s.dev.jobOf ctx.val Op.copy .accepted = some j → s.dev.hostOpen = true → u64 j.bytes 40 ≠ 0 → ∀ d, d = s.dev.found fs →
      (∀ b x, u8 j.bytes 16 = 0 → (d.emit (.hostRead (u64 j.bytes 24) (u64 j.bytes 40))).memPut j.ctx (u64 j.bytes 32)
          (padTo b (u64 j.bytes 40)) none = (none, x) → Becomes (.copy ctx (some b) fs) s (x.settle j St.ok 0 0)) ∧
      (∀ data b d1, u8 j.bytes 16 = 1 → d.memGet j.ctx (u64 j.bytes 32) (u64 j.bytes 40) = (b, none, d1) →
        Becomes (.copy ctx data fs) s ((d1.emit (.hostWrite (u64 j.bytes 24) b)).settle j St.ok 0 0))) ∧
    (∀ frame, Becomes (.patrol frame fs) s
      (s.dev.found (fs.filter fun f => match f with | .gddr g _ _ => g = frame | .crcRetry _ => true | _ => false))) ∧
    (∀ frame, s.dev.retireDue frame = true ∨ frame ∈ s.dev.mem.retirePending → frame ∉ s.dev.flash.retired → s.dev.boot.restarting = false →
      s.dev.colRoom 1 = true → s.dev.flash.retired.length < 1024 →
      (frame ∉ s.dev.mem.gddrUsed → Becomes (.frameRetirement frame) s ((s.dev.log 5 255 4 1 frame frame 0).retireFrame frame)) ∧
      (∀ g l, frame ∈ s.dev.mem.gddrUsed → s.dev.freeFrames false 1 = g :: l →
        Becomes (.frameRetirement frame) s (((s.dev.log 5 255 4 1 frame g 0).moveFrame frame g).retireFrame frame)))

/-- The CXL tier: a request that runs out of time, a link that goes down, enumeration, devices that become ready and the 2 s they have,
and event records (R261 to R263, R375).
The model's choices in it: logs 55, 66 and 67. -/
def Obligations.CxlCommandsComplete : Prop :=
  ∀ (s : State) (dev : Fin 4), s.dev.powered = true →
    (∀ (ctx : CtxId) va a, s.dev.physOf ctx.val va = some (true, a) → (s.dev.mem.cxlTimeouts.get [] dev.val).length < 15 →
      ∃ t, exec (.cxlTimeout dev ctx va false) s = .next t ∧ a / 64 ∈ t.dev.mem.cxlLateRead ∧ t.dev.mem.cxlMarks = s.dev.mem.cxlMarks ∧
        (s.dev.now ∈ t.dev.mem.cxlTimeouts.get [] dev.val) ∧ t.dev.mem.cxl = s.dev.mem.cxl ∧
        flag t.dev.err.mem 31 = true ∧ flag t.dev.err.irqStatus cMemory = true) ∧
    (bitOf s.dev.mem.cxlUp dev.val = true → Becomes (.cxlLinkDown dev) s (s.dev.cxlLost (2 ^ dev.val))) ∧
    (∀ v, s.dev.reaches (.fn 0) 0x40000 = true → s.dev.sealedOff 0x40000 = false → s.dev.cxlMapped = false → s.dev.boot.restarting = false → s.dev.colRoom 1 = true →
      ∃ t, exec (.cxlEnumerate (.fn 0) v) s = .next t ∧ t.dev.mem.cxlCfg = cxlCfgOf s.dev.mem.cxlCfg (v ||| 0x100) ∧
        t.dev.mem.cxlLayout = t.dev.mem.cxlCfg ∧ t.dev.mem.cxlShut = false ∧ t.dev.mem.cxl = s.dev.mem.cxl) ∧
    Becomes .cxlReadyTimeout s (s.dev.onMem fun m => { m with cxlShut := true }) ∧
    (∀ cap, s.dev.mem.cxlDue = 0 → dev.val < (match fld s.dev.mem.cxlLayout 1 0 with | 1 => 2 | 2 => 4 | _ => 1) → s.dev.cxlMapped = false →
      s.dev.mem.cxlShut = false → ∃ t, exec (.cxlMediaReady dev cap) s = .next t ∧ bitOf t.dev.mem.cxlUp dev.val = true ∧
        (bitOf s.dev.mem.cxlEnum dev.val = false → bitOf t.dev.mem.cxlEnum dev.val = true ∧ t.dev.mem.cxlCap.get 0 dev.val = cap)) ∧
    (∀ r, s.dev.boot.restarting = false → s.dev.colRoom 1 = true →
      Becomes (.cxlEventRecord dev r) s (s.dev.log 5 255 0 0x40008 s.dev.cxlStatus s.dev.cxlStatus 0))

/-! ### Contexts and resets -/

/-- The enables of contexts and ring pairs, CTX_ABORT, and the resets of a function and of the link (R278, R295, R373, R394, R401).
The model's choices in it: logs 23, 49, 68, 69 and 76. -/
def Obligations.ContextCommandsComplete : Prop :=
  ∀ (s : State) (ctx : CtxId), s.dev.powered = true →
    (∀ (org : Origin) (ring : RingId) (v : Word), s.dev.boot.stage = .ready → s.dev.boot.mailboxOnly = false → s.dev.boot.shutDown = false →
      org = .fn 0 ∨ org = .fn ctx → (∀ f, org = .fn f → s.dev.fnOpen f.val = true) →
      Becomes (.ctxAbort org ctx v) s (s.dev.abortReg ctx.val v) ∧ (s.dev.boot.restarting = false → s.dev.colRoom 1 = true →
      (flag v 0 = true → s.dev.rangeClash ctx.val = false →
        ∃ t, exec (.contextEnable org ctx v) s = .next t ∧ s.dev.col.main.length < t.dev.col.main.length ∧
          t.dev.ctx ctx.val =
            { s.dev.ctx ctx.val with regs := { (s.dev.ctx ctx.val).regs with enable := true } }) ∧
      (flag v 0 = false →
        let n := 1 + b2n (s.dev.ctx ctx.val).key.isSome
        s.dev.colRoom n = true →
        Becomes (.contextDisable org ctx v) s
          (((s.dev.colReserve n).logNext (originCode org) ctx.val 0 (ctxOfs ctx.val 0) (b2n (s.dev.ctx ctx.val).regs.enable) 0 0).disable
            ctx.val true)) ∧
      (flag v 31 = true → flag (s.dev.ring ctx.val ring.val).cfg 31 = false →
        ∃ t, exec (.ringPairEnable org ctx ring v) s = .next t ∧ s.dev.col.main.length < t.dev.col.main.length ∧
          t.dev.ring ctx.val ring.val = { s.dev.ring ctx.val ring.val with
            cfg := ringCfgOf (s.dev.ring ctx.val ring.val).cfg v, sqTail := 0, sqHead := 0, cqTail := 0, cqHead := 0
            stopped := false, window := [], held := [], irqCount := 0, irqFirst := none }) ∧
      (flag v 31 = false → s.dev.ringIdle ctx.val ring.val = true →
        (flag (s.dev.ring ctx.val ring.val).cfg 31 = true →
          fld (ringCfgOf (s.dev.ring ctx.val ring.val).cfg v) 12 8 = fld (s.dev.ring ctx.val ring.val).cfg 12 8 ∧
          fld (ringCfgOf (s.dev.ring ctx.val ring.val).cfg v) 4 0 = fld (s.dev.ring ctx.val ring.val).cfg 4 0) →
        ∃ t, exec (.ringPairDisable org ctx ring v) s = .next t ∧
          t.dev.ring ctx.val ring.val = { s.dev.ring ctx.val ring.val with
            cfg := ringCfgOf (s.dev.ring ctx.val ring.val).cfg v, stopped := false }))) ∧
    Becomes (.functionLevelReset ctx) s (s.dev.flr ctx.val) ∧
    Becomes .hotReset s s.dev.linkReset ∧
    (s.dev.pins.perstN = true →
      Becomes (.perstN false) s ({ s.dev with pins := { s.dev.pins with perstN := false } }).linkReset) ∧
    Becomes (.perstN true) s (({ s.dev with pins := { s.dev.pins with perstN := true } }).drainRings.finishRuns)

/-- What a disabled context holds, whether its enable is cleared or its function reset (R196, R197, R249, R266, R278, R353): no page,
edition, staged copy, digest entry, binding or key, and an open barrier; and what a function level reset leaves of its page (R278, R394): the reset values, but for the sync range and RO fields of
other rules; every pair is disabled, with its indices, and the function's standard registers are at reset.
The model's choices in it: logs 34, 49 and 76. -/
def Obligations.DisableClosesTheContext : Prop :=
  ∀ (d : Dev) (c : Nat) (reserved : Bool),
    (∀ x, x = (d.disable c reserved).ctx c ∨ x = (d.closeContext c reserved).ctx c →
     (∀ p, x.pages.get none p = none) ∧ x.editions = [] ∧ x.staged = [] ∧ x.digests = [] ∧ x.bindings = [] ∧ x.key = none ∧
       x.barrier = .open ∧ x.hint = none) ∧ ((d.disable c reserved).ctx c).regs.enable = false ∧
    (let x := (d.flr c).ctx c
     x.regs = { subnActive := x.regs.subnActive, syncBase := x.regs.syncBase, syncCount := x.regs.syncCount, bindRefuse := x.regs.bindRefuse
                bindRefuseOfs := x.regs.bindRefuseOfs } ∧
     (∀ r, r < 16 → let g := (d.ctx c).rings.get {} r
       x.rings.get {} r = { sqTail := g.sqTail, sqHead := g.sqHead, cqTail := g.cqTail, cqHead := g.cqHead }) ∧
     (d.flr c).fn c = {})

/-! ### The mailbox -/

/-- The mailbox's commands through BAR0, the finish of a shutdown, and MBX_DATA (R381 to R388).
The model's choices in it: logs 30, 31 and 36. -/
def Obligations.MailboxCommandsComplete : Prop :=
  ∀ (s : State), s.dev.powered = true →
    (s.dev.boot.restarting = false → s.dev.boot.recovery = false → s.dev.boot.shutDown = false → s.dev.boot.stage ≠ .bootRom →
      s.dev.mbx.busy = false → s.dev.mbx.mctp = none → s.dev.fnOpen 0 = true →
      let d := fun (code arg : Nat) => s.dev.onMbx fun m => { m with cmd := word (code * 65536 + arg) }
      Becomes (.info .bar0 0) s ((d 0x01 0).mbxEnd St.ok ((wordsOf (padTo s.dev.boot.header 192)).take 48)) ∧
      (s.dev.mbx.run = none → s.dev.boot.update = none → Becomes (.fwBegin .bar0 0) s
        (((d 0x10 0).takeIn.2.onBoot fun b => { b with update := some .mailbox, held := [] }).fwFeed [] s.dev.mbx.inFifo)) ∧
      (∀ ok, s.dev.mbx.run = none → s.dev.boot.update ≠ some .pldm →
        let d1 := (d 0x11 0).onBoot fun b => { b with held := [], update := none }
        Becomes (.fwEnd .bar0 0 ok) s (match Image.fault s.dev.fuses s.dev.boot.held with
          | some st => d1.mbxEnd st []
          | none => (d1.flashImage s.dev.boot.held ok).mbxEnd (if ok then St.ok else St.notPermitted) [])) ∧
      Becomes (.fwActivate .bar0 0) s ((d 0x12 0).mbxEnd St.ok []).restartBegin ∧
      Becomes (.restart .bar0 0) s ((d 0x18 0).mbxEnd St.ok []).restartBegin ∧
      (∀ arg : Half, arg ≠ 0 → Becomes (.logRead .bar0 arg) s (logFill (outWords / 16 + 1) arg.toNat (d 0x20 arg.toNat))) ∧
      (∀ b, s.dev.mbx.run = none → s.dev.boot.dump = some b → Becomes (.dumpRead .bar0 0) s ((d 0x21 0).dumpOn b)) ∧
      Becomes (.telemetry .bar0 0) s
        ((d 0x30 0).mbxEnd St.ok ((List.range sensorCount).map fun i => word (s.dev.mgmt.sensors.getD i 0))) ∧
      (∀ arg : Half, arg.toNat ≤ 1 → Becomes (.shutdown .bar0 arg) s ((d 0x40 arg.toNat).shutdownBegin (bitOf arg.toNat 0)))) ∧
    (s.dev.boot.shuttingDown = true → s.dev.mayShut = true → s.dev.boot.restarting = false →
      ∃ t, exec .shutdownFinish s = .next t ∧ t.dev.boot.stage = .shutdown ∧ t.dev.boot.shutDown = true ∧ t.dev.pwr.idle = .s3 ∧
        t.dev.flash.clean = true ∧ t.dev.flash.boostSpent = s.dev.pc.boostSpent ∧ t.dev.mbx.busy = false ∧ t.dev.mbx.status = St.ok) ∧
    (∀ w, s.dev.reaches (.fn 0) 0x1008 = true → s.dev.mbx.inFifo.length < inWords →
      s.dev.mbx.busy = true ∨ s.dev.boot.update ≠ some .mailbox → s.dev.mbx.run = none →
      Becomes (.mbxDataWrite (.fn 0) w) s (s.dev.onMbx fun m => { m with inFifo := m.inFifo ++ [w] })) ∧
    (∀ w rest, s.dev.reaches (.fn 0) 0x1008 = true → s.dev.mbx.outFifo = (w, none) :: rest → s.dev.mbx.run = none →
      Becomes (.mbxDataRead (.fn 0)) s ((s.dev.onMbx fun m => { m with outFifo := rest }).emit (.regValue w.toNat)))

/-! ### Management -/

/-- The commands of the management transports while the firmware serves them, which wake the station first: register reads and writes,
mailbox commands over MCTP, endpoint IDs, firmware update by PLDM, the event receiver; and the sensors' refresh (R326, R377 to R380, R385,
R387).
The model's choices in it: logs 15, 22 and 31. -/
def Obligations.ManagementCommandsComplete : Prop :=
  ∀ (s : State), s.dev.powered = true → s.dev.served = true →
    let d := s.dev.rouse
    (∀ req : MgmtRead, s.dev.carries (.mctp req.via.medium) = true → let x := d.readBar0 (.mgmt req.via) req.offset false
      Becomes (.regRead req) s (x.2.mgmtReply req.via St.ok [word x.1])) ∧
    (∀ (via : Mctp) ofs v, Becomes (.regWrite via ofs v) s (s.dev.writeReg (.mgmt via) ofs v)) ∧
    (∀ (via : Mctp) ws, d.mbx.busy = false → s.dev.hears via = true → d.hears via = true → d.mbxAllowed 0x01 = true → Becomes (.mctpMailbox via 0x01 0 ws) s
      ((d.onMbx fun m => { m with mctp := some via }).mbxEnd St.ok ((wordsOf (padTo d.boot.header 192)).take 48))) ∧
    (∀ eid, Becomes (.setEndpointId .i3c eid) s
        ({ d with mgmt := { d.mgmt with eidI3c := eid } }.say (.mctp .i3c) 0 [0, eid]) ∧
      (s.dev.pins.perstN = true → Becomes (.setEndpointId .vdm eid) s
        ({ d with mgmt := { d.mgmt with eidVdm := eid } }.say (.mctp .vdm) 0 [0, eid])) ∧
      ∀ m, s.dev.carries (.mctp m) = true → Becomes (.setEventReceiver m eid) s
        ({ d with mgmt := { d.mgmt with receiver := some (m, eid) } }.say (.mctp m) 1 [0])) ∧
    (d.boot.update = none → Becomes .requestUpdate s
      (((d.onBoot fun b => { b with update := some .pldm, held := [], applied := false }).pldmSay 0x10 [0]).pldmAsk)) ∧
    (∀ data, d.boot.update = some .pldm → d.boot.applied = false → data.length = 1024 →
      let b := d.boot.held ++ data
      b.length < 192 + Image.length b →
      Becomes (.requestFirmwareData d.boot.held.length data) s (d.onBoot fun x => { x with held := b }).pldmAsk) ∧
    (d.boot.update = some .pldm → d.boot.applied = true →
      Becomes .activateFirmware s (d.pldmSay 0x1A [0, 1, 0]).restartBegin) ∧
    (∃ t, exec .sensorRefresh s = .next t ∧ t.dev.mgmt.sensors = s.dev.sensorValues ∧ t.dev.mgmt.samples = 0 ∧
      t.dev.mem = s.dev.mem ∧ t.dev.work = s.dev.work ∧ t.dev.cores = s.dev.cores)

/-! ### Security -/

/-- SPDM, context keys, IDE, the debug unlock's words and lockout, the JTAG port with the memories that debug level 2 opens, and the trust
anchors (R350 to R360, R409); a request over DOE while the finisher restarts is answered busy (R387).
The model's choices in it: logs 12, 15, 27, 33 and 34. -/
def Obligations.SecurityCommandsComplete : Prop :=
  ∀ (s : State), s.dev.powered = true →
    (s.dev.served = true → ∀ c : Carrier,
      let d := s.dev.rouse
      (s.dev.carries c = true → d.sec.sessions.length < 4 → Becomes (.spdmRequest ⟨c, none, .keyExchange⟩) s
        (({ d with sec := { d.sec with
            sessions := d.sec.sessions ++ [({ id := d.sec.sessionNo, carrier := c } : Session)], sessionNo := d.sec.sessionNo + 1 } }.tookFree).saySigned
          c none (spdmRsp 0x64 (leBytes 4 d.sec.sessionNo ++ Config.ephemeral d.free)))) ∧
      (s.dev.carries c = true →
        Becomes (.spdmRequest ⟨c, none, .getVersion⟩) s (d.say c 5 (spdmRsp 4 [0x12])) ∧
        Becomes (.spdmRequest ⟨c, none, .getCapabilities⟩) s (d.say c 5 (spdmRsp 0x61 (leBytes 4 spdmCaps))) ∧
        Becomes (.spdmRequest ⟨c, none, .negotiateAlgorithms⟩) s (d.say c 5 (spdmRsp 0x63 spdmAlgs)) ∧
        Becomes (.spdmRequest ⟨c, none, .challenge 0⟩) s (d.saySigned c none (spdmRsp 3 (sha256 d.boot.certs
          ++ sha256 (measurementIndices.flatMap fun i => (d.measurementBlock i).getD []))))) ∧
      (∀ x : Option Nat, s.dev.carries c = true → x = none ∨ d.inSession c x = true →
        Becomes (.spdmRequest ⟨c, x, .getDigests⟩) s (d.answer c x 5 (spdmRsp 1 (0 :: 1 :: sha256 d.boot.certs))) ∧
        Becomes (.spdmRequest ⟨c, x, .getCertificate 0⟩) s (d.answer c x 5 (spdmRsp 2 d.boot.certs)) ∧
        (∀ i b, i ≠ 0 → i ≠ 255 → d.measurementBlock i = some b → Becomes (.spdmRequest ⟨c, x, .getMeasurements i⟩) s
          (d.saySigned c x (spdmRsp 0x60 (0 :: 0 :: 1 :: leBytes 3 b.length ++ b))))) ∧
      (∀ n, s.dev.carries c = true → d.inSession c (some n) = true →
        Becomes (.spdmRequest ⟨c, some n, .heartbeat⟩) s (d.answer c (some n) 5 (spdmRsp 0x68 [])) ∧
        Becomes (.spdmRequest ⟨c, some n, .endSession⟩) s
          ((d.answer c (some n) 5 (spdmRsp 0x6C [])).onSec fun x => { x with sessions := x.sessions.filter fun y => y.id != n })) ∧
      (∀ n x (ctx : CtxId) key, s.dev.sessionOf n = some x → s.dev.carries x.carrier = true → (d.ctx ctx.val).regs.enable = true →
        d.boot.restarting = false → d.colRoom 1 = true →
        ∃ t, exec (.setContextKey n ctx key) s = .next t ∧ (t.dev.ctx ctx.val).key = some key ∧
          (t.dev.ctx ctx.val).regs = (d.ctx ctx.val).regs ∧ d.col.main.length < t.dev.col.main.length ∧ t.dev.mem = d.mem) ∧
      (∀ n x k, s.dev.sessionOf n = some x → x.carrier = .doe → s.dev.carries .doe = true → d.boot.restarting = false → d.colRoom 1 = true →
        (∃ t, exec (.ideKm n (.setKey k)) s = .next t ∧ t.dev.sec.ideNext = some k ∧ t.dev.sec.ideKey = d.sec.ideKey ∧
          t.dev.sec.ideOn = d.sec.ideOn) ∧
        (d.sec.ideNext = some k →
          ∃ t, exec (.ideKm n .enable) s = .next t ∧ t.dev.sec.ideKey = some k ∧ t.dev.sec.ideNext = none ∧
            t.dev.sec.ideOn = true ∧ t.dev.sec.ideSecure = true))) ∧
    (∀ x r, s.dev.boot.restarting = true → Becomes (.spdmRequest ⟨.doe, x, r⟩) s (s.dev.say .doe 5 (spdmError 3))) ∧
    (s.dev.sec.ideOn = true → Becomes .ideNotSecure s { s.dev with sec := { s.dev.sec with ideSecure := false } }) ∧
    (∀ w, s.dev.sealedOff 0x90028 = false → s.dev.sec.locked = false → s.dev.sec.token.length < 23 →
      Becomes (.unlockTokenWord .jtag w) s { s.dev with sec := { s.dev.sec with token := s.dev.sec.token ++ [w] } }) ∧
    (∀ (m : Mctp) w, s.dev.hears m = true → let d := s.dev.rouse
      d.reaches (.mgmt m) 0x90028 = true → d.inSession (.mctp m.medium) m.session = true → d.sealedOff 0x90028 = false →
      d.sec.locked = false → d.sec.token.length < 23 → Becomes (.unlockTokenWord (.mgmt m) w) s
        ({ d with sec := { d.sec with token := d.sec.token ++ [w] } }.mgmtReply m St.ok [])) ∧
    (s.dev.sec.locked = true → ∃ t, exec .unlockLockoutExpiry s = .next t ∧ t.dev.sec = { s.dev.sec with locked := false } ∧
      min (s.dev.sec.lockedAt + 60000000000) (2 ^ 64 - 1) ≤ t.dev.now) ∧
    Becomes (.jtagInstruction .idcode) s (s.dev.emit (.jtag true 0x07160AB5)) ∧
    (∀ mem a n b, 2 ≤ s.dev.sec.debug →
      Becomes (.jtagInstruction (.readMem mem a n)) s (s.dev.emit (.jtagMem (s.dev.debugRead mem a n))) ∧
      Becomes (.jtagInstruction (.writeMem mem a b)) s ((s.dev.debugWrite mem a b).emit (.jtag true 0))) ∧
    (∀ (org : Origin) (ctx : CtxId) (v : Word), let d := s.dev.given (match org with | .mgmt m => s.dev.hears m | _ => false) (·.rouse)
      d.unheard org = false → d.reaches org (ctxOfs ctx.val 0x40) = true → d.sealedOff (ctxOfs ctx.val 0x40) = false →
      d.boot.restarting = false → d.colRoom 1 = true →
      (flag v 31 = false → flag v 30 = true → ∃ t, exec (.anchorRemove org ctx v) s = .next t ∧
        (t.dev.ctx ctx.val).anchors.get [] (fld v 2 0) = [] ∧ t.dev.mem = d.mem) ∧
      (flag v 31 = true → (∀ i < 8, d.anchorAt ctx.val i ≠ anchorId (d.anchorKey ctx.val)) →
        ∃ t, exec (.anchorCommit org ctx v) s = .next t ∧
          (t.dev.ctx ctx.val).anchors.get [] (fld v 2 0) = (if Config.onCurve (d.anchorKey ctx.val) then d.anchorKey ctx.val
            else (d.ctx ctx.val).anchors.get [] (fld v 2 0)) ∧ t.dev.mem = d.mem))

/-- A whole token that is refused counts as a failed attempt; the third in a row locks the unlock out, and every attempt ends with a new
challenge; the debug level is unchanged (R359).
The model's choices in it: log 33. -/
def Obligations.RefusedTokensLockOut : Prop :=
  ∀ (d : Dev) (org : Origin) (t : Bytes) (st : Status), d.tokenFault t = some st →
    (d.tryToken org t).sec.unlockStatus = st ∧ (d.tryToken org t).sec.token = [] ∧ (d.tryToken org t).sec.debug = d.sec.debug ∧
    (d.tryToken org t).sec.failures = (if d.sec.failures + 1 ≥ 3 then 0 else d.sec.failures + 1) ∧
    (d.tryToken org t).sec.locked = decide (d.sec.failures + 1 ≥ 3) ∧ (d.tryToken org t).sec.chal = Config.entropy d.free ∧
    (d.tryToken org t).ctxs = d.ctxs ∧ (d.tryToken org t).fuses = d.fuses

/-! ### Links -/

/-- The plan, the training and loss of cords, their modules, and their power (R219 to R222, R224, R230).
The model's choices in it: logs 15, 53 and 77. -/
def Obligations.CordCommandsComplete : Prop :=
  ∀ (s : State) (port : PortId) (cord : CordId), s.dev.powered = true →
    (∀ v, s.dev.reaches (.fn 0) 0x70000 = true → s.dev.sealedOff 0x70000 = false → fld v 1 0 = s.dev.pins.modulePos → s.dev.boot.restarting = false →
      s.dev.colRoom 1 = true → ∃ d : Dev, Becomes (.planApply (.fn 0) v) s
        (d.applyPlan (word (fld v 11 0)) ((List.range 6).map fun p => (s.dev.port p).plan)) ∧
        d.flash.plan = some (word (fld v 11 0) :: (List.range 6).map fun p => (s.dev.port p).plan) ∧ d.lnk = s.dev.lnk) ∧
    (∀ lanes gbps, bitOf (fld (s.dev.planOf port.val) 11 0) cord.val = true → (s.dev.port port.val).st ≠ .down →
      let go := fun (d : Dev) (st : CordSt) => d.onCord port.val cord.val fun x => { x with st := st }
      ((s.dev.cord port.val cord.val).st = .detect → s.dev.optical port.val lanes = false →
        Becomes (.cordStateAdvance port cord lanes gbps) s (go s.dev .equalise)) ∧
      ((s.dev.cord port.val cord.val).st = .detect → s.dev.optical port.val lanes = true → s.dev.boot.restarting = false →
        lanes = 4 → gbps = 128 → Becomes (.cordStateAdvance port cord lanes gbps) s
          (go (s.dev.manageModule port.val cord.val lanes gbps) .equalise)) ∧
      ((s.dev.cord port.val cord.val).st = .equalise → Becomes (.cordStateAdvance port cord lanes gbps) s (go s.dev .align)) ∧
      ((s.dev.cord port.val cord.val).st = .align → Becomes (.cordStateAdvance port cord lanes gbps) s (go s.dev .verify)) ∧
      ((s.dev.cord port.val cord.val).st = .verify → Becomes (.cordStateAdvance port cord lanes gbps) s (go s.dev .join)) ∧
      ((s.dev.cord port.val cord.val).st = .join → ∀ d, d = s.dev.joinCord port.val cord.val →
        Becomes (.cordStateAdvance port cord lanes gbps) s ((d.sendCordSet port.val (d.port port.val).ll.tx).applyVerdict port.val))) ∧
    ((s.dev.cord port.val cord.val).st = .equalise → Becomes (.cordTrainingTimeout port cord) s
      (s.dev.onCord port.val cord.val fun y =>
        if y.backoff > 1 then { y with st := .dropped, dropAt := s.dev.now } else { y with st := .detect })) ∧
    ((s.dev.cord port.val cord.val).st = .joined →
      (∀ d, d = (s.dev.cordOut port.val cord.val).rewind port.val → Becomes (.cordDrop port cord) s
        ((d.sendNak port.val).sendCordSet port.val (d.port port.val).ll.rx)) ∧
      (s.dev.portClass port.val = 2 ∨ s.dev.lnk.planValid = false → ∀ x d, x = (((s.dev.given (!s.dev.boot.restarting) fun d =>
          (d.emit (.twoWire port.val cord.val 0 8 none)).emit (.twoWire port.val cord.val 0x11 128 none)).onPort port.val fun y => { y with
          modSel := cord.val, modIntN := false
          modules := y.modules.modify {} cord.val fun m =>
            { m with flagged := true, laneStatus := Config.freeNat s.dev.free % 256 } }).tookFree) →
        d = (x.cordOut port.val cord.val).rewind port.val → Becomes (.moduleFlag port cord) s
          ((d.sendNak port.val).sendCordSet port.val (d.port port.val).ll.rx))) ∧
    ((s.dev.cord port.val cord.val).st = .dropped → Becomes (.cordRetrain port cord) s
      ((s.dev.reach ((s.dev.cord port.val cord.val).dropAt + 1000000000 * (s.dev.cord port.val cord.val).backoff)).onCord
        port.val cord.val fun y => { y with st := .detect, backoff := min 64 (2 * y.backoff) })) ∧
    (∀ msg, (((List.range 12).filter fun k => (s.dev.cord port.val k).st == .joined && !bitOf (u16 msg 1 % 4096) k) = []) →
      ((List.range 12).filter fun k => (s.dev.cord port.val k).st == .join && bitOf (u16 msg 1 % 4096) k) = [cord.val] →
      Becomes (.cordSet port msg) s ((s.dev.joinCord port.val cord.val).applyVerdict port.val)) ∧
    (∀ msg, ((List.range 12).filter fun k => (s.dev.cord port.val k).st == .joined && !bitOf (u16 msg 1 % 4096) k) = [cord.val] →
      ((List.range 12).filter fun k => (s.dev.cord port.val k).st == .join) = [] →
      Becomes (.cordSet port msg) s (((s.dev.cordOut port.val cord.val).resend port.val (u16 msg 3)).applyVerdict port.val)) ∧
    (∀ msg, let m := u16 msg 1 % 4096
      let low := lowBit (s.dev.joinedMask port.val)
      let set := fun (off : Bool) => s.dev.each ((List.range 12).filter fun k => bitOf m k && (s.dev.cord port.val k).st == .joined)
        fun d k => d.onCord port.val k fun x => { x with off := off }
      (u8 msg 3 = 0 → s.dev.portBusy port.val = false → m &&& low = 0 →
        Becomes (.cordPower port msg) s ((set true).linkOut port.val (cordPowerBytes m 2))) ∧
      (u8 msg 3 = 0 → s.dev.portBusy port.val = true ∨ m &&& low ≠ 0 →
        Becomes (.cordPower port msg) s (s.dev.linkOut port.val (cordPowerBytes m 3))) ∧
      (u8 msg 3 = 1 → Becomes (.cordPower port msg) s ((set false).linkOut port.val (cordPowerBytes m 4))) ∧
      (u8 msg 3 = 2 → s.dev.portBusy port.val = false → m &&& low = 0 → Becomes (.cordPower port msg) s (set true)) ∧
      (u8 msg 3 = 4 → Becomes (.cordPower port msg) s (set false))) ∧
    (s.dev.offMask port.val ≠ 0 → Becomes (.cordWake port) s
      ((s.dev.onPort port.val fun x => { x with cords := x.cords.map fun c => (c.1, { c.2 with off := false }) }).linkOut
        port.val (cordPowerBytes (s.dev.offMask port.val) 1))) ∧
    (∀ msg, s.dev.joinedMask port.val ≠ 0 → u8 msg 0 = 7 →
      Becomes (.stopping port msg) s (s.dev.lostPort port.val (msg.getD 1 St.linkLost))) ∧
    (∀ t0, (s.dev.port port.val).noCordAt = some t0 → s.dev.joinedMask port.val = 0 →
      Becomes (.portLost port) s ((s.dev.reach (t0 + 10000000)).lostPort port.val St.linkLost))

/-- Discovery, link keys, detours and the timestamp (R228, R231, R235, R241, R356, R357); detour messages wait while the finisher restarts
(R370).
The model's choices in it: logs 13, 15, 53 and 71. -/
def Obligations.DiscoveryTransitAndTimeCommandsComplete : Prop :=
  ∀ (s : State) (port : PortId), s.dev.powered = true → (∀ msg : Bytes,
    (s.dev.joinedMask port.val ≠ 0 → Becomes (.helloSend port) s (s.dev.linkOut port.val (s.dev.helloBytes port.val))) ∧
    (u8 msg 0 = 1 → s.dev.joinedMask port.val ≠ 0 → Becomes (.helloReceive port msg) s
      ((s.dev.onPort port.val fun x => { x with hello := some msg, heard := u16 msg 2 % 4096, helloAt := some s.dev.now }).applyVerdict
        port.val)) ∧
    (∀ t0, (s.dev.port port.val).helloAt = some t0 → (s.dev.port port.val).st = .active →
      Becomes (.helloTimeout port) s ((s.dev.reach (t0 + 5000000000)).lostPort port.val St.linkLost)) ∧
    (∀ t0, s.dev.portUsed port.val = true → (s.dev.port port.val).hello = none → s.dev.boot.restarting = false →
      s.dev.joinedMask port.val = 0 → (s.dev.port port.val).trainAt = some t0 → (s.dev.port port.val).st = .training →
      ∃ t, exec (.portAbsent port) s = .next t ∧ (t.dev.port port.val).st = .absent ∧ (t.dev.port port.val).cause = 0 ∧
        flag t.dev.err.irqStatus cLink = true) ∧
    (s.dev.portEnc port.val = true → u16 msg 2 < u16 msg 4 → u16 msg 6 ≤ 240 → (s.dev.port port.val).hello.isSome = true →
      let d1 := s.dev.onPort port.val fun x => { x with keys := { x.keys with frags := x.keys.frags.set [] (u16 msg 2) (sub msg 8 (u16 msg 6)) } }
      ((List.range (u16 msg 4)).all fun j => !((d1.port port.val).keys.frags.get [] j).isEmpty) = false →
      Becomes (.keyCert port msg) s d1) ∧
    (∀ key, (s.dev.port port.val).keys.peerKey = some key → (s.dev.port port.val).keys.epoch = 0 →
      (s.dev.port port.val).keys.nextTx = none → (s.dev.port port.val).st ≠ .active → u32 msg 2 = 1 →
      ∃ t, exec (.keyShare port msg) s = .next t ∧
        if Config.ecdsaVerify key (sha256 (msg.take 70 ++ leBytes 8 s.dev.fuses.serial)) (sub msg 70 64) then
          (t.dev.port port.val).keys.txKey.isSome = true ∧ (t.dev.port port.val).keys.rxKey.isSome = true ∧
            (t.dev.port port.val).keys.epoch = 1 ∧ (t.dev.port port.val).keys.rxEpoch = 1
        else t.dev = s.dev.keysFail port.val) ∧
    (u32 msg 2 = (s.dev.port port.val).keys.rxEpoch + 1 → Becomes (.keySwitch port msg) s
      (s.dev.onPort port.val fun x => { x with keys := rxSwitch { x.keys with rxSwitchAt := some (u64 msg 6) } })) ∧
    (let k := (s.dev.port port.val).keys
     k.txKey.isSome = true → k.ephNo = none → k.nextTx = none → k.failed = false → s.dev.fuses.serial < s.dev.helloSerial port.val →
     Becomes (.keyEpochRenewal port) s (s.dev.sendShare port.val)) ∧
    ((s.dev.port port.val).keys.failed = true → Becomes (.keyAgreementRetry port) s
      ((s.dev.reach ((s.dev.port port.val).keys.failedAt + 10000000000)).agreeAgain port.val))) ∧
    (∀ msg, s.dev.boot.restarting = true → Becomes (.transit port msg) s
      { s.dev with lnk := { s.dev.lnk with transitWait := s.dev.lnk.transitWait ++ [(port.val, msg)] } }) ∧
    (∀ msg, s.dev.boot.restarting = false → s.dev.portUp port.val = true → u8 msg 0 = 8 → u8 msg 1 = 1 → u8 msg 8 = 0 →
      Becomes (.transit port msg) s (s.dev.linkOut port.val (transitBytes
        (if u16 msg 6 = s.dev.station && u16 msg 4 = fld s.dev.lnk.slice 11 0 then 2 else 3) (u16 msg 2) (u16 msg 4) (u16 msg 6) []))) ∧
    (∀ msg, s.dev.boot.restarting = false → s.dev.portUp port.val = true → u8 msg 0 = 8 → u8 msg 1 = 1 → 0 < u8 msg 8 → u16 msg 4 = fld s.dev.lnk.slice 11 0 →
      s.dev.lnk.transits.length < 8 → u8 msg 9 < 6 → s.dev.portUp (u8 msg 9) = true →
      ∃ t, exec (.transit port msg) s = .next t ∧
        t.dev.lnk.transits = s.dev.lnk.transits ++ [⟨u16 msg 2, u16 msg 4, u16 msg 6, port.val, u8 msg 9⟩]) ∧
    (s.dev.lnk.planValid = true → s.dev.station = 0 → Becomes .timeSyncExchange s
      { s.dev with clk := { s.dev.clk with set := true, aligned := true, offsetPs := 0 } }) ∧
    (s.dev.station ≠ 0 → s.dev.clk.upstream < 6 → s.dev.portUp s.dev.clk.upstream = true → Becomes .timeSyncExchange s
      (s.dev.linkOut s.dev.clk.upstream (timeBytes false [s.dev.nowPs]))) ∧
    (∀ t1 t2 t3 t4 : Nat, port.val ≠ s.dev.clk.upstream → s.dev.portUp port.val = true → Becomes (.timeSync port t1 t2 t3 t4) s
      (s.dev.linkOut port.val (timeBytes true [t1, t2, s.dev.nowPs]))) ∧
    (∀ t1 t2 t3 t4 : Nat, port.val = s.dev.clk.upstream → s.dev.portUp port.val = true → s.dev.rackRoot = false →
      ∃ t, exec (.timeSync port t1 t2 t3 t4) s = .next t ∧ t.dev.clk.set = true ∧
        (let off : Int := (((t2 : Int) - t1) - ((t4 : Int) - t3)) / 2 - s.dev.asymPs port.val
         t.dev.clk.offsetPs = max (-32767) (min 32767 off) ∧ (t.dev.clk.aligned = true ↔ -4000 ≤ off ∧ off ≤ 4000) ∧
         (s.dev.clk.set = true → t.dev.clk.slewPs = off ∧ t.dev.now = s.dev.now))) ∧
    (∀ ppm at_, s.dev.clk.upstream = port.val → s.dev.portUp port.val = true → -100 ≤ ppm → ppm ≤ 100 →
      Becomes (.timeSteer port ppm at_) s (({ s.dev with clk := { s.dev.clk with steer := some (ppm, at_) } }).sendSteer ppm at_)) ∧
    (∀ ppm at_, s.dev.clk.steer = some (ppm, at_) → ∃ t, exec .timeSteerApply s = .next t ∧ t.dev.clk.ppm = ppm ∧
      t.dev.clk.steer = none ∧ min at_ (2 ^ 64 - 1) ≤ t.dev.now)

/-- Flits, acknowledgements and tags on a port with a joined cord (R214, R215, R218, R226).
The model's choices in it: logs 64 and 70. -/
def Obligations.FlitCommandsComplete : Prop :=
  ∀ (s : State) (port : PortId), s.dev.powered = true → s.dev.joinedMask port.val ≠ 0 →
    Becomes (.flitReceive port .uncorrectable) s (s.dev.sendNak port.val) ∧
    (∀ n b, crc32c (b.take 252) = BitVec.ofNat 32 (u32 b 252) → flitCr b = 0 → flitAk b = 0 →
      (s.dev.port port.val).ll.naked = false → (s.dev.port port.val).ll.skip = 0 →
      let d := (s.dev.onPort port.val fun x => { x with corr := satAdd x.corr n }).inOrder port.val
      (flitKind b = 1 ∨ flitKind b = 2 → (s.dev.port port.val).keys.rxKey = none →
        Becomes (.flitReceive port (.decoded n b)) s (d.deliver port.val (flitKind b) (sub b 3 249))) ∧
      (flitKind b = 3 → (s.dev.port port.val).keys.rxHeld = [] →
        Becomes (.flitReceive port (.decoded n b)) s (d.deliver port.val 3 (sub b 3 249))) ∧
      (flitKind b = 5 → Becomes (.flitReceive port (.decoded n b)) s
        ((s.dev.onPort port.val fun x => { x with corr := satAdd x.corr n }).markerIn port.val (u16 b 3))) ∧
      (flitKind b = 6 ∨ flitKind b = 7 → Becomes (.flitReceive port (.decoded n b)) s d)) ∧
    (∀ number : Half, Becomes (.nakReceive port number) s (s.dev.nakIn port.val number.toNat)) ∧
    Becomes (.ackTimer port) s (s.dev.sendAcks port.val) ∧
    (∀ k, (s.dev.port port.val).keys.txKey = some k → (s.dev.port port.val).keys.txOpen ≠ [] →
      (s.dev.port port.val).ll.replay.length < replayRoom → ∃ t, exec (.tagGroupClose port) s = .next t ∧ (t.dev.port port.val).keys.txOpen = [] ∧
        (t.dev.port port.val).ll.tx = ((s.dev.port port.val).ll.tx + 1) % 65536 ∧
        (t.dev.port port.val).ll.replay.length = (s.dev.port port.val).ll.replay.length + 1) ∧
    (∀ b key, flitKind b = 4 → crc32c (b.take 252) = BitVec.ofNat 32 (u32 b 252) → flitCr b = 0 → flitAk b = 0 →
      (s.dev.port port.val).ll.naked = false → (s.dev.port port.val).ll.skip = 0 → (s.dev.port port.val).keys.rxKey = some key →
      Becomes (.tagFlit port b) s ((s.dev.onPort port.val fun x => { x with corr := satAdd x.corr 0 }).tagIn port.val b))

/-- An acknowledgement releases exactly the flits up to its number and leaves the others in the order they were sent; what waits for room in
the replay buffer follows them, and nothing else of the station changes. A NAK sends the marker with the number of the first flit resent
and then, in order, every flit kept from the number it names on, each on the next of the active cords (R211, R213 to R215, R226).
The model's choices in it: log 64. -/
def Obligations.FlitsAreReleasedAndReplayedInOrder : Prop :=
  (∀ (d : Dev) (p no : Nat),
    (∃ more, ((d.ackIn p no).port p).ll.replay = ((d.port p).ll.replay.filter fun f => seqBefore 16 no f.no) ++ more ∧
      ((d.port p).ll.ctl = [] → (d.port p).ll.act.out = [] → (d.port p).ll.circ.out = [] → more = [])) ∧
    (∀ q, q ≠ p → (d.ackIn p no).port q = d.port q) ∧ { d.ackIn p no with lnk := d.lnk, out := d.out } = d) ∧
  ∀ (d : Dev) (p no : Nat), d.activeCords p ≠ [] → ¬ ((d.port p).ll.nakRun + 1 ≥ 32 ∧ (d.port p).ll.nakNo = no) →
    let fs := (d.port p).ll.replay.filter fun f => !seqBefore 16 f.no no
    let l := d.activeCords p
    let first := (fs.head?.map (·.no)).getD (d.port p).ll.tx
    (d.nakIn p no).out = d.out ++ ((flitBytes 5 0 0 0 (leBytes 2 first) :: fs.map fun f => flitBytes f.kind 0 0 0 f.data).mapIdx
      fun i b => .flit p (l.getD (((d.port p).ll.line + i) % l.length) 0) b) ∧
    ((d.nakIn p no).port p).ll.replay = (d.port p).ll.replay ∧
    ((d.nakIn p no).port p).replayCount = satAdd (d.port p).replayCount fs.length

/-! ### Circulation, transfers and board accesses -/

/-- Signatures arrive, are placed, injected and built (R155, R156, R159, R164, R166, R177).
The model's choices in it: logs 20 and 29. -/
def Obligations.SignatureCommandsComplete : Prop :=
  ∀ (s : State) (port : PortId) (packet : Bytes) (leaf : LeafId) (fs : List Found), s.dev.powered = true →
    (∀ d h, (s.dev.rouseAt port.val).receive port.val packet = (d, some h) → h.cls = 1 → d.sigGood h.body = true →
      Becomes (.signatureArrival port packet) s ((d.passSig port.val h.body).takeSig port.val h.body)) ∧
    (∀ h d, s.dev.circ.sigs.find? s.dev.placeable = some h → s.dev.placeSig h.bytes = (true, d) →
      Becomes .signaturePlacement s
        ((d.leaveStaging h).onCirc fun q => { q with placedCount := satAdd q.placedCount 1 }).spine.coresGo) ∧
    (∀ d r e d2 t d3, d = s.dev.found fs → d.work.run = some r → d.injEntry d.circ.nextEntry = some e → d.mayInject e = true →
      d2 = d.awake.takeEntry r e → d2.tooLong e = false → d2.buildTiles e = (t, d3) → t.mark = none →
      ∀ b, b = d3.signature e d.circ.nextSeq r.no t.tiles → b.length ≤ sigMax →
      Becomes (.injectionBegin fs) s (d3.takeNumber.built (d.circ.nextSeq % 2) t.cxl b)) ∧
    (∀ b, s.dev.circ.builds.head? = some b → b.leaf = leaf.val → Becomes (.signatureBuildDone leaf) s
      ((s.dev.onCirc fun q => { q with builds := q.builds.erase b }).sendSig b.bytes))

/-- Activations, shortlists, acknowledgements, lag limits and board accesses (R146, R174, R240).
The model's choices in it: logs 15 and 40. -/
def Obligations.TransferCommandsComplete : Prop :=
  ∀ (s : State) (port : PortId) (packet : Bytes), s.dev.powered = true →
    (∀ d h, (s.dev.rouseAt port.val).receive port.val packet = (d, some h) →
      (∀ x, x = d.forwardCopy port.val h packet → x.discarded h = none →
        (h.cls = 2 → Becomes (.activationMessage port packet) s (x.transferIn (x.transferOf h port.val)).coresGo) ∧
        (h.cls = 3 → Becomes (.shortlistPacket port packet) s (x.transferIn (x.transferOf h port.val)).coresGo)) ∧
      (h.cls = 5 → u8 h.body 1 ≠ 1 → u8 h.body 1 ≠ 2 → d.boardAllowed (u8 h.body 0 % 64) = true →
        ∀ d1, d.memPut (u8 h.body 0 % 64) (boardLocal (u64 h.body 8)) (h.body.drop 16)
            (if u8 h.body 2 = 0 then none else some (h.body.getD 2 0)) = (none, d1) →
          Becomes (.boardStore port packet) s (d1.boardReply h.src h.tag 8 (ackBytes 0 St.ok)).coresGo) ∧
      (h.cls = 6 → d.boardAllowed (u8 h.body 0 % 64) = true →
        ∀ b d1, d.memGet (u8 h.body 0 % 64) (boardLocal (u64 h.body 8)) (u64 h.body 16) = (b, none, d1) →
          Becomes (.boardLoadRequest port packet) s (d1.boardReply h.src h.tag 7 (ackBytes 0 St.ok ++ b))) ∧
      (∀ b, h.cls = 7 → u8 h.body 0 = 0 →
        (d.circ.boards.find? fun b => boardTag b.no = h.tag && d.boardStation b.module = h.src) = some b →
        Becomes (.boardLoadResponse port packet) s (d.boardEnd b (h.body.drop 8) none false).coresGo) ∧
      (h.cls = 8 → h.tag < 2 ^ 31 → u8 h.body 0 = 0 →
        Becomes (.acknowledgement port packet) s (d.sendAck h.src h.tag .written).coresGo)) ∧
    (∀ (src : BitVec 12) (tag : Half) t ts left, s.dev.barrierShut = false →
      s.dev.lagging src.toNat tag.toNat = (t :: ts, left) → s.dev.awaitsData t left = false →
      ∀ d, d = ((s.dev.reach (t.arrivedAt + 1000 * t.lag)).onCirc fun q => { q with
          transfers := (t :: ts).foldl (fun l t => l.erase t) q.transfers
          discard := if left = 0 then q.discard else q.discard ++ [(src.toNat, tag.toNat, left)]
          detach := (if q.detach.length ≥ 256 then q.detach.drop 1 else q.detach) ++ [tag.toNat]
          detachCount := satAdd q.detachCount 1 }).ackTransfer t 1 →
      ((d.recvsWaiting.find? fun r => IW.nTag r.2.word.toNat = tag.toNat) = none → Becomes (.lagExpiry src tag) s d.coresGo) ∧
      (∀ r, (d.recvsWaiting.find? fun r => IW.nTag r.2.word.toNat = tag.toNat) = some r →
        Becomes (.lagExpiry src tag) s (d.recvTry r.1 r.2).coresGo))

/-- A placement that runs past the signature's tiles or past the half region is not written (R167); any other is written for a core that
its record names at the core's half region for the step's parity: the bytes of its tiles are written there, no byte outside them and no
damage mark of a 64-byte line outside them changes, and nothing else of the station does (R166). -/
def Obligations.PlacementWritesTheTiles : Prop :=
  ∀ (d : Dev) (b t : Bytes) (lc c first n ofs base size len at_ : Nat),
    d.placeField (Sig.place b) lc = (first, n, ofs) → n ≠ 0 → d.sigRegion lc = some (base, size) → d.physCore lc = some c →
    len = Sig.tileAt b (first + n) - Sig.tileAt b first → t = sub b (Sig.tileAt b first) len →
    at_ = base + Sig.step b % 2 * (size / 2) + ofs →
    (first + n > Sig.tiles b ∨ ofs + len > size / 2 → d.placeCore b lc = none) ∧
    (first + n ≤ Sig.tiles b → ofs + len ≤ size / 2 → ∃ d1, d.placeCore b lc = some (true, d1) ∧
      d1.bufGet c at_ t.length = t ∧
      (∀ a, a < at_ ∨ at_ + t.length ≤ a → (d1.core c).buf.bytes.get 0 a = (d.core c).buf.bytes.get 0 a) ∧
      (∀ l, l < at_ / 64 ∨ at_ + t.length ≤ l * 64 → (d1.core c).buf.marks.get none l = (d.core c).buf.marks.get none l) ∧
      { d1.core c with buf := (d.core c).buf } = d.core c ∧
      (∀ k, k ≠ c → d1.core k = d.core k) ∧ { d1 with cores := d.cores } = d)

/-- A signature that is a duplicate is counted and not held; one in its window is marked in it; one ahead is held and leaves the windows
as they are. None is lost: one that is not a duplicate is held, and a held one leaves only as a copy of a number its origin's window has
obtained, and is counted (R159). -/
def Obligations.EachSignatureIsObtainedOnce : Prop :=
  ∀ (d : Dev) (port : Nat) (b : Bytes),
    let t := d.takeSig port b
    ((d.window64 b).classify (Sig.seq b) = .duplicate → t = d.onCirc fun q => { q with dup := satAdd q.dup 1 }) ∧
    ((d.window64 b).classify (Sig.seq b) = .inWindow →
      (⟨b, port, true, false⟩ : HeldSig) ∈ t.circ.sigs ∧
      (∀ s ∈ d.circ.sigs, (∃ s' ∈ t.circ.sigs, s'.bytes = s.bytes ∧ (s.inWindow = true → s'.inWindow = true)) ∨
        (s.inWindow = false ∧ Sig.origin s.bytes = Sig.origin b ∧ (t.window64 b).classify (Sig.seq s.bytes) = .duplicate)) ∧
      (∃ n, t.circ.sigs.length + n = d.circ.sigs.length + 1 ∧ t.circ.dup = satAdd d.circ.dup n) ∧
      (∀ o, o ≠ Sig.origin b → t.circ.origins.get {} o = d.circ.origins.get {} o)) ∧
    ((d.window64 b).classify (Sig.seq b) = .ahead →
      (⟨b, port, false, false⟩ : HeldSig) ∈ t.circ.sigs ∧ t.circ.origins = d.circ.origins)

/-- The sequence window of an origin (R159): a number behind the base or marked is a duplicate; one of the 64 from the base on that is
not marked is in the window; any other is ahead. A number obtained in the window is a duplicate from then on, and the window's base
passes exactly the numbers obtained from it on. -/
def Obligations.TheWindowSortsAndRemembersNumbers : Prop :=
  (∀ (o : Origin64) (k : Nat), o.base < 2 ^ 32 → k < 2 ^ 32 →
    o.classify ((o.base + k) % 2 ^ 32) =
      if k < 64 then (if o.map.testBit k then .duplicate else .inWindow)
      else if k ≤ 2 ^ 31 then .ahead else .duplicate) ∧
  ∀ (o : Origin64) (k : Nat), o.base < 2 ^ 32 → o.map < 2 ^ 64 → k < 64 → o.map.testBit k = false → o.map.testBit 0 = false →
    (o.mark ((o.base + k) % 2 ^ 32)).classify ((o.base + k) % 2 ^ 32) = .duplicate ∧
    (k ≠ 0 → (o.mark ((o.base + k) % 2 ^ 32)).base = o.base) ∧
    (k = 0 → ∃ m, 1 ≤ m ∧ m ≤ 64 ∧ (o.mark (o.base % 2 ^ 32)).base = (o.base + m) % 2 ^ 32 ∧
      (∀ j, 1 ≤ j → j < m → o.map.testBit j = true) ∧ (m < 64 → o.map.testBit m = false))

/-! ### Faults and the colophon -/

/-- The stall watchdog, core faults and the test of a parked core, internal faults and the leaf test (R18, R269, R337 to R339).
The model's choices in it: logs 26 and 27. -/
def Obligations.FaultCommandsComplete : Prop :=
  ∀ (s : State) (core : CoreId) (leaf : LeafId), s.dev.powered = true →
    (∀ (index : Nat) w, s.dev.waits[index]? = some w →
      (s.dev.stillReported s.dev.waits).count w.id ≤ ((s.dev.waits.take index).map Wait.id).count w.id →
      Becomes (.stallDetected index) s
        (((s.dev.reach (w.since + 1000000 * fld s.dev.sync.wdog 15 0 + 1)).onErr fun e => { e with
          reported := s.dev.stillReported s.dev.waits ++ [w.id] }).stallRecord w.kind w.unit w.core w.ctx w.object)) ∧
    (∀ org, bar0Ofs org 0x2004C = 0x2004C → s.dev.reaches org 0x2004C = true → Becomes (.stallListRead org) s
      ((s.dev.onErr fun e => { e with stallList := s.dev.err.stallList.drop 1 }).emit
        (.regValue (s.dev.err.stallList.headD 0).toNat))) ∧
    (∀ kind : Fin 8, 1 ≤ kind.val → kind.val ≤ 6 → s.dev.healthy core.val = true → s.dev.pwr.stopped = false →
      Becomes (.coreFault core kind) s ((s.dev.spineAll.parkCore core.val kind.val).afterParking core.val)) ∧
    (∀ v, s.dev.reaches (.fn 0) 0x20014 = true → s.dev.sealedOff 0x20014 = false → Becomes (.coreRetestRequest (.fn 0) v) s
      (s.dev.onErr fun e => { e with retest := e.retest ||| fld v 15 8 })) ∧
    (bitOf s.dev.err.retest core.val = true → s.dev.work.run = none → s.dev.boot.restarting = false →
      Becomes (.coreRetest core false) s (s.dev.onErr fun e => { e with retest := setBits e.retest core.val core.val 0 }) ∧
      (s.dev.healthy core.val = false → s.dev.colRoom 1 = true →
        ∃ t, exec (.coreRetest core true) s = .next t ∧ t.dev.flash.parked = setBits s.dev.flash.parked core.val core.val 0 ∧
          bitOf t.dev.err.retest core.val = false ∧ t.dev.cores = s.dev.cores ∧ t.dev.mem = s.dev.mem)) ∧
    (∀ unit : Byte, s.dev.pwr.stopped = false → Becomes (.internalFault leaf unit) s
      (((((s.dev.onErr fun e => { e with internal := capture e.internal (leaf.val % 2 * 2 ^ 30 + unit.toNat % 256) }).cause
        cInternal).emit .aer).stopStation 0 3 St.internalFault).onPwr fun p => { p with internalStop := true })) ∧
    (s.dev.pwr.internalStop = true →
      Becomes (.leafTestEnd false) s (s.dev.onPwr fun p => { p with internalStop := false }) ∧
      Becomes (.leafTestEnd true) s (s.dev.resumeStation.onErr fun e => { e with
        internal := if flag e.internal 31 then setFld e.internal 29 29 1 else e.internal }))

/-- What a core's fault leaves of the station (R18, R337, R341): the core is in the parked mask, the first capture holds, the CORE cause
is raised, nothing of the core's program goes on, and every other core is as it was.
The model's choices in it: logs 26 and 68. -/
def Obligations.FaultParksTheCore : Prop :=
  ∀ (d : Dev) (c kind : Nat),
    let t := d.parkCore c kind
    t.healthy c = false ∧ (∀ k, k ≠ c → t.healthy k = d.healthy k) ∧
    flag t.err.irqStatus cCore = true ∧
    t.err.core = capture d.err.core (kind * 2 ^ 28 + c * 2 ^ 25 + d.workCtx % 64 * 2 ^ 16 + d.phaseNow % 65536) ∧
    (∀ u, t.queue c u = []) ∧ (t.core c).seq.st = .atPhase ∧ (t.core c).seq.bar = none ∧ (t.core c).seq.fe = none ∧
    (∀ k, k ≠ c → t.core k = d.core k) ∧ t.mem = d.mem ∧ t.cmem = d.cmem ∧ t.ctxs = d.ctxs ∧ t.work = d.work ∧ t.lnk = d.lnk

/-- COLOPHON_DRAIN and the checkpoint that falls due by time (R364, R366).
The model's choices in it: logs 30 and 56. -/
def Obligations.ColophonCommandsComplete : Prop :=
  ∀ (s : State) (ctx : CtxId), s.dev.powered = true →
    (s.dev.col.sinceCkpt ≠ 0 → s.dev.boot.restarting = false → s.dev.boot.shutDown = false →
      Becomes .checkpoint s ((s.dev.reach (s.dev.col.ckptAt + 60000000000)).colCheckpoint)) ∧
    (∀ j seqs us, s.dev.jobOf ctx.val Op.drain .accepted = some j → s.dev.hostOpen = true → j.ctx = 0 →
      u32 j.bytes 24 % 64 = 0 → 128 ≤ u32 j.bytes 24 →
      s.dev.colFit (u32 j.bytes 24 / 64) s.dev.colWaiting = (seqs, us) → ∀ k, k = s.dev.colSend seqs →
      Becomes (.colophonDrain ctx) s
        (((if us.isEmpty then k.2 else k.2.emit (.hostWrite (u64 j.bytes 16) us.flatten)).settle j St.ok us.length k.1).cxlDueGo)) ∧
    (∀ j, s.dev.jobOf ctx.val Op.drain .accepted = some j → s.dev.hostOpen = true →
      j.ctx ≠ 0 ∨ u32 j.bytes 24 % 64 ≠ 0 ∨ u32 j.bytes 24 < 128 →
      Becomes (.colophonDrain ctx) s (s.dev.settle j St.notPermitted 0 0).cxlDueGo)

/-- What a drain delivers: the oldest entries in the order of the series, each checkpoint with its signature, as many as fit (R366).
The model's choices in it: log 30. -/
def Obligations.DrainDeliversTheOldestEntries : Prop :=
  ∀ (d : Dev) (room : Nat) (es : List Bytes) (n : Nat), n = (d.colFit room es).1.length →
    (d.colFit room es).1 = (es.take n).map (u64 · 0) ∧
    (d.colFit room es).2 = (es.take n).flatMap d.colUnits ∧ (d.colFit room es).2.length ≤ room ∧ n ≤ es.length ∧
    (n < es.length → room < (d.colFit room es).2.length + (d.colUnits (es.getD n [])).length)

/-- An entry of the colophon (R362, R364): 64 bytes of which the first 8 are SEQ and the last 16 the chain over the chain before and
the 48 bytes in front of it; SEQ rises by one, the entry follows the others of its area, and none is changed. -/
def Obligations.EntriesFormAChain : Prop :=
  ∀ (d : Dev) (body : Bytes), body.length = 40 → d.col.seq < 2 ^ 64 - 1 →
    let head := leBytes 8 d.col.seq ++ body
    let chain := (sha256 (d.col.chain ++ head)).take 16
    let t := d.colPutMain body
    t.col.main = d.col.main ++ [head ++ chain] ∧ (head ++ chain).length = 64 ∧ u64 (head ++ chain) 0 = d.col.seq ∧
    t.col.seq = d.col.seq + 1 ∧ t.col.chain = chain ∧ t.col.reserved = d.col.reserved ∧ t.col.sinceCkpt = d.col.sinceCkpt + 1 ∧
    t.mem = d.mem ∧ t.cores = d.cores ∧ t.ctxs = d.ctxs ∧ t.flash = d.flash

/-- A change that the colophon logs (R361, R363, R365, R367): while the finisher restarts it is refused with STATUS_NOT_PERMITTED, with
the area full with STATUS_LOG_FULL, which is counted; else its entry is written first, and then it is made. -/
def Obligations.NoChangeWithoutItsEntry : Prop :=
  ∀ (d : Dev) (org : Origin) (ofs ctx cls obj old new detail : Nat) (make : Dev → Dev),
    (d.boot.restarting = true → d.logged org ofs ctx cls obj old new detail make = d.refuse org ofs St.notPermitted) ∧
    (d.boot.restarting = false → d.colRoom 1 = false →
      d.logged org ofs ctx cls obj old new detail make = d.logRefused.refuse org ofs St.logFull ∧
      d.logRefused.col.refused = satAdd d.col.refused 1 ∧ flag d.logRefused.err.irqStatus cLog = true ∧
      (d.logRefused.refuse org ofs St.logFull).col.main = d.col.main) ∧
    (d.boot.restarting = false → d.colRoom 1 = true →
      d.logged org ofs ctx cls obj old new detail make =
        (make (d.log (originCode org) ctx cls obj old new detail)).accepted org ∧
      ∃ e, d.col.main ++ [e] <+: (d.log (originCode org) ctx cls obj old new detail).col.main ∧
        sub e 8 40 = colBody d.now (originCode org) 0 ctx cls obj old new detail)

/-! ### Start-up, restarts and the supply -/

/-- Power, reference, start-up and the finisher's restart (R305, R308, R334, R345, R371 to R375, R386, R411, R413).
The model's choices in it: logs 8 and 32. -/
def Obligations.StartUpCommandsComplete : Prop :=
  ∀ (s : State) (pos : BitVec 2) (ok : Bool),
    (s.dev.supply = .off → Becomes (.powerUp pos ok) s (s.dev.powerOn pos.toNat ok)) ∧
    (s.dev.supply = .open → Becomes (.hotswapClose pos ok) s (s.dev.powerOn pos.toNat ok)) ∧
    (s.dev.supply = .on → Becomes .hotswapOpen s (s.dev.withoutPower .open s.dev.pins)) ∧
    Becomes .supplyCollapse s (s.dev.withoutPower .off s.dev.pins) ∧ Becomes .moduleRemoval s (s.dev.withoutPower .off {}) ∧
    Becomes .refclkLoss s { s.dev with pins := { s.dev.pins with refclk := false }, clk := { s.dev.clk with aligned := false } } ∧
    (s.dev.powered = false ∨ s.dev.boot.waiting = none →
      Becomes .referenceClockReturn s { s.dev with pins := { s.dev.pins with refclk := true } }) ∧
    (∀ b, s.dev.powered = true → s.dev.boot.waiting = some b → Becomes .referenceClockReturn s
      (({ s.dev with pins := { s.dev.pins with refclk := true } }).coldBoot b)) ∧
    (s.dev.powered = true → s.dev.boot.stage = .memory →
      s.dev.pwr.stopped = false →
      let d := s.dev.reach (s.dev.boot.trainAt + 180000000)
      (s.dev.boot.trained = false →
        Becomes (.gddr7Trained false) s (d.onBoot fun b => { b with stage := .failed }) ∧
        (s.dev.boot.planned = true ∨ s.dev.boot.restarting = true →
          Becomes (.gddr7Trained true) s (d.onBoot fun b => { b with trained := true })) ∧
        (s.dev.boot.planned = false → s.dev.boot.restarting = false →
          Becomes (.gddr7Trained true) s ((((d.onBoot fun b => { b with trained := true }).reach
            (s.dev.boot.trainAt + 190000000)).reapplyPlan).onBoot fun b => { b with planned := true }))) ∧
      (s.dev.boot.trained = true → s.dev.boot.restarting = false →
        ∀ e, e = s.dev.planOnce.reach (s.dev.boot.trainAt + 210000000) →
          Becomes .stationReady s (e.onBoot fun b => { b with stage := .ready, readyMs := min (e.now / 1000000) 65535 }))) ∧
    (s.dev.powered = true → s.dev.boot.restarting = true → s.dev.boot.recovery = false →
      Becomes (.finisherRestartDone ok) s (match s.dev.flashFault ok with
        | none => s.dev.restartEnd s.dev.flash.image false
        | some st => (s.dev.enterRecovery st).onBoot fun b => { b with liveRecovery := true })) ∧
    (∀ dump, s.dev.powered = true → s.dev.fwRuns = true →
      (s.dev.boot.trained = true → Becomes (.finisherWatchdog dump) s ((s.dev.onBoot fun b => { b with dump := some dump }).restartBegin)) ∧
      (s.dev.boot.trained = false → Becomes (.finisherWatchdog dump) s s.dev.restartBegin))

/-- Without power a station answers nothing but its supply and its pins: every other command leaves it as it is (R305, R334, R413).
The model's choices in it: logs 1 and 36. -/
def Obligations.NothingHappensWithoutPower : Prop :=
  ∀ (c : Instr) (s : State), s.dev.powered = false →
    Becomes c s s.dev ∨ (∃ p ok, c = .powerUp p ok) ∨ (∃ p ok, c = .hotswapClose p ok) ∨ c = .supplyCollapse ∨ c = .moduleRemoval ∨
      c = .refclkLoss ∨ c = .referenceClockReturn ∨ (∃ b, c = .perstN b) ∨ c = .coolantFaultLow ∨ c = .coolantFaultHigh

/-- The SVN fuses advance to an accepted image's SVN, at most to 64, and one entry of CLASS 6, code 5 is written; they never go back, and an
image whose SVN is below them fails the check on this module from then on (R348). An advance is a change that the colophon logs: it is made
with room for its entry, and without room it waits (R361, R367; the model's reading: log 32). -/
def Obligations.AnImageThatRunsRaisesTheVersion : Prop :=
  ∀ (d : Dev) (image : Bytes) (r : Bool),
    let t := d.runImage image r
    let n := min (Image.svn image) 64
    (d.fuses.svn < n → d.colRoom 1 = true →
      t.fuses = { d.fuses with svn := n } ∧ t.col = (d.log 8 255 6 5 d.fuses.svn n 0).col) ∧
    (n ≤ d.fuses.svn ∨ d.colRoom 1 = false → t.fuses = d.fuses ∧ t.col = d.col) ∧
    d.fuses.svn ≤ t.fuses.svn ∧
    (Image.svn image < d.fuses.svn → ∀ f, FusesForward d.fuses f → (Image.fault f image).isSome = true)

/-! ### Registers -/

/-- Reads and writes of BAR0, its resets, the hand-set of sync words, the peak reset, and the board window (R183, R271, R392, R396 to R398,
R401 to R403).
The model's choices in it: logs 21, 22, 23, 24, 25 and 76. -/
def Obligations.RegisterCommandsComplete : Prop :=
  ∀ (s : State) (org : Origin) (v : Word), s.dev.powered = true →
    (s.dev.reaches (.fn 0) 0x10 = true → s.dev.sealedOff 0x10 = false → resetBits v ≠ [] → s.dev.boot.restarting = false →
      s.dev.colRoom ((resetBits v).length +
        if flag v 16 then (s.dev.ctxs.filter fun e => e.2.key.isSome).length else 0) = true →
      let d := (s.dev.colReserve ((resetBits v).length +
        if flag v 16 then (s.dev.ctxs.filter fun e => e.2.key.isSome).length else 0)).each (resetBits v) fun d b =>
          (d.logNext 1 255 0 0x10 0 b 0).resetOne b
      Becomes (.resetContexts (.fn 0) v) s d ∧ Becomes (.resetCxl (.fn 0) v) s d ∧ Becomes (.resetPorts (.fn 0) v) s d) ∧
    (s.dev.reaches org 0x90018 = true → s.dev.sealedOff 0x90018 = false → org = .fn 0 ∨ org = .jtag → flag v 31 = true → s.dev.boot.restarting = false →
      s.dev.colRoom 1 = true →
      (flag v 0 = false → Becomes (.dbgSyncSetForce org v) s (s.dev.handGo org false)) ∧
      (flag v 0 = true → Becomes (.dbgSyncSetClear org v) s (s.dev.handGo org true))) ∧
    (∀ (leaf : LeafId) d, d = (s.dev.given (match org with | .mgmt m => s.dev.hears m | _ => false) fun d => d.rouse) → d.unheard org = false →
      d.reaches org (0x70020 + 4 * leaf.val) = true → d.sealedOff (0x70020 + 4 * leaf.val) = false → flag v 15 = true →
      Becomes (.lnkStagePeakReset org leaf v) s ((d.onCirc fun q =>
        if leaf.val = 0 then { q with peakA := d.stageOcc 0 } else { q with peakB := d.stageOcc 1 }).accepted org)) ∧
    (∀ a ofs, a < 2 ^ 24 → ofs = bar0Ofs org a → s.dev.reaches org ofs = true → ofs % 4 = 0 →
      (loAt ofs = true →
        Becomes (.loReadLatch org a false) s ((s.dev.latchHigh org ofs).emit (.regValue (s.dev.regAt ofs).toNat)) ∧
        (ofs % 8 = 0 → Becomes (.loReadLatch org a true) s
          (s.dev.emit (.regValue ((s.dev.regAt ofs).toNat + (s.dev.regAt (ofs + 4)).toNat * 2 ^ 32))))) ∧
      (∀ l, 4 ≤ ofs → loAt (ofs - 4) = true → loAt ofs = false → ofs ≠ 0x1008 → ofs ≠ 0x2004C →
        s.dev.glb.latch.get (0, 0) (requester org) = (ofs - 4 + 1, l) →
        Becomes (.hiReadLatched org a) s (s.dev.emit (.regValue l.toNat)))) ∧
    (∀ a size, (size ≠ 4 ∨ a % 4 ≠ 0) → (size ≠ 8 ∨ a % 8 ≠ 0 ∨ loAt (bar0Ofs org a) = false) →
      Becomes (.bar0BadAccess org false a size) s (s.dev.emit (.regValue 0)) ∧
      ∀ d ofs, d = (s.dev.given (match org with | .mgmt m => s.dev.hears m | _ => false) fun d => d.rouse) → ofs = bar0Ofs org a → d.unheard org = false →
        d.reaches org ofs = true → Becomes (.bar0BadAccess org true a size) s (d.refuse org ofs St.notPermitted)) ∧
    (∀ a (c : CtxId) (x : Dword), 2 ^ 24 ≤ a → s.dev.pins.perstN = true → Becomes (.registerWrite (.fn c) a false x) s
      ((s.dev.pcieWrite c.val (a - 2 ^ 24) (half x.toNat false)).drainRings.finishRuns)) ∧
    (∀ a ofs (x : Dword), a < 2 ^ 24 → ofs = bar0Ofs org a →
      Becomes (.registerWrite org a false x) s (s.dev.writeReg org ofs (half x.toNat false)) ∧
      (loAt ofs = true → ofs % 8 = 0 → pairLogged ofs = false ∨ s.dev.colRoom 2 = true →
        Becomes (.registerWrite org a true x) s
          ((((s.dev.colReserve (b2n (pairLogged ofs))).writeReg org ofs (half x.toNat false)).colRelease (b2n (pairLogged ofs))).writeReg
            org (ofs + 4) (half x.toNat true)))) ∧
    (∀ ofs n va c, s.dev.fnOpen 0 = true → n = ofs / 2 ^ 34 % 4 → flag (s.dev.glb.win.get 0 n) 31 = true → c = fld (s.dev.glb.win.get 0 n) 21 16 →
      va = fld (s.dev.glb.win.get 0 n) 11 0 * 2 ^ 34 + ofs % 2 ^ 34 → n = s.dev.moduleNo → (s.dev.ctx c).regs.enable = true →
      s.dev.memUp = true →
      (∀ k b d, s.dev.memGet c va k = (b, none, d) → Becomes (.boardWindowAccess ofs (.read k)) s (d.emit (.window b false))) ∧
      (∀ b d, s.dev.memPut c va b none = (none, d) → Becomes (.boardWindowAccess ofs (.write b)) s d))

/-- A refused write (R396, R397): GLB_REFUSE holds the first until it is cleared, a context's own register likewise, and no other part
of the station changes but the management reply and the message number of the secure session that carries it.
The model's choices in it: log 15. -/
def Obligations.RefusalsAreCapturedOnce : Prop :=
  ∀ (d : Dev) (org : Origin) (ofs : Nat) (st : Status),
    let t := d.refuse org ofs st
    { t with glb := d.glb, ctxs := d.ctxs, out := d.out, sec := d.sec } = d ∧
    { t.glb with refuse := d.glb.refuse, refuseOfs := d.glb.refuseOfs } = d.glb ∧
    { t.sec with sessions := d.sec.sessions } = d.sec ∧ ((∀ m, org ≠ .mgmt m) → t.sec = d.sec ∧ t.out = d.out) ∧
    (flag d.glb.refuse 31 = true → t.glb = d.glb) ∧
    (flag d.glb.refuse 31 = false → flag t.glb.refuse 31 = true ∧ fld t.glb.refuse 15 8 = st.toNat ∧
      t.glb.refuseOfs.toNat = ofs % 2 ^ 24 ∧ fld t.glb.refuse 30 27 = originCode org ∧ fld t.glb.refuse 21 16 = originCtx org) ∧
    (pageOf ofs = none → t.ctxs = d.ctxs) ∧
    (∀ c o, pageOf ofs = some (c, o) →
      t.ctx c = { d.ctx c with regs :=
        { (d.ctx c).regs with regRefuse := capture (d.ctx c).regs.regRefuse (st.toNat * 2 ^ 16 + o) } } ∧
      ∀ k, k ≠ c → t.ctx k = d.ctx k)

/-! ### Rules of the machine -/

/-- An operation that completes on a word, and the scan after it (R264, R265): the operation is the first to complete; every waiter left
on the word cannot complete in its state; those left stand in their order; each waiter is either left or completed; and the
operations that completed took the word, one after another, from its state to its new one. -/
def Obligations.AScanLeavesOnlyWaitersThatMustWait : Prop :=
  ∀ (w t : SyncWord) (r : SyncReq) (done : List SyncReq), w.perform r = some (t, done) →
    done.head? = some r ∧ t.bad = false ∧
    (∀ q ∈ t.q, q.ready t.val t.full = false) ∧
    t.q.Sublist w.q ∧ (done.tail ++ t.q).Perm w.q ∧
    done.foldlM (fun (x : Dword × Bool) q => syncEffect q.op q.ge q.imm x.1 x.2) (w.val, w.full) = some (t.val, t.full)

/-- A write of a context's space (R250, R262): one that meets an unmapped page or a page without WRITE is not performed and fails with
NOT_PERMITTED; any other puts its bytes where the pages say, but where a CXL device does not answer, which fails with CXL_TIMEOUT; and no
write changes another byte of either tier or any other unit's memory.
The model's choices in it: log 66. -/
def Obligations.WritesGoWhereThePagesSay : Prop :=
  ∀ (d : Dev) (c va : Nat) (b : Bytes) (m : Option Status),
    let t := (d.memPut c va b m).2
    ((∃ i < b.length, ∀ p, d.pageAt c (va + i) = some p → p.write = false) →
      (d.memPut c va b m).1 = some St.notPermitted ∧ t.mem = d.mem) ∧
    ((∀ i < b.length, ∃ p, d.pageAt c (va + i) = some p ∧ p.write = true) →
      (d.lateSectors c va b.length = [] → (d.memPut c va b m).1 = none ∧
        (∀ i, i < b.length → (∀ j < b.length, i < j → d.physOf c (va + j) ≠ d.physOf c (va + i)) →
          ∀ p, d.physOf c (va + i) = some p → t.tierByte p = b.getD i 0)) ∧
      (d.lateSectors c va b.length ≠ [] → (d.memPut c va b m).1 = some St.cxlTimeout) ∧
      (∀ p, (∀ i < b.length, d.physOf c (va + i) ≠ some p) → t.tierByte p = d.tierByte p)) ∧
    t.cores = d.cores ∧ t.cmem = d.cmem ∧ t.sync = d.sync ∧ t.work = d.work ∧ t.circ = d.circ ∧
    (∀ k, (t.ctx k).pages = (d.ctx k).pages)

/-- The copies that R155 launches and R156 forwards take a signature to every other position of the gathering, and to each once: over
legs that name every axis longer than 1 once, in any order and with any split. -/
def Obligations.EachPositionObtainsASignatureOnce : Prop :=
  ∀ (d : Dev) (g : Gathering) (x y z split : Nat) (axes : List Nat), d.work.gath = some g → g.dims = [x, y, z] →
    0 < x → 0 < y → 0 < z → g.pos < x * y * z → axes.Nodup → (∀ a ∈ axes, a < 3) → (∀ a < 3, 1 < g.dims.getD a 1 → a ∈ axes) →
    (g.pos :: obtainedFrom d axes split axes.length 0 g.pos).Perm (List.range (x * y * z))

/-- The timestamp never runs backwards (R241): not on a cycle of the reference, however it is steered or slewed, not when a moment is
said to have come, and not in an exchange after the first.
The model's choices in it: logs 8 and 71. -/
def Obligations.TimeNeverRunsBack : Prop :=
  ∀ d : Dev, d.now < 2 ^ 64 →
    d.now ≤ d.tick.now ∧ d.tick.now < 2 ^ 64 ∧
    (∀ t, d.now ≤ (d.reach t).now ∧ (t < 2 ^ 64 → t ≤ (d.reach t).now)) ∧
    (∀ p t1 t2 t3 t4, d.clk.set = true → (d.timeSync p t1 t2 t3 t4).now = d.now) ∧
    (d.powered = true → d.clk.ppm = 0 → d.clk.slewPs = 0 → d.clk.frac < 100000 → d.now + 10 < 2 ^ 64 → d.tick.now = d.now + 10)

/-- No step moves a fuse back (R345, R348): SVN never falls, and every other fuse stays as it is, whatever the command. -/
def Obligations.FusesOnlyMoveForward : Prop :=
  ∀ (f : Fuses) (s t : State), FusesForward f s.dev.fuses → step s = .next t → FusesForward f t.dev.fuses

/-- The machine before its input passes 46 V: no power, nothing waiting, every memory empty and canonical, no context, job, run or gathering,
and every register whose Reset column is not zero at the value of that column (R394). That reset is this moment is the model's choice
(log 4), as are the contents of fuses and flash (log 5), what an empty memory reads as (log 6) and that no word of the table spells a
command, so that `decodeTableWord` answers none for every word (log 58). -/
def Obligations.ResetIsAnUnpoweredStation : Prop :=
  State.reset.pending = [] ∧ State.reset.dev.powered = false ∧ Memory.wf State.reset.dev = true ∧
  State.reset.dev.ctxs = [] ∧ State.reset.dev.work.jobs = [] ∧ State.reset.dev.work.run = none ∧ State.reset.dev.work.gath = none ∧
  (∀ r ∈ [(0x0, 0x71605A20), (0x4, 0x14230), (0x8, 0x18084010), (0xC, 0x6C6082E1), (0x3000, 0x3000), (0x10000, 0x0320A8FC), (0x10004, 0x1E),
      (0x10008, 3), (0x1000C, 0x64), (0x10020, 0xFF02), (0x20004, 0xFFE), (0x20008, 31), (0x30000, 0xC450), (0x40004, 0x7D0), (0x50000, 0x64), (0x1004, 0x100000),
      (0x10010, 0xC0), (0x70008, 0x70000000)],
    State.reset.dev.regAt r.1 = word r.2) ∧
  (∀ p < 6, State.reset.dev.regAt (0x70040 + 4 * p) = 0x02000FFF) ∧
  (∀ c < 64, ∀ r ∈ [(0x8, 0x807), (0xC, 0x3C000000), (0x10, 0x1F4), (0x14, 0x80000258)],
    State.reset.dev.regAt (0x100000 + 4096 * c + r.1) = word r.2) ∧
  (∀ c < 64, ∀ n < 16, State.reset.dev.regAt (0x100110 + 4096 * c + 64 * n) = 0x606 ∧ State.reset.dev.regAt (0x100114 + 4096 * c + 64 * n) = 1) ∧
  (∀ n w, decodeTableWord n w = none)

/-- Every memory keeps its one form (R247): addresses rise, and none is listed that holds what an unlisted one reads as, so
that equal memories are equal data. No step leaves it, whatever the command.
The model's choice in it: log 6. -/
def Obligations.MemoryKeepsItsOneForm : Prop :=
  ∀ s t : State, Memory.wf s.dev = true → step s = .next t → Memory.wf t.dev = true

/-- Every top-k list is ranked by one order, whatever the order and the grouping of what it is made from (R133): an entry ranks before another as
the rule gives it; a list's entries are in rank order and are `k`; none left out ranks before one kept; and a merge of merged lists is the merge
of all. Ties are copies of one entry; a NaN score is no number and has no place in the order. -/
def Obligations.MergesDependOnTheirEntriesAlone : Prop :=
  ∀ (fp max : Bool) (k : Nat) (a b c : List LEnt),
    (∀ e f : LEnt,
      let less := fun x y : Nat => if fp then (f32 (word x)).lt (f32 (word y)) else decide (signed32 x < signed32 y)
      let same := if fp then (f32 (word e.score)).eqv (f32 (word f.score)) else decide (signed32 e.score = signed32 f.score)
      (e.before fp max f = true ↔ e.valid = true ∧ (f.valid = false ∨
        (if max then less f.score e.score = true else less e.score f.score = true) ∨
        (same = true ∧ (e.row < f.row ∨ (e.row = f.row ∧ e.station < f.station)))))) ∧
    ((∀ e ∈ a ++ b, e.valid = true → fp = true → (f32 (word e.score)).isNan = false) →
      (∀ e ∈ a ++ b, ∀ f ∈ a ++ b, e.valid = true → f.valid = true → e.before fp max f = false → f.before fp max e = false → e = f) →
      (topK fp max k a).length = k ∧
      (topK fp max k a).Pairwise (fun e f => f.before fp max e = false) ∧
      (∀ e ∈ a, e.valid = true → e ∉ topK fp max k a → ∀ f ∈ topK fp max k a, f.valid = true ∧ e.before fp max f = false) ∧
      (∀ e ∈ topK fp max k a, e ∈ a ∨ e.valid = false) ∧
      ((topK fp max k a).filter (·.valid)).length = min k (a.filter (·.valid)).length ∧
      (a.Perm c → topK fp max k c = topK fp max k a) ∧
      topK fp max k (topK fp max k a ++ topK fp max k b) = topK fp max k (a ++ b))

/-- The re-pass rounds make a leaf's list exact (R137): the first `k` of all rows of its banks, though a bank hands over 32 at a time, and at
most ⌈k ÷ 32⌉ − 1 of them come.
The model's choices in it: log 38. -/
def Obligations.RepassesGiveTheExactTopK : Prop :=
  ∀ (max : Bool) (k : Nat) (banks : List (List LEnt)), (∀ e ∈ banks.flatten, e.valid = true) →
    (banks.flatten.map (·.row)).Nodup →
    let x := leafRounds max k (mostRounds k) [] (banks.map fun b => BankRun.start (rank false max b))
    x.1 = (rank false max banks.flatten).take k ∧ x.2 ≤ ceilDiv k 32 - 1

/-- Rounding into each plain layout is to the nearest value, ties to even, and a value from half a unit above the largest on becomes an
infinity (R24, R34). -/
def Obligations.RoundingIsToNearestEven : Prop :=
  ∀ l ∈ [lay32, layBf16, layFp16, layW19], ∀ (s : Bool) (m : Nat) (e : Int) (r : Nat), r = l.encode (.fin s m e) →
    let v := (FVal.fin s m e).rat
    r < 2 ^ (l.eb + l.fb + 1) ∧
    (l.decode r = .inf s ↔ ((2 : Rat) ^ (l.fb + 2) - 1) * (2 : Rat) ^ (l.emin + l.top - 3) ≤ |v|) ∧
    (l.decode r ≠ .inf s → (l.decode r).isFinite = true ∧
      ∀ y < 2 ^ (l.eb + l.fb + 1), (l.decode y).isFinite = true →
        |v - (l.decode r).rat| ≤ |v - (l.decode y).rat| ∧
        (|v - (l.decode r).rat| = |v - (l.decode y).rat| → (l.decode y).rat = (l.decode r).rat ∨ r % 2 = 0))

/-- A product enters an accumulator exactly and the sum is rounded once, to nearest with ties to even; a sum that rounds below 2^−126 becomes
a zero of its sign, one that overflows an infinity of its sign; and the special values are as R30 gives them. -/
def Obligations.AccumulationRoundsOnce : Prop :=
  (∀ (acc w : Word) (x y : FVal), (f32 acc).isFinite = true → x.isFinite = true → y.isFinite = true → w = accAdd acc (x.mul y) →
    let v := (f32 acc).rat + x.rat * y.rat
    (((2 : Rat) ^ 25 - 1) * 2 ^ 103 ≤ |v| → f32 w = .inf (decide (v < 0))) ∧
    (|v| < ((2 : Rat) ^ 25 - 1) * 2 ^ 103 → 1 / (2 : Rat) ^ 126 - 1 / 2 ^ 150 ≤ |v| → (f32 w).isFinite = true ∧
      ∀ z : Word, (f32 z).isFinite = true → |v - (f32 w).rat| ≤ |v - (f32 z).rat| ∧
        (|v - (f32 w).rat| = |v - (f32 z).rat| → (f32 z).rat = (f32 w).rat ∨ w.toNat % 2 = 0)) ∧
    (v ≠ 0 → |v| < 1 / (2 : Rat) ^ 126 - 1 / 2 ^ 150 → w = if v < 0 then 0x80000000 else 0)) ∧
  (∀ (acc : Word) (s t : Bool) (e : Int), accAdd acc ((FVal.inf s).mul (.fin t 0 e)) = fnan ∧
    (f32 acc = .inf s → accAdd acc (.inf !s) = fnan)) ∧
  (∀ e : Int, accAdd 0 (.fin true 0 e) = 0 ∧ accAdd 0x80000000 (.fin false 0 e) = 0 ∧ accAdd 0x80000000 (.fin true 0 e) = 0x80000000)
end

