-- ==== Sys2Proof/Laws/Table.lean ====
section
/-! SUPPORT. What the operations on tables do: a read after a write gives the value written, a write leaves every other key alone, and
every operation keeps the canonical form. -/

namespace Sys2Proof.Machine.Table

variable {α : Type}

@[simp] theorem get_nil (d : α) (i : Nat) : get d ([] : Table α) i = d := rfl

theorem get_erase_self (d : α) (t : Table α) (i : Nat) : get d (erase t i) i = d := by
  induction t with
  | nil => rfl
  | cons e t ih =>
    obtain ⟨k, v⟩ := e
    by_cases h : k = i
    · simp [erase, h, ih]
    · simp [erase, h, get, ih]

theorem get_erase_ne (d : α) (t : Table α) {i j : Nat} (h : i ≠ j) : get d (erase t i) j = get d t j := by
  induction t with
  | nil => rfl
  | cons e t ih =>
    obtain ⟨k, v⟩ := e
    by_cases hk : k = i
    · have : k ≠ j := fun e => h (hk ▸ e)
      simp [erase, hk, get, ih, h]
    · by_cases hj : k = j
      · subst hj; simp [erase, get, hk]
      · simp [erase, get, hk, hj, ih]

theorem get_insert_self (d : α) (t : Table α) (i : Nat) (v : α) (hn : ∀ e ∈ t, e.1 ≠ i) :
    get d (insert t i v) i = v := by

  induction t with
  | nil => simp [insert, get]
  | cons e t ih =>
    obtain ⟨k, w⟩ := e
    have hk : k ≠ i := hn (k, w) (by simp)
    have ht : ∀ e ∈ t, e.1 ≠ i := fun e he => hn e (by simp [he])
    by_cases hl : i < k
    · simp [insert, hl, get]
    · simp [insert, hl, get, hk, ih ht]

theorem get_insert_ne (d : α) (t : Table α) {i j : Nat} (v : α) (h : i ≠ j) : get d (insert t i v) j = get d t j := by
  induction t with
  | nil => simp [insert, get, h]
  | cons e t ih =>
    obtain ⟨k, w⟩ := e
    by_cases hl : i < k
    · simp [insert, hl, get, h]
    · simp [insert, hl, get, ih]

theorem mem_erase_ne (t : Table α) (i : Nat) : ∀ e ∈ erase t i, e.1 ≠ i := by
  induction t with
  | nil => simp [erase]
  | cons e t ih =>
    obtain ⟨k, v⟩ := e
    by_cases h : k = i
    · simpa [erase, h] using ih
    · intro e he
      simp [erase, h] at he
      rcases he with rfl | he
      · exact h
      · exact ih e he

variable [DecidableEq α]

/-- A read after a write to the same key gives the value written. -/
@[simp] theorem get_set_self (d : α) (t : Table α) (i : Nat) (v : α) : get d (set d t i v) i = v := by
  by_cases h : v = d
  · simp [set, h, get_erase_self]
  · simp [set, h, get_insert_self d _ i v (mem_erase_ne t i)]

/-- A write leaves every other key alone. -/
theorem get_set_ne (d : α) (t : Table α) {i j : Nat} (v : α) (h : i ≠ j) : get d (set d t i v) j = get d t j := by
  by_cases hv : v = d
  · simp [set, hv, get_erase_ne d t h]
  · simp [set, hv, get_insert_ne d _ v h, get_erase_ne d t h]

/-- A change at a key, read back there and elsewhere. -/
@[simp] theorem get_modify_self (d : α) (t : Table α) (i : Nat) (f : α → α) : get d (modify d t i f) i = f (get d t i) := by
  simp [modify]
theorem get_modify_ne (d : α) (t : Table α) {i j : Nat} (f : α → α) (h : i ≠ j) : get d (modify d t i f) j = get d t j := by
  simp [modify, get_set_ne d t _ h]

/-! ### The canonical form -/

/-- The canonical form, as a property of the list: keys rise and no entry equals the default. -/
theorem wf_cons (d : α) (k : Nat) (v : α) (t : Table α) :
    wf d ((k, v) :: t) = true ↔ v ≠ d ∧ wf d t = true ∧ ∀ e ∈ t, k < e.1 := by
  induction t generalizing k v with
  | nil => simp [wf]
  | cons e t ih =>
    obtain ⟨k', v'⟩ := e
    have := ih k' v'
    simp only [wf, Bool.and_eq_true, decide_eq_true_eq, List.mem_cons, forall_eq_or_imp]
    constructor
    · rintro ⟨⟨h1, h2⟩, h3⟩
      refine ⟨h2, h3, h1, fun e he => ?_⟩
      exact Nat.lt_trans h1 ((this.mp h3).2.2 e he)
    · rintro ⟨h2, h3, h1, _⟩
      exact ⟨⟨h1, h2⟩, h3⟩

theorem mem_erase (t : Table α) (i : Nat) {e : Nat × α} (h : e ∈ erase t i) : e ∈ t := by
  induction t with
  | nil => simp [erase] at h
  | cons x t ih =>
    obtain ⟨k, v⟩ := x
    by_cases hk : k = i
    · simp [erase, hk] at h; simp [ih h]
    · simp [erase, hk] at h
      rcases h with h | h
      · simp [h]
      · simp [ih h]

theorem wf_erase (d : α) (t : Table α) (i : Nat) (h : wf d t = true) : wf d (erase t i) = true := by
  induction t with
  | nil => rfl
  | cons x t ih =>
    obtain ⟨k, v⟩ := x
    rw [wf_cons] at h
    by_cases hk : k = i
    · simpa [erase, hk] using ih h.2.1
    · simp only [erase, hk, if_false, wf_cons]
      exact ⟨h.1, ih h.2.1, fun e he => h.2.2 e (mem_erase t i he)⟩

theorem mem_insert (t : Table α) (i : Nat) (v : α) {e : Nat × α} (h : e ∈ insert t i v) : e = (i, v) ∨ e ∈ t := by
  induction t with
  | nil => simpa [insert] using h
  | cons x t ih =>
    obtain ⟨k, w⟩ := x
    by_cases hl : i < k
    · simpa [insert, hl] using h
    · simp only [insert, hl, if_false, List.mem_cons] at h
      rcases h with h | h
      · simp [h]
      · rcases ih h with h | h <;> simp [h]

theorem wf_insert (d : α) (t : Table α) (i : Nat) (v : α) (h : wf d t = true) (hn : ∀ e ∈ t, e.1 ≠ i) (hv : v ≠ d) :
    wf d (insert t i v) = true := by
  induction t with
  | nil => simp [insert, wf, hv]
  | cons x t ih =>
    obtain ⟨k, w⟩ := x
    have hk : k ≠ i := hn (k, w) (by simp)
    have ht : ∀ e ∈ t, e.1 ≠ i := fun e he => hn e (by simp [he])
    have h' := (wf_cons d k w t).mp h
    by_cases hl : i < k
    · simp only [insert, hl, if_true]
      rw [wf_cons]
      refine ⟨hv, h, fun e he => ?_⟩
      rcases List.mem_cons.mp he with rfl | he
      · exact hl
      · exact Nat.lt_trans hl (h'.2.2 e he)
    · simp only [insert, hl, if_false, wf_cons]
      refine ⟨h'.1, ih h'.2.1 ht, fun e he => ?_⟩
      rcases mem_insert t i v he with rfl | he
      · exact Nat.lt_of_le_of_ne (Nat.le_of_not_lt hl) hk
      · exact h'.2.2 e he

/-- A write keeps the canonical form. -/
theorem wf_set (d : α) (t : Table α) (i : Nat) (v : α) (h : wf d t = true) : wf d (set d t i v) = true := by
  by_cases hv : v = d
  · simpa [set, hv] using wf_erase d t i h
  · simpa [set, hv] using wf_insert d _ i v (wf_erase d t i h) (mem_erase_ne t i) hv
theorem wf_modify (d : α) (t : Table α) (i : Nat) (f : α → α) (h : wf d t = true) : wf d (modify d t i f) = true := wf_set d t i _ h

/-- A filter keeps the canonical form. -/
theorem wf_filter (d : α) (t : Table α) (p : Nat × α → Bool) (h : wf d t = true) : wf d (List.filter p t) = true := by
  induction t with
  | nil => rfl
  | cons x t ih =>
    obtain ⟨k, v⟩ := x
    have h' := (wf_cons d k v t).mp h
    by_cases hp : p (k, v) = true
    · rw [List.filter_cons_of_pos hp, wf_cons]
      exact ⟨h'.1, ih h'.2.1, fun e he => h'.2.2 e (List.mem_of_mem_filter he)⟩
    · rw [List.filter_cons_of_neg hp]
      exact ih h'.2.1
theorem wf_clearRange (d : α) (t : Table α) (i n : Nat) (h : wf d t = true) : wf d (clearRange t i n) = true := wf_filter d t _ h
theorem wf_setRange (d : α) (t : Table α) (i : Nat) (vs : List α) (h : wf d t = true) : wf d (setRange d t i vs) = true := by
  induction vs generalizing t i with
  | nil => exact h
  | cons v vs ih => exact ih _ _ (wf_set d t i v h)

/-! ### Ranges -/

theorem get_setRange_out (d : α) (t : Table α) (i : Nat) (vs : List α) (j : Nat) (h : j < i ∨ i + vs.length ≤ j) :
    get d (setRange d t i vs) j = get d t j := by
  induction vs generalizing t i with
  | nil => rfl
  | cons v vs ih =>
    simp only [List.length_cons] at h
    rw [setRange, ih _ _ (by omega), get_set_ne d t v (by omega)]

/-- A range written reads back. -/
theorem get_setRange_in (d : α) (t : Table α) (i : Nat) (vs : List α) (k : Nat) (h : k < vs.length) :
    get d (setRange d t i vs) (i + k) = vs[k] := by
  induction vs generalizing t i k with
  | nil => simp at h
  | cons v vs ih =>
    cases k with
    | zero => simp [setRange, get_setRange_out]
    | succ k =>
      have := ih (set d t i v) (i + 1) k (by simpa using h)
      simpa [setRange, Nat.add_assoc, Nat.add_comm 1 k] using this

@[simp] theorem length_getRange (d : α) (t : Table α) (i n : Nat) : (getRange d t i n).length = n := by
  induction n generalizing i with
  | zero => rfl
  | succ n ih => simp [getRange, ih]

theorem getElem_getRange (d : α) (t : Table α) (i n k : Nat) (h : k < n) :
    (getRange d t i n)[k]'(by simpa using h) = get d t (i + k) := by
  induction n generalizing i k with
  | zero => omega
  | succ n ih =>
    cases k with
    | zero => simp [getRange]
    | succ k => simpa [getRange, Nat.add_assoc, Nat.add_comm 1 k] using ih (i + 1) k (by omega)

/-- A range read after it was written gives what was written. -/
theorem getRange_setRange (d : α) (t : Table α) (i : Nat) (vs : List α) : getRange d (setRange d t i vs) i vs.length = vs := by
  apply List.ext_getElem (by simp)
  intro k h1 h2
  rw [getElem_getRange _ _ _ _ _ (by simpa using h2), get_setRange_in _ _ _ _ _ h2]

/-- Keys outside a cleared range keep their values; keys inside it read as the default. -/
theorem get_clearRange (d : α) (t : Table α) (i n j : Nat) :
    get d (clearRange t i n) j = if i ≤ j ∧ j < i + n then d else get d t j := by
  induction t with
  | nil => simp [clearRange]
  | cons x t ih =>
    obtain ⟨k, v⟩ := x
    by_cases hk : i ≤ k ∧ k < i + n
    · have e : clearRange ((k, v) :: t) i n = clearRange t i n := by simp [clearRange, hk]
      rw [e, ih]
      by_cases hj : i ≤ j ∧ j < i + n
      · simp [hj]
      · have : k ≠ j := fun e => hj (e ▸ hk)
        simp [hj, get, this]
    · have e : clearRange ((k, v) :: t) i n = (k, v) :: clearRange t i n := by
        simp only [clearRange, List.filter_cons]
        have : (!(decide (i ≤ k) && decide (k < i + n))) = true := by
          simp only [Bool.not_eq_true', Bool.and_eq_false_iff, decide_eq_false_iff_not]
          by_cases h : i ≤ k
          · exact .inr fun h2 => hk ⟨h, h2⟩
          · exact .inl h
        simp [this]
      rw [e]
      by_cases hj : k = j
      · subst hj; simp [get, hk]
      · simp only [get, hj, if_false, ih]

end Sys2Proof.Machine.Table
end

