-- ==== Sys2Proof/Laws/State.lean ====
section
/-! SUPPORT. What each of the operations that change one part of the station does to every part: one lemma a part, true by rfl, so that
no proof unfolds a record update; and a part read after it was changed. -/

namespace Sys2Proof.Machine.Dev

variable (d : Dev)

/-! onCore -/
@[simp] theorem onCore_supply (n : Nat) (f : Core → Core) : (d.onCore n f).supply = d.supply := rfl
@[simp] theorem onCore_pins (n : Nat) (f : Core → Core) : (d.onCore n f).pins = d.pins := rfl
@[simp] theorem onCore_fuses (n : Nat) (f : Core → Core) : (d.onCore n f).fuses = d.fuses := rfl
@[simp] theorem onCore_flash (n : Nat) (f : Core → Core) : (d.onCore n f).flash = d.flash := rfl
@[simp] theorem onCore_boot (n : Nat) (f : Core → Core) : (d.onCore n f).boot = d.boot := rfl
@[simp] theorem onCore_mbx (n : Nat) (f : Core → Core) : (d.onCore n f).mbx = d.mbx := rfl
@[simp] theorem onCore_mgmt (n : Nat) (f : Core → Core) : (d.onCore n f).mgmt = d.mgmt := rfl
@[simp] theorem onCore_sec (n : Nat) (f : Core → Core) : (d.onCore n f).sec = d.sec := rfl
@[simp] theorem onCore_col (n : Nat) (f : Core → Core) : (d.onCore n f).col = d.col := rfl
@[simp] theorem onCore_clk (n : Nat) (f : Core → Core) : (d.onCore n f).clk = d.clk := rfl
@[simp] theorem onCore_pr (n : Nat) (f : Core → Core) : (d.onCore n f).pr = d.pr := rfl
@[simp] theorem onCore_pc (n : Nat) (f : Core → Core) : (d.onCore n f).pc = d.pc := rfl
@[simp] theorem onCore_heat (n : Nat) (f : Core → Core) : (d.onCore n f).heat = d.heat := rfl
@[simp] theorem onCore_pwr (n : Nat) (f : Core → Core) : (d.onCore n f).pwr = d.pwr := rfl
@[simp] theorem onCore_err (n : Nat) (f : Core → Core) : (d.onCore n f).err = d.err := rfl
@[simp] theorem onCore_coreErr (n : Nat) (f : Core → Core) : (d.onCore n f).coreErr = d.coreErr := rfl
@[simp] theorem onCore_glb (n : Nat) (f : Core → Core) : (d.onCore n f).glb = d.glb := rfl
@[simp] theorem onCore_ctxs (n : Nat) (f : Core → Core) : (d.onCore n f).ctxs = d.ctxs := rfl
@[simp] theorem onCore_work (n : Nat) (f : Core → Core) : (d.onCore n f).work = d.work := rfl
@[simp] theorem onCore_cores (n : Nat) (f : Core → Core) : (d.onCore n f).cores = d.cores.modify {} n f := rfl
@[simp] theorem onCore_mem (n : Nat) (f : Core → Core) : (d.onCore n f).mem = d.mem := rfl
@[simp] theorem onCore_cmem (n : Nat) (f : Core → Core) : (d.onCore n f).cmem = d.cmem := rfl
@[simp] theorem onCore_sync (n : Nat) (f : Core → Core) : (d.onCore n f).sync = d.sync := rfl
@[simp] theorem onCore_lnk (n : Nat) (f : Core → Core) : (d.onCore n f).lnk = d.lnk := rfl
@[simp] theorem onCore_circ (n : Nat) (f : Core → Core) : (d.onCore n f).circ = d.circ := rfl
@[simp] theorem onCore_free (n : Nat) (f : Core → Core) : (d.onCore n f).free = d.free := rfl
@[simp] theorem onCore_issueNo (n : Nat) (f : Core → Core) : (d.onCore n f).issueNo = d.issueNo := rfl
@[simp] theorem onCore_out (n : Nat) (f : Core → Core) : (d.onCore n f).out = d.out := rfl

/-! onCtx -/
@[simp] theorem onCtx_supply (c : Nat) (f : Ctx → Ctx) : (d.onCtx c f).supply = d.supply := rfl
@[simp] theorem onCtx_pins (c : Nat) (f : Ctx → Ctx) : (d.onCtx c f).pins = d.pins := rfl
@[simp] theorem onCtx_fuses (c : Nat) (f : Ctx → Ctx) : (d.onCtx c f).fuses = d.fuses := rfl
@[simp] theorem onCtx_flash (c : Nat) (f : Ctx → Ctx) : (d.onCtx c f).flash = d.flash := rfl
@[simp] theorem onCtx_boot (c : Nat) (f : Ctx → Ctx) : (d.onCtx c f).boot = d.boot := rfl
@[simp] theorem onCtx_mbx (c : Nat) (f : Ctx → Ctx) : (d.onCtx c f).mbx = d.mbx := rfl
@[simp] theorem onCtx_mgmt (c : Nat) (f : Ctx → Ctx) : (d.onCtx c f).mgmt = d.mgmt := rfl
@[simp] theorem onCtx_sec (c : Nat) (f : Ctx → Ctx) : (d.onCtx c f).sec = d.sec := rfl
@[simp] theorem onCtx_col (c : Nat) (f : Ctx → Ctx) : (d.onCtx c f).col = d.col := rfl
@[simp] theorem onCtx_clk (c : Nat) (f : Ctx → Ctx) : (d.onCtx c f).clk = d.clk := rfl
@[simp] theorem onCtx_pr (c : Nat) (f : Ctx → Ctx) : (d.onCtx c f).pr = d.pr := rfl
@[simp] theorem onCtx_pc (c : Nat) (f : Ctx → Ctx) : (d.onCtx c f).pc = d.pc := rfl
@[simp] theorem onCtx_heat (c : Nat) (f : Ctx → Ctx) : (d.onCtx c f).heat = d.heat := rfl
@[simp] theorem onCtx_pwr (c : Nat) (f : Ctx → Ctx) : (d.onCtx c f).pwr = d.pwr := rfl
@[simp] theorem onCtx_err (c : Nat) (f : Ctx → Ctx) : (d.onCtx c f).err = d.err := rfl
@[simp] theorem onCtx_coreErr (c : Nat) (f : Ctx → Ctx) : (d.onCtx c f).coreErr = d.coreErr := rfl
@[simp] theorem onCtx_glb (c : Nat) (f : Ctx → Ctx) : (d.onCtx c f).glb = d.glb := rfl
@[simp] theorem onCtx_ctxs (c : Nat) (f : Ctx → Ctx) : (d.onCtx c f).ctxs = d.ctxs.modify {} c f := rfl
@[simp] theorem onCtx_work (c : Nat) (f : Ctx → Ctx) : (d.onCtx c f).work = d.work := rfl
@[simp] theorem onCtx_cores (c : Nat) (f : Ctx → Ctx) : (d.onCtx c f).cores = d.cores := rfl
@[simp] theorem onCtx_mem (c : Nat) (f : Ctx → Ctx) : (d.onCtx c f).mem = d.mem := rfl
@[simp] theorem onCtx_cmem (c : Nat) (f : Ctx → Ctx) : (d.onCtx c f).cmem = d.cmem := rfl
@[simp] theorem onCtx_sync (c : Nat) (f : Ctx → Ctx) : (d.onCtx c f).sync = d.sync := rfl
@[simp] theorem onCtx_lnk (c : Nat) (f : Ctx → Ctx) : (d.onCtx c f).lnk = d.lnk := rfl
@[simp] theorem onCtx_circ (c : Nat) (f : Ctx → Ctx) : (d.onCtx c f).circ = d.circ := rfl
@[simp] theorem onCtx_free (c : Nat) (f : Ctx → Ctx) : (d.onCtx c f).free = d.free := rfl
@[simp] theorem onCtx_issueNo (c : Nat) (f : Ctx → Ctx) : (d.onCtx c f).issueNo = d.issueNo := rfl
@[simp] theorem onCtx_out (c : Nat) (f : Ctx → Ctx) : (d.onCtx c f).out = d.out := rfl

/-! onRing -/
@[simp] theorem onRing_supply (c r : Nat) (f : Ring → Ring) : (d.onRing c r f).supply = d.supply := rfl
@[simp] theorem onRing_pins (c r : Nat) (f : Ring → Ring) : (d.onRing c r f).pins = d.pins := rfl
@[simp] theorem onRing_fuses (c r : Nat) (f : Ring → Ring) : (d.onRing c r f).fuses = d.fuses := rfl
@[simp] theorem onRing_flash (c r : Nat) (f : Ring → Ring) : (d.onRing c r f).flash = d.flash := rfl
@[simp] theorem onRing_boot (c r : Nat) (f : Ring → Ring) : (d.onRing c r f).boot = d.boot := rfl
@[simp] theorem onRing_mbx (c r : Nat) (f : Ring → Ring) : (d.onRing c r f).mbx = d.mbx := rfl
@[simp] theorem onRing_mgmt (c r : Nat) (f : Ring → Ring) : (d.onRing c r f).mgmt = d.mgmt := rfl
@[simp] theorem onRing_sec (c r : Nat) (f : Ring → Ring) : (d.onRing c r f).sec = d.sec := rfl
@[simp] theorem onRing_col (c r : Nat) (f : Ring → Ring) : (d.onRing c r f).col = d.col := rfl
@[simp] theorem onRing_clk (c r : Nat) (f : Ring → Ring) : (d.onRing c r f).clk = d.clk := rfl
@[simp] theorem onRing_pr (c r : Nat) (f : Ring → Ring) : (d.onRing c r f).pr = d.pr := rfl
@[simp] theorem onRing_pc (c r : Nat) (f : Ring → Ring) : (d.onRing c r f).pc = d.pc := rfl
@[simp] theorem onRing_heat (c r : Nat) (f : Ring → Ring) : (d.onRing c r f).heat = d.heat := rfl
@[simp] theorem onRing_pwr (c r : Nat) (f : Ring → Ring) : (d.onRing c r f).pwr = d.pwr := rfl
@[simp] theorem onRing_err (c r : Nat) (f : Ring → Ring) : (d.onRing c r f).err = d.err := rfl
@[simp] theorem onRing_coreErr (c r : Nat) (f : Ring → Ring) : (d.onRing c r f).coreErr = d.coreErr := rfl
@[simp] theorem onRing_glb (c r : Nat) (f : Ring → Ring) : (d.onRing c r f).glb = d.glb := rfl
@[simp] theorem onRing_work (c r : Nat) (f : Ring → Ring) : (d.onRing c r f).work = d.work := rfl
@[simp] theorem onRing_cores (c r : Nat) (f : Ring → Ring) : (d.onRing c r f).cores = d.cores := rfl
@[simp] theorem onRing_mem (c r : Nat) (f : Ring → Ring) : (d.onRing c r f).mem = d.mem := rfl
@[simp] theorem onRing_cmem (c r : Nat) (f : Ring → Ring) : (d.onRing c r f).cmem = d.cmem := rfl
@[simp] theorem onRing_sync (c r : Nat) (f : Ring → Ring) : (d.onRing c r f).sync = d.sync := rfl
@[simp] theorem onRing_lnk (c r : Nat) (f : Ring → Ring) : (d.onRing c r f).lnk = d.lnk := rfl
@[simp] theorem onRing_circ (c r : Nat) (f : Ring → Ring) : (d.onRing c r f).circ = d.circ := rfl
@[simp] theorem onRing_free (c r : Nat) (f : Ring → Ring) : (d.onRing c r f).free = d.free := rfl
@[simp] theorem onRing_issueNo (c r : Nat) (f : Ring → Ring) : (d.onRing c r f).issueNo = d.issueNo := rfl
@[simp] theorem onRing_out (c r : Nat) (f : Ring → Ring) : (d.onRing c r f).out = d.out := rfl

/-! onPort -/
@[simp] theorem onPort_supply (p : Nat) (f : Port → Port) : (d.onPort p f).supply = d.supply := rfl
@[simp] theorem onPort_pins (p : Nat) (f : Port → Port) : (d.onPort p f).pins = d.pins := rfl
@[simp] theorem onPort_fuses (p : Nat) (f : Port → Port) : (d.onPort p f).fuses = d.fuses := rfl
@[simp] theorem onPort_flash (p : Nat) (f : Port → Port) : (d.onPort p f).flash = d.flash := rfl
@[simp] theorem onPort_boot (p : Nat) (f : Port → Port) : (d.onPort p f).boot = d.boot := rfl
@[simp] theorem onPort_mbx (p : Nat) (f : Port → Port) : (d.onPort p f).mbx = d.mbx := rfl
@[simp] theorem onPort_mgmt (p : Nat) (f : Port → Port) : (d.onPort p f).mgmt = d.mgmt := rfl
@[simp] theorem onPort_sec (p : Nat) (f : Port → Port) : (d.onPort p f).sec = d.sec := rfl
@[simp] theorem onPort_col (p : Nat) (f : Port → Port) : (d.onPort p f).col = d.col := rfl
@[simp] theorem onPort_clk (p : Nat) (f : Port → Port) : (d.onPort p f).clk = d.clk := rfl
@[simp] theorem onPort_pr (p : Nat) (f : Port → Port) : (d.onPort p f).pr = d.pr := rfl
@[simp] theorem onPort_pc (p : Nat) (f : Port → Port) : (d.onPort p f).pc = d.pc := rfl
@[simp] theorem onPort_heat (p : Nat) (f : Port → Port) : (d.onPort p f).heat = d.heat := rfl
@[simp] theorem onPort_pwr (p : Nat) (f : Port → Port) : (d.onPort p f).pwr = d.pwr := rfl
@[simp] theorem onPort_err (p : Nat) (f : Port → Port) : (d.onPort p f).err = d.err := rfl
@[simp] theorem onPort_coreErr (p : Nat) (f : Port → Port) : (d.onPort p f).coreErr = d.coreErr := rfl
@[simp] theorem onPort_glb (p : Nat) (f : Port → Port) : (d.onPort p f).glb = d.glb := rfl
@[simp] theorem onPort_ctxs (p : Nat) (f : Port → Port) : (d.onPort p f).ctxs = d.ctxs := rfl
@[simp] theorem onPort_work (p : Nat) (f : Port → Port) : (d.onPort p f).work = d.work := rfl
@[simp] theorem onPort_cores (p : Nat) (f : Port → Port) : (d.onPort p f).cores = d.cores := rfl
@[simp] theorem onPort_mem (p : Nat) (f : Port → Port) : (d.onPort p f).mem = d.mem := rfl
@[simp] theorem onPort_cmem (p : Nat) (f : Port → Port) : (d.onPort p f).cmem = d.cmem := rfl
@[simp] theorem onPort_sync (p : Nat) (f : Port → Port) : (d.onPort p f).sync = d.sync := rfl
@[simp] theorem onPort_circ (p : Nat) (f : Port → Port) : (d.onPort p f).circ = d.circ := rfl
@[simp] theorem onPort_free (p : Nat) (f : Port → Port) : (d.onPort p f).free = d.free := rfl
@[simp] theorem onPort_issueNo (p : Nat) (f : Port → Port) : (d.onPort p f).issueNo = d.issueNo := rfl
@[simp] theorem onPort_out (p : Nat) (f : Port → Port) : (d.onPort p f).out = d.out := rfl

/-! onRegs -/
@[simp] theorem onRegs_supply (c : Nat) (f : CtxRegs → CtxRegs) : (d.onRegs c f).supply = d.supply := rfl
@[simp] theorem onRegs_pins (c : Nat) (f : CtxRegs → CtxRegs) : (d.onRegs c f).pins = d.pins := rfl
@[simp] theorem onRegs_fuses (c : Nat) (f : CtxRegs → CtxRegs) : (d.onRegs c f).fuses = d.fuses := rfl
@[simp] theorem onRegs_flash (c : Nat) (f : CtxRegs → CtxRegs) : (d.onRegs c f).flash = d.flash := rfl
@[simp] theorem onRegs_boot (c : Nat) (f : CtxRegs → CtxRegs) : (d.onRegs c f).boot = d.boot := rfl
@[simp] theorem onRegs_mbx (c : Nat) (f : CtxRegs → CtxRegs) : (d.onRegs c f).mbx = d.mbx := rfl
@[simp] theorem onRegs_mgmt (c : Nat) (f : CtxRegs → CtxRegs) : (d.onRegs c f).mgmt = d.mgmt := rfl
@[simp] theorem onRegs_sec (c : Nat) (f : CtxRegs → CtxRegs) : (d.onRegs c f).sec = d.sec := rfl
@[simp] theorem onRegs_col (c : Nat) (f : CtxRegs → CtxRegs) : (d.onRegs c f).col = d.col := rfl
@[simp] theorem onRegs_clk (c : Nat) (f : CtxRegs → CtxRegs) : (d.onRegs c f).clk = d.clk := rfl
@[simp] theorem onRegs_pr (c : Nat) (f : CtxRegs → CtxRegs) : (d.onRegs c f).pr = d.pr := rfl
@[simp] theorem onRegs_pc (c : Nat) (f : CtxRegs → CtxRegs) : (d.onRegs c f).pc = d.pc := rfl
@[simp] theorem onRegs_heat (c : Nat) (f : CtxRegs → CtxRegs) : (d.onRegs c f).heat = d.heat := rfl
@[simp] theorem onRegs_pwr (c : Nat) (f : CtxRegs → CtxRegs) : (d.onRegs c f).pwr = d.pwr := rfl
@[simp] theorem onRegs_err (c : Nat) (f : CtxRegs → CtxRegs) : (d.onRegs c f).err = d.err := rfl
@[simp] theorem onRegs_coreErr (c : Nat) (f : CtxRegs → CtxRegs) : (d.onRegs c f).coreErr = d.coreErr := rfl
@[simp] theorem onRegs_glb (c : Nat) (f : CtxRegs → CtxRegs) : (d.onRegs c f).glb = d.glb := rfl
@[simp] theorem onRegs_work (c : Nat) (f : CtxRegs → CtxRegs) : (d.onRegs c f).work = d.work := rfl
@[simp] theorem onRegs_cores (c : Nat) (f : CtxRegs → CtxRegs) : (d.onRegs c f).cores = d.cores := rfl
@[simp] theorem onRegs_mem (c : Nat) (f : CtxRegs → CtxRegs) : (d.onRegs c f).mem = d.mem := rfl
@[simp] theorem onRegs_cmem (c : Nat) (f : CtxRegs → CtxRegs) : (d.onRegs c f).cmem = d.cmem := rfl
@[simp] theorem onRegs_sync (c : Nat) (f : CtxRegs → CtxRegs) : (d.onRegs c f).sync = d.sync := rfl
@[simp] theorem onRegs_lnk (c : Nat) (f : CtxRegs → CtxRegs) : (d.onRegs c f).lnk = d.lnk := rfl
@[simp] theorem onRegs_circ (c : Nat) (f : CtxRegs → CtxRegs) : (d.onRegs c f).circ = d.circ := rfl
@[simp] theorem onRegs_free (c : Nat) (f : CtxRegs → CtxRegs) : (d.onRegs c f).free = d.free := rfl
@[simp] theorem onRegs_issueNo (c : Nat) (f : CtxRegs → CtxRegs) : (d.onRegs c f).issueNo = d.issueNo := rfl
@[simp] theorem onRegs_out (c : Nat) (f : CtxRegs → CtxRegs) : (d.onRegs c f).out = d.out := rfl

/-! onErr -/
@[simp] theorem onErr_supply (f : ErrRegs → ErrRegs) : (d.onErr f).supply = d.supply := rfl
@[simp] theorem onErr_pins (f : ErrRegs → ErrRegs) : (d.onErr f).pins = d.pins := rfl
@[simp] theorem onErr_fuses (f : ErrRegs → ErrRegs) : (d.onErr f).fuses = d.fuses := rfl
@[simp] theorem onErr_flash (f : ErrRegs → ErrRegs) : (d.onErr f).flash = d.flash := rfl
@[simp] theorem onErr_boot (f : ErrRegs → ErrRegs) : (d.onErr f).boot = d.boot := rfl
@[simp] theorem onErr_mbx (f : ErrRegs → ErrRegs) : (d.onErr f).mbx = d.mbx := rfl
@[simp] theorem onErr_mgmt (f : ErrRegs → ErrRegs) : (d.onErr f).mgmt = d.mgmt := rfl
@[simp] theorem onErr_sec (f : ErrRegs → ErrRegs) : (d.onErr f).sec = d.sec := rfl
@[simp] theorem onErr_col (f : ErrRegs → ErrRegs) : (d.onErr f).col = d.col := rfl
@[simp] theorem onErr_clk (f : ErrRegs → ErrRegs) : (d.onErr f).clk = d.clk := rfl
@[simp] theorem onErr_pr (f : ErrRegs → ErrRegs) : (d.onErr f).pr = d.pr := rfl
@[simp] theorem onErr_pc (f : ErrRegs → ErrRegs) : (d.onErr f).pc = d.pc := rfl
@[simp] theorem onErr_heat (f : ErrRegs → ErrRegs) : (d.onErr f).heat = d.heat := rfl
@[simp] theorem onErr_pwr (f : ErrRegs → ErrRegs) : (d.onErr f).pwr = d.pwr := rfl
@[simp] theorem onErr_err (f : ErrRegs → ErrRegs) : (d.onErr f).err = f d.err := rfl
@[simp] theorem onErr_coreErr (f : ErrRegs → ErrRegs) : (d.onErr f).coreErr = d.coreErr := rfl
@[simp] theorem onErr_glb (f : ErrRegs → ErrRegs) : (d.onErr f).glb = d.glb := rfl
@[simp] theorem onErr_ctxs (f : ErrRegs → ErrRegs) : (d.onErr f).ctxs = d.ctxs := rfl
@[simp] theorem onErr_work (f : ErrRegs → ErrRegs) : (d.onErr f).work = d.work := rfl
@[simp] theorem onErr_cores (f : ErrRegs → ErrRegs) : (d.onErr f).cores = d.cores := rfl
@[simp] theorem onErr_mem (f : ErrRegs → ErrRegs) : (d.onErr f).mem = d.mem := rfl
@[simp] theorem onErr_cmem (f : ErrRegs → ErrRegs) : (d.onErr f).cmem = d.cmem := rfl
@[simp] theorem onErr_sync (f : ErrRegs → ErrRegs) : (d.onErr f).sync = d.sync := rfl
@[simp] theorem onErr_lnk (f : ErrRegs → ErrRegs) : (d.onErr f).lnk = d.lnk := rfl
@[simp] theorem onErr_circ (f : ErrRegs → ErrRegs) : (d.onErr f).circ = d.circ := rfl
@[simp] theorem onErr_free (f : ErrRegs → ErrRegs) : (d.onErr f).free = d.free := rfl
@[simp] theorem onErr_issueNo (f : ErrRegs → ErrRegs) : (d.onErr f).issueNo = d.issueNo := rfl
@[simp] theorem onErr_out (f : ErrRegs → ErrRegs) : (d.onErr f).out = d.out := rfl

/-! onWork -/
@[simp] theorem onWork_supply (f : Work → Work) : (d.onWork f).supply = d.supply := rfl
@[simp] theorem onWork_pins (f : Work → Work) : (d.onWork f).pins = d.pins := rfl
@[simp] theorem onWork_fuses (f : Work → Work) : (d.onWork f).fuses = d.fuses := rfl
@[simp] theorem onWork_flash (f : Work → Work) : (d.onWork f).flash = d.flash := rfl
@[simp] theorem onWork_boot (f : Work → Work) : (d.onWork f).boot = d.boot := rfl
@[simp] theorem onWork_mbx (f : Work → Work) : (d.onWork f).mbx = d.mbx := rfl
@[simp] theorem onWork_mgmt (f : Work → Work) : (d.onWork f).mgmt = d.mgmt := rfl
@[simp] theorem onWork_sec (f : Work → Work) : (d.onWork f).sec = d.sec := rfl
@[simp] theorem onWork_col (f : Work → Work) : (d.onWork f).col = d.col := rfl
@[simp] theorem onWork_clk (f : Work → Work) : (d.onWork f).clk = d.clk := rfl
@[simp] theorem onWork_pr (f : Work → Work) : (d.onWork f).pr = d.pr := rfl
@[simp] theorem onWork_pc (f : Work → Work) : (d.onWork f).pc = d.pc := rfl
@[simp] theorem onWork_heat (f : Work → Work) : (d.onWork f).heat = d.heat := rfl
@[simp] theorem onWork_pwr (f : Work → Work) : (d.onWork f).pwr = d.pwr := rfl
@[simp] theorem onWork_err (f : Work → Work) : (d.onWork f).err = d.err := rfl
@[simp] theorem onWork_coreErr (f : Work → Work) : (d.onWork f).coreErr = d.coreErr := rfl
@[simp] theorem onWork_glb (f : Work → Work) : (d.onWork f).glb = d.glb := rfl
@[simp] theorem onWork_ctxs (f : Work → Work) : (d.onWork f).ctxs = d.ctxs := rfl
@[simp] theorem onWork_work (f : Work → Work) : (d.onWork f).work = f d.work := rfl
@[simp] theorem onWork_cores (f : Work → Work) : (d.onWork f).cores = d.cores := rfl
@[simp] theorem onWork_mem (f : Work → Work) : (d.onWork f).mem = d.mem := rfl
@[simp] theorem onWork_cmem (f : Work → Work) : (d.onWork f).cmem = d.cmem := rfl
@[simp] theorem onWork_sync (f : Work → Work) : (d.onWork f).sync = d.sync := rfl
@[simp] theorem onWork_lnk (f : Work → Work) : (d.onWork f).lnk = d.lnk := rfl
@[simp] theorem onWork_circ (f : Work → Work) : (d.onWork f).circ = d.circ := rfl
@[simp] theorem onWork_free (f : Work → Work) : (d.onWork f).free = d.free := rfl
@[simp] theorem onWork_issueNo (f : Work → Work) : (d.onWork f).issueNo = d.issueNo := rfl
@[simp] theorem onWork_out (f : Work → Work) : (d.onWork f).out = d.out := rfl

/-! onPwr -/
@[simp] theorem onPwr_supply (f : Pwr → Pwr) : (d.onPwr f).supply = d.supply := rfl
@[simp] theorem onPwr_pins (f : Pwr → Pwr) : (d.onPwr f).pins = d.pins := rfl
@[simp] theorem onPwr_fuses (f : Pwr → Pwr) : (d.onPwr f).fuses = d.fuses := rfl
@[simp] theorem onPwr_flash (f : Pwr → Pwr) : (d.onPwr f).flash = d.flash := rfl
@[simp] theorem onPwr_boot (f : Pwr → Pwr) : (d.onPwr f).boot = d.boot := rfl
@[simp] theorem onPwr_mbx (f : Pwr → Pwr) : (d.onPwr f).mbx = d.mbx := rfl
@[simp] theorem onPwr_mgmt (f : Pwr → Pwr) : (d.onPwr f).mgmt = d.mgmt := rfl
@[simp] theorem onPwr_sec (f : Pwr → Pwr) : (d.onPwr f).sec = d.sec := rfl
@[simp] theorem onPwr_col (f : Pwr → Pwr) : (d.onPwr f).col = d.col := rfl
@[simp] theorem onPwr_clk (f : Pwr → Pwr) : (d.onPwr f).clk = d.clk := rfl
@[simp] theorem onPwr_pr (f : Pwr → Pwr) : (d.onPwr f).pr = d.pr := rfl
@[simp] theorem onPwr_pc (f : Pwr → Pwr) : (d.onPwr f).pc = d.pc := rfl
@[simp] theorem onPwr_heat (f : Pwr → Pwr) : (d.onPwr f).heat = d.heat := rfl
@[simp] theorem onPwr_pwr (f : Pwr → Pwr) : (d.onPwr f).pwr = f d.pwr := rfl
@[simp] theorem onPwr_err (f : Pwr → Pwr) : (d.onPwr f).err = d.err := rfl
@[simp] theorem onPwr_coreErr (f : Pwr → Pwr) : (d.onPwr f).coreErr = d.coreErr := rfl
@[simp] theorem onPwr_glb (f : Pwr → Pwr) : (d.onPwr f).glb = d.glb := rfl
@[simp] theorem onPwr_ctxs (f : Pwr → Pwr) : (d.onPwr f).ctxs = d.ctxs := rfl
@[simp] theorem onPwr_work (f : Pwr → Pwr) : (d.onPwr f).work = d.work := rfl
@[simp] theorem onPwr_cores (f : Pwr → Pwr) : (d.onPwr f).cores = d.cores := rfl
@[simp] theorem onPwr_mem (f : Pwr → Pwr) : (d.onPwr f).mem = d.mem := rfl
@[simp] theorem onPwr_cmem (f : Pwr → Pwr) : (d.onPwr f).cmem = d.cmem := rfl
@[simp] theorem onPwr_sync (f : Pwr → Pwr) : (d.onPwr f).sync = d.sync := rfl
@[simp] theorem onPwr_lnk (f : Pwr → Pwr) : (d.onPwr f).lnk = d.lnk := rfl
@[simp] theorem onPwr_circ (f : Pwr → Pwr) : (d.onPwr f).circ = d.circ := rfl
@[simp] theorem onPwr_free (f : Pwr → Pwr) : (d.onPwr f).free = d.free := rfl
@[simp] theorem onPwr_issueNo (f : Pwr → Pwr) : (d.onPwr f).issueNo = d.issueNo := rfl
@[simp] theorem onPwr_out (f : Pwr → Pwr) : (d.onPwr f).out = d.out := rfl

/-! onCirc -/
@[simp] theorem onCirc_supply (f : Circ → Circ) : (d.onCirc f).supply = d.supply := rfl
@[simp] theorem onCirc_pins (f : Circ → Circ) : (d.onCirc f).pins = d.pins := rfl
@[simp] theorem onCirc_fuses (f : Circ → Circ) : (d.onCirc f).fuses = d.fuses := rfl
@[simp] theorem onCirc_flash (f : Circ → Circ) : (d.onCirc f).flash = d.flash := rfl
@[simp] theorem onCirc_boot (f : Circ → Circ) : (d.onCirc f).boot = d.boot := rfl
@[simp] theorem onCirc_mbx (f : Circ → Circ) : (d.onCirc f).mbx = d.mbx := rfl
@[simp] theorem onCirc_mgmt (f : Circ → Circ) : (d.onCirc f).mgmt = d.mgmt := rfl
@[simp] theorem onCirc_sec (f : Circ → Circ) : (d.onCirc f).sec = d.sec := rfl
@[simp] theorem onCirc_col (f : Circ → Circ) : (d.onCirc f).col = d.col := rfl
@[simp] theorem onCirc_clk (f : Circ → Circ) : (d.onCirc f).clk = d.clk := rfl
@[simp] theorem onCirc_pr (f : Circ → Circ) : (d.onCirc f).pr = d.pr := rfl
@[simp] theorem onCirc_pc (f : Circ → Circ) : (d.onCirc f).pc = d.pc := rfl
@[simp] theorem onCirc_heat (f : Circ → Circ) : (d.onCirc f).heat = d.heat := rfl
@[simp] theorem onCirc_pwr (f : Circ → Circ) : (d.onCirc f).pwr = d.pwr := rfl
@[simp] theorem onCirc_err (f : Circ → Circ) : (d.onCirc f).err = d.err := rfl
@[simp] theorem onCirc_coreErr (f : Circ → Circ) : (d.onCirc f).coreErr = d.coreErr := rfl
@[simp] theorem onCirc_glb (f : Circ → Circ) : (d.onCirc f).glb = d.glb := rfl
@[simp] theorem onCirc_ctxs (f : Circ → Circ) : (d.onCirc f).ctxs = d.ctxs := rfl
@[simp] theorem onCirc_work (f : Circ → Circ) : (d.onCirc f).work = d.work := rfl
@[simp] theorem onCirc_cores (f : Circ → Circ) : (d.onCirc f).cores = d.cores := rfl
@[simp] theorem onCirc_mem (f : Circ → Circ) : (d.onCirc f).mem = d.mem := rfl
@[simp] theorem onCirc_cmem (f : Circ → Circ) : (d.onCirc f).cmem = d.cmem := rfl
@[simp] theorem onCirc_sync (f : Circ → Circ) : (d.onCirc f).sync = d.sync := rfl
@[simp] theorem onCirc_lnk (f : Circ → Circ) : (d.onCirc f).lnk = d.lnk := rfl
@[simp] theorem onCirc_circ (f : Circ → Circ) : (d.onCirc f).circ = f d.circ := rfl
@[simp] theorem onCirc_free (f : Circ → Circ) : (d.onCirc f).free = d.free := rfl
@[simp] theorem onCirc_issueNo (f : Circ → Circ) : (d.onCirc f).issueNo = d.issueNo := rfl
@[simp] theorem onCirc_out (f : Circ → Circ) : (d.onCirc f).out = d.out := rfl

/-! onMem -/
@[simp] theorem onMem_supply (f : Mem → Mem) : (d.onMem f).supply = d.supply := rfl
@[simp] theorem onMem_pins (f : Mem → Mem) : (d.onMem f).pins = d.pins := rfl
@[simp] theorem onMem_fuses (f : Mem → Mem) : (d.onMem f).fuses = d.fuses := rfl
@[simp] theorem onMem_flash (f : Mem → Mem) : (d.onMem f).flash = d.flash := rfl
@[simp] theorem onMem_boot (f : Mem → Mem) : (d.onMem f).boot = d.boot := rfl
@[simp] theorem onMem_mbx (f : Mem → Mem) : (d.onMem f).mbx = d.mbx := rfl
@[simp] theorem onMem_mgmt (f : Mem → Mem) : (d.onMem f).mgmt = d.mgmt := rfl
@[simp] theorem onMem_sec (f : Mem → Mem) : (d.onMem f).sec = d.sec := rfl
@[simp] theorem onMem_col (f : Mem → Mem) : (d.onMem f).col = d.col := rfl
@[simp] theorem onMem_clk (f : Mem → Mem) : (d.onMem f).clk = d.clk := rfl
@[simp] theorem onMem_pr (f : Mem → Mem) : (d.onMem f).pr = d.pr := rfl
@[simp] theorem onMem_pc (f : Mem → Mem) : (d.onMem f).pc = d.pc := rfl
@[simp] theorem onMem_heat (f : Mem → Mem) : (d.onMem f).heat = d.heat := rfl
@[simp] theorem onMem_pwr (f : Mem → Mem) : (d.onMem f).pwr = d.pwr := rfl
@[simp] theorem onMem_err (f : Mem → Mem) : (d.onMem f).err = d.err := rfl
@[simp] theorem onMem_coreErr (f : Mem → Mem) : (d.onMem f).coreErr = d.coreErr := rfl
@[simp] theorem onMem_glb (f : Mem → Mem) : (d.onMem f).glb = d.glb := rfl
@[simp] theorem onMem_ctxs (f : Mem → Mem) : (d.onMem f).ctxs = d.ctxs := rfl
@[simp] theorem onMem_work (f : Mem → Mem) : (d.onMem f).work = d.work := rfl
@[simp] theorem onMem_cores (f : Mem → Mem) : (d.onMem f).cores = d.cores := rfl
@[simp] theorem onMem_mem (f : Mem → Mem) : (d.onMem f).mem = f d.mem := rfl
@[simp] theorem onMem_cmem (f : Mem → Mem) : (d.onMem f).cmem = d.cmem := rfl
@[simp] theorem onMem_sync (f : Mem → Mem) : (d.onMem f).sync = d.sync := rfl
@[simp] theorem onMem_lnk (f : Mem → Mem) : (d.onMem f).lnk = d.lnk := rfl
@[simp] theorem onMem_circ (f : Mem → Mem) : (d.onMem f).circ = d.circ := rfl
@[simp] theorem onMem_free (f : Mem → Mem) : (d.onMem f).free = d.free := rfl
@[simp] theorem onMem_issueNo (f : Mem → Mem) : (d.onMem f).issueNo = d.issueNo := rfl
@[simp] theorem onMem_out (f : Mem → Mem) : (d.onMem f).out = d.out := rfl

/-! onBoot -/
@[simp] theorem onBoot_supply (f : Boot → Boot) : (d.onBoot f).supply = d.supply := rfl
@[simp] theorem onBoot_pins (f : Boot → Boot) : (d.onBoot f).pins = d.pins := rfl
@[simp] theorem onBoot_fuses (f : Boot → Boot) : (d.onBoot f).fuses = d.fuses := rfl
@[simp] theorem onBoot_flash (f : Boot → Boot) : (d.onBoot f).flash = d.flash := rfl
@[simp] theorem onBoot_boot (f : Boot → Boot) : (d.onBoot f).boot = f d.boot := rfl
@[simp] theorem onBoot_mbx (f : Boot → Boot) : (d.onBoot f).mbx = d.mbx := rfl
@[simp] theorem onBoot_mgmt (f : Boot → Boot) : (d.onBoot f).mgmt = d.mgmt := rfl
@[simp] theorem onBoot_sec (f : Boot → Boot) : (d.onBoot f).sec = d.sec := rfl
@[simp] theorem onBoot_col (f : Boot → Boot) : (d.onBoot f).col = d.col := rfl
@[simp] theorem onBoot_clk (f : Boot → Boot) : (d.onBoot f).clk = d.clk := rfl
@[simp] theorem onBoot_pr (f : Boot → Boot) : (d.onBoot f).pr = d.pr := rfl
@[simp] theorem onBoot_pc (f : Boot → Boot) : (d.onBoot f).pc = d.pc := rfl
@[simp] theorem onBoot_heat (f : Boot → Boot) : (d.onBoot f).heat = d.heat := rfl
@[simp] theorem onBoot_pwr (f : Boot → Boot) : (d.onBoot f).pwr = d.pwr := rfl
@[simp] theorem onBoot_err (f : Boot → Boot) : (d.onBoot f).err = d.err := rfl
@[simp] theorem onBoot_coreErr (f : Boot → Boot) : (d.onBoot f).coreErr = d.coreErr := rfl
@[simp] theorem onBoot_glb (f : Boot → Boot) : (d.onBoot f).glb = d.glb := rfl
@[simp] theorem onBoot_ctxs (f : Boot → Boot) : (d.onBoot f).ctxs = d.ctxs := rfl
@[simp] theorem onBoot_work (f : Boot → Boot) : (d.onBoot f).work = d.work := rfl
@[simp] theorem onBoot_cores (f : Boot → Boot) : (d.onBoot f).cores = d.cores := rfl
@[simp] theorem onBoot_mem (f : Boot → Boot) : (d.onBoot f).mem = d.mem := rfl
@[simp] theorem onBoot_cmem (f : Boot → Boot) : (d.onBoot f).cmem = d.cmem := rfl
@[simp] theorem onBoot_sync (f : Boot → Boot) : (d.onBoot f).sync = d.sync := rfl
@[simp] theorem onBoot_lnk (f : Boot → Boot) : (d.onBoot f).lnk = d.lnk := rfl
@[simp] theorem onBoot_circ (f : Boot → Boot) : (d.onBoot f).circ = d.circ := rfl
@[simp] theorem onBoot_free (f : Boot → Boot) : (d.onBoot f).free = d.free := rfl
@[simp] theorem onBoot_issueNo (f : Boot → Boot) : (d.onBoot f).issueNo = d.issueNo := rfl
@[simp] theorem onBoot_out (f : Boot → Boot) : (d.onBoot f).out = d.out := rfl

/-! emit -/
@[simp] theorem emit_supply (o : Out) : (d.emit o).supply = d.supply := rfl
@[simp] theorem emit_pins (o : Out) : (d.emit o).pins = d.pins := rfl
@[simp] theorem emit_fuses (o : Out) : (d.emit o).fuses = d.fuses := rfl
@[simp] theorem emit_flash (o : Out) : (d.emit o).flash = d.flash := rfl
@[simp] theorem emit_boot (o : Out) : (d.emit o).boot = d.boot := rfl
@[simp] theorem emit_mbx (o : Out) : (d.emit o).mbx = d.mbx := rfl
@[simp] theorem emit_mgmt (o : Out) : (d.emit o).mgmt = d.mgmt := rfl
@[simp] theorem emit_sec (o : Out) : (d.emit o).sec = d.sec := rfl
@[simp] theorem emit_col (o : Out) : (d.emit o).col = d.col := rfl
@[simp] theorem emit_clk (o : Out) : (d.emit o).clk = d.clk := rfl
@[simp] theorem emit_pr (o : Out) : (d.emit o).pr = d.pr := rfl
@[simp] theorem emit_pc (o : Out) : (d.emit o).pc = d.pc := rfl
@[simp] theorem emit_heat (o : Out) : (d.emit o).heat = d.heat := rfl
@[simp] theorem emit_pwr (o : Out) : (d.emit o).pwr = d.pwr := rfl
@[simp] theorem emit_err (o : Out) : (d.emit o).err = d.err := rfl
@[simp] theorem emit_coreErr (o : Out) : (d.emit o).coreErr = d.coreErr := rfl
@[simp] theorem emit_glb (o : Out) : (d.emit o).glb = d.glb := rfl
@[simp] theorem emit_ctxs (o : Out) : (d.emit o).ctxs = d.ctxs := rfl
@[simp] theorem emit_work (o : Out) : (d.emit o).work = d.work := rfl
@[simp] theorem emit_cores (o : Out) : (d.emit o).cores = d.cores := rfl
@[simp] theorem emit_mem (o : Out) : (d.emit o).mem = d.mem := rfl
@[simp] theorem emit_cmem (o : Out) : (d.emit o).cmem = d.cmem := rfl
@[simp] theorem emit_sync (o : Out) : (d.emit o).sync = d.sync := rfl
@[simp] theorem emit_lnk (o : Out) : (d.emit o).lnk = d.lnk := rfl
@[simp] theorem emit_circ (o : Out) : (d.emit o).circ = d.circ := rfl
@[simp] theorem emit_free (o : Out) : (d.emit o).free = d.free := rfl
@[simp] theorem emit_issueNo (o : Out) : (d.emit o).issueNo = d.issueNo := rfl
@[simp] theorem emit_out (o : Out) : (d.emit o).out = d.out ++ [o] := rfl

/-! tookFree -/
@[simp] theorem tookFree_supply  : (d.tookFree ).supply = d.supply := rfl
@[simp] theorem tookFree_pins  : (d.tookFree ).pins = d.pins := rfl
@[simp] theorem tookFree_fuses  : (d.tookFree ).fuses = d.fuses := rfl
@[simp] theorem tookFree_flash  : (d.tookFree ).flash = d.flash := rfl
@[simp] theorem tookFree_boot  : (d.tookFree ).boot = d.boot := rfl
@[simp] theorem tookFree_mbx  : (d.tookFree ).mbx = d.mbx := rfl
@[simp] theorem tookFree_mgmt  : (d.tookFree ).mgmt = d.mgmt := rfl
@[simp] theorem tookFree_sec  : (d.tookFree ).sec = d.sec := rfl
@[simp] theorem tookFree_col  : (d.tookFree ).col = d.col := rfl
@[simp] theorem tookFree_clk  : (d.tookFree ).clk = d.clk := rfl
@[simp] theorem tookFree_pr  : (d.tookFree ).pr = d.pr := rfl
@[simp] theorem tookFree_pc  : (d.tookFree ).pc = d.pc := rfl
@[simp] theorem tookFree_heat  : (d.tookFree ).heat = d.heat := rfl
@[simp] theorem tookFree_pwr  : (d.tookFree ).pwr = d.pwr := rfl
@[simp] theorem tookFree_err  : (d.tookFree ).err = d.err := rfl
@[simp] theorem tookFree_coreErr  : (d.tookFree ).coreErr = d.coreErr := rfl
@[simp] theorem tookFree_glb  : (d.tookFree ).glb = d.glb := rfl
@[simp] theorem tookFree_ctxs  : (d.tookFree ).ctxs = d.ctxs := rfl
@[simp] theorem tookFree_work  : (d.tookFree ).work = d.work := rfl
@[simp] theorem tookFree_cores  : (d.tookFree ).cores = d.cores := rfl
@[simp] theorem tookFree_mem  : (d.tookFree ).mem = d.mem := rfl
@[simp] theorem tookFree_cmem  : (d.tookFree ).cmem = d.cmem := rfl
@[simp] theorem tookFree_sync  : (d.tookFree ).sync = d.sync := rfl
@[simp] theorem tookFree_lnk  : (d.tookFree ).lnk = d.lnk := rfl
@[simp] theorem tookFree_circ  : (d.tookFree ).circ = d.circ := rfl
@[simp] theorem tookFree_free  : (d.tookFree ).free = d.free + 1 := rfl
@[simp] theorem tookFree_issueNo  : (d.tookFree ).issueNo = d.issueNo := rfl
@[simp] theorem tookFree_out  : (d.tookFree ).out = d.out := rfl

/-! setTs -/
@[simp] theorem setTs_supply (t : Nat) : (d.setTs t).supply = d.supply := rfl
@[simp] theorem setTs_pins (t : Nat) : (d.setTs t).pins = d.pins := rfl
@[simp] theorem setTs_fuses (t : Nat) : (d.setTs t).fuses = d.fuses := rfl
@[simp] theorem setTs_flash (t : Nat) : (d.setTs t).flash = d.flash := rfl
@[simp] theorem setTs_boot (t : Nat) : (d.setTs t).boot = d.boot := rfl
@[simp] theorem setTs_mbx (t : Nat) : (d.setTs t).mbx = d.mbx := rfl
@[simp] theorem setTs_mgmt (t : Nat) : (d.setTs t).mgmt = d.mgmt := rfl
@[simp] theorem setTs_sec (t : Nat) : (d.setTs t).sec = d.sec := rfl
@[simp] theorem setTs_col (t : Nat) : (d.setTs t).col = d.col := rfl
@[simp] theorem setTs_pr (t : Nat) : (d.setTs t).pr = d.pr := rfl
@[simp] theorem setTs_pc (t : Nat) : (d.setTs t).pc = d.pc := rfl
@[simp] theorem setTs_heat (t : Nat) : (d.setTs t).heat = d.heat := rfl
@[simp] theorem setTs_pwr (t : Nat) : (d.setTs t).pwr = d.pwr := rfl
@[simp] theorem setTs_err (t : Nat) : (d.setTs t).err = d.err := rfl
@[simp] theorem setTs_coreErr (t : Nat) : (d.setTs t).coreErr = d.coreErr := rfl
@[simp] theorem setTs_glb (t : Nat) : (d.setTs t).glb = d.glb := rfl
@[simp] theorem setTs_ctxs (t : Nat) : (d.setTs t).ctxs = d.ctxs := rfl
@[simp] theorem setTs_work (t : Nat) : (d.setTs t).work = d.work := rfl
@[simp] theorem setTs_cores (t : Nat) : (d.setTs t).cores = d.cores := rfl
@[simp] theorem setTs_mem (t : Nat) : (d.setTs t).mem = d.mem := rfl
@[simp] theorem setTs_cmem (t : Nat) : (d.setTs t).cmem = d.cmem := rfl
@[simp] theorem setTs_sync (t : Nat) : (d.setTs t).sync = d.sync := rfl
@[simp] theorem setTs_lnk (t : Nat) : (d.setTs t).lnk = d.lnk := rfl
@[simp] theorem setTs_circ (t : Nat) : (d.setTs t).circ = d.circ := rfl
@[simp] theorem setTs_free (t : Nat) : (d.setTs t).free = d.free := rfl
@[simp] theorem setTs_issueNo (t : Nat) : (d.setTs t).issueNo = d.issueNo := rfl
@[simp] theorem setTs_out (t : Nat) : (d.setTs t).out = d.out := rfl

/-! reach -/
@[simp] theorem reach_supply (t : Nat) : (d.reach t).supply = d.supply := rfl
@[simp] theorem reach_pins (t : Nat) : (d.reach t).pins = d.pins := rfl
@[simp] theorem reach_fuses (t : Nat) : (d.reach t).fuses = d.fuses := rfl
@[simp] theorem reach_flash (t : Nat) : (d.reach t).flash = d.flash := rfl
@[simp] theorem reach_boot (t : Nat) : (d.reach t).boot = d.boot := rfl
@[simp] theorem reach_mbx (t : Nat) : (d.reach t).mbx = d.mbx := rfl
@[simp] theorem reach_mgmt (t : Nat) : (d.reach t).mgmt = d.mgmt := rfl
@[simp] theorem reach_sec (t : Nat) : (d.reach t).sec = d.sec := rfl
@[simp] theorem reach_col (t : Nat) : (d.reach t).col = d.col := rfl
@[simp] theorem reach_pr (t : Nat) : (d.reach t).pr = d.pr := rfl
@[simp] theorem reach_pc (t : Nat) : (d.reach t).pc = d.pc := rfl
@[simp] theorem reach_heat (t : Nat) : (d.reach t).heat = d.heat := rfl
@[simp] theorem reach_pwr (t : Nat) : (d.reach t).pwr = d.pwr := rfl
@[simp] theorem reach_err (t : Nat) : (d.reach t).err = d.err := rfl
@[simp] theorem reach_coreErr (t : Nat) : (d.reach t).coreErr = d.coreErr := rfl
@[simp] theorem reach_glb (t : Nat) : (d.reach t).glb = d.glb := rfl
@[simp] theorem reach_ctxs (t : Nat) : (d.reach t).ctxs = d.ctxs := rfl
@[simp] theorem reach_work (t : Nat) : (d.reach t).work = d.work := rfl
@[simp] theorem reach_cores (t : Nat) : (d.reach t).cores = d.cores := rfl
@[simp] theorem reach_mem (t : Nat) : (d.reach t).mem = d.mem := rfl
@[simp] theorem reach_cmem (t : Nat) : (d.reach t).cmem = d.cmem := rfl
@[simp] theorem reach_sync (t : Nat) : (d.reach t).sync = d.sync := rfl
@[simp] theorem reach_lnk (t : Nat) : (d.reach t).lnk = d.lnk := rfl
@[simp] theorem reach_circ (t : Nat) : (d.reach t).circ = d.circ := rfl
@[simp] theorem reach_free (t : Nat) : (d.reach t).free = d.free := rfl
@[simp] theorem reach_issueNo (t : Nat) : (d.reach t).issueNo = d.issueNo := rfl
@[simp] theorem reach_out (t : Nat) : (d.reach t).out = d.out := rfl

/-! colReserve -/
@[simp] theorem colReserve_supply (n : Nat) : (d.colReserve n).supply = d.supply := rfl
@[simp] theorem colReserve_pins (n : Nat) : (d.colReserve n).pins = d.pins := rfl
@[simp] theorem colReserve_fuses (n : Nat) : (d.colReserve n).fuses = d.fuses := rfl
@[simp] theorem colReserve_flash (n : Nat) : (d.colReserve n).flash = d.flash := rfl
@[simp] theorem colReserve_boot (n : Nat) : (d.colReserve n).boot = d.boot := rfl
@[simp] theorem colReserve_mbx (n : Nat) : (d.colReserve n).mbx = d.mbx := rfl
@[simp] theorem colReserve_mgmt (n : Nat) : (d.colReserve n).mgmt = d.mgmt := rfl
@[simp] theorem colReserve_sec (n : Nat) : (d.colReserve n).sec = d.sec := rfl
@[simp] theorem colReserve_clk (n : Nat) : (d.colReserve n).clk = d.clk := rfl
@[simp] theorem colReserve_pr (n : Nat) : (d.colReserve n).pr = d.pr := rfl
@[simp] theorem colReserve_pc (n : Nat) : (d.colReserve n).pc = d.pc := rfl
@[simp] theorem colReserve_heat (n : Nat) : (d.colReserve n).heat = d.heat := rfl
@[simp] theorem colReserve_pwr (n : Nat) : (d.colReserve n).pwr = d.pwr := rfl
@[simp] theorem colReserve_err (n : Nat) : (d.colReserve n).err = d.err := rfl
@[simp] theorem colReserve_coreErr (n : Nat) : (d.colReserve n).coreErr = d.coreErr := rfl
@[simp] theorem colReserve_glb (n : Nat) : (d.colReserve n).glb = d.glb := rfl
@[simp] theorem colReserve_ctxs (n : Nat) : (d.colReserve n).ctxs = d.ctxs := rfl
@[simp] theorem colReserve_work (n : Nat) : (d.colReserve n).work = d.work := rfl
@[simp] theorem colReserve_cores (n : Nat) : (d.colReserve n).cores = d.cores := rfl
@[simp] theorem colReserve_mem (n : Nat) : (d.colReserve n).mem = d.mem := rfl
@[simp] theorem colReserve_cmem (n : Nat) : (d.colReserve n).cmem = d.cmem := rfl
@[simp] theorem colReserve_sync (n : Nat) : (d.colReserve n).sync = d.sync := rfl
@[simp] theorem colReserve_lnk (n : Nat) : (d.colReserve n).lnk = d.lnk := rfl
@[simp] theorem colReserve_circ (n : Nat) : (d.colReserve n).circ = d.circ := rfl
@[simp] theorem colReserve_free (n : Nat) : (d.colReserve n).free = d.free := rfl
@[simp] theorem colReserve_issueNo (n : Nat) : (d.colReserve n).issueNo = d.issueNo := rfl
@[simp] theorem colReserve_out (n : Nat) : (d.colReserve n).out = d.out := rfl

/-! colRelease -/
@[simp] theorem colRelease_supply (n : Nat) : (d.colRelease n).supply = d.supply := rfl
@[simp] theorem colRelease_pins (n : Nat) : (d.colRelease n).pins = d.pins := rfl
@[simp] theorem colRelease_fuses (n : Nat) : (d.colRelease n).fuses = d.fuses := rfl
@[simp] theorem colRelease_flash (n : Nat) : (d.colRelease n).flash = d.flash := rfl
@[simp] theorem colRelease_boot (n : Nat) : (d.colRelease n).boot = d.boot := rfl
@[simp] theorem colRelease_mbx (n : Nat) : (d.colRelease n).mbx = d.mbx := rfl
@[simp] theorem colRelease_mgmt (n : Nat) : (d.colRelease n).mgmt = d.mgmt := rfl
@[simp] theorem colRelease_sec (n : Nat) : (d.colRelease n).sec = d.sec := rfl
@[simp] theorem colRelease_clk (n : Nat) : (d.colRelease n).clk = d.clk := rfl
@[simp] theorem colRelease_pr (n : Nat) : (d.colRelease n).pr = d.pr := rfl
@[simp] theorem colRelease_pc (n : Nat) : (d.colRelease n).pc = d.pc := rfl
@[simp] theorem colRelease_heat (n : Nat) : (d.colRelease n).heat = d.heat := rfl
@[simp] theorem colRelease_pwr (n : Nat) : (d.colRelease n).pwr = d.pwr := rfl
@[simp] theorem colRelease_err (n : Nat) : (d.colRelease n).err = d.err := rfl
@[simp] theorem colRelease_coreErr (n : Nat) : (d.colRelease n).coreErr = d.coreErr := rfl
@[simp] theorem colRelease_glb (n : Nat) : (d.colRelease n).glb = d.glb := rfl
@[simp] theorem colRelease_ctxs (n : Nat) : (d.colRelease n).ctxs = d.ctxs := rfl
@[simp] theorem colRelease_work (n : Nat) : (d.colRelease n).work = d.work := rfl
@[simp] theorem colRelease_cores (n : Nat) : (d.colRelease n).cores = d.cores := rfl
@[simp] theorem colRelease_mem (n : Nat) : (d.colRelease n).mem = d.mem := rfl
@[simp] theorem colRelease_cmem (n : Nat) : (d.colRelease n).cmem = d.cmem := rfl
@[simp] theorem colRelease_sync (n : Nat) : (d.colRelease n).sync = d.sync := rfl
@[simp] theorem colRelease_lnk (n : Nat) : (d.colRelease n).lnk = d.lnk := rfl
@[simp] theorem colRelease_circ (n : Nat) : (d.colRelease n).circ = d.circ := rfl
@[simp] theorem colRelease_free (n : Nat) : (d.colRelease n).free = d.free := rfl
@[simp] theorem colRelease_issueNo (n : Nat) : (d.colRelease n).issueNo = d.issueNo := rfl
@[simp] theorem colRelease_out (n : Nat) : (d.colRelease n).out = d.out := rfl

/-! ### A part read after it was changed -/

@[simp] theorem core_onCore_self (n : Nat) (f : Core → Core) : (d.onCore n f).core n = f (d.core n) := by simp [core, onCore]
theorem core_onCore_ne {n m : Nat} (f : Core → Core) (h : n ≠ m) : (d.onCore n f).core m = d.core m := by
  simp [core, onCore, Table.get_modify_ne _ _ _ h]
@[simp] theorem ctx_onCtx_self (c : Nat) (f : Ctx → Ctx) : (d.onCtx c f).ctx c = f (d.ctx c) := by simp [ctx, onCtx]
theorem ctx_onCtx_ne {c b : Nat} (f : Ctx → Ctx) (h : c ≠ b) : (d.onCtx c f).ctx b = d.ctx b := by
  simp [ctx, onCtx, Table.get_modify_ne _ _ _ h]
@[simp] theorem port_onPort_self (p : Nat) (f : Port → Port) : (d.onPort p f).port p = f (d.port p) := by simp [port, onPort]
theorem port_onPort_ne {p q : Nat} (f : Port → Port) (h : p ≠ q) : (d.onPort p f).port q = d.port q := by
  simp [port, onPort, Table.get_modify_ne _ _ _ h]
@[simp] theorem ring_onRing_self (c r : Nat) (f : Ring → Ring) : (d.onRing c r f).ring c r = f (d.ring c r) := by
  simp [ring, onRing]
theorem ring_onRing_ne {c r b q : Nat} (f : Ring → Ring) (h : c ≠ b ∨ r ≠ q) : (d.onRing c r f).ring b q = d.ring b q := by
  by_cases hc : c = b
  · subst hc
    have hr : r ≠ q := by rcases h with h | h; exact absurd rfl h; exact h
    simp [ring, onRing, Table.get_modify_ne _ _ _ hr]
  · simp [ring, onRing, ctx_onCtx_ne d _ hc]

/-! ### Conditions and folds -/

@[simp] theorem live_on (f : Dev → Dev) (h : d.powered = true) : d.live f = f d := by simp [live, h]
@[simp] theorem live_off (f : Dev → Dev) (h : d.powered = false) : d.live f = d := by simp [live, h]
@[simp] theorem given_true (f : Dev → Dev) : d.given true f = f d := rfl
@[simp] theorem given_false (f : Dev → Dev) : d.given false f = d := rfl
@[simp] theorem each_nil {α : Type} (f : Dev → α → Dev) : d.each [] f = d := rfl
@[simp] theorem each_cons {α : Type} (a : α) (l : List α) (f : Dev → α → Dev) : d.each (a :: l) f = (f d a).each l f := rfl

/-- A fold of changes that each keep a part of the station keeps it. -/
theorem each_keeps {α β : Type} (part : Dev → β) (f : Dev → α → Dev) (h : ∀ d a, part (f d a) = part d) (l : List α) :
    part (d.each l f) = part d := by
  induction l generalizing d with
  | nil => rfl
  | cons a l ih => rw [each_cons, ih, h]
/-- A conditional change that keeps a part keeps it, whether or not it takes place. -/
theorem given_keeps {β : Type} (part : Dev → β) (f : Dev → Dev) (h : part (f d) = part d) (b : Bool) :
    part (d.given b f) = part d := by cases b <;> simp [h]
theorem live_keeps {β : Type} (part : Dev → β) (f : Dev → Dev) (h : part (f d) = part d) : part (d.live f) = part d := by
  by_cases hp : d.powered = true
  · simp [live, hp, h]
  · simp [live, hp]

/-- The timestamp after a moment has been reached. -/
theorem now_reach (t : Nat) : (d.reach t).now = min (max d.now t) (2 ^ 64 - 1) := rfl

end Sys2Proof.Machine.Dev

namespace Sys2Proof.Machine

/-- A command answers a next state, in which the queue is as it was. -/
@[simp] theorem State.on_eq (s : State) (f : Dev → Dev) : s.on f = .next { s with dev := f s.dev } := rfl

/-- A step with a command at the front of the queue runs it on the rest. -/
@[simp] theorem step_cons (s : State) (c : Instr) : step { s with pending := c :: s.pending } = exec c s := rfl
/-- With nothing in the queue the station lets one cycle of its reference pass. -/
theorem step_nil (s : State) (h : s.pending = []) : step s = .next { s with dev := s.dev.tick } := by
  unfold step; rw [h]

end Sys2Proof.Machine
end

