-- ==== Sys2Proof/Laws/Fuses.lean ====
section
/-! SUPPORT. No operation of the station touches the fuses, but for the advance of SVN by an image that runs (R348): one lemma for each
operation, for the proof that SVN never goes back. -/

namespace Sys2Proof.Machine

open Dev

theorem Dev.ite_fuses (c : Prop) [Decidable c] (a b : Dev) : (if c then a else b).fuses = if c then a.fuses else b.fuses := by
  split <;> rfl

theorem foldl_keeps {α β γ : Type} (g : α → γ) (f : α → β → α) (h : ∀ a x, g (f a x) = g a) (l : List β) (a : α) :
    g (l.foldl f a) = g a := by
  induction l generalizing a with
  | nil => rfl
  | cons x l ih => rw [List.foldl_cons, ih, h]

theorem Dev.freeBytes_fuses (d : Dev) (n : Nat) : (Dev.freeBytes d n).2.fuses = d.fuses := by
  unfold Dev.freeBytes
  repeat' first | with_reducible rfl | (intro _) | dsimp only

theorem Dev.live_fuses (d : Dev) (f : Dev → Dev) (h : (f d).fuses = d.fuses) : (d.live f).fuses = d.fuses := by
  unfold Dev.live; split <;> simp [h]

theorem Dev.given_fuses (d : Dev) (b : Bool) (f : Dev → Dev) (h : (f d).fuses = d.fuses) : (d.given b f).fuses = d.fuses := by
  unfold Dev.given; split <;> simp [h]

theorem Dev.each_fuses {α : Type} (d : Dev) (l : List α) (f : Dev → α → Dev) (h : ∀ d x, (f d x).fuses = d.fuses) : (d.each l f).fuses =
    d.fuses := by
  unfold Dev.each
  induction l generalizing d with
  | nil => rfl
  | cons a l ih => rw [List.foldl_cons, ih, h]

theorem Dev.eachWrite_fuses {α : Type} (d : Dev) (l : List α) (f : Dev → α → Option Status × Dev)
    (h_f : ∀ d x, (f d x).2.fuses = d.fuses) : (Dev.eachWrite d l f).2.fuses = d.fuses :=
  foldl_keeps (fun a : Option Status × Dev => a.2.fuses) (fun r x => (r.1 <|> (f r.2 x).1, (f r.2 x).2)) (fun _ _ => h_f _ _) l (none, d)

theorem Dev.flitOut_fuses (d : Dev) (p kind cr ak number : Nat) (payload : Bytes) : (Dev.flitOut d p kind cr ak number payload).fuses =
    d.fuses := by
  unfold Dev.flitOut
  repeat' first
    | with_reducible rfl | (with_reducible refine (Dev.emit_fuses ..).trans ?_) | (with_reducible refine (Dev.onPort_fuses ..).trans ?_)
    | (intro _) | split | dsimp only

theorem Dev.numbered_fuses (d : Dev) (p kind : Nat) (payload : Bytes) : (Dev.numbered d p kind payload).fuses = d.fuses := by
  unfold Dev.numbered
  repeat' first
    | with_reducible rfl | (with_reducible refine (Dev.flitOut_fuses ..).trans ?_)
    | (with_reducible refine (Dev.onPort_fuses ..).trans ?_) | (intro _) | dsimp only

theorem Dev.closeGroup_fuses (d : Dev) (p : Nat) : (Dev.closeGroup d p).fuses = d.fuses := by
  unfold Dev.closeGroup
  repeat' first
    | with_reducible rfl | (with_reducible refine (Dev.numbered_fuses ..).trans ?_)
    | (with_reducible refine (Dev.onPort_fuses ..).trans ?_) | (intro _) | split | dsimp only

theorem Dev.sendFlit_fuses (d : Dev) (p kind : Nat) (payload : Bytes) : (Dev.sendFlit d p kind payload).fuses = d.fuses := by
  unfold Dev.sendFlit
  repeat' first
    | with_reducible rfl | (with_reducible refine (Dev.closeGroup_fuses ..).trans ?_)
    | (with_reducible refine (Dev.numbered_fuses ..).trans ?_) | (with_reducible refine (Dev.onPort_fuses ..).trans ?_) | (intro _)
    | split | dsimp only

theorem Dev.onLink_fuses (d : Dev) (p : Nat) (f : LinkLayer → LinkLayer) : (Dev.onLink d p f).fuses = d.fuses := by
  unfold Dev.onLink
  repeat' first | with_reducible rfl | (with_reducible refine (Dev.onPort_fuses ..).trans ?_) | (intro _) | dsimp only

theorem Dev.flitsGo_fuses (p : Nat) (n : Nat) (d : Dev) : (Dev.flitsGo p n d).fuses = d.fuses := by
  induction n generalizing d with
  | zero => rfl
  | succ n ih => rw [Dev.flitsGo]; repeat' first
    | with_reducible rfl | (with_reducible refine (ih ..).trans ?_) | (with_reducible refine (Dev.onLink_fuses ..).trans ?_)
    | (with_reducible refine (Dev.sendFlit_fuses ..).trans ?_) | (intro _) | split | dsimp only

theorem Dev.flush_fuses (d : Dev) (p : Nat) : (Dev.flush d p).fuses = d.fuses := by
  unfold Dev.flush
  repeat' first | with_reducible rfl | (with_reducible refine (Dev.flitsGo_fuses ..).trans ?_) | dsimp only

theorem Dev.linkOut_fuses (d : Dev) (p : Nat) (msg : Bytes) : (Dev.linkOut d p msg).fuses = d.fuses := by
  unfold Dev.linkOut
  repeat' first
    | with_reducible rfl | (with_reducible refine (Dev.emit_fuses ..).trans ?_) | (with_reducible refine (Dev.flush_fuses ..).trans ?_)
    | (with_reducible refine (Dev.onLink_fuses ..).trans ?_) | (intro _) | dsimp only

theorem Dev.wakeCords_fuses (d : Dev) (p : Nat) : (Dev.wakeCords d p).fuses = d.fuses := by
  unfold Dev.wakeCords
  repeat' first
    | with_reducible rfl | (with_reducible refine (Dev.linkOut_fuses ..).trans ?_)
    | (with_reducible refine (Dev.onPort_fuses ..).trans ?_) | (intro _) | split | dsimp only

theorem Dev.tick_fuses (d : Dev) : d.tick.fuses = d.fuses := by
  unfold Dev.tick
  split
  · rfl
  · exact Dev.given_fuses _ _ _ rfl

theorem Dev.onFn_fuses (d : Dev) (c : Nat) (f : PcieFn → PcieFn) : (Dev.onFn d c f).fuses = d.fuses := by
  unfold Dev.onFn
  repeat' first | with_reducible rfl | dsimp only

theorem Dev.msix_fuses (d : Dev) (c v : Nat) : (Dev.msix d c v).fuses = d.fuses := by
  unfold Dev.msix
  repeat' first
    | with_reducible rfl | (with_reducible refine (Dev.emit_fuses ..).trans ?_) | (with_reducible refine (Dev.onFn_fuses ..).trans ?_)
    | (intro _) | split | dsimp only

theorem Dev.msixPending_fuses (d : Dev) (c : Nat) : (Dev.msixPending d c).fuses = d.fuses := by
  unfold Dev.msixPending
  repeat' first
    | with_reducible rfl | (with_reducible refine (Dev.each_fuses _ _ _ fun _ _ => ?_).trans ?_)
    | (with_reducible refine (Dev.emit_fuses ..).trans ?_) | (with_reducible refine (Dev.msix_fuses ..).trans ?_)
    | (with_reducible refine (Dev.onFn_fuses ..).trans ?_) | (intro _) | split | dsimp only

theorem Dev.pcieWrite_fuses (d : Dev) (c ofs : Nat) (v : Word) : (Dev.pcieWrite d c ofs v).fuses = d.fuses := by
  unfold Dev.pcieWrite
  repeat' first
    | with_reducible rfl | (with_reducible refine (Dev.msixPending_fuses ..).trans ?_)
    | (with_reducible refine (Dev.onFn_fuses ..).trans ?_) | (intro _) | split | dsimp only

theorem Dev.cause_fuses (d : Dev) (bit : Nat) : (Dev.cause d bit).fuses = d.fuses := by
  unfold Dev.cause
  repeat' first
    | with_reducible rfl | (with_reducible refine (Dev.msix_fuses ..).trans ?_) | (with_reducible refine (Dev.onErr_fuses ..).trans ?_)
    | (intro _) | split | dsimp only

theorem Dev.portChange_fuses (d : Dev) (p : Nat) (f : Dev → Dev) (h_f : ∀ d, (f d).fuses = d.fuses) : (Dev.portChange d p f).fuses =
    d.fuses := by
  unfold Dev.portChange
  repeat' first
    | with_reducible rfl | (with_reducible refine (h_f ..).trans ?_) | (with_reducible refine (Dev.cause_fuses ..).trans ?_) | split
    | dsimp only

theorem Dev.errMem_fuses (d : Dev) (kind ctx channel index va : Nat) : (d.errMem kind ctx channel index va).fuses = d.fuses := by
  unfold Dev.errMem
  rw [Dev.cause_fuses]
  split
  · rfl
  · exact Dev.onErr_fuses ..

theorem Dev.say_fuses (d : Dev) (c : Carrier) (type : Nat) (b : Bytes) : (Dev.say d c type b).fuses = d.fuses := by
  unfold Dev.say
  repeat' first
    | with_reducible rfl | (with_reducible refine (Dev.emit_fuses ..).trans ?_)
    | (with_reducible refine (Dev.given_fuses (h := ?_) ..).trans ?_) | dsimp only

theorem Dev.saySealed_fuses (d : Dev) (s : Session) (type : Nat) (b : Bytes) : (Dev.saySealed d s type b).fuses = d.fuses := by
  unfold Dev.saySealed
  repeat' first | with_reducible rfl | (with_reducible refine (Dev.say_fuses ..).trans ?_) | (intro _) | split | dsimp only

theorem Dev.answer_fuses (d : Dev) (c : Carrier) (session : Option Nat) (type : Nat) (b : Bytes) : (Dev.answer d c session type b).fuses =
    d.fuses := by
  unfold Dev.answer
  repeat' first
    | with_reducible rfl | (with_reducible refine (Dev.say_fuses ..).trans ?_) | (with_reducible refine (Dev.saySealed_fuses ..).trans ?_)
    | (intro _) | split | dsimp only

theorem Dev.mgmtReply_fuses (d : Dev) (m : Mctp) (st : Status) (l : List Word) : (Dev.mgmtReply d m st l).fuses = d.fuses := by
  unfold Dev.mgmtReply
  repeat' first | with_reducible rfl | (with_reducible refine (Dev.answer_fuses ..).trans ?_) | (intro _) | dsimp only

theorem Dev.platformEvent_fuses (d : Dev) (sensor state : Nat) : (Dev.platformEvent d sensor state).fuses = d.fuses := by
  unfold Dev.platformEvent
  repeat' first
    | with_reducible rfl | (exact Dev.receive_got (by assumption)) | (with_reducible refine (Dev.emit_fuses ..).trans ?_) | split
    | dsimp only

theorem Dev.colLevel_fuses (d : Dev) (before : Nat) : (Dev.colLevel d before).fuses = d.fuses := by
  unfold Dev.colLevel
  repeat' first | with_reducible rfl | (with_reducible refine (Dev.cause_fuses ..).trans ?_) | split | dsimp only

theorem Dev.colStamp_fuses (d : Dev) (body : Bytes) : (Dev.colStamp d body).1.fuses = d.fuses := by
  unfold Dev.colStamp
  repeat' first | with_reducible rfl | dsimp only

theorem Dev.colPutMain_fuses (d : Dev) (body : Bytes) : (Dev.colPutMain d body).fuses = d.fuses := by
  unfold Dev.colPutMain
  repeat' first
    | with_reducible rfl | (with_reducible refine (Dev.colLevel_fuses ..).trans ?_)
    | (with_reducible refine (Dev.colStamp_fuses ..).trans ?_) | dsimp only

theorem Dev.colPutReserved_fuses (d : Dev) (body : Bytes) : (Dev.colPutReserved d body).fuses = d.fuses := by
  unfold Dev.colPutReserved
  repeat' first
    | with_reducible rfl | (with_reducible refine (Dev.cause_fuses ..).trans ?_)
    | (with_reducible refine (Dev.colStamp_fuses ..).trans ?_) | dsimp only

theorem Dev.colCheckpoint_fuses (d : Dev) : (Dev.colCheckpoint d).fuses = d.fuses := by
  unfold Dev.colCheckpoint
  repeat' first
    | with_reducible rfl | (with_reducible refine (Dev.colPutMain_fuses ..).trans ?_)
    | (with_reducible refine (Dev.colPutReserved_fuses ..).trans ?_) | split | dsimp only

theorem Dev.colDue_fuses (d : Dev) : (Dev.colDue d).fuses = d.fuses := by
  unfold Dev.colDue
  repeat' first | with_reducible rfl | (with_reducible refine (Dev.colCheckpoint_fuses ..).trans ?_) | split | dsimp only

theorem Dev.owe_fuses (d : Dev) (body : Bytes) : (Dev.owe d body).fuses = d.fuses := by
  unfold Dev.owe
  repeat' first | with_reducible rfl | dsimp only

theorem Dev.log_fuses (d : Dev) (origin ctx cls obj old new detail : Nat) : (Dev.log d origin ctx cls obj old new detail).fuses = d.fuses
    := by
  unfold Dev.log
  repeat' first
    | with_reducible rfl | (with_reducible refine (Dev.colDue_fuses ..).trans ?_)
    | (with_reducible refine (Dev.colPutMain_fuses ..).trans ?_) | dsimp only

theorem Dev.logOwed_fuses (d : Dev) (origin ctx cls obj old new detail : Nat) : (Dev.logOwed d origin ctx cls obj old new detail).fuses =
    d.fuses := by
  unfold Dev.logOwed
  repeat' first
    | with_reducible rfl | (with_reducible refine (Dev.log_fuses ..).trans ?_) | (with_reducible refine (Dev.owe_fuses ..).trans ?_)
    | split | dsimp only

theorem Dev.logNext_fuses (d : Dev) (origin ctx cls obj old new detail : Nat) : (Dev.logNext d origin ctx cls obj old new detail).fuses =
    d.fuses := by
  unfold Dev.logNext
  repeat' first
    | with_reducible rfl | (with_reducible refine (Dev.colRelease_fuses ..).trans ?_)
    | (with_reducible refine (Dev.log_fuses ..).trans ?_) | dsimp only

theorem Dev.logRefused_fuses (d : Dev) : (Dev.logRefused d).fuses = d.fuses := by
  unfold Dev.logRefused
  repeat' first | with_reducible rfl | (with_reducible refine (Dev.cause_fuses ..).trans ?_) | dsimp only

theorem Dev.logSafety_fuses (d : Dev) (origin ctx cls obj old new detail : Nat) : (Dev.logSafety d origin ctx cls obj old new
    detail).fuses = d.fuses := by
  unfold Dev.logSafety
  repeat' first
    | with_reducible rfl | (with_reducible refine (Dev.colDue_fuses ..).trans ?_)
    | (with_reducible refine (Dev.colPutReserved_fuses ..).trans ?_) | (intro _) | split | dsimp only

theorem Dev.paySafety_fuses  (n : Nat) (d : Dev) : (Dev.paySafety  n d).fuses = d.fuses := by
  induction n generalizing d with
  | zero => rfl
  | succ n ih => rw [Dev.paySafety]; repeat' first
    | with_reducible rfl | (with_reducible refine (ih ..).trans ?_) | (with_reducible refine (Dev.colDue_fuses ..).trans ?_)
    | (with_reducible refine (Dev.colPutReserved_fuses ..).trans ?_) | split | dsimp only

theorem Dev.payOwed_fuses  (n : Nat) (d : Dev) : (Dev.payOwed  n d).fuses = d.fuses := by
  induction n generalizing d with
  | zero => rfl
  | succ n ih => rw [Dev.payOwed]; repeat' first
    | with_reducible rfl | (with_reducible refine (ih ..).trans ?_) | (with_reducible refine (Dev.colDue_fuses ..).trans ?_)
    | (with_reducible refine (Dev.colPutMain_fuses ..).trans ?_) | split | dsimp only

theorem Dev.flushSafety_fuses (d : Dev) : (Dev.flushSafety d).fuses = d.fuses := by
  unfold Dev.flushSafety
  repeat' first
    | with_reducible rfl | (with_reducible refine (Dev.payOwed_fuses ..).trans ?_)
    | (with_reducible refine (Dev.paySafety_fuses ..).trans ?_) | split | dsimp only

theorem Dev.refuse_fuses (d : Dev) (org : Origin) (ofs : Nat) (st : Status) : (Dev.refuse d org ofs st).fuses = d.fuses := by
  unfold Dev.refuse
  repeat' first
    | with_reducible rfl | (with_reducible refine (Dev.mgmtReply_fuses ..).trans ?_)
    | (with_reducible refine (Dev.onRegs_fuses ..).trans ?_) | (intro _) | split | dsimp only

theorem Dev.accepted_fuses (d : Dev) (org : Origin) : (Dev.accepted d org).fuses = d.fuses := by
  unfold Dev.accepted
  repeat' first | with_reducible rfl | (with_reducible refine (Dev.mgmtReply_fuses ..).trans ?_) | split | dsimp only

theorem Dev.logged_fuses (d : Dev) (org : Origin) (ofs : Nat) (ctx cls obj old new detail : Nat) (make : Dev → Dev) (h_make : ∀ d, (make
    d).fuses = d.fuses) : (Dev.logged d org ofs ctx cls obj old new detail make).fuses = d.fuses := by
  unfold Dev.logged
  repeat' first
    | with_reducible rfl | (with_reducible refine (h_make ..).trans ?_) | (with_reducible refine (Dev.accepted_fuses ..).trans ?_)
    | (with_reducible refine (Dev.log_fuses ..).trans ?_) | (with_reducible refine (Dev.logRefused_fuses ..).trans ?_)
    | (with_reducible refine (Dev.refuse_fuses ..).trans ?_) | split | dsimp only

theorem Dev.loggedAll_fuses (d : Dev) (org : Origin) (ofs n : Nat) (make : Dev → Dev) (h_make : ∀ d, (make d).fuses = d.fuses) :
    (Dev.loggedAll d org ofs n make).fuses = d.fuses := by
  unfold Dev.loggedAll
  repeat' first
    | with_reducible rfl | (with_reducible refine (h_make ..).trans ?_) | (with_reducible refine (Dev.accepted_fuses ..).trans ?_)
    | (with_reducible refine (Dev.colReserve_fuses ..).trans ?_) | (with_reducible refine (Dev.logRefused_fuses ..).trans ?_)
    | (with_reducible refine (Dev.refuse_fuses ..).trans ?_) | split | dsimp only

theorem Dev.loggedReg_fuses (d : Dev) (org : Origin) (ofs old new : Nat) (make : Dev → Dev)
    (h : ∀ d, (make d).fuses = d.fuses) : (d.loggedReg org ofs old new make).fuses = d.fuses := Dev.logged_fuses _ _ _ _ _ _ _ _ _ _ h

theorem Dev.bufPut_fuses (d : Dev) (c ofs : Nat) (b : Bytes) (m : Option Status) : (Dev.bufPut d c ofs b m).fuses = d.fuses := by
  unfold Dev.bufPut
  repeat' first | with_reducible rfl | (with_reducible refine (Dev.onCore_fuses ..).trans ?_) | (intro _) | dsimp only

theorem Dev.memGet_fuses (d : Dev) (c va n : Nat) : (Dev.memGet d c va n).2.2.fuses = d.fuses := by
  unfold Dev.memGet
  repeat' first
    | with_reducible rfl | (with_reducible refine (Dev.errMem_fuses ..).trans ?_) | (with_reducible refine (Dev.onMem_fuses ..).trans ?_)
    | (with_reducible refine (foldl_keeps (fun a : _ × Dev => a.2.fuses) _ (fun _ _ => ?_) _ _).trans ?_)
    | (with_reducible refine (foldl_keeps (fun a : _ × _ × Dev => a.2.2.fuses) _ (fun _ _ => ?_) _ _).trans ?_)
    | (with_reducible refine (foldl_keeps (fun a : Dev × _ => a.1.fuses) _ (fun _ _ => ?_) _ _).trans ?_)
    | (with_reducible refine (foldl_keeps (fun a : Dev => a.fuses) _ (fun _ _ => ?_) _ _).trans ?_) | (intro _) | split | dsimp only

theorem Dev.putSector_fuses (d : Dev) (c va : Nat) (b : Bytes) (m : Option Status) : (Dev.putSector d c va b m).fuses = d.fuses := by
  unfold Dev.putSector
  repeat' first | with_reducible rfl | (with_reducible refine (Dev.onMem_fuses ..).trans ?_) | (intro _) | split | dsimp only

theorem Dev.rawPut_fuses (d : Dev) (c va : Nat) (b : Bytes) (m : Option Status) : (d.rawPut c va b m).fuses = d.fuses :=
  Dev.each_fuses _ _ _ fun d _ => Dev.putSector_fuses d _ _ _ _

theorem Dev.slotPut_fuses (d : Dev) (c va : Nat) (b : Bytes) (m : Option Status) : (Dev.slotPut d c va b m).2.fuses = d.fuses := by
  unfold Dev.slotPut
  repeat' first
    | with_reducible rfl | (with_reducible refine (Dev.each_fuses _ _ _ fun _ _ => ?_).trans ?_)
    | (with_reducible refine (Dev.errMem_fuses ..).trans ?_) | (with_reducible refine (Dev.freeBytes_fuses ..).trans ?_)
    | (with_reducible refine (Dev.onMem_fuses ..).trans ?_) | (with_reducible refine (Dev.putSector_fuses ..).trans ?_)
    | (with_reducible refine (Dev.rawPut_fuses ..).trans ?_)
    | (with_reducible refine (foldl_keeps (fun a : _ × Dev => a.2.fuses) _ (fun _ _ => ?_) _ _).trans ?_)
    | (with_reducible refine (foldl_keeps (fun a : _ × _ × Dev => a.2.2.fuses) _ (fun _ _ => ?_) _ _).trans ?_)
    | (with_reducible refine (foldl_keeps (fun a : Dev × _ => a.1.fuses) _ (fun _ _ => ?_) _ _).trans ?_)
    | (with_reducible refine (foldl_keeps (fun a : Dev => a.fuses) _ (fun _ _ => ?_) _ _).trans ?_) | (intro _) | split | dsimp only

theorem Dev.memPut_fuses (d : Dev) (c va : Nat) (b : Bytes) (m : Option Status) : (Dev.memPut d c va b m).2.fuses = d.fuses := by
  unfold Dev.memPut
  repeat' first
    | with_reducible rfl | (with_reducible refine (Dev.errMem_fuses ..).trans ?_)
    | (with_reducible refine (Dev.slotPut_fuses ..).trans ?_) | split | dsimp only

theorem Dev.mapPages_fuses (d : Dev) (c page : Nat) (cxl write : Bool) (ed : Option Nat) (l : List Nat) :
    (d.mapPages c page cxl write ed l).fuses = d.fuses := by
  induction l generalizing d page with
  | nil => rfl
  | cons f fs ih => simp [Dev.mapPages, ih]

theorem Dev.unmapPage_fuses (d : Dev) (c page : Nat) : (Dev.unmapPage d c page).fuses = d.fuses := by
  unfold Dev.unmapPage
  repeat' first
    | with_reducible rfl | (with_reducible refine (Dev.onCtx_fuses ..).trans ?_) | (with_reducible refine (Dev.onMem_fuses ..).trans ?_)
    | (intro _) | split | dsimp only

theorem Dev.clearFrame_fuses (d : Dev) (cxl : Bool) (f : Nat) : (Dev.clearFrame d cxl f).fuses = d.fuses := by
  unfold Dev.clearFrame
  repeat' first | with_reducible rfl | (with_reducible refine (Dev.onMem_fuses ..).trans ?_) | (intro _) | split | dsimp only

theorem Dev.onJob_fuses (d : Dev) (no : Nat) (f : Job → Job) : (Dev.onJob d no f).fuses = d.fuses := by
  unfold Dev.onJob
  repeat' first | with_reducible rfl | (with_reducible refine (Dev.onWork_fuses ..).trans ?_) | (intro _) | split | dsimp only

theorem Dev.colFree_fuses (d : Dev) (seqs : List Nat) : (Dev.colFree d seqs).fuses = d.fuses := by
  unfold Dev.colFree
  repeat' first | with_reducible rfl | (with_reducible refine (Dev.flushSafety_fuses ..).trans ?_) | (intro _) | dsimp only

theorem Dev.colDelivered_fuses (d : Dev) (key : Nat) : (Dev.colDelivered d key).fuses = d.fuses := by
  unfold Dev.colDelivered
  repeat' first | with_reducible rfl | (with_reducible refine (Dev.colFree_fuses ..).trans ?_) | dsimp only

theorem Dev.ringSignal_fuses (d : Dev) (c r : Nat) : (Dev.ringSignal d c r).fuses = d.fuses := by
  unfold Dev.ringSignal
  repeat' first
    | with_reducible rfl | (with_reducible refine (Dev.msix_fuses ..).trans ?_) | (with_reducible refine (Dev.onRing_fuses ..).trans ?_)
    | (intro _) | dsimp only

theorem Dev.ringModerate_fuses (d : Dev) (c r : Nat) (irq : Bool) : (Dev.ringModerate d c r irq).fuses = d.fuses := by
  unfold Dev.ringModerate
  repeat' first
    | with_reducible rfl | (with_reducible refine (Dev.onRing_fuses ..).trans ?_)
    | (with_reducible refine (Dev.ringSignal_fuses ..).trans ?_) | (intro _) | split | dsimp only

theorem Dev.ringWrite_fuses (d : Dev) (c r : Nat) (h : HeldRec) : (Dev.ringWrite d c r h).fuses = d.fuses := by
  unfold Dev.ringWrite
  repeat' first
    | with_reducible rfl | (with_reducible refine (Dev.colDelivered_fuses ..).trans ?_)
    | (with_reducible refine (Dev.emit_fuses ..).trans ?_) | (with_reducible refine (Dev.onCtx_fuses ..).trans ?_)
    | (with_reducible refine (Dev.onErr_fuses ..).trans ?_) | (with_reducible refine (Dev.onRing_fuses ..).trans ?_)
    | (with_reducible refine (Dev.ringModerate_fuses ..).trans ?_) | (intro _) | split | dsimp only

theorem Dev.flushRing_fuses (c r : Nat) (n : Nat) (d : Dev) : (Dev.flushRing c r n d).fuses = d.fuses := by
  induction n generalizing d with
  | zero => rfl
  | succ n ih => rw [Dev.flushRing]; repeat' first
    | with_reducible rfl | (with_reducible refine (ih ..).trans ?_) | (with_reducible refine (Dev.ringWrite_fuses ..).trans ?_) | split
    | dsimp only

theorem Dev.drainRing_fuses (d : Dev) (c r : Nat) : (Dev.drainRing d c r).fuses = d.fuses := by
  unfold Dev.drainRing
  repeat' first | with_reducible rfl | (with_reducible refine (Dev.flushRing_fuses ..).trans ?_) | dsimp only

theorem Dev.busyCheck_fuses (d : Dev) (c : Nat) : (Dev.busyCheck d c).fuses = d.fuses := by
  unfold Dev.busyCheck
  repeat' first | with_reducible rfl | (with_reducible refine (Dev.onRegs_fuses ..).trans ?_) | (intro _) | split | dsimp only

theorem Dev.drainRings_fuses (d : Dev) : (Dev.drainRings d).fuses = d.fuses := by
  unfold Dev.drainRings
  repeat' first
    | with_reducible rfl | (with_reducible refine (Dev.busyCheck_fuses ..).trans ?_)
    | (with_reducible refine (Dev.drainRing_fuses ..).trans ?_) | (with_reducible refine (Dev.each_fuses _ _ _ fun _ _ => ?_).trans ?_)
    | (intro _) | dsimp only

theorem Dev.postRecord_fuses (d : Dev) (c r : Nat) (desc : Bytes) (st : Status) (result vmin vmax info drain : Nat) (item run : Option
    Nat) : (Dev.postRecord d c r desc st result vmin vmax info drain item run).fuses = d.fuses := by
  unfold Dev.postRecord
  repeat' first
    | with_reducible rfl | (with_reducible refine (Dev.busyCheck_fuses ..).trans ?_)
    | (with_reducible refine (Dev.drainRing_fuses ..).trans ?_) | (with_reducible refine (Dev.onRing_fuses ..).trans ?_) | (intro _)
    | split | dsimp only

theorem Dev.settle_fuses (d : Dev) (j : Job) (st : Status) (result drain : Nat) : (Dev.settle d j st result drain).fuses = d.fuses := by
  unfold Dev.settle
  repeat' first
    | with_reducible rfl | (with_reducible refine (Dev.colRelease_fuses ..).trans ?_)
    | (with_reducible refine (Dev.onWork_fuses ..).trans ?_) | (with_reducible refine (Dev.postRecord_fuses ..).trans ?_) | (intro _)
    | split | dsimp only

theorem Dev.finishRuns_fuses (d : Dev) : (Dev.finishRuns d).fuses = d.fuses := by
  unfold Dev.finishRuns
  repeat' first
    | with_reducible rfl | (with_reducible refine (Dev.each_fuses _ _ _ fun _ _ => ?_).trans ?_)
    | (with_reducible refine (Dev.settle_fuses ..).trans ?_) | (intro _) | split | dsimp only

theorem Dev.failJob_fuses (d : Dev) (j : Job) (st : Status) : (Dev.failJob d j st).fuses = d.fuses := by
  unfold Dev.failJob
  repeat' first
    | with_reducible rfl | (with_reducible refine (Dev.finishRuns_fuses ..).trans ?_)
    | (with_reducible refine (Dev.settle_fuses ..).trans ?_) | dsimp only

theorem Dev.failEntries_fuses (d : Dev) (es : List Nat) (st : Status) : (Dev.failEntries d es st).fuses = d.fuses := by
  unfold Dev.failEntries
  repeat' first
    | with_reducible rfl | (with_reducible refine (Dev.each_fuses _ _ _ fun _ _ => ?_).trans ?_)
    | (with_reducible refine (Dev.failJob_fuses ..).trans ?_) | (intro _) | split | dsimp only

theorem Dev.failOwners_fuses (d : Dev) (st : Status) : (Dev.failOwners d st).fuses = d.fuses := by
  unfold Dev.failOwners
  repeat' first | with_reducible rfl | (with_reducible refine (Dev.failEntries_fuses ..).trans ?_) | dsimp only

theorem Dev.flagEntries_fuses (d : Dev) (es : List Nat) : (Dev.flagEntries d es).fuses = d.fuses := by
  unfold Dev.flagEntries
  repeat' first
    | with_reducible rfl | (with_reducible refine (Dev.each_fuses _ _ _ fun _ _ => ?_).trans ?_)
    | (with_reducible refine (Dev.onJob_fuses ..).trans ?_) | (intro _) | split | dsimp only

theorem Dev.packetsGo_fuses (p : Nat) (circ : Bool) (n : Nat) (d : Dev) : (Dev.packetsGo p circ n d).fuses = d.fuses := by
  induction n generalizing d with
  | zero => rfl
  | succ n ih => rw [Dev.packetsGo]; repeat' first
    | with_reducible rfl | (with_reducible refine (ih ..).trans ?_) | (with_reducible refine (Dev.emit_fuses ..).trans ?_)
    | (with_reducible refine (Dev.onLink_fuses ..).trans ?_) | (intro _) | split | dsimp only

theorem Dev.channelGo_fuses (d : Dev) (p : Nat) (circ : Bool) : (Dev.channelGo d p circ).fuses = d.fuses := by
  unfold Dev.channelGo
  repeat' first
    | with_reducible rfl | (with_reducible refine (Dev.flush_fuses ..).trans ?_)
    | (with_reducible refine (Dev.packetsGo_fuses ..).trans ?_) | (with_reducible refine (Dev.wakeCords_fuses ..).trans ?_)
    | (with_reducible refine (foldl_keeps (fun a : _ × Dev => a.2.fuses) _ (fun _ _ => ?_) _ _).trans ?_)
    | (with_reducible refine (foldl_keeps (fun a : _ × _ × Dev => a.2.2.fuses) _ (fun _ _ => ?_) _ _).trans ?_)
    | (with_reducible refine (foldl_keeps (fun a : Dev × _ => a.1.fuses) _ (fun _ _ => ?_) _ _).trans ?_)
    | (with_reducible refine (foldl_keeps (fun a : Dev => a.fuses) _ (fun _ _ => ?_) _ _).trans ?_) | (intro _) | split | dsimp only

theorem Dev.touchPeak_fuses (d : Dev) : (Dev.touchPeak d).fuses = d.fuses := by
  unfold Dev.touchPeak
  repeat' first | with_reducible rfl | (with_reducible refine (Dev.onCirc_fuses ..).trans ?_) | (intro _) | dsimp only

theorem Dev.packetOn_fuses (d : Dev) (src p : Nat) (b : Bytes) : (Dev.packetOn d src p b).fuses = d.fuses := by
  unfold Dev.packetOn
  repeat' first
    | with_reducible rfl | (with_reducible refine (Dev.channelGo_fuses ..).trans ?_)
    | (with_reducible refine (Dev.onLink_fuses ..).trans ?_) | (with_reducible refine (Dev.touchPeak_fuses ..).trans ?_) | (intro _)
    | split | dsimp only

theorem Dev.crossed_fuses (d : Dev) (x : Crossing) : (Dev.crossed d x).fuses = d.fuses := by
  unfold Dev.crossed
  repeat' first
    | with_reducible rfl | (with_reducible refine (Dev.each_fuses _ _ _ fun _ _ => ?_).trans ?_)
    | (with_reducible refine (Dev.onCirc_fuses ..).trans ?_) | (with_reducible refine (Dev.packetOn_fuses ..).trans ?_) | (intro _)
    | dsimp only

theorem Dev.spineGo_fuses  (n : Nat) (d : Dev) : (Dev.spineGo  n d).fuses = d.fuses := by
  induction n generalizing d with
  | zero => rfl
  | succ n ih => rw [Dev.spineGo]; repeat' first
    | with_reducible rfl | (with_reducible refine (ih ..).trans ?_) | (with_reducible refine (Dev.crossed_fuses ..).trans ?_) | split
    | dsimp only

theorem Dev.spine_fuses (d : Dev) : (Dev.spine d).fuses = d.fuses := by
  unfold Dev.spine
  repeat' first | with_reducible rfl | (with_reducible refine (Dev.spineGo_fuses ..).trans ?_) | dsimp only

theorem Dev.cross_fuses (d : Dev) (x : Crossing) : (Dev.cross d x).fuses = d.fuses := by
  unfold Dev.cross
  repeat' first
    | with_reducible rfl | (with_reducible refine (Dev.onCirc_fuses ..).trans ?_) | (with_reducible refine (Dev.spine_fuses ..).trans ?_)
    | (with_reducible refine (Dev.touchPeak_fuses ..).trans ?_) | (intro _) | dsimp only

theorem Dev.spread_fuses (d : Dev) (src : Nat) (b : Bytes) (copies : List (Nat × Bytes)) (both : Bool) : (Dev.spread d src b copies
    both).fuses = d.fuses := by
  unfold Dev.spread
  repeat' first
    | with_reducible rfl | (with_reducible refine (Dev.cross_fuses ..).trans ?_)
    | (with_reducible refine (Dev.each_fuses _ _ _ fun _ _ => ?_).trans ?_) | (with_reducible refine (Dev.packetOn_fuses ..).trans ?_)
    | (intro _) | split | dsimp only

theorem Dev.packetPass_fuses (d : Dev) (src p : Nat) (b : Bytes) : (Dev.packetPass d src p b).fuses = d.fuses := by
  unfold Dev.packetPass
  repeat' first
    | with_reducible rfl | (with_reducible refine (Dev.cross_fuses ..).trans ?_)
    | (with_reducible refine (Dev.packetOn_fuses ..).trans ?_) | split | dsimp only

theorem Dev.packetOut_fuses (d : Dev) (p : Nat) (b : Bytes) : (Dev.packetOut d p b).fuses = d.fuses := by
  unfold Dev.packetOut
  repeat' first | with_reducible rfl | (with_reducible refine (Dev.packetOn_fuses ..).trans ?_) | dsimp only

theorem Dev.sendTo_fuses (d : Dev) (src axis : Nat) (plus : Bool) (cls tag : Nat) (b : Bytes) : (Dev.sendTo d src axis plus cls tag
    b).fuses = d.fuses := by
  unfold Dev.sendTo
  repeat' first | with_reducible rfl | (with_reducible refine (Dev.packetPass_fuses ..).trans ?_) | split | dsimp only

theorem Dev.onKeep_fuses (d : Dev) (c : Nat) (arrays : List Nat) (rows : Nat → Nat) (f : Nat → KeepWarm → KeepWarm) : (Dev.onKeep d c
    arrays rows f).fuses = d.fuses := by
  unfold Dev.onKeep
  repeat' first
    | with_reducible rfl | (with_reducible refine (Dev.onCore_fuses ..).trans ?_)
    | (with_reducible refine (foldl_keeps (fun a : _ × Dev => a.2.fuses) _ (fun _ _ => ?_) _ _).trans ?_)
    | (with_reducible refine (foldl_keeps (fun a : _ × _ × Dev => a.2.2.fuses) _ (fun _ _ => ?_) _ _).trans ?_)
    | (with_reducible refine (foldl_keeps (fun a : Dev × _ => a.1.fuses) _ (fun _ _ => ?_) _ _).trans ?_)
    | (with_reducible refine (foldl_keeps (fun a : Dev => a.fuses) _ (fun _ _ => ?_) _ _).trans ?_) | (intro _) | dsimp only

theorem Dev.keepBlock_fuses (d : Dev) (c mask gap len : Nat) (runs : List Nat) : (Dev.keepBlock d c mask gap len runs).fuses = d.fuses := by
  unfold Dev.keepBlock
  repeat' first
    | with_reducible rfl | (with_reducible refine (Dev.onKeep_fuses ..).trans ?_)
    | (with_reducible refine (foldl_keeps (fun a : _ × Dev => a.2.fuses) _ (fun _ _ => ?_) _ _).trans ?_)
    | (with_reducible refine (foldl_keeps (fun a : _ × _ × Dev => a.2.2.fuses) _ (fun _ _ => ?_) _ _).trans ?_)
    | (with_reducible refine (foldl_keeps (fun a : Dev × _ => a.1.fuses) _ (fun _ _ => ?_) _ _).trans ?_)
    | (with_reducible refine (foldl_keeps (fun a : Dev => a.fuses) _ (fun _ _ => ?_) _ _).trans ?_) | (intro _) | split | dsimp only

theorem Dev.keepDown_fuses (d : Dev) (c : Nat) (due : KeepWarm → Bool) (slots : KeepWarm → Nat) : (Dev.keepDown d c due slots).fuses =
    d.fuses := by
  unfold Dev.keepDown
  repeat' first
    | with_reducible rfl | (with_reducible refine (Dev.onKeep_fuses ..).trans ?_) | (with_reducible refine (Dev.reach_fuses ..).trans ?_)
    | (with_reducible refine (foldl_keeps (fun a : _ × Dev => a.2.fuses) _ (fun _ _ => ?_) _ _).trans ?_)
    | (with_reducible refine (foldl_keeps (fun a : _ × _ × Dev => a.2.2.fuses) _ (fun _ _ => ?_) _ _).trans ?_)
    | (with_reducible refine (foldl_keeps (fun a : Dev × _ => a.1.fuses) _ (fun _ _ => ?_) _ _).trans ?_)
    | (with_reducible refine (foldl_keeps (fun a : Dev => a.fuses) _ (fun _ _ => ?_) _ _).trans ?_) | (intro _) | split | dsimp only

theorem Dev.keepTimeout_fuses (d : Dev) (c slots : Nat) : (Dev.keepTimeout d c slots).fuses = d.fuses := by
  unfold Dev.keepTimeout
  repeat' first | with_reducible rfl | (with_reducible refine (Dev.keepDown_fuses ..).trans ?_) | (intro _) | dsimp only

theorem Dev.keepStep_fuses (d : Dev) (c : Nat) : (Dev.keepStep d c).fuses = d.fuses := by
  unfold Dev.keepStep
  repeat' first | with_reducible rfl | (with_reducible refine (Dev.keepDown_fuses ..).trans ?_) | (intro _) | dsimp only

theorem Dev.keepCore_fuses (d : Dev) (c : Nat) : (Dev.keepCore d c).fuses = d.fuses := by
  unfold Dev.keepCore
  repeat' first | with_reducible rfl | (with_reducible refine (Dev.onKeep_fuses ..).trans ?_) | (intro _) | split | dsimp only

theorem Dev.keepCount_fuses (d : Dev) : (Dev.keepCount d).fuses = d.fuses := by
  unfold Dev.keepCount
  repeat' first
    | with_reducible rfl | (with_reducible refine (Dev.each_fuses _ _ _ fun _ _ => ?_).trans ?_)
    | (with_reducible refine (Dev.keepCore_fuses ..).trans ?_) | dsimp only

theorem Dev.keepStandOff_fuses (d : Dev) (c : Nat) : (Dev.keepStandOff d c).fuses = d.fuses := by
  unfold Dev.keepStandOff
  repeat' first | with_reducible rfl | (with_reducible refine (Dev.onKeep_fuses ..).trans ?_) | (intro _) | split | dsimp only

theorem Dev.sliceDrop_fuses (d : Dev) (cls port slice src : Nat) : (d.sliceDrop cls port slice src).fuses = d.fuses := by
  unfold Dev.sliceDrop
  dsimp only
  split
  · rfl
  · rw [Dev.cause_fuses, Dev.onErr_fuses]

theorem Dev.sendBoardBy_fuses (d : Dev) (port : Option Nat) (m cls tag : Nat) (b : Bytes) : (Dev.sendBoardBy d port m cls tag b).2.fuses =
    d.fuses := by
  unfold Dev.sendBoardBy
  repeat' first
    | with_reducible rfl | (with_reducible refine (Dev.packetOut_fuses ..).trans ?_)
    | (with_reducible refine (Dev.sliceDrop_fuses ..).trans ?_) | split | dsimp only

theorem Dev.sendBoard_fuses (d : Dev) (m cls tag : Nat) (b : Bytes) : (Dev.sendBoard d m cls tag b).2.fuses = d.fuses := by
  unfold Dev.sendBoard
  repeat' first | with_reducible rfl | (with_reducible refine (Dev.sendBoardBy_fuses ..).trans ?_) | dsimp only

theorem Dev.launchControl_fuses (d : Dev) (src got1 : Nat) (b : Bytes) : (Dev.launchControl d src got1 b).fuses = d.fuses := by
  unfold Dev.launchControl
  repeat' first
    | with_reducible rfl | (with_reducible refine (Dev.each_fuses _ _ _ fun _ _ => ?_).trans ?_)
    | (with_reducible refine (Dev.sendTo_fuses ..).trans ?_) | (intro _) | dsimp only

theorem Dev.idleCores_fuses (d : Dev) : (Dev.idleCores d).fuses = d.fuses := by
  unfold Dev.idleCores
  repeat' first
    | with_reducible rfl | (with_reducible refine (Dev.each_fuses _ _ _ fun _ _ => ?_).trans ?_)
    | (with_reducible refine (Dev.onCore_fuses ..).trans ?_) | (intro _) | dsimp only

theorem Dev.stopCores_fuses (d : Dev) (runNo : Nat) : (Dev.stopCores d runNo).fuses = d.fuses := by
  unfold Dev.stopCores
  simp only [↓Dev.ite_fuses, ite_self, ↓Dev.cross_fuses, ↓Dev.idleCores_fuses]

theorem Dev.keepSpan_fuses (d : Dev) : (Dev.keepSpan d).fuses = d.fuses := by
  unfold Dev.keepSpan
  repeat' first | with_reducible rfl | (with_reducible refine (Dev.onPwr_fuses ..).trans ?_) | (intro _) | dsimp only

theorem Dev.stopRun_fuses (d : Dev) (st : Status) : (Dev.stopRun d st).fuses = d.fuses := by
  unfold Dev.stopRun
  repeat' first
    | with_reducible rfl | (with_reducible refine (Dev.each_fuses _ _ _ fun _ _ => ?_).trans ?_)
    | (with_reducible refine (Dev.failJob_fuses ..).trans ?_) | (with_reducible refine (Dev.finishRuns_fuses ..).trans ?_)
    | (with_reducible refine (Dev.keepCount_fuses ..).trans ?_) | (with_reducible refine (Dev.keepSpan_fuses ..).trans ?_)
    | (with_reducible refine (Dev.onJob_fuses ..).trans ?_) | (with_reducible refine (Dev.onWork_fuses ..).trans ?_)
    | (with_reducible refine (Dev.stopCores_fuses ..).trans ?_) | (intro _) | split | dsimp only

theorem Dev.endRun_fuses (d : Dev) (st : Status) : (Dev.endRun d st).fuses = d.fuses := by
  unfold Dev.endRun
  repeat' first
    | with_reducible rfl | (with_reducible refine (Dev.launchControl_fuses ..).trans ?_)
    | (with_reducible refine (Dev.stopRun_fuses ..).trans ?_) | split | dsimp only

theorem Dev.abortEnded_fuses (d : Dev) (no : Nat) (st : Status) : (Dev.abortEnded d no st).fuses = d.fuses := by
  unfold Dev.abortEnded
  repeat' first
    | with_reducible rfl | (with_reducible refine (Dev.each_fuses _ _ _ fun _ _ => ?_).trans ?_)
    | (with_reducible refine (Dev.failJob_fuses ..).trans ?_) | (with_reducible refine (Dev.finishRuns_fuses ..).trans ?_)
    | (with_reducible refine (Dev.onJob_fuses ..).trans ?_) | (intro _) | split | dsimp only

theorem Dev.failAllItems_fuses (d : Dev) (st : Status) : (Dev.failAllItems d st).fuses = d.fuses := by
  unfold Dev.failAllItems
  repeat' first
    | with_reducible rfl | (with_reducible refine (Dev.each_fuses _ _ _ fun _ _ => ?_).trans ?_)
    | (with_reducible refine (Dev.failJob_fuses ..).trans ?_) | (intro _) | dsimp only

theorem Dev.foundOne_fuses (d : Dev) (f : Found) : (d.foundOne f).fuses = d.fuses := by
  unfold Dev.foundOne
  split
  all_goals first
    | rfl
    | (split; exact (Dev.errMem_fuses ..).trans rfl)
    | (dsimp only; exact (Dev.errMem_fuses ..).trans rfl)
    | skip

theorem Dev.foundAll_fuses (d : Dev) (l : List Found) : (Dev.foundAll d l).fuses = d.fuses := by
  unfold Dev.foundAll
  repeat' first
    | with_reducible rfl | (with_reducible refine (Dev.each_fuses _ _ _ fun _ _ => ?_).trans ?_)
    | (with_reducible refine (Dev.foundOne_fuses ..).trans ?_) | dsimp only

theorem Dev.onWord_fuses (d : Dev) (w : Nat) (f : SyncWord → SyncWord) : (Dev.onWord d w f).fuses = d.fuses := by
  unfold Dev.onWord
  repeat' first | with_reducible rfl | dsimp only

theorem Dev.feRelease_fuses (d : Dev) (c no : Nat) : (Dev.feRelease d c no).fuses = d.fuses := by
  unfold Dev.feRelease
  repeat' first | with_reducible rfl | (with_reducible refine (Dev.onCore_fuses ..).trans ?_) | (intro _) | split | dsimp only

theorem Dev.syncDone_fuses (d : Dev) (r : SyncReq) : (Dev.syncDone d r).1.fuses = d.fuses := by
  unfold Dev.syncDone
  repeat' first
    | with_reducible rfl | (with_reducible refine (Dev.feRelease_fuses ..).trans ?_)
    | (with_reducible refine (Dev.sendBoard_fuses ..).trans ?_) | (intro _) | split | dsimp only

theorem Dev.syncFailed_fuses (d : Dev) (r : SyncReq) (st : Status) : (Dev.syncFailed d r st).1.fuses = d.fuses := by
  unfold Dev.syncFailed
  repeat' first
    | with_reducible rfl | (with_reducible refine (Dev.failOwners_fuses ..).trans ?_)
    | (with_reducible refine (Dev.sendBoard_fuses ..).trans ?_) | (with_reducible refine (Dev.syncDone_fuses ..).trans ?_) | split
    | dsimp only

theorem Dev.syncAt_fuses (d : Dev) (w : Nat) (r : SyncReq) : (Dev.syncAt d w r).1.fuses = d.fuses := by
  unfold Dev.syncAt
  repeat' first
    | with_reducible rfl | (with_reducible refine (Dev.errMem_fuses ..).trans ?_) | (with_reducible refine (Dev.onWord_fuses ..).trans ?_)
    | (intro _) | split | dsimp only

theorem Dev.syncCross_fuses (d : Dev) (w : Nat) (r : SyncReq) : (Dev.syncCross d w r).fuses = d.fuses := by
  unfold Dev.syncCross
  repeat' first | with_reducible rfl | split | dsimp only

theorem Dev.syncRun_fuses (n : Nat) (l : List (Nat × SyncReq)) (d : Dev) : (Dev.syncRun n l d).fuses = d.fuses := by
  induction n generalizing l d with
  | zero => rfl
  | succ n ih =>
    match l with
    | [] => rfl
    | (w, r) :: rest =>
      rw [Dev.syncRun]
      refine (ih ..).trans ?_
      refine (foldl_keeps (fun a : Dev × List (Nat × SyncReq) => a.1.fuses) _ (fun a q => ?_) _ _).trans ?_
      · dsimp only; split
        · exact Dev.syncFailed_fuses ..
        · split
          · exact Dev.syncFailed_fuses ..
          · exact (Dev.syncCross_fuses ..).trans (Dev.syncFailed_fuses ..)
      refine (foldl_keeps (fun a : Dev × List (Nat × SyncReq) => a.1.fuses) _ (fun a q => ?_) _ _).trans ?_
      · dsimp only; split
        · exact Dev.syncDone_fuses ..
        · split
          · exact Dev.syncDone_fuses ..
          · exact (Dev.syncCross_fuses ..).trans (Dev.syncDone_fuses ..)
      exact Dev.syncAt_fuses ..

theorem Dev.syncArrive_fuses (d : Dev) (w : Nat) (r : SyncReq) : (Dev.syncArrive d w r).fuses = d.fuses := by
  unfold Dev.syncArrive
  repeat' first | with_reducible rfl | (with_reducible refine (Dev.syncRun_fuses ..).trans ?_) | dsimp only

theorem Dev.syncIssue_fuses (d : Dev) (leaf w : Nat) (r : SyncReq) : (Dev.syncIssue d leaf w r).fuses = d.fuses := by
  unfold Dev.syncIssue
  repeat' first
    | with_reducible rfl | (with_reducible refine (Dev.syncArrive_fuses ..).trans ?_)
    | (with_reducible refine (Dev.syncCross_fuses ..).trans ?_) | split | dsimp only

theorem Dev.signal_fuses (d : Dev) (c v : Nat) : (Dev.signal d c v).fuses = d.fuses := by
  unfold Dev.signal
  repeat' first | with_reducible rfl | (with_reducible refine (Dev.syncIssue_fuses ..).trans ?_) | split | dsimp only

theorem Dev.arrivalSignal_fuses (d : Dev) (v : Nat) : (Dev.arrivalSignal d v).fuses = d.fuses := by
  unfold Dev.arrivalSignal
  repeat' first | with_reducible rfl | (with_reducible refine (Dev.syncArrive_fuses ..).trans ?_) | split | dsimp only

theorem Dev.syncBad_fuses (d : Dev) (w : Nat) : (Dev.syncBad d w).fuses = d.fuses := by
  unfold Dev.syncBad
  repeat' first
    | with_reducible rfl | (with_reducible refine (Dev.each_fuses _ _ _ fun _ _ => ?_).trans ?_)
    | (with_reducible refine (Dev.errMem_fuses ..).trans ?_) | (with_reducible refine (Dev.onWord_fuses ..).trans ?_)
    | (with_reducible refine (Dev.syncFailed_fuses ..).trans ?_) | (with_reducible refine (Dev.syncIssue_fuses ..).trans ?_) | (intro _)
    | split | dsimp only

theorem Dev.found_fuses (d : Dev) (l : List Found) : (Dev.found d l).fuses = d.fuses := by
  unfold Dev.found
  repeat' first
    | with_reducible rfl | (with_reducible refine (Dev.each_fuses _ _ _ fun _ _ => ?_).trans ?_)
    | (with_reducible refine (Dev.foundAll_fuses ..).trans ?_) | (with_reducible refine (Dev.syncBad_fuses ..).trans ?_) | (intro _)
    | split | dsimp only

theorem Dev.syncClearRange_fuses (d : Dev) (c : Nat) : (Dev.syncClearRange d c).fuses = d.fuses := by
  unfold Dev.syncClearRange
  repeat' first
    | with_reducible rfl | (with_reducible refine (Dev.each_fuses _ _ _ fun _ _ => ?_).trans ?_)
    | (with_reducible refine (Dev.syncFailed_fuses ..).trans ?_) | (intro _) | dsimp only

theorem Dev.spineArrive_fuses (d : Dev) (leaf : Nat) : (Dev.spineArrive d leaf).fuses = d.fuses := by
  unfold Dev.spineArrive
  repeat' first | with_reducible rfl | (with_reducible refine (Dev.syncArrive_fuses ..).trans ?_) | split | dsimp only

theorem Dev.boardSync_fuses (d : Dev) (m tag c v : Nat) (op : SyncOp) (ge : Bool) (imm : Dword) : (Dev.boardSync d m tag c v op ge
    imm).fuses = d.fuses := by
  unfold Dev.boardSync
  repeat' first
    | with_reducible rfl | (with_reducible refine (Dev.sendBoard_fuses ..).trans ?_)
    | (with_reducible refine (Dev.syncArrive_fuses ..).trans ?_) | (with_reducible refine (Dev.syncFailed_fuses ..).trans ?_) | split
    | dsimp only

theorem Dev.represent_fuses (d : Dev) (leaf : Nat) : (Dev.represent d leaf).fuses = d.fuses := by
  unfold Dev.represent
  repeat' first | with_reducible rfl | (with_reducible refine (Dev.syncArrive_fuses ..).trans ?_) | (intro _) | split | dsimp only

theorem Dev.stallRecord_fuses (d : Dev) (kind unit core ctx object : Nat) : (Dev.stallRecord d kind unit core ctx object).fuses = d.fuses
    := by
  unfold Dev.stallRecord
  repeat' first
    | with_reducible rfl | (with_reducible refine (Dev.cause_fuses ..).trans ?_) | (with_reducible refine (Dev.onErr_fuses ..).trans ?_)
    | (intro _) | split | dsimp only

theorem Dev.errCmem_fuses (d : Dev) (row : Nat) (mov : Bool) : (Dev.errCmem d row mov).fuses = d.fuses := by
  unfold Dev.errCmem
  repeat' first
    | with_reducible rfl | (with_reducible refine (Dev.cause_fuses ..).trans ?_) | (with_reducible refine (Dev.errMem_fuses ..).trans ?_)
    | (with_reducible refine (Dev.onErr_fuses ..).trans ?_) | (intro _) | split | dsimp only

theorem Dev.cmemWake_fuses (d : Dev) (a n : Nat) : (Dev.cmemWake d a n).fuses = d.fuses := by
  unfold Dev.cmemWake
  repeat' first
    | with_reducible rfl | (with_reducible refine (Dev.onPwr_fuses ..).trans ?_)
    | (with_reducible refine (foldl_keeps (fun a : _ × Dev => a.2.fuses) _ (fun _ _ => ?_) _ _).trans ?_)
    | (with_reducible refine (foldl_keeps (fun a : _ × _ × Dev => a.2.2.fuses) _ (fun _ _ => ?_) _ _).trans ?_)
    | (with_reducible refine (foldl_keeps (fun a : Dev × _ => a.1.fuses) _ (fun _ _ => ?_) _ _).trans ?_)
    | (with_reducible refine (foldl_keeps (fun a : Dev => a.fuses) _ (fun _ _ => ?_) _ _).trans ?_) | (intro _) | split | dsimp only

theorem Dev.cmemGet_fuses (d0 : Dev) (a n : Nat) : (Dev.cmemGet d0 a n).2.fuses = d0.fuses := by
  unfold Dev.cmemGet
  repeat' first
    | with_reducible rfl | (with_reducible refine (Dev.cmemWake_fuses ..).trans ?_)
    | (with_reducible refine (Dev.errCmem_fuses ..).trans ?_) | (intro _) | split | dsimp only

theorem Dev.cmemPut_fuses (d0 : Dev) (a : Nat) (b : Bytes) (m : Option Status) : (Dev.cmemPut d0 a b m).fuses = d0.fuses := by
  unfold Dev.cmemPut
  repeat' first
    | with_reducible rfl | (with_reducible refine (Dev.cmemWake_fuses ..).trans ?_)
    | (with_reducible refine (foldl_keeps (fun a : _ × Dev => a.2.fuses) _ (fun _ _ => ?_) _ _).trans ?_)
    | (with_reducible refine (foldl_keeps (fun a : _ × _ × Dev => a.2.2.fuses) _ (fun _ _ => ?_) _ _).trans ?_)
    | (with_reducible refine (foldl_keeps (fun a : Dev × _ => a.1.fuses) _ (fun _ _ => ?_) _ _).trans ?_)
    | (with_reducible refine (foldl_keeps (fun a : Dev => a.fuses) _ (fun _ _ => ?_) _ _).trans ?_) | (intro _) | split | dsimp only

theorem Dev.rangeFault_fuses (d : Dev) (a : Int) : (Dev.rangeFault d a).fuses = d.fuses := by
  unfold Dev.rangeFault
  repeat' first | with_reducible rfl | (with_reducible refine (Dev.errMem_fuses ..).trans ?_) | dsimp only

theorem Dev.spaceGet_fuses (d : Dev) (c : Nat) (got : List Piece) (space cm : Nat) (a : Int) (n : Nat) : (Dev.spaceGet d c got space cm a
    n).2.fuses = d.fuses := by
  unfold Dev.spaceGet
  repeat' first
    | with_reducible rfl | (with_reducible refine (Dev.cmemGet_fuses ..).trans ?_)
    | (with_reducible refine (Dev.memGet_fuses ..).trans ?_) | (with_reducible refine (Dev.rangeFault_fuses ..).trans ?_) | (intro _)
    | split | dsimp only

theorem Dev.boardOut_fuses (d : Dev) (core : Option Nat) (entry m cls : Nat) (store : Bool) (a len : Nat) (sync : Option SyncReq) (b :
    Bytes) : (Dev.boardOut d core entry m cls store a len sync b).2.fuses = d.fuses := by
  unfold Dev.boardOut
  repeat' first
    | with_reducible rfl | (with_reducible refine (Dev.onCirc_fuses ..).trans ?_)
    | (with_reducible refine (Dev.sendBoardBy_fuses ..).trans ?_) | (intro _) | split | dsimp only

theorem Dev.boardStoreOut_fuses (d : Dev) (c entry m a : Nat) (b : Bytes) (mk : Option Status) : (Dev.boardStoreOut d c entry m a b
    mk).2.fuses = d.fuses := by
  unfold Dev.boardStoreOut
  repeat' first | with_reducible rfl | (with_reducible refine (Dev.boardOut_fuses ..).trans ?_) | dsimp only

theorem Dev.spacePut_fuses (d : Dev) (c entry space cm : Nat) (a : Int) (b : Bytes) (m : Option Status) : (Dev.spacePut d c entry space cm
    a b m).2.fuses = d.fuses := by
  unfold Dev.spacePut
  repeat' first
    | with_reducible rfl | (with_reducible refine (Dev.boardStoreOut_fuses ..).trans ?_)
    | (with_reducible refine (Dev.bufPut_fuses ..).trans ?_) | (with_reducible refine (Dev.cmemPut_fuses ..).trans ?_)
    | (with_reducible refine (Dev.memPut_fuses ..).trans ?_) | (with_reducible refine (Dev.rangeFault_fuses ..).trans ?_) | split
    | dsimp only

theorem Dev.memMark_fuses (d : Dev) (va n : Nat) (st : Status) : (Dev.memMark d va n st).fuses = d.fuses := by
  unfold Dev.memMark
  repeat' first
    | with_reducible rfl | (with_reducible refine (Dev.each_fuses _ _ _ fun _ _ => ?_).trans ?_)
    | (with_reducible refine (Dev.onMem_fuses ..).trans ?_) | (intro _) | split | dsimp only

theorem Dev.spaceMark_fuses (d : Dev) (c entry space cm : Nat) (a : Int) (n : Nat) (st : Status) : (Dev.spaceMark d c entry space cm a n
    st).fuses = d.fuses := by
  unfold Dev.spaceMark
  repeat' first
    | with_reducible rfl | (with_reducible refine (Dev.boardStoreOut_fuses ..).trans ?_)
    | (with_reducible refine (Dev.memMark_fuses ..).trans ?_) | (with_reducible refine (Dev.onCore_fuses ..).trans ?_)
    | (with_reducible refine (foldl_keeps (fun a : _ × Dev => a.2.fuses) _ (fun _ _ => ?_) _ _).trans ?_)
    | (with_reducible refine (foldl_keeps (fun a : _ × _ × Dev => a.2.2.fuses) _ (fun _ _ => ?_) _ _).trans ?_)
    | (with_reducible refine (foldl_keeps (fun a : Dev × _ => a.1.fuses) _ (fun _ _ => ?_) _ _).trans ?_)
    | (with_reducible refine (foldl_keeps (fun a : Dev => a.fuses) _ (fun _ _ => ?_) _ _).trans ?_) | (intro _) | split | dsimp only

theorem Dev.getRow_fuses (d : Dev) (c : Nat) (got : List Piece) (x : Desc) (r : Nat) : (Dev.getRow d c got x r).2.fuses = d.fuses := by
  unfold Dev.getRow
  repeat' first
    | with_reducible rfl | (with_reducible refine (Dev.rangeFault_fuses ..).trans ?_)
    | (with_reducible refine (Dev.spaceGet_fuses ..).trans ?_) | split | dsimp only

theorem Dev.getRows_fuses (c : Nat) (got : List Piece) (x : Desc) (r n : Nat) (d : Dev) :
    (Dev.getRows c got x r n d).2.fuses = d.fuses := by
  induction n generalizing r d with
  | zero => rfl
  | succ n ih => rw [Dev.getRows]; exact (ih ..).trans (Dev.getRow_fuses ..)

theorem Dev.putRow_fuses (d : Dev) (c entry : Nat) (x : Desc) (r : Nat) (row : Row) : (Dev.putRow d c entry x r row).2.fuses = d.fuses := by
  unfold Dev.putRow
  repeat' first | with_reducible rfl | (with_reducible refine (Dev.spacePut_fuses ..).trans ?_) | split | dsimp only

theorem Dev.putRows_fuses (c entry : Nat) (x : Desc) (r : Nat) (l : List Row) (d : Dev) :
    (Dev.putRows c entry x r l d).2.fuses = d.fuses := by
  induction l generalizing r d with
  | nil => rfl
  | cons y ys ih => rw [Dev.putRows]; exact (ih ..).trans (Dev.putRow_fuses ..)

theorem Dev.convParams_fuses (d : Dev) (c : Nat) (got : List Piece) (i n : Nat) : (Dev.convParams d c got i n).2.2.fuses = d.fuses := by
  unfold Dev.convParams
  repeat' first | with_reducible rfl | (with_reducible refine (Dev.spaceGet_fuses ..).trans ?_) | (intro _) | split | dsimp only

theorem Dev.cutLists_fuses (d : Dev) (p : Nat × Nat) (a n : Nat) : (Dev.cutLists d p a n).fuses = d.fuses := by
  unfold Dev.cutLists
  repeat' first | with_reducible rfl | (intro _) | dsimp only

theorem Dev.noteLists_fuses (d : Dev) (c : Nat) (x : Desc) (nq k code : Nat) : (Dev.noteLists d c x nq k code).fuses = d.fuses := by
  unfold Dev.noteLists
  repeat' first
    | with_reducible rfl | (with_reducible refine (Dev.cutLists_fuses ..).trans ?_)
    | (with_reducible refine (Dev.each_fuses _ _ _ fun _ _ => ?_).trans ?_) | (intro _) | dsimp only

theorem Dev.carryLists_fuses (d : Dev) (src dst : Nat × Nat) (a b n : Nat) : (Dev.carryLists d src dst a b n).fuses = d.fuses := by
  unfold Dev.carryLists
  repeat' first | with_reducible rfl | (with_reducible refine (Dev.cutLists_fuses ..).trans ?_) | (intro _) | dsimp only

theorem Dev.moveLists_fuses (d : Dev) (c : Nat) (ds dd : Desc) : (Dev.moveLists d c ds dd).fuses = d.fuses := by
  unfold Dev.moveLists
  repeat' first
    | with_reducible rfl | (with_reducible refine (Dev.carryLists_fuses ..).trans ?_)
    | (with_reducible refine (Dev.each_fuses _ _ _ fun _ _ => ?_).trans ?_) | (intro _) | split | dsimp only

theorem Dev.flagTile_fuses (d : Dev) (c : Nat) (cvt : Bool) (array row col : Nat) (isNan : Bool) (seq pc : Nat) : (Dev.flagTile d c cvt
    array row col isNan seq pc).fuses = d.fuses := by
  unfold Dev.flagTile
  repeat' first | with_reducible rfl | (with_reducible refine (Dev.cause_fuses ..).trans ?_) | split | dsimp only

theorem Dev.flagFold_fuses (d : Dev) (c cause record slot layer block : Nat) : (Dev.flagFold d c cause record slot layer block).fuses =
    d.fuses := by
  unfold Dev.flagFold
  repeat' first | with_reducible rfl | (with_reducible refine (Dev.cause_fuses ..).trans ?_) | split | dsimp only

theorem Dev.blockRow_fuses (d : Dev) (c : Nat) (j : MxmJob) (i r kv : Nat) : (Dev.blockRow d c j i r kv).2.2.fuses = d.fuses := by
  unfold Dev.blockRow
  repeat' first
    | with_reducible rfl | (with_reducible refine (Dev.spaceGet_fuses ..).trans ?_)
    | (with_reducible refine (foldl_keeps (fun a : _ × Dev => a.2.fuses) _ (fun _ _ => ?_) _ _).trans ?_)
    | (with_reducible refine (foldl_keeps (fun a : _ × _ × Dev => a.2.2.fuses) _ (fun _ _ => ?_) _ _).trans ?_)
    | (with_reducible refine (foldl_keeps (fun a : Dev × _ => a.1.fuses) _ (fun _ _ => ?_) _ _).trans ?_)
    | (with_reducible refine (foldl_keeps (fun a : Dev => a.fuses) _ (fun _ _ => ?_) _ _).trans ?_) | (intro _) | split | dsimp only

theorem Dev.accRow_fuses (d : Dev) (c : Nat) (j : MxmJob) (array row : Nat) (vals : List (Word × Word)) (m : Option Status) : (Dev.accRow
    d c j array row vals m).fuses = d.fuses := by
  unfold Dev.accRow
  repeat' first
    | with_reducible rfl | (with_reducible refine (Dev.onCore_fuses ..).trans ?_)
    | (with_reducible refine (foldl_keeps (fun a : _ × Dev => a.2.fuses) _ (fun _ _ => ?_) _ _).trans ?_)
    | (with_reducible refine (foldl_keeps (fun a : _ × _ × Dev => a.2.2.fuses) _ (fun _ _ => ?_) _ _).trans ?_)
    | (with_reducible refine (foldl_keeps (fun a : Dev × _ => a.1.fuses) _ (fun _ _ => ?_) _ _).trans ?_)
    | (with_reducible refine (foldl_keeps (fun a : Dev => a.fuses) _ (fun _ _ => ?_) _ _).trans ?_) | (intro _) | split | dsimp only

theorem Dev.streamRow_fuses (c : Nat) (j : MxmJob) (t : Tile) (cols : List (List FVal)) (kv i array r : Nat) (d : Dev) : (Dev.streamRow c
    j t cols kv i array r d).2.fuses = d.fuses := by
  unfold Dev.streamRow
  repeat' first
    | with_reducible rfl | (with_reducible refine (Dev.accRow_fuses ..).trans ?_)
    | (with_reducible refine (Dev.blockRow_fuses ..).trans ?_) | (intro _) | dsimp only

theorem Dev.failRows_fuses (d : Dev) (j : MxmJob) (st : Status) : (Dev.failRows d j st).fuses = d.fuses := by
  unfold Dev.failRows
  repeat' first | with_reducible rfl | (with_reducible refine (Dev.failEntries_fuses ..).trans ?_) | dsimp only

theorem Dev.streamBlock_fuses (d : Dev) (c : Nat) (j : MxmJob) (t : Tile) : (Dev.streamBlock d c j t).fuses = d.fuses := by
  unfold Dev.streamBlock
  repeat' first
    | with_reducible rfl | (with_reducible refine (Dev.failRows_fuses ..).trans ?_)
    | (with_reducible refine (Dev.onCore_fuses ..).trans ?_) | (with_reducible refine (Dev.streamRow_fuses ..).trans ?_)
    | (with_reducible refine (foldl_keeps (fun a : _ × Dev => a.2.fuses) _ (fun _ _ => ?_) _ _).trans ?_)
    | (with_reducible refine (foldl_keeps (fun a : _ × _ × Dev => a.2.2.fuses) _ (fun _ _ => ?_) _ _).trans ?_)
    | (with_reducible refine (foldl_keeps (fun a : Dev × _ => a.1.fuses) _ (fun _ _ => ?_) _ _).trans ?_)
    | (with_reducible refine (foldl_keeps (fun a : Dev => a.fuses) _ (fun _ _ => ?_) _ _).trans ?_) | (intro _) | split | dsimp only

theorem Dev.drainRow_fuses (d : Dev) (c : Nat) (j : MxmJob) (i array r : Nat) : (Dev.drainRow d c j i array r).2.fuses = d.fuses := by
  unfold Dev.drainRow
  repeat' first
    | with_reducible rfl | (with_reducible refine (Dev.convParams_fuses ..).trans ?_)
    | (with_reducible refine (Dev.failEntries_fuses ..).trans ?_) | (with_reducible refine (Dev.flagEntries_fuses ..).trans ?_)
    | (with_reducible refine (Dev.spacePut_fuses ..).trans ?_) | (intro _) | split | dsimp only

theorem Dev.captureTile_fuses (d : Dev) (c : Nat) (j : MxmJob) (flags : List (Nat × Nat × Nat × Bool)) : (Dev.captureTile d c j
    flags).fuses = d.fuses := by
  unfold Dev.captureTile
  repeat' first | with_reducible rfl | (with_reducible refine (Dev.flagTile_fuses ..).trans ?_) | (intro _) | split | dsimp only

theorem Dev.putArrays_fuses (d : Dev) (c : Nat) (q : List QEnt) : (Dev.putArrays d c q).fuses = d.fuses := by
  unfold Dev.putArrays
  repeat' first | with_reducible rfl | (with_reducible refine (Dev.onCore_fuses ..).trans ?_) | (intro _) | dsimp only

theorem Dev.loadShadow_fuses (d : Dev) (c mask : Nat) (oblong of8 : Bool) (t : Tile) : (Dev.loadShadow d c mask oblong of8 t).fuses =
    d.fuses := by
  unfold Dev.loadShadow
  repeat' first
    | with_reducible rfl | (with_reducible refine (Dev.onCore_fuses ..).trans ?_)
    | (with_reducible refine (foldl_keeps (fun a : _ × Dev => a.2.fuses) _ (fun _ _ => ?_) _ _).trans ?_)
    | (with_reducible refine (foldl_keeps (fun a : _ × _ × Dev => a.2.2.fuses) _ (fun _ _ => ?_) _ _).trans ?_)
    | (with_reducible refine (foldl_keeps (fun a : Dev × _ => a.1.fuses) _ (fun _ _ => ?_) _ _).trans ?_)
    | (with_reducible refine (foldl_keeps (fun a : Dev => a.fuses) _ (fun _ _ => ?_) _ _).trans ?_) | (intro _) | dsimp only

theorem Dev.loadBegin_fuses (d : Dev) (c : Nat) : (Dev.loadBegin d c).fuses = d.fuses := by
  unfold Dev.loadBegin
  repeat' first
    | with_reducible rfl | (with_reducible refine (Dev.failRows_fuses ..).trans ?_)
    | (with_reducible refine (Dev.loadShadow_fuses ..).trans ?_) | (with_reducible refine (Dev.putArrays_fuses ..).trans ?_) | split
    | dsimp only

theorem Dev.askPieces_fuses (d : Dev) (c entry : Nat) (l : List (Nat × Nat × Nat)) : (Dev.askPieces d c entry l).2.fuses = d.fuses := by
  unfold Dev.askPieces
  repeat' first
    | with_reducible rfl | (with_reducible refine (Dev.boardOut_fuses ..).trans ?_)
    | (with_reducible refine (foldl_keeps (fun a : _ × Dev => a.2.fuses) _ (fun _ _ => ?_) _ _).trans ?_)
    | (with_reducible refine (foldl_keeps (fun a : _ × _ × Dev => a.2.2.fuses) _ (fun _ _ => ?_) _ _).trans ?_)
    | (with_reducible refine (foldl_keeps (fun a : Dev × _ => a.1.fuses) _ (fun _ _ => ?_) _ _).trans ?_)
    | (with_reducible refine (foldl_keeps (fun a : Dev => a.fuses) _ (fun _ _ => ?_) _ _).trans ?_) | (intro _) | split | dsimp only

theorem Dev.activateTiles_fuses (d : Dev) (c : Nat) (j : MxmJob) (gap : Nat) (runs : List Nat) : (Dev.activateTiles d c j gap runs).fuses
    = d.fuses := by
  unfold Dev.activateTiles
  repeat' first
    | with_reducible rfl | (with_reducible refine (Dev.keepBlock_fuses ..).trans ?_)
    | (with_reducible refine (Dev.onCore_fuses ..).trans ?_)
    | (with_reducible refine (foldl_keeps (fun a : _ × Dev => a.2.fuses) _ (fun _ _ => ?_) _ _).trans ?_)
    | (with_reducible refine (foldl_keeps (fun a : _ × _ × Dev => a.2.2.fuses) _ (fun _ _ => ?_) _ _).trans ?_)
    | (with_reducible refine (foldl_keeps (fun a : Dev × _ => a.1.fuses) _ (fun _ _ => ?_) _ _).trans ?_)
    | (with_reducible refine (foldl_keeps (fun a : Dev => a.fuses) _ (fun _ _ => ?_) _ _).trans ?_) | (intro _) | dsimp only

theorem Dev.streamGo_fuses (d : Dev) (c gap : Nat) (bubbles : List Nat) (before : List QEnt) (e : QEnt) (rest : List QEnt) : (Dev.streamGo
    d c gap bubbles before e rest).fuses = d.fuses := by
  unfold Dev.streamGo
  repeat' first
    | with_reducible rfl | (with_reducible refine (Dev.activateTiles_fuses ..).trans ?_)
    | (with_reducible refine (Dev.putArrays_fuses ..).trans ?_) | (with_reducible refine (Dev.streamBlock_fuses ..).trans ?_) | dsimp only

theorem Dev.streamBegin_fuses (d : Dev) (c gap : Nat) (bubbles : List Nat) : (Dev.streamBegin d c gap bubbles).fuses = d.fuses := by
  unfold Dev.streamBegin
  repeat' first
    | with_reducible rfl | (with_reducible refine (Dev.askPieces_fuses ..).trans ?_)
    | (with_reducible refine (Dev.putArrays_fuses ..).trans ?_) | (with_reducible refine (Dev.streamGo_fuses ..).trans ?_) | (intro _)
    | split | dsimp only

theorem Dev.drainNext_fuses (d : Dev) (c array : Nat) : (Dev.drainNext d c array).fuses = d.fuses := by
  unfold Dev.drainNext
  repeat' first
    | with_reducible rfl | (with_reducible refine (Dev.captureTile_fuses ..).trans ?_)
    | (with_reducible refine (Dev.drainRow_fuses ..).trans ?_) | (with_reducible refine (Dev.onCore_fuses ..).trans ?_) | (intro _)
    | split | dsimp only

theorem Dev.fscFail_fuses (d : Dev) (c : Nat) (record : Bytes) (st : Status) : (Dev.fscFail d c record st).fuses = d.fuses := by
  unfold Dev.fscFail
  repeat' first
    | with_reducible rfl | (with_reducible refine (Dev.failEntries_fuses ..).trans ?_)
    | (with_reducible refine (Dev.failOwners_fuses ..).trans ?_) | (intro _) | split | dsimp only

theorem Dev.topkQueries_fuses (d : Dev) (c : Nat) (got : List Piece) (dq : Desc) (nq : Nat) : (Dev.topkQueries d c got dq nq).2.fuses =
    d.fuses := by
  unfold Dev.topkQueries
  repeat' first | with_reducible rfl | (with_reducible refine (Dev.getRows_fuses ..).trans ?_) | (intro _) | dsimp only

theorem Dev.tableWake_fuses (d : Dev) (t : CmemTable) : (Dev.tableWake d t).fuses = d.fuses := by
  unfold Dev.tableWake
  repeat' first | with_reducible rfl | (with_reducible refine (Dev.cmemWake_fuses ..).trans ?_) | dsimp only

theorem Dev.topkCmemLists_fuses (d : Dev) (c : Nat) (got : List Piece) (mode k nq : Nat) (mx : Bool) (dq dt : Desc) : (Dev.topkCmemLists d
    c got mode k nq mx dq dt).2.fuses = d.fuses := by
  unfold Dev.topkCmemLists
  repeat' first
    | with_reducible rfl | (with_reducible refine (Dev.errCmem_fuses ..).trans ?_)
    | (with_reducible refine (Dev.tableWake_fuses ..).trans ?_) | (with_reducible refine (Dev.topkQueries_fuses ..).trans ?_)
    | (with_reducible refine (foldl_keeps (fun a : _ × Dev => a.2.fuses) _ (fun _ _ => ?_) _ _).trans ?_)
    | (with_reducible refine (foldl_keeps (fun a : _ × _ × Dev => a.2.2.fuses) _ (fun _ _ => ?_) _ _).trans ?_)
    | (with_reducible refine (foldl_keeps (fun a : Dev × _ => a.1.fuses) _ (fun _ _ => ?_) _ _).trans ?_)
    | (with_reducible refine (foldl_keeps (fun a : Dev => a.fuses) _ (fun _ _ => ?_) _ _).trans ?_) | (intro _) | split | dsimp only

theorem Dev.markSlip_fuses (d : Dev) : (Dev.markSlip d).fuses = d.fuses := by
  unfold Dev.markSlip
  repeat' first | with_reducible rfl | (with_reducible refine (Dev.onWork_fuses ..).trans ?_) | (intro _) | split | dsimp only

theorem Dev.topkScanLists_fuses (d : Dev) (c : Nat) (got : List Piece) (mode k nq : Nat) (mx : Bool) (dq dt : Desc) : (Dev.topkScanLists d
    c got mode k nq mx dq dt).2.fuses = d.fuses := by
  unfold Dev.topkScanLists
  repeat' first
    | with_reducible rfl | (with_reducible refine (Dev.given_fuses (h := ?_) ..).trans ?_)
    | (with_reducible refine (Dev.markSlip_fuses ..).trans ?_) | (with_reducible refine (Dev.memGet_fuses ..).trans ?_)
    | (with_reducible refine (Dev.onPwr_fuses ..).trans ?_) | (with_reducible refine (Dev.topkQueries_fuses ..).trans ?_)
    | (with_reducible refine (foldl_keeps (fun a : _ × Dev => a.2.fuses) _ (fun _ _ => ?_) _ _).trans ?_)
    | (with_reducible refine (foldl_keeps (fun a : _ × _ × Dev => a.2.2.fuses) _ (fun _ _ => ?_) _ _).trans ?_)
    | (with_reducible refine (foldl_keeps (fun a : Dev × _ => a.1.fuses) _ (fun _ _ => ?_) _ _).trans ?_)
    | (with_reducible refine (foldl_keeps (fun a : Dev => a.fuses) _ (fun _ _ => ?_) _ _).trans ?_) | (intro _) | split | dsimp only

theorem Dev.mergeInput_fuses (d : Dev) (c : Nat) (got : List Piece) (mode nq : Nat) (x : Desc) (pre : Option Status) : (Dev.mergeInput d c
    got mode nq x pre).2.fuses = d.fuses := by
  unfold Dev.mergeInput
  repeat' first
    | with_reducible rfl | (with_reducible refine (Dev.getRows_fuses ..).trans ?_)
    | (with_reducible refine (Dev.rangeFault_fuses ..).trans ?_) | (with_reducible refine (Dev.spaceGet_fuses ..).trans ?_)
    | (with_reducible refine (foldl_keeps (fun a : _ × Dev => a.2.fuses) _ (fun _ _ => ?_) _ _).trans ?_)
    | (with_reducible refine (foldl_keeps (fun a : _ × _ × Dev => a.2.2.fuses) _ (fun _ _ => ?_) _ _).trans ?_)
    | (with_reducible refine (foldl_keeps (fun a : Dev × _ => a.1.fuses) _ (fun _ _ => ?_) _ _).trans ?_)
    | (with_reducible refine (foldl_keeps (fun a : Dev => a.fuses) _ (fun _ _ => ?_) _ _).trans ?_) | (intro _) | split | dsimp only

theorem Dev.topkMergeLists_fuses (d : Dev) (c : Nat) (got : List Piece) (mode k nq : Nat) (mx : Bool) (dq dt : Desc) (preQ preT : Option
    Status) : (Dev.topkMergeLists d c got mode k nq mx dq dt preQ preT).2.fuses = d.fuses := by
  unfold Dev.topkMergeLists
  repeat' first | with_reducible rfl | (with_reducible refine (Dev.mergeInput_fuses ..).trans ?_) | (intro _) | split | dsimp only

theorem Dev.putLists_fuses (d : Dev) (c entry k : Nat) (dl : Desc) (ls : List OutList) : (Dev.putLists d c entry k dl ls).2.fuses =
    d.fuses := by
  unfold Dev.putLists
  repeat' first
    | with_reducible rfl | (with_reducible refine (Dev.spacePut_fuses ..).trans ?_)
    | (with_reducible refine (foldl_keeps (fun a : _ × Dev => a.2.fuses) _ (fun _ _ => ?_) _ _).trans ?_)
    | (with_reducible refine (foldl_keeps (fun a : _ × _ × Dev => a.2.2.fuses) _ (fun _ _ => ?_) _ _).trans ?_)
    | (with_reducible refine (foldl_keeps (fun a : Dev × _ => a.1.fuses) _ (fun _ _ => ?_) _ _).trans ?_)
    | (with_reducible refine (foldl_keeps (fun a : Dev => a.fuses) _ (fun _ _ => ?_) _ _).trans ?_) | (intro _) | split | dsimp only

theorem Dev.topkDo_fuses (d : Dev) (c entry : Nat) (got : List Piece) (w : Nat) (dq dt dl : Desc) (preQ : Option Status) (write : Bool) :
    (Dev.topkDo d c entry got w dq dt dl preQ write).2.fuses = d.fuses := by
  unfold Dev.topkDo
  repeat' first
    | with_reducible rfl | (with_reducible refine (Dev.failOwners_fuses ..).trans ?_)
    | (with_reducible refine (Dev.noteLists_fuses ..).trans ?_) | (with_reducible refine (Dev.putLists_fuses ..).trans ?_)
    | (with_reducible refine (Dev.topkCmemLists_fuses ..).trans ?_) | (with_reducible refine (Dev.topkMergeLists_fuses ..).trans ?_)
    | (with_reducible refine (Dev.topkScanLists_fuses ..).trans ?_) | split | dsimp only

theorem Dev.ackOut_fuses (d : Dev) (dest tag kind : Nat) (st : Status) : (Dev.ackOut d dest tag kind st).fuses = d.fuses := by
  unfold Dev.ackOut
  repeat' first
    | with_reducible rfl | (with_reducible refine (Dev.packetOut_fuses ..).trans ?_)
    | (with_reducible refine (Dev.sendBoard_fuses ..).trans ?_) | (intro _) | split | dsimp only

theorem Dev.sliceEnds_fuses (d : Dev) (b : Bytes) : (Dev.sliceEnds d b).fuses = d.fuses := by
  unfold Dev.sliceEnds
  repeat' first | with_reducible rfl | (with_reducible refine (Dev.endRun_fuses ..).trans ?_) | split | dsimp only

theorem Dev.refusePacket_fuses (d : Dev) (port : Nat) (h : Head) : (Dev.refusePacket d port h).fuses = d.fuses := by
  unfold Dev.refusePacket
  repeat' first
    | with_reducible rfl | (with_reducible refine (Dev.ackOut_fuses ..).trans ?_)
    | (with_reducible refine (Dev.sliceDrop_fuses ..).trans ?_) | (with_reducible refine (Dev.sliceEnds_fuses ..).trans ?_) | split
    | dsimp only

theorem Dev.forward_fuses (d : Dev) (port route : Nat) (h : Head) (b : Bytes) : (Dev.forward d port route h b).fuses = d.fuses := by
  unfold Dev.forward
  repeat' first
    | with_reducible rfl | (with_reducible refine (Dev.ackOut_fuses ..).trans ?_)
    | (with_reducible refine (Dev.packetPass_fuses ..).trans ?_) | split | dsimp only

theorem Dev.receive_fuses (d0 : Dev) (port : Nat) (b : Bytes) : (Dev.receive d0 port b).1.fuses = d0.fuses := by
  unfold Dev.receive
  repeat' first
    | with_reducible rfl | (exact Dev.receive_got (by assumption)) | (with_reducible refine (Dev.forward_fuses ..).trans ?_)
    | (with_reducible refine (Dev.onLink_fuses ..).trans ?_) | (with_reducible refine (Dev.packetPass_fuses ..).trans ?_)
    | (with_reducible refine (Dev.refusePacket_fuses ..).trans ?_) | (with_reducible refine (Dev.spread_fuses ..).trans ?_) | (intro _)
    | split | dsimp only
theorem Dev.receive_got {d d1 : Dev} {p : Nat} {b : Bytes} {h : Option Head} (e : d.receive p b = (d1, h)) : d1.fuses = d.fuses := by
  have := Dev.receive_fuses d p b
  rwa [e] at this

theorem Dev.onEntry_fuses (d : Dev) (c no : Nat) (f : QEnt → QEnt) : (Dev.onEntry d c no f).fuses = d.fuses := by
  unfold Dev.onEntry
  repeat' first | with_reducible rfl | (with_reducible refine (Dev.onCore_fuses ..).trans ?_) | (intro _) | split | dsimp only

theorem Dev.failTransfer_fuses (d : Dev) (sent : Bool) (tag : Nat) (st : Status) : (Dev.failTransfer d sent tag st).fuses = d.fuses := by
  unfold Dev.failTransfer
  repeat' first
    | with_reducible rfl | (with_reducible refine (Dev.each_fuses _ _ _ fun _ _ => ?_).trans ?_)
    | (with_reducible refine (Dev.failJob_fuses ..).trans ?_) | (with_reducible refine (Dev.failOwners_fuses ..).trans ?_)
    | (with_reducible refine (Dev.onWork_fuses ..).trans ?_) | (intro _) | split | dsimp only

theorem Dev.fscSent_fuses (d : Dev) (c no : Nat) (st : Option Status) : (Dev.fscSent d c no st).fuses = d.fuses := by
  unfold Dev.fscSent
  repeat' first
    | with_reducible rfl | (with_reducible refine (Dev.fscFail_fuses ..).trans ?_)
    | (with_reducible refine (Dev.onCore_fuses ..).trans ?_)
    | (with_reducible refine (foldl_keeps (fun a : _ × Dev => a.2.fuses) _ (fun _ _ => ?_) _ _).trans ?_)
    | (with_reducible refine (foldl_keeps (fun a : _ × _ × Dev => a.2.2.fuses) _ (fun _ _ => ?_) _ _).trans ?_)
    | (with_reducible refine (foldl_keeps (fun a : Dev × _ => a.1.fuses) _ (fun _ _ => ?_) _ _).trans ?_)
    | (with_reducible refine (foldl_keeps (fun a : Dev => a.fuses) _ (fun _ _ => ?_) _ _).trans ?_) | (intro _) | split | dsimp only

theorem Dev.sendEnds_fuses (d : Dev) (c no : Nat) (st : Option Status) : (Dev.sendEnds d c no st).fuses = d.fuses := by
  unfold Dev.sendEnds
  repeat' first
    | with_reducible rfl | (with_reducible refine (Dev.fscSent_fuses ..).trans ?_)
    | (with_reducible refine (Dev.onEntry_fuses ..).trans ?_) | (intro _) | split | dsimp only

theorem Dev.sendAck_fuses (d : Dev) (src tag : Nat) (ack : AckKind) : (Dev.sendAck d src tag ack).fuses = d.fuses := by
  unfold Dev.sendAck
  repeat' first
    | with_reducible rfl | (with_reducible refine (Dev.failOwners_fuses ..).trans ?_)
    | (with_reducible refine (Dev.failTransfer_fuses ..).trans ?_) | (with_reducible refine (Dev.onCirc_fuses ..).trans ?_)
    | (with_reducible refine (Dev.sendEnds_fuses ..).trans ?_) | (intro _) | split | dsimp only

theorem Dev.winFails_fuses (d : Dev) (write : Bool) (m n : Nat) (st : Status) (poison : Bool) : (Dev.winFails d write m n st poison).fuses
    = d.fuses := by
  unfold Dev.winFails
  repeat' first | with_reducible rfl | (with_reducible refine (Dev.emit_fuses ..).trans ?_) | split | dsimp only

theorem Dev.boardEnd_fuses (d : Dev) (b : BoardOut) (data : Bytes) (st : Option Status) (poison : Bool) : (Dev.boardEnd d b data st
    poison).fuses = d.fuses := by
  unfold Dev.boardEnd
  repeat' first
    | with_reducible rfl | (with_reducible refine (Dev.emit_fuses ..).trans ?_)
    | (with_reducible refine (Dev.failOwners_fuses ..).trans ?_) | (with_reducible refine (Dev.onCirc_fuses ..).trans ?_)
    | (with_reducible refine (Dev.onEntry_fuses ..).trans ?_) | (with_reducible refine (Dev.syncDone_fuses ..).trans ?_)
    | (with_reducible refine (Dev.syncFailed_fuses ..).trans ?_) | (with_reducible refine (Dev.syncIssue_fuses ..).trans ?_)
    | (with_reducible refine (Dev.winFails_fuses ..).trans ?_) | (intro _) | split | dsimp only

theorem Dev.boardAnswer_fuses (d : Dev) (src tag : Nat) (data : Bytes) (ack : AckKind) : (Dev.boardAnswer d src tag data ack).fuses =
    d.fuses := by
  unfold Dev.boardAnswer
  repeat' first
    | with_reducible rfl | (with_reducible refine (Dev.boardEnd_fuses ..).trans ?_)
    | (with_reducible refine (Dev.errMem_fuses ..).trans ?_) | (intro _) | split | dsimp only

theorem Dev.ackTransfer_fuses (d : Dev) (t : Transfer) (kind : Nat) : (Dev.ackTransfer d t kind).fuses = d.fuses := by
  unfold Dev.ackTransfer
  repeat' first
    | with_reducible rfl | (with_reducible refine (Dev.ackOut_fuses ..).trans ?_)
    | (with_reducible refine (Dev.sendAck_fuses ..).trans ?_) | split | dsimp only

theorem Dev.recvMarked_fuses (d : Dev) (c entry : Nat) (x : Desc) (st : Status) : (Dev.recvMarked d c entry x st).fuses = d.fuses := by
  unfold Dev.recvMarked
  repeat' first | with_reducible rfl | (with_reducible refine (Dev.spaceMark_fuses ..).trans ?_) | dsimp only

theorem Dev.recvLists_fuses (d : Dev) (c entry : Nat) (x : Desc) (st : Status) : (Dev.recvLists d c entry x st).fuses = d.fuses := by
  unfold Dev.recvLists
  repeat' first
    | with_reducible rfl | (with_reducible refine (Dev.each_fuses _ _ _ fun _ _ => ?_).trans ?_)
    | (with_reducible refine (Dev.spacePut_fuses ..).trans ?_) | (intro _) | dsimp only

theorem Dev.recvDamaged_fuses (d : Dev) (c entry : Nat) (x : Desc) (st : Status) : (Dev.recvDamaged d c entry x st).fuses = d.fuses := by
  unfold Dev.recvDamaged
  repeat' first
    | with_reducible rfl | (with_reducible refine (Dev.recvLists_fuses ..).trans ?_)
    | (with_reducible refine (Dev.recvMarked_fuses ..).trans ?_) | split | dsimp only

theorem Dev.reinit_fuses (d : Dev) (e : Nat) : (Dev.reinit d e).fuses = d.fuses := by
  unfold Dev.reinit
  repeat' first | with_reducible rfl | (with_reducible refine (Dev.memPut_fuses ..).trans ?_) | dsimp only

theorem Dev.mapFirsts_fuses (d : Dev) (b : Bytes) : (Dev.mapFirsts d b).fuses = d.fuses := by
  unfold Dev.mapFirsts
  repeat' first
    | with_reducible rfl | (with_reducible refine (Dev.each_fuses _ _ _ fun _ _ => ?_).trans ?_)
    | (with_reducible refine (Dev.reinit_fuses ..).trans ?_) | (intro _) | split | dsimp only

theorem Dev.loopBack_fuses (d : Dev) (b : Bytes) (m : Option Status) : (Dev.loopBack d b m).fuses = d.fuses := by
  unfold Dev.loopBack
  repeat' first
    | with_reducible rfl | (with_reducible refine (Dev.each_fuses _ _ _ fun _ _ => ?_).trans ?_)
    | (with_reducible refine (Dev.failJob_fuses ..).trans ?_) | (with_reducible refine (Dev.onJob_fuses ..).trans ?_)
    | (with_reducible refine (Dev.onWork_fuses ..).trans ?_) | (intro _) | split | dsimp only

theorem Dev.recvWrite_fuses (d : Dev) (c entry : Nat) (x : Desc) (ts : List Transfer) : (Dev.recvWrite d c entry x ts).fuses = d.fuses := by
  unfold Dev.recvWrite
  repeat' first
    | with_reducible rfl | (with_reducible refine (Dev.failTransfer_fuses ..).trans ?_)
    | (with_reducible refine (Dev.loopBack_fuses ..).trans ?_) | (with_reducible refine (Dev.mapFirsts_fuses ..).trans ?_)
    | (with_reducible refine (Dev.noteLists_fuses ..).trans ?_) | (with_reducible refine (Dev.recvMarked_fuses ..).trans ?_)
    | (with_reducible refine (Dev.spacePut_fuses ..).trans ?_)
    | (with_reducible refine (foldl_keeps (fun a : _ × Dev => a.2.fuses) _ (fun _ _ => ?_) _ _).trans ?_)
    | (with_reducible refine (foldl_keeps (fun a : _ × _ × Dev => a.2.2.fuses) _ (fun _ _ => ?_) _ _).trans ?_)
    | (with_reducible refine (foldl_keeps (fun a : Dev × _ => a.1.fuses) _ (fun _ _ => ?_) _ _).trans ?_)
    | (with_reducible refine (foldl_keeps (fun a : Dev => a.fuses) _ (fun _ _ => ?_) _ _).trans ?_) | (intro _) | split | dsimp only

theorem Dev.recvTry_fuses (d : Dev) (c : Nat) (e : QEnt) : (Dev.recvTry d c e).fuses = d.fuses := by
  unfold Dev.recvTry
  repeat' first
    | with_reducible rfl | (with_reducible refine (Dev.ackTransfer_fuses ..).trans ?_)
    | (with_reducible refine (Dev.failTransfer_fuses ..).trans ?_) | (with_reducible refine (Dev.onCirc_fuses ..).trans ?_)
    | (with_reducible refine (Dev.onEntry_fuses ..).trans ?_) | (with_reducible refine (Dev.recvDamaged_fuses ..).trans ?_)
    | (with_reducible refine (Dev.recvWrite_fuses ..).trans ?_)
    | (with_reducible refine (foldl_keeps (fun a : _ × Dev => a.2.fuses) _ (fun _ _ => ?_) _ _).trans ?_)
    | (with_reducible refine (foldl_keeps (fun a : _ × _ × Dev => a.2.2.fuses) _ (fun _ _ => ?_) _ _).trans ?_)
    | (with_reducible refine (foldl_keeps (fun a : Dev × _ => a.1.fuses) _ (fun _ _ => ?_) _ _).trans ?_)
    | (with_reducible refine (foldl_keeps (fun a : Dev => a.fuses) _ (fun _ _ => ?_) _ _).trans ?_) | (intro _) | split | dsimp only

theorem Dev.transferIn_fuses (d : Dev) (t : Transfer) : (Dev.transferIn d t).fuses = d.fuses := by
  unfold Dev.transferIn
  repeat' first
    | with_reducible rfl | (with_reducible refine (Dev.arrivalSignal_fuses ..).trans ?_)
    | (with_reducible refine (Dev.onCirc_fuses ..).trans ?_) | (with_reducible refine (Dev.recvTry_fuses ..).trans ?_)
    | (with_reducible refine (Dev.touchPeak_fuses ..).trans ?_)
    | (with_reducible refine (foldl_keeps (fun a : _ × Dev => a.2.fuses) _ (fun _ _ => ?_) _ _).trans ?_)
    | (with_reducible refine (foldl_keeps (fun a : _ × _ × Dev => a.2.2.fuses) _ (fun _ _ => ?_) _ _).trans ?_)
    | (with_reducible refine (foldl_keeps (fun a : Dev × _ => a.1.fuses) _ (fun _ _ => ?_) _ _).trans ?_)
    | (with_reducible refine (foldl_keeps (fun a : Dev => a.fuses) _ (fun _ _ => ?_) _ _).trans ?_) | (intro _) | split | dsimp only

theorem Dev.forwardCopy_fuses (d : Dev) (port : Nat) (h : Head) (b : Bytes) : (Dev.forwardCopy d port h b).fuses = d.fuses := by
  unfold Dev.forwardCopy
  repeat' first | with_reducible rfl | (with_reducible refine (Dev.packetPass_fuses ..).trans ?_) | split | dsimp only

theorem Dev.discarded_fuses {d t : Dev} {h : Head} (e : d.discarded h = some t) : t.fuses = d.fuses := by
  unfold Dev.discarded at e
  split at e
  · exact absurd e (by simp)
  · dsimp only at e
    split at e
    · exact absurd e (by simp)
    · rw [← Option.some.inj e, Dev.onCirc_fuses]

theorem Dev.transferPacket_fuses (d : Dev) (port cls : Nat) (b : Bytes) : (Dev.transferPacket d port cls b).fuses = d.fuses := by
  unfold Dev.transferPacket
  split
  · exact Dev.receive_got (by assumption)
  · rename_i e
    split
    · exact Dev.receive_got e
    · dsimp only
      split
      · rename_i e3
        rw [Dev.discarded_fuses e3, Dev.forwardCopy_fuses]
        exact Dev.receive_got e
      · rw [Dev.transferIn_fuses, Dev.forwardCopy_fuses]
        exact Dev.receive_got e

theorem Dev.startExpire_fuses (d : Dev) (src : Nat) : (Dev.startExpire d src).fuses = d.fuses := by
  unfold Dev.startExpire
  repeat' first
    | with_reducible rfl | (with_reducible refine (Dev.launchControl_fuses ..).trans ?_)
    | (with_reducible refine (Dev.onWork_fuses ..).trans ?_) | (with_reducible refine (Dev.reach_fuses ..).trans ?_) | (intro _) | split
    | dsimp only

theorem Dev.lagExpire_fuses (d : Dev) (src tag : Nat) : (Dev.lagExpire d src tag).fuses = d.fuses := by
  unfold Dev.lagExpire
  repeat' first
    | with_reducible rfl | (with_reducible refine (Dev.ackTransfer_fuses ..).trans ?_)
    | (with_reducible refine (Dev.onCirc_fuses ..).trans ?_) | (with_reducible refine (Dev.reach_fuses ..).trans ?_)
    | (with_reducible refine (Dev.recvTry_fuses ..).trans ?_) | (with_reducible refine (Dev.startExpire_fuses ..).trans ?_)
    | (with_reducible refine (foldl_keeps (fun a : _ × Dev => a.2.fuses) _ (fun _ _ => ?_) _ _).trans ?_)
    | (with_reducible refine (foldl_keeps (fun a : _ × _ × Dev => a.2.2.fuses) _ (fun _ _ => ?_) _ _).trans ?_)
    | (with_reducible refine (foldl_keeps (fun a : Dev × _ => a.1.fuses) _ (fun _ _ => ?_) _ _).trans ?_)
    | (with_reducible refine (foldl_keeps (fun a : Dev => a.fuses) _ (fun _ _ => ?_) _ _).trans ?_) | (intro _) | split | dsimp only

theorem Dev.loseParts_fuses (d : Dev) (p : Nat) : (Dev.loseParts d p).fuses = d.fuses := by
  unfold Dev.loseParts
  repeat' first
    | with_reducible rfl | (with_reducible refine (Dev.each_fuses _ _ _ fun _ _ => ?_).trans ?_)
    | (with_reducible refine (Dev.onCirc_fuses ..).trans ?_)
    | (with_reducible refine (foldl_keeps (fun a : _ × Dev => a.2.fuses) _ (fun _ _ => ?_) _ _).trans ?_)
    | (with_reducible refine (foldl_keeps (fun a : _ × _ × Dev => a.2.2.fuses) _ (fun _ _ => ?_) _ _).trans ?_)
    | (with_reducible refine (foldl_keeps (fun a : Dev × _ => a.1.fuses) _ (fun _ _ => ?_) _ _).trans ?_)
    | (with_reducible refine (foldl_keeps (fun a : Dev => a.fuses) _ (fun _ _ => ?_) _ _).trans ?_) | (intro _) | split | dsimp only

theorem Dev.recvLoses_fuses (d : Dev) (used : Bool) (p : Nat) (r : Nat × QEnt) : (Dev.recvLoses d used p r).fuses = d.fuses := by
  unfold Dev.recvLoses
  repeat' first
    | with_reducible rfl | (with_reducible refine (Dev.failTransfer_fuses ..).trans ?_)
    | (with_reducible refine (Dev.onCirc_fuses ..).trans ?_) | (with_reducible refine (Dev.onEntry_fuses ..).trans ?_)
    | (with_reducible refine (Dev.recvDamaged_fuses ..).trans ?_) | (intro _) | split | dsimp only

theorem Dev.recvsLose_fuses (d : Dev) (p : Nat) (used : Bool) : (Dev.recvsLose d p used).fuses = d.fuses := by
  unfold Dev.recvsLose
  repeat' first
    | with_reducible rfl | (with_reducible refine (Dev.each_fuses _ _ _ fun _ _ => ?_).trans ?_)
    | (with_reducible refine (Dev.loseParts_fuses ..).trans ?_) | (with_reducible refine (Dev.recvLoses_fuses ..).trans ?_) | (intro _)
    | dsimp only

theorem Dev.sendBodies_fuses (d : Dev) (c : Nat) (got : List Piece) (w : Nat) (x : Desc) : (Dev.sendBodies d c got w x).2.fuses = d.fuses
    := by
  unfold Dev.sendBodies
  repeat' first
    | with_reducible rfl | (with_reducible refine (Dev.given_fuses (h := ?_) ..).trans ?_)
    | (with_reducible refine (Dev.spaceGet_fuses ..).trans ?_) | (with_reducible refine (Dev.tookFree_fuses ..).trans ?_)
    | (with_reducible refine (foldl_keeps (fun a : _ × Dev => a.2.fuses) _ (fun _ _ => ?_) _ _).trans ?_)
    | (with_reducible refine (foldl_keeps (fun a : _ × _ × Dev => a.2.2.fuses) _ (fun _ _ => ?_) _ _).trans ?_)
    | (with_reducible refine (foldl_keeps (fun a : Dev × _ => a.1.fuses) _ (fun _ _ => ?_) _ _).trans ?_)
    | (with_reducible refine (foldl_keeps (fun a : Dev => a.fuses) _ (fun _ _ => ?_) _ _).trans ?_) | (intro _) | split | dsimp only

theorem Dev.sendDo_fuses (d : Dev) (c entry : Nat) (got : List Piece) (w lagDefault : Nat) (x : Desc) : (Dev.sendDo d c entry got w
    lagDefault x).2.fuses = d.fuses := by
  unfold Dev.sendDo
  repeat' first
    | with_reducible rfl | (exact Dev.receive_got (by assumption)) | (with_reducible refine (Dev.each_fuses _ _ _ fun _ _ => ?_).trans ?_)
    | (with_reducible refine (Dev.failTransfer_fuses ..).trans ?_) | (with_reducible refine (Dev.onCirc_fuses ..).trans ?_)
    | (with_reducible refine (Dev.packetOut_fuses ..).trans ?_) | (with_reducible refine (Dev.sendBodies_fuses ..).trans ?_)
    | (with_reducible refine (Dev.sliceDrop_fuses ..).trans ?_) | (with_reducible refine (Dev.transferIn_fuses ..).trans ?_) | (intro _)
    | split | dsimp only

theorem Dev.boardReply_fuses (d : Dev) (src tag cls : Nat) (b : Bytes) : (Dev.boardReply d src tag cls b).fuses = d.fuses := by
  unfold Dev.boardReply
  repeat' first | with_reducible rfl | (with_reducible refine (Dev.sendBoard_fuses ..).trans ?_) | dsimp only

theorem Dev.boardSyncIn_fuses (d : Dev) (h : Head) : (Dev.boardSyncIn d h).fuses = d.fuses := by
  unfold Dev.boardSyncIn
  repeat' first | with_reducible rfl | (with_reducible refine (Dev.boardSync_fuses ..).trans ?_) | split | dsimp only

theorem Dev.boardStoreIn_fuses (d : Dev) (port : Nat) (b : Bytes) : (Dev.boardStoreIn d port b).fuses = d.fuses := by
  unfold Dev.boardStoreIn
  repeat' first
    | with_reducible rfl | (exact Dev.receive_got (by assumption)) | (with_reducible refine (Dev.boardReply_fuses ..).trans ?_)
    | (with_reducible refine (Dev.boardSyncIn_fuses ..).trans ?_) | (with_reducible refine (Dev.forwardCopy_fuses ..).trans ?_)
    | (with_reducible refine (Dev.memPut_fuses ..).trans ?_) | (with_reducible refine (Dev.receive_fuses ..).trans ?_)
    | (with_reducible refine (Dev.transferIn_fuses ..).trans ?_) | split | dsimp only

theorem Dev.boardLoadIn_fuses (d : Dev) (port : Nat) (b : Bytes) : (d.boardLoadIn port b).fuses = d.fuses := by
  unfold Dev.boardLoadIn
  split
  · exact Dev.receive_got (by assumption)
  · rename_i d1 h e
    have hd := Dev.receive_got e
    split
    · exact hd
    · dsimp only
      split
      · rw [Dev.boardReply_fuses, hd]
      · split
        · split
          · rw [Dev.boardReply_fuses, Dev.memGet_fuses, hd]
          · rw [Dev.boardReply_fuses, hd]
        · rw [Dev.boardReply_fuses, Dev.memGet_fuses, hd]

theorem Dev.boardResponseIn_fuses (d : Dev) (port : Nat) (b : Bytes) : (Dev.boardResponseIn d port b).fuses = d.fuses := by
  unfold Dev.boardResponseIn
  repeat' first
    | with_reducible rfl | (exact Dev.receive_got (by assumption)) | (with_reducible refine (Dev.boardAnswer_fuses ..).trans ?_)
    | (with_reducible refine (Dev.receive_fuses ..).trans ?_) | split | dsimp only

theorem Dev.ackArrive_fuses (d : Dev) (port : Nat) (b : Bytes) : (Dev.ackArrive d port b).fuses = d.fuses := by
  unfold Dev.ackArrive
  repeat' first
    | with_reducible rfl | (exact Dev.receive_got (by assumption)) | (with_reducible refine (Dev.boardAnswer_fuses ..).trans ?_)
    | (with_reducible refine (Dev.receive_fuses ..).trans ?_) | (with_reducible refine (Dev.sendAck_fuses ..).trans ?_) | split
    | dsimp only

theorem Dev.putQueue_fuses (d : Dev) (c : Nat) (u : CoreUnit) (l : List QEnt) : (Dev.putQueue d c u l).fuses = d.fuses := by
  unfold Dev.putQueue
  repeat' first | with_reducible rfl | (with_reducible refine (Dev.onCore_fuses ..).trans ?_) | (intro _) | dsimp only

theorem Dev.setSlot_fuses (d : Dev) (c slot : Nat) (t : Tile) : (Dev.setSlot d c slot t).fuses = d.fuses := by
  unfold Dev.setSlot
  repeat' first | with_reducible rfl | (with_reducible refine (Dev.onCore_fuses ..).trans ?_) | (intro _) | dsimp only

theorem Dev.loadTile_fuses (d : Dev) (c : Nat) (j : LdwJob) : (Dev.loadTile d c j).fuses = d.fuses := by
  unfold Dev.loadTile
  repeat' first
    | with_reducible rfl | (with_reducible refine (Dev.cause_fuses ..).trans ?_)
    | (with_reducible refine (Dev.flagFold_fuses ..).trans ?_) | (with_reducible refine (Dev.onCore_fuses ..).trans ?_)
    | (with_reducible refine (Dev.rangeFault_fuses ..).trans ?_) | (with_reducible refine (Dev.setSlot_fuses ..).trans ?_) | (intro _)
    | split | dsimp only

theorem Dev.vecDo_fuses (d : Dev) (c entry : Nat) (got : List Piece) (op : Nat) (imm : Word) (bcast slot : Bool) (da db dd : Desc) :
    (Dev.vecDo d c entry got op imm bcast slot da db dd).2.fuses = d.fuses := by
  unfold Dev.vecDo
  repeat' first
    | with_reducible rfl | (with_reducible refine (Dev.failOwners_fuses ..).trans ?_)
    | (with_reducible refine (Dev.getRows_fuses ..).trans ?_) | (with_reducible refine (Dev.putRows_fuses ..).trans ?_) | (intro _)
    | split | dsimp only

theorem Dev.cvtDo_fuses (d : Dev) (c entry pc : Nat) (got : List Piece) (piece : Nat) (param : Nat) (slot : Bool) (ds dd : Desc) :
    (Dev.cvtDo d c entry pc got piece param slot ds dd).2.fuses = d.fuses := by
  unfold Dev.cvtDo
  repeat' first
    | with_reducible rfl | (with_reducible refine (Dev.convParams_fuses ..).trans ?_)
    | (with_reducible refine (Dev.failOwners_fuses ..).trans ?_) | (with_reducible refine (Dev.flagEntries_fuses ..).trans ?_)
    | (with_reducible refine (Dev.flagTile_fuses ..).trans ?_) | (with_reducible refine (Dev.getRows_fuses ..).trans ?_)
    | (with_reducible refine (Dev.putRows_fuses ..).trans ?_) | (intro _) | split | dsimp only

theorem Dev.movDo_fuses (d : Dev) (c entry : Nat) (got : List Piece) (trans skew oblong slot : Bool) (blocks m : Nat) (ds dd : Desc) :
    (Dev.movDo d c entry got trans skew oblong slot blocks m ds dd).2.fuses = d.fuses := by
  unfold Dev.movDo
  repeat' first
    | with_reducible rfl | (with_reducible refine (Dev.failOwners_fuses ..).trans ?_)
    | (with_reducible refine (Dev.getRows_fuses ..).trans ?_) | (with_reducible refine (Dev.given_fuses (h := ?_) ..).trans ?_)
    | (with_reducible refine (Dev.moveLists_fuses ..).trans ?_) | (with_reducible refine (Dev.putRows_fuses ..).trans ?_)
    | (with_reducible refine (Dev.spacePut_fuses ..).trans ?_)
    | (with_reducible refine (foldl_keeps (fun a : _ × Dev => a.2.fuses) _ (fun _ _ => ?_) _ _).trans ?_)
    | (with_reducible refine (foldl_keeps (fun a : _ × _ × Dev => a.2.2.fuses) _ (fun _ _ => ?_) _ _).trans ?_)
    | (with_reducible refine (foldl_keeps (fun a : Dev × _ => a.1.fuses) _ (fun _ _ => ?_) _ _).trans ?_)
    | (with_reducible refine (foldl_keeps (fun a : Dev => a.fuses) _ (fun _ _ => ?_) _ _).trans ?_) | (intro _) | split | dsimp only

theorem Dev.accDamage_fuses (d : Dev) (c : Nat) (j : MxmJob) (st : Status) : (Dev.accDamage d c j st).fuses = d.fuses := by
  unfold Dev.accDamage
  repeat' first
    | with_reducible rfl | (with_reducible refine (Dev.onCore_fuses ..).trans ?_)
    | (with_reducible refine (foldl_keeps (fun a : _ × Dev => a.2.fuses) _ (fun _ _ => ?_) _ _).trans ?_)
    | (with_reducible refine (foldl_keeps (fun a : _ × _ × Dev => a.2.2.fuses) _ (fun _ _ => ?_) _ _).trans ?_)
    | (with_reducible refine (foldl_keeps (fun a : Dev × _ => a.1.fuses) _ (fun _ _ => ?_) _ _).trans ?_)
    | (with_reducible refine (foldl_keeps (fun a : Dev => a.fuses) _ (fun _ _ => ?_) _ _).trans ?_) | (intro _) | dsimp only

theorem Dev.drainAll_fuses (d : Dev) (c : Nat) (j : MxmJob) : (Dev.drainAll d c j).fuses = d.fuses := by
  unfold Dev.drainAll
  repeat' first
    | with_reducible rfl | (with_reducible refine (Dev.captureTile_fuses ..).trans ?_)
    | (with_reducible refine (Dev.drainRow_fuses ..).trans ?_)
    | (with_reducible refine (foldl_keeps (fun a : _ × Dev => a.2.fuses) _ (fun _ _ => ?_) _ _).trans ?_)
    | (with_reducible refine (foldl_keeps (fun a : _ × _ × Dev => a.2.2.fuses) _ (fun _ _ => ?_) _ _).trans ?_)
    | (with_reducible refine (foldl_keeps (fun a : Dev × _ => a.1.fuses) _ (fun _ _ => ?_) _ _).trans ?_)
    | (with_reducible refine (foldl_keeps (fun a : Dev => a.fuses) _ (fun _ _ => ?_) _ _).trans ?_) | (intro _) | split | dsimp only

theorem Dev.stageArrays_fuses (d : Dev) (c : Nat) (j : MxmJob) (staging : Nat) (slot : Bool) (gap : Nat) (bubbles : List Nat) (pre :
    Option Status) : (Dev.stageArrays d c j staging slot gap bubbles pre).2.fuses = d.fuses := by
  unfold Dev.stageArrays
  repeat' first
    | with_reducible rfl | (with_reducible refine (Dev.accDamage_fuses ..).trans ?_)
    | (with_reducible refine (Dev.activateTiles_fuses ..).trans ?_) | (with_reducible refine (Dev.drainAll_fuses ..).trans ?_)
    | (with_reducible refine (Dev.failRows_fuses ..).trans ?_) | (with_reducible refine (Dev.loadShadow_fuses ..).trans ?_)
    | (with_reducible refine (Dev.streamBlock_fuses ..).trans ?_) | (intro _) | split | dsimp only

theorem Dev.stageDo_fuses (d : Dev) (c : Nat) (f : FscRun) (got : List Piece) (s : FscStage) (i gap : Nat) (bubbles : List Nat) (pre :
    Option Status) : (Dev.stageDo d c f got s i gap bubbles pre).2.fuses = d.fuses := by
  unfold Dev.stageDo
  repeat' first
    | with_reducible rfl | (with_reducible refine (Dev.cvtDo_fuses ..).trans ?_) | (with_reducible refine (Dev.fscFail_fuses ..).trans ?_)
    | (with_reducible refine (Dev.loadTile_fuses ..).trans ?_) | (with_reducible refine (Dev.movDo_fuses ..).trans ?_)
    | (with_reducible refine (Dev.setSlot_fuses ..).trans ?_) | (with_reducible refine (Dev.stageArrays_fuses ..).trans ?_)
    | (with_reducible refine (Dev.topkDo_fuses ..).trans ?_) | (with_reducible refine (Dev.vecDo_fuses ..).trans ?_) | split | dsimp only

theorem Dev.onFsc_fuses (d : Dev) (c run : Nat) (g : FscRun → FscRun) : (Dev.onFsc d c run g).fuses = d.fuses := by
  unfold Dev.onFsc
  repeat' first | with_reducible rfl | (with_reducible refine (Dev.onCore_fuses ..).trans ?_) | (intro _) | dsimp only

theorem Dev.stageEnds_fuses (d : Dev) (c run j : Nat) (s : FscStage) (i : Nat) (damage : Option Status) : (Dev.stageEnds d c run j s i
    damage).fuses = d.fuses := by
  unfold Dev.stageEnds
  repeat' first | with_reducible rfl | (with_reducible refine (Dev.onFsc_fuses ..).trans ?_) | (intro _) | split | dsimp only

theorem Dev.stageSend_fuses (d : Dev) (c run j : Nat) (f : FscRun) (got : List Piece) (s : FscStage) (i lag : Nat) : (Dev.stageSend d c
    run j f got s i lag).fuses = d.fuses := by
  unfold Dev.stageSend
  repeat' first
    | with_reducible rfl | (with_reducible refine (Dev.onFsc_fuses ..).trans ?_) | (with_reducible refine (Dev.sendDo_fuses ..).trans ?_)
    | (with_reducible refine (Dev.stageEnds_fuses ..).trans ?_) | (intro _) | split | dsimp only

theorem Dev.stageGo_fuses (d : Dev) (c run j : Nat) (f : FscRun) (got : List Piece) (lag gap : Nat) (bubbles : List Nat) : (Dev.stageGo d
    c run j f got lag gap bubbles).fuses = d.fuses := by
  unfold Dev.stageGo
  repeat' first
    | with_reducible rfl | (with_reducible refine (Dev.stageDo_fuses ..).trans ?_)
    | (with_reducible refine (Dev.stageEnds_fuses ..).trans ?_) | (with_reducible refine (Dev.stageSend_fuses ..).trans ?_) | split
    | dsimp only

theorem Dev.stageArrives_fuses (d : Dev) (c run : Nat) (f : FscRun) (s : FscStage) : (Dev.stageArrives d c run f s).fuses = d.fuses := by
  unfold Dev.stageArrives
  repeat' first | with_reducible rfl | (with_reducible refine (Dev.onFsc_fuses ..).trans ?_) | (intro _) | split | dsimp only

theorem Dev.stageIteration_fuses (d : Dev) (c run j gap : Nat) (bubbles : List Nat) : (Dev.stageIteration d c run j gap bubbles).fuses =
    d.fuses := by
  unfold Dev.stageIteration
  repeat' first
    | with_reducible rfl | (with_reducible refine (Dev.askPieces_fuses ..).trans ?_)
    | (with_reducible refine (Dev.onEntry_fuses ..).trans ?_) | (with_reducible refine (Dev.stageArrives_fuses ..).trans ?_)
    | (with_reducible refine (Dev.stageGo_fuses ..).trans ?_) | (intro _) | split | dsimp only

theorem Dev.doneOf_fuses (d : Dev) (c w : Nat) : (Dev.doneOf d c w).fuses = d.fuses := by
  unfold Dev.doneOf
  repeat' first | with_reducible rfl | (with_reducible refine (Dev.signal_fuses ..).trans ?_) | split | dsimp only

theorem Dev.onSeq_fuses (d : Dev) (c : Nat) (f : Seq → Seq) : (Dev.onSeq d c f).fuses = d.fuses := by
  unfold Dev.onSeq
  repeat' first | with_reducible rfl | (with_reducible refine (Dev.onCore_fuses ..).trans ?_) | (intro _) | dsimp only

theorem Dev.stamped_fuses (d : Dev) (c : Nat) : (Dev.stamped d c).fuses = d.fuses := by
  unfold Dev.stamped
  repeat' first | with_reducible rfl | (with_reducible refine (Dev.onSeq_fuses ..).trans ?_) | (intro _) | dsimp only

theorem Dev.beginEntry_fuses (d : Dev) (c : Nat) (e : QEnt) : (Dev.beginEntry d c e).fuses = d.fuses := by
  unfold Dev.beginEntry
  repeat' first
    | with_reducible rfl | (with_reducible refine (Dev.cvtDo_fuses ..).trans ?_)
    | (with_reducible refine (Dev.loadTile_fuses ..).trans ?_) | (with_reducible refine (Dev.movDo_fuses ..).trans ?_)
    | (with_reducible refine (Dev.onCore_fuses ..).trans ?_) | (with_reducible refine (Dev.onEntry_fuses ..).trans ?_)
    | (with_reducible refine (Dev.recvTry_fuses ..).trans ?_) | (with_reducible refine (Dev.sendDo_fuses ..).trans ?_)
    | (with_reducible refine (Dev.topkDo_fuses ..).trans ?_) | (with_reducible refine (Dev.vecDo_fuses ..).trans ?_) | (intro _) | split
    | dsimp only

theorem Dev.entryGo_fuses (d : Dev) (c : Nat) (e : QEnt) : (Dev.entryGo d c e).fuses = d.fuses := by
  unfold Dev.entryGo
  repeat' first
    | with_reducible rfl | (with_reducible refine (Dev.askPieces_fuses ..).trans ?_)
    | (with_reducible refine (Dev.beginEntry_fuses ..).trans ?_) | (with_reducible refine (Dev.onEntry_fuses ..).trans ?_) | (intro _)
    | split | dsimp only

theorem Dev.topkArrives_fuses (d : Dev) (c : Nat) (e : QEnt) : (Dev.topkArrives d c e).fuses = d.fuses := by
  unfold Dev.topkArrives
  repeat' first | with_reducible rfl | (with_reducible refine (Dev.onEntry_fuses ..).trans ?_) | (intro _) | split | dsimp only

theorem Dev.startNext_fuses (d : Dev) (c : Nat) (u : CoreUnit) : (Dev.startNext d c u).fuses = d.fuses := by
  unfold Dev.startNext
  repeat' first
    | with_reducible rfl | (with_reducible refine (Dev.entryGo_fuses ..).trans ?_)
    | (with_reducible refine (Dev.onEntry_fuses ..).trans ?_) | (with_reducible refine (Dev.topkArrives_fuses ..).trans ?_) | (intro _)
    | split | dsimp only

theorem Dev.startAll_fuses (c : Nat) (u : CoreUnit) (n : Nat) (d : Dev) : (Dev.startAll c u n d).fuses = d.fuses := by
  induction n generalizing d with
  | zero => rfl
  | succ n ih => rw [Dev.startAll]; repeat' first
    | with_reducible rfl | (with_reducible refine (ih ..).trans ?_) | (with_reducible refine (Dev.startNext_fuses ..).trans ?_)
    | dsimp only

theorem Dev.barCheck_fuses (d : Dev) : (Dev.barCheck d).fuses = d.fuses := by
  unfold Dev.barCheck
  repeat' first
    | with_reducible rfl | (with_reducible refine (Dev.doneOf_fuses ..).trans ?_)
    | (with_reducible refine (Dev.each_fuses _ _ _ fun _ _ => ?_).trans ?_) | (with_reducible refine (Dev.onSeq_fuses ..).trans ?_)
    | (intro _) | split | dsimp only

theorem Dev.coresGo_fuses (d : Dev) : (Dev.coresGo d).fuses = d.fuses := by
  unfold Dev.coresGo
  repeat' first
    | with_reducible rfl | (with_reducible refine (Dev.barCheck_fuses ..).trans ?_)
    | (with_reducible refine (Dev.each_fuses _ _ _ fun _ _ => ?_).trans ?_) | (with_reducible refine (Dev.startAll_fuses ..).trans ?_)
    | (intro _) | dsimp only

theorem Dev.enqueue_fuses (d : Dev) (c : Nat) (u : CoreUnit) (w : Nat) : (Dev.enqueue d c u w).fuses = d.fuses := by
  unfold Dev.enqueue
  repeat' first
    | with_reducible rfl | (with_reducible refine (Dev.onSeq_fuses ..).trans ?_)
    | (with_reducible refine (Dev.putQueue_fuses ..).trans ?_) | (intro _) | dsimp only

theorem Dev.issue_fuses (d : Dev) (c : Nat) (u : CoreUnit) (w : Nat) : (Dev.issue d c u w).fuses = d.fuses := by
  unfold Dev.issue
  repeat' first
    | with_reducible rfl | (with_reducible refine (Dev.coresGo_fuses ..).trans ?_)
    | (with_reducible refine (Dev.enqueue_fuses ..).trans ?_) | split | dsimp only

theorem Dev.issueIf_fuses (d : Dev) (c : Nat) (u : CoreUnit) (test : Nat → Bool) : (Dev.issueIf d c u test).fuses = d.fuses := by
  unfold Dev.issueIf
  repeat' first | with_reducible rfl | (with_reducible refine (Dev.issue_fuses ..).trans ?_) | split | dsimp only

theorem Dev.doIf_fuses (d : Dev) (c opc : Nat) (f : Seq → Seq) : (Dev.doIf d c opc f).fuses = d.fuses := by
  unfold Dev.doIf
  repeat' first
    | with_reducible rfl | (with_reducible refine (Dev.doneOf_fuses ..).trans ?_) | (with_reducible refine (Dev.onSeq_fuses ..).trans ?_)
    | (with_reducible refine (Dev.stamped_fuses ..).trans ?_) | (intro _) | split | dsimp only

theorem Dev.barHere_fuses (d : Dev) (c w : Nat) : (Dev.barHere d c w).fuses = d.fuses := by
  unfold Dev.barHere
  repeat' first
    | with_reducible rfl | (with_reducible refine (Dev.each_fuses _ _ _ fun _ _ => ?_).trans ?_)
    | (with_reducible refine (Dev.onSeq_fuses ..).trans ?_) | (intro _) | split | dsimp only

theorem Dev.barIssue_fuses (d : Dev) (c : Nat) : (Dev.barIssue d c).fuses = d.fuses := by
  unfold Dev.barIssue
  repeat' first
    | with_reducible rfl | (with_reducible refine (Dev.barHere_fuses ..).trans ?_)
    | (with_reducible refine (Dev.coresGo_fuses ..).trans ?_) | split | dsimp only

theorem Dev.feTokens_fuses (d : Dev) (c w : Nat) : (Dev.feTokens d c w).fuses = d.fuses := by
  unfold Dev.feTokens
  repeat' first
    | with_reducible rfl | (with_reducible refine (Dev.each_fuses _ _ _ fun _ _ => ?_).trans ?_)
    | (with_reducible refine (Dev.onSeq_fuses ..).trans ?_) | (with_reducible refine (Dev.putQueue_fuses ..).trans ?_) | (intro _) | split
    | dsimp only

theorem Dev.feFails_fuses (d : Dev) (r : SyncReq) (st : Status) : (Dev.feFails d r st).fuses = d.fuses := by
  unfold Dev.feFails
  repeat' first
    | with_reducible rfl | (with_reducible refine (Dev.syncFailed_fuses ..).trans ?_)
    | (with_reducible refine (Dev.syncIssue_fuses ..).trans ?_) | split | dsimp only

theorem Dev.feSend_fuses (d : Dev) (c w entry : Nat) (r : SyncReq) : (Dev.feSend d c w entry r).fuses = d.fuses := by
  unfold Dev.feSend
  repeat' first
    | with_reducible rfl | (with_reducible refine (Dev.boardOut_fuses ..).trans ?_)
    | (with_reducible refine (Dev.feFails_fuses ..).trans ?_) | (with_reducible refine (Dev.syncIssue_fuses ..).trans ?_) | split
    | dsimp only

theorem Dev.feIssue_fuses (d : Dev) (c : Nat) (op : SyncOp) : (Dev.feIssue d c op).fuses = d.fuses := by
  unfold Dev.feIssue
  repeat' first
    | with_reducible rfl | (with_reducible refine (Dev.coresGo_fuses ..).trans ?_)
    | (with_reducible refine (Dev.feSend_fuses ..).trans ?_) | (with_reducible refine (Dev.feTokens_fuses ..).trans ?_) | (intro _)
    | split | dsimp only

theorem Dev.leaveQueue_fuses (d : Dev) (c : Nat) (u : CoreUnit) (e : QEnt) (t : List QEnt) : (Dev.leaveQueue d c u e t).fuses = d.fuses :=
    by
  unfold Dev.leaveQueue
  repeat' first
    | with_reducible rfl | (with_reducible refine (Dev.onCore_fuses ..).trans ?_)
    | (with_reducible refine (Dev.putQueue_fuses ..).trans ?_) | (intro _) | dsimp only

theorem Dev.complete_fuses (d : Dev) (c : Nat) (u : CoreUnit) : (Dev.complete d c u).fuses = d.fuses := by
  unfold Dev.complete
  repeat' first
    | with_reducible rfl | (with_reducible refine (Dev.coresGo_fuses ..).trans ?_)
    | (with_reducible refine (Dev.doneOf_fuses ..).trans ?_) | (with_reducible refine (Dev.leaveQueue_fuses ..).trans ?_)
    | (with_reducible refine (Dev.stamped_fuses ..).trans ?_) | split | dsimp only

theorem Dev.reload_fuses (d : Dev) (c lc : Nat) : (Dev.reload d c lc).fuses = d.fuses := by
  unfold Dev.reload
  repeat' first | with_reducible rfl | (with_reducible refine (Dev.onCore_fuses ..).trans ?_) | (intro _) | dsimp only

theorem Dev.coreOff_fuses (d : Dev) (c : Nat) : (Dev.coreOff d c).fuses = d.fuses := by
  unfold Dev.coreOff
  repeat' first | with_reducible rfl | (with_reducible refine (Dev.onCore_fuses ..).trans ?_) | (intro _) | dsimp only

theorem Dev.applyMap_fuses (d : Dev) (fold : Nat) : (Dev.applyMap d fold).fuses = d.fuses := by
  unfold Dev.applyMap
  repeat' first
    | with_reducible rfl | (with_reducible refine (Dev.coreOff_fuses ..).trans ?_)
    | (with_reducible refine (Dev.each_fuses _ _ _ fun _ _ => ?_).trans ?_) | (with_reducible refine (Dev.onCore_fuses ..).trans ?_)
    | (with_reducible refine (Dev.onPwr_fuses ..).trans ?_) | (with_reducible refine (Dev.onWork_fuses ..).trans ?_)
    | (with_reducible refine (Dev.reload_fuses ..).trans ?_) | (intro _) | split | dsimp only

theorem Dev.dropLists_fuses (d : Dev) (space : Nat) : (Dev.dropLists d space).fuses = d.fuses := by
  unfold Dev.dropLists
  repeat' first | with_reducible rfl | (intro _) | dsimp only

theorem Dev.clearBuffers_fuses (d : Dev) : (Dev.clearBuffers d).fuses = d.fuses := by
  unfold Dev.clearBuffers
  repeat' first
    | with_reducible rfl | (with_reducible refine (Dev.dropLists_fuses ..).trans ?_)
    | (with_reducible refine (Dev.each_fuses _ _ _ fun _ _ => ?_).trans ?_) | (with_reducible refine (Dev.onCore_fuses ..).trans ?_)
    | (intro _) | dsimp only

theorem Dev.clearCmem_fuses (d0 : Dev) : (Dev.clearCmem d0).fuses = d0.fuses := by
  unfold Dev.clearCmem
  repeat' first | with_reducible rfl | (with_reducible refine (Dev.dropLists_fuses ..).trans ?_) | dsimp only

theorem Dev.coresOff_fuses (d : Dev) : (Dev.coresOff d).fuses = d.fuses := by
  unfold Dev.coresOff
  repeat' first
    | with_reducible rfl | (with_reducible refine (Dev.each_fuses _ _ _ fun _ _ => ?_).trans ?_)
    | (with_reducible refine (Dev.onCore_fuses ..).trans ?_) | (intro _) | dsimp only

theorem Dev.clearSync_fuses (d : Dev) : (Dev.clearSync d).fuses = d.fuses := by
  unfold Dev.clearSync
  repeat' first | with_reducible rfl | dsimp only

theorem Dev.deactivate_fuses (d : Dev) : (Dev.deactivate d).fuses = d.fuses := by
  unfold Dev.deactivate
  repeat' first
    | with_reducible rfl | (with_reducible refine (Dev.cross_fuses ..).trans ?_) | (with_reducible refine (Dev.onCirc_fuses ..).trans ?_)
    | (with_reducible refine (Dev.onWork_fuses ..).trans ?_) | (intro _) | dsimp only

theorem Dev.releaseOut_fuses (d : Dev) (port : Nat) (b : Bytes) : (Dev.releaseOut d port b).fuses = d.fuses := by
  unfold Dev.releaseOut
  repeat' first | with_reducible rfl | (with_reducible refine (Dev.linkOut_fuses ..).trans ?_) | split | dsimp only

theorem Dev.releaseSetups_fuses (d : Dev) (g : Gathering) (nbrs : List Nbr) : (Dev.releaseSetups d g nbrs).fuses = d.fuses := by
  unfold Dev.releaseSetups
  repeat' first
    | with_reducible rfl | (with_reducible refine (Dev.each_fuses _ _ _ fun _ _ => ?_).trans ?_)
    | (with_reducible refine (Dev.releaseOut_fuses ..).trans ?_) | (intro _) | dsimp only

theorem Dev.releaseGath_fuses (d : Dev) : (Dev.releaseGath d).fuses = d.fuses := by
  unfold Dev.releaseGath
  repeat' first
    | with_reducible rfl | (with_reducible refine (Dev.onWork_fuses ..).trans ?_)
    | (with_reducible refine (Dev.releaseSetups_fuses ..).trans ?_) | (intro _) | split | dsimp only

theorem Dev.logPower_fuses (d : Dev) (origin obj old new detail : Nat) : (Dev.logPower d origin obj old new detail).fuses = d.fuses := by
  unfold Dev.logPower
  repeat' first
    | with_reducible rfl | (with_reducible refine (Dev.log_fuses ..).trans ?_) | (with_reducible refine (Dev.logSafety_fuses ..).trans ?_)
    | split | dsimp only

theorem Dev.setFold_fuses (d : Dev) (f own : Nat) : (Dev.setFold d f own).fuses = d.fuses := by
  unfold Dev.setFold
  repeat' first
    | with_reducible rfl | (with_reducible refine (Dev.applyMap_fuses ..).trans ?_)
    | (with_reducible refine (Dev.logPower_fuses ..).trans ?_) | (with_reducible refine (Dev.onPwr_fuses ..).trans ?_) | (intro _) | split
    | dsimp only

theorem Dev.decideFold_fuses (d : Dev) (p : Nat) : (Dev.decideFold d p).1.fuses = d.fuses := by
  unfold Dev.decideFold
  repeat' first
    | with_reducible rfl | (with_reducible refine (Dev.onPwr_fuses ..).trans ?_) | (with_reducible refine (Dev.setFold_fuses ..).trans ?_)
    | (intro _) | dsimp only

theorem Dev.startPoint_fuses (d : Dev) (o : Nat) : (Dev.startPoint d o).fuses = d.fuses := by
  unfold Dev.startPoint
  repeat' first
    | with_reducible rfl | (with_reducible refine (Dev.colRelease_fuses ..).trans ?_)
    | (with_reducible refine (Dev.colReserve_fuses ..).trans ?_) | (with_reducible refine (Dev.given_fuses (h := ?_) ..).trans ?_)
    | (with_reducible refine (Dev.onPwr_fuses ..).trans ?_) | (intro _) | split | dsimp only

theorem Dev.unitsOff_fuses (d : Dev) (p : Nat) : (Dev.unitsOff d p).fuses = d.fuses := by
  unfold Dev.unitsOff
  repeat' first
    | with_reducible rfl | (with_reducible refine (Dev.each_fuses _ _ _ fun _ _ => ?_).trans ?_)
    | (with_reducible refine (Dev.linkOut_fuses ..).trans ?_) | (with_reducible refine (Dev.onPwr_fuses ..).trans ?_)
    | (with_reducible refine (foldl_keeps (fun a : _ × Dev => a.2.fuses) _ (fun _ _ => ?_) _ _).trans ?_)
    | (with_reducible refine (foldl_keeps (fun a : _ × _ × Dev => a.2.2.fuses) _ (fun _ _ => ?_) _ _).trans ?_)
    | (with_reducible refine (foldl_keeps (fun a : Dev × _ => a.1.fuses) _ (fun _ _ => ?_) _ _).trans ?_)
    | (with_reducible refine (foldl_keeps (fun a : Dev => a.fuses) _ (fun _ _ => ?_) _ _).trans ?_) | (intro _) | split | dsimp only

theorem Dev.dropRuns_fuses (d : Dev) : (Dev.dropRuns d).fuses = d.fuses := by
  unfold Dev.dropRuns
  repeat' first
    | with_reducible rfl | (with_reducible refine (Dev.each_fuses _ _ _ fun _ _ => ?_).trans ?_)
    | (with_reducible refine (Dev.settle_fuses ..).trans ?_) | (intro _) | dsimp only

theorem Dev.leaveFold_fuses (d : Dev) : (Dev.leaveFold d).fuses = d.fuses := by
  unfold Dev.leaveFold
  repeat' first
    | with_reducible rfl | (with_reducible refine (Dev.deactivate_fuses ..).trans ?_)
    | (with_reducible refine (Dev.dropRuns_fuses ..).trans ?_) | (with_reducible refine (Dev.endRun_fuses ..).trans ?_)
    | (with_reducible refine (Dev.failAllItems_fuses ..).trans ?_) | (with_reducible refine (Dev.finishRuns_fuses ..).trans ?_)
    | (with_reducible refine (Dev.releaseGath_fuses ..).trans ?_) | dsimp only

theorem Dev.boundaryDecisions_fuses (d : Dev) (p : Nat) : (Dev.boundaryDecisions d p).fuses = d.fuses := by
  unfold Dev.boundaryDecisions
  repeat' first
    | with_reducible rfl | (with_reducible refine (Dev.decideFold_fuses ..).trans ?_)
    | (with_reducible refine (Dev.leaveFold_fuses ..).trans ?_) | (with_reducible refine (Dev.startPoint_fuses ..).trans ?_)
    | (with_reducible refine (Dev.unitsOff_fuses ..).trans ?_) | split | dsimp only

theorem Dev.startCores_fuses (d : Dev) : (Dev.startCores d).fuses = d.fuses := by
  unfold Dev.startCores
  repeat' first
    | with_reducible rfl | (with_reducible refine (Dev.coresGo_fuses ..).trans ?_)
    | (with_reducible refine (Dev.each_fuses _ _ _ fun _ _ => ?_).trans ?_) | (with_reducible refine (Dev.onSeq_fuses ..).trans ?_)
    | (with_reducible refine (Dev.onWork_fuses ..).trans ?_) | (intro _) | split | dsimp only

theorem Dev.startOrWait_fuses (d : Dev) : (Dev.startOrWait d).fuses = d.fuses := by
  unfold Dev.startOrWait
  repeat' first
    | with_reducible rfl | (with_reducible refine (Dev.onWork_fuses ..).trans ?_)
    | (with_reducible refine (Dev.startCores_fuses ..).trans ?_) | (intro _) | split | dsimp only

theorem Dev.oppDone_fuses (d : Dev) (c : OppChange) : (Dev.oppDone d c).fuses = d.fuses := by
  unfold Dev.oppDone
  repeat' first
    | with_reducible rfl | (with_reducible refine (Dev.colRelease_fuses ..).trans ?_)
    | (with_reducible refine (Dev.given_fuses (h := ?_) ..).trans ?_) | (with_reducible refine (Dev.logPower_fuses ..).trans ?_)
    | (with_reducible refine (Dev.onPwr_fuses ..).trans ?_) | (with_reducible refine (Dev.startCores_fuses ..).trans ?_) | (intro _)
    | split | dsimp only

theorem Dev.oppDrop_fuses (d : Dev) : (Dev.oppDrop d).fuses = d.fuses := by
  unfold Dev.oppDrop
  repeat' first
    | with_reducible rfl | (with_reducible refine (Dev.colRelease_fuses ..).trans ?_)
    | (with_reducible refine (Dev.onPwr_fuses ..).trans ?_) | (with_reducible refine (Dev.startCores_fuses ..).trans ?_) | (intro _)
    | split | dsimp only

theorem Dev.droop_fuses (d : Dev) (c lvl : Nat) : (Dev.droop d c lvl).fuses = d.fuses := by
  unfold Dev.droop
  repeat' first | with_reducible rfl | (with_reducible refine (Dev.onPwr_fuses ..).trans ?_) | (intro _) | split | dsimp only

theorem Dev.limiterStep_fuses (d : Dev) : (Dev.limiterStep d).fuses = d.fuses := by
  unfold Dev.limiterStep
  repeat' first | with_reducible rfl | (with_reducible refine (Dev.onPwr_fuses ..).trans ?_) | (intro _) | split | dsimp only

theorem Dev.learnFrom_fuses (d : Dev) (s : Span) (inW : Nat) (rails : List RailSample) : (Dev.learnFrom d s inW rails).fuses = d.fuses := by
  unfold Dev.learnFrom
  repeat' first
    | with_reducible rfl | (with_reducible refine (Dev.onPwr_fuses ..).trans ?_)
    | (with_reducible refine (foldl_keeps (fun a : _ × Dev => a.2.fuses) _ (fun _ _ => ?_) _ _).trans ?_)
    | (with_reducible refine (foldl_keeps (fun a : _ × _ × Dev => a.2.2.fuses) _ (fun _ _ => ?_) _ _).trans ?_)
    | (with_reducible refine (foldl_keeps (fun a : Dev × _ => a.1.fuses) _ (fun _ _ => ?_) _ _).trans ?_)
    | (with_reducible refine (foldl_keeps (fun a : Dev => a.fuses) _ (fun _ _ => ?_) _ _).trans ?_) | (intro _) | split | dsimp only

theorem Dev.learn_fuses (d : Dev) (inW : Nat) (rails : List RailSample) : (Dev.learn d inW rails).fuses = d.fuses := by
  unfold Dev.learn
  repeat' first
    | with_reducible rfl | (with_reducible refine (Dev.learnFrom_fuses ..).trans ?_)
    | (with_reducible refine (Dev.onPwr_fuses ..).trans ?_) | (intro _) | split | dsimp only

theorem Dev.learnDur_fuses (d : Dev) (p ns : Nat) : (Dev.learnDur d p ns).fuses = d.fuses := by
  unfold Dev.learnDur
  repeat' first | with_reducible rfl | (with_reducible refine (Dev.onPwr_fuses ..).trans ?_) | (intro _) | split | dsimp only

theorem Dev.thermAlert_fuses (d : Dev) : (Dev.thermAlert d).fuses = d.fuses := by
  unfold Dev.thermAlert
  repeat' first | with_reducible rfl | (with_reducible refine (Dev.emit_fuses ..).trans ?_) | split | dsimp only

theorem Dev.readHeat_fuses (d : Dev) (l : List Nat) : (Dev.readHeat d l).fuses = d.fuses := by
  unfold Dev.readHeat
  repeat' first
    | with_reducible rfl | (with_reducible refine (Dev.thermAlert_fuses ..).trans ?_)
    | (with_reducible refine (foldl_keeps (fun a : _ × Dev => a.2.fuses) _ (fun _ _ => ?_) _ _).trans ?_)
    | (with_reducible refine (foldl_keeps (fun a : _ × _ × Dev => a.2.2.fuses) _ (fun _ _ => ?_) _ _).trans ?_)
    | (with_reducible refine (foldl_keeps (fun a : Dev × _ => a.1.fuses) _ (fun _ _ => ?_) _ _).trans ?_)
    | (with_reducible refine (foldl_keeps (fun a : Dev => a.fuses) _ (fun _ _ => ?_) _ _).trans ?_) | (intro _) | split | dsimp only

theorem Dev.dropStaging_fuses (d : Dev) : (Dev.dropStaging d).fuses = d.fuses := by
  unfold Dev.dropStaging
  repeat' first
    | with_reducible rfl | (with_reducible refine (Dev.cross_fuses ..).trans ?_)
    | (with_reducible refine (Dev.each_fuses _ _ _ fun _ _ => ?_).trans ?_) | (with_reducible refine (Dev.onCirc_fuses ..).trans ?_)
    | (with_reducible refine (Dev.onLink_fuses ..).trans ?_) | (intro _) | split | dsimp only

theorem Dev.cordsOff_fuses (d : Dev) : (Dev.cordsOff d).fuses = d.fuses := by
  unfold Dev.cordsOff
  repeat' first
    | with_reducible rfl | (with_reducible refine (Dev.each_fuses _ _ _ fun _ _ => ?_).trans ?_)
    | (with_reducible refine (Dev.onPort_fuses ..).trans ?_) | (intro _) | split | dsimp only

theorem Dev.stopStation_fuses (d : Dev) (cause : Nat) (obj : Nat) (st : Status) : (Dev.stopStation d cause obj st).fuses = d.fuses := by
  unfold Dev.stopStation
  repeat' first
    | with_reducible rfl | (with_reducible refine (Dev.cause_fuses ..).trans ?_)
    | (with_reducible refine (Dev.clearBuffers_fuses ..).trans ?_) | (with_reducible refine (Dev.clearCmem_fuses ..).trans ?_)
    | (with_reducible refine (Dev.clearSync_fuses ..).trans ?_) | (with_reducible refine (Dev.colRelease_fuses ..).trans ?_)
    | (with_reducible refine (Dev.cordsOff_fuses ..).trans ?_) | (with_reducible refine (Dev.coresOff_fuses ..).trans ?_)
    | (with_reducible refine (Dev.deactivate_fuses ..).trans ?_) | (with_reducible refine (Dev.droop_fuses ..).trans ?_)
    | (with_reducible refine (Dev.dropRuns_fuses ..).trans ?_) | (with_reducible refine (Dev.dropStaging_fuses ..).trans ?_)
    | (with_reducible refine (Dev.each_fuses _ _ _ fun _ _ => ?_).trans ?_) | (with_reducible refine (Dev.failAllItems_fuses ..).trans ?_)
    | (with_reducible refine (Dev.finishRuns_fuses ..).trans ?_) | (with_reducible refine (Dev.given_fuses (h := ?_) ..).trans ?_)
    | (with_reducible refine (Dev.linkOut_fuses ..).trans ?_) | (with_reducible refine (Dev.logSafety_fuses ..).trans ?_)
    | (with_reducible refine (Dev.onCirc_fuses ..).trans ?_) | (with_reducible refine (Dev.onPwr_fuses ..).trans ?_)
    | (with_reducible refine (Dev.onWork_fuses ..).trans ?_) | (with_reducible refine (Dev.platformEvent_fuses ..).trans ?_)
    | (with_reducible refine (Dev.releaseGath_fuses ..).trans ?_) | (with_reducible refine (Dev.settle_fuses ..).trans ?_)
    | (with_reducible refine (Dev.stopRun_fuses ..).trans ?_) | (with_reducible refine (Dev.thermAlert_fuses ..).trans ?_) | (intro _)
    | split | dsimp only

theorem Dev.beginMemory_fuses (d : Dev) : (Dev.beginMemory d).fuses = d.fuses := by
  unfold Dev.beginMemory
  repeat' first
    | with_reducible rfl | (with_reducible refine (Dev.each_fuses _ _ _ fun _ _ => ?_).trans ?_)
    | (with_reducible refine (Dev.emit_fuses ..).trans ?_) | (with_reducible refine (Dev.onPort_fuses ..).trans ?_)
    | (with_reducible refine (Dev.portChange_fuses (h_f := ?_) ..).trans ?_) | (intro _) | dsimp only

theorem Dev.resumeStation_fuses (d : Dev) : (Dev.resumeStation d).fuses = d.fuses := by
  unfold Dev.resumeStation
  repeat' first
    | with_reducible rfl | (with_reducible refine (Dev.beginMemory_fuses ..).trans ?_)
    | (with_reducible refine (Dev.each_fuses _ _ _ fun _ _ => ?_).trans ?_) | (with_reducible refine (Dev.onPwr_fuses ..).trans ?_)
    | (with_reducible refine (Dev.thermAlert_fuses ..).trans ?_) | (with_reducible refine (Dev.wakeCords_fuses ..).trans ?_) | (intro _)
    | split | dsimp only

theorem Dev.accountBoost_fuses (d : Dev) (ms spent : Nat) : (Dev.accountBoost d ms spent).fuses = d.fuses := by
  unfold Dev.accountBoost
  repeat' first | with_reducible rfl | dsimp only

theorem Dev.judgeBoost_fuses (d : Dev) : (Dev.judgeBoost d).fuses = d.fuses := Dev.onPwr_fuses _ _

theorem Dev.resumeBoost_fuses (d : Dev) : (Dev.resumeBoost d).fuses = d.fuses := by
  unfold Dev.resumeBoost
  repeat' first
    | with_reducible rfl | (with_reducible refine (Dev.accountBoost_fuses ..).trans ?_)
    | (with_reducible refine (Dev.judgeBoost_fuses ..).trans ?_) | (with_reducible refine (Dev.onPwr_fuses ..).trans ?_) | (intro _)
    | dsimp only

theorem Dev.applySyncPlan_fuses (d : Dev) : (Dev.applySyncPlan d).fuses = d.fuses := by
  unfold Dev.applySyncPlan
  repeat' first
    | with_reducible rfl | (with_reducible refine (Dev.each_fuses _ _ _ fun _ _ => ?_).trans ?_)
    | (with_reducible refine (Dev.syncArrive_fuses ..).trans ?_) | (intro _) | split | dsimp only

theorem Dev.enterIdle_fuses (d : Dev) (s : Idle) : (Dev.enterIdle d s).fuses = d.fuses := by
  unfold Dev.enterIdle
  repeat' first
    | with_reducible rfl | (with_reducible refine (Dev.clearBuffers_fuses ..).trans ?_)
    | (with_reducible refine (Dev.clearCmem_fuses ..).trans ?_) | (with_reducible refine (Dev.clearSync_fuses ..).trans ?_)
    | (with_reducible refine (Dev.cordsOff_fuses ..).trans ?_) | (with_reducible refine (Dev.dropStaging_fuses ..).trans ?_)
    | (with_reducible refine (Dev.each_fuses _ _ _ fun _ _ => ?_).trans ?_) | (with_reducible refine (Dev.onCore_fuses ..).trans ?_)
    | (with_reducible refine (Dev.onPwr_fuses ..).trans ?_) | (intro _) | split | dsimp only

theorem Dev.wake_fuses (d : Dev) : (Dev.wake d).fuses = d.fuses := by
  unfold Dev.wake
  repeat' first
    | with_reducible rfl | (with_reducible refine (Dev.applySyncPlan_fuses ..).trans ?_)
    | (with_reducible refine (Dev.each_fuses _ _ _ fun _ _ => ?_).trans ?_)
    | (with_reducible refine (Dev.given_fuses (h := ?_) ..).trans ?_) | (with_reducible refine (Dev.onPwr_fuses ..).trans ?_)
    | (with_reducible refine (Dev.reload_fuses ..).trans ?_) | (with_reducible refine (Dev.wakeCords_fuses ..).trans ?_) | (intro _)
    | split | dsimp only

theorem Dev.awake_fuses (d : Dev) : (Dev.awake d).fuses = d.fuses := by
  unfold Dev.awake
  repeat' first | with_reducible rfl | (with_reducible refine (Dev.wake_fuses ..).trans ?_) | split | dsimp only

theorem Dev.rouse_fuses (d : Dev) : (Dev.rouse d).fuses = d.fuses := by
  unfold Dev.rouse
  repeat' first
    | with_reducible rfl | (with_reducible refine (Dev.reach_fuses ..).trans ?_) | (with_reducible refine (Dev.wake_fuses ..).trans ?_)
    | split | dsimp only

theorem Dev.rouseAt_fuses (d : Dev) (p : Nat) : (Dev.rouseAt d p).fuses = d.fuses := by
  unfold Dev.rouseAt
  repeat' first
    | with_reducible rfl | (with_reducible refine (Dev.given_fuses (h := ?_) ..).trans ?_)
    | (with_reducible refine (Dev.rouse_fuses ..).trans ?_) | dsimp only

theorem Dev.stageSig_fuses (d : Dev) (b : Bytes) (port : Nat) (inWindow : Bool) : (Dev.stageSig d b port inWindow).fuses = d.fuses := by
  unfold Dev.stageSig
  repeat' first
    | with_reducible rfl | (with_reducible refine (Dev.onCirc_fuses ..).trans ?_)
    | (with_reducible refine (Dev.touchPeak_fuses ..).trans ?_) | (intro _) | dsimp only

theorem Dev.admitAhead_fuses (origin : Nat) (n : Nat) (d : Dev) : (Dev.admitAhead origin n d).fuses = d.fuses := by
  induction n generalizing d with
  | zero => rfl
  | succ n ih => rw [Dev.admitAhead]; repeat' first
    | with_reducible rfl | (with_reducible refine (ih ..).trans ?_) | (with_reducible refine (Dev.onCirc_fuses ..).trans ?_) | (intro _)
    | split | dsimp only

theorem Dev.dropRepeats_fuses (d : Dev) (origin : Nat) : (Dev.dropRepeats d origin).fuses = d.fuses := by
  unfold Dev.dropRepeats
  repeat' first | with_reducible rfl | (with_reducible refine (Dev.onCirc_fuses ..).trans ?_) | (intro _) | dsimp only

theorem Dev.passSig_fuses (d : Dev) (port : Nat) (b : Bytes) : (Dev.passSig d port b).fuses = d.fuses := by
  unfold Dev.passSig
  repeat' first | with_reducible rfl | (with_reducible refine (Dev.spread_fuses ..).trans ?_) | dsimp only

theorem Dev.obtainSig_fuses (d : Dev) (port : Nat) (b : Bytes) : (d.obtainSig port b).fuses = d.fuses :=
  (Dev.dropRepeats_fuses ..).trans ((Dev.admitAhead_fuses ..).trans ((Dev.stageSig_fuses ..).trans (Dev.onCirc_fuses ..)))

theorem Dev.takeSig_fuses (d : Dev) (port : Nat) (b : Bytes) : (Dev.takeSig d port b).fuses = d.fuses := by
  unfold Dev.takeSig
  repeat' first
    | with_reducible rfl | (with_reducible refine (Dev.obtainSig_fuses ..).trans ?_)
    | (with_reducible refine (Dev.onCirc_fuses ..).trans ?_) | (with_reducible refine (Dev.stageSig_fuses ..).trans ?_) | (intro _)
    | split | dsimp only

theorem Dev.sigArrive_fuses (d : Dev) (port : Nat) (packet : Bytes) : (Dev.sigArrive d port packet).fuses = d.fuses := by
  unfold Dev.sigArrive
  repeat' first
    | with_reducible rfl | (exact Dev.receive_got (by assumption)) | (with_reducible refine (Dev.endRun_fuses ..).trans ?_)
    | (with_reducible refine (Dev.passSig_fuses ..).trans ?_) | (with_reducible refine (Dev.receive_fuses ..).trans ?_)
    | (with_reducible refine (Dev.takeSig_fuses ..).trans ?_) | split | dsimp only

theorem Dev.placeCore_fuses {d d1 : Dev} {b : Bytes} {lc : Nat} {w : Bool} (h : d.placeCore b lc = some (w, d1)) :
    d1.fuses = d.fuses := by
  unfold Dev.placeCore at h
  dsimp only at h
  split at h
  · cases h; rfl
  · split at h
    · split at h
      · cases h
      · cases h; rfl
    · cases h

theorem Dev.countPlace_fuses (d : Dev) (step lc : Nat) : (Dev.countPlace d step lc).fuses = d.fuses := by
  unfold Dev.countPlace
  repeat' first
    | with_reducible rfl | (with_reducible refine (Dev.onCirc_fuses ..).trans ?_)
    | (with_reducible refine (Dev.syncArrive_fuses ..).trans ?_) | (intro _) | split | dsimp only

theorem Dev.placeSig_fuses (d : Dev) (b : Bytes) : (d.placeSig b).2.fuses = d.fuses := by
  unfold Dev.placeSig
  refine (foldl_keeps (fun a : Bool × Dev => a.2.fuses) _ (fun a lc => ?_) _ _).trans rfl
  split
  · rfl
  · rename_i w d1 h
    have := Dev.placeCore_fuses h
    split
    · rw [Dev.countPlace_fuses, this]
    · exact this

theorem Dev.leaveStaging_fuses (d : Dev) (s : HeldSig) : (Dev.leaveStaging d s).fuses = d.fuses := by
  unfold Dev.leaveStaging
  repeat' first | with_reducible rfl | (with_reducible refine (Dev.onCirc_fuses ..).trans ?_) | (intro _) | split | dsimp only

theorem Dev.placeNext_fuses (d : Dev) : (Dev.placeNext d).fuses = d.fuses := by
  unfold Dev.placeNext
  repeat' first
    | with_reducible rfl | (with_reducible refine (Dev.coresGo_fuses ..).trans ?_)
    | (with_reducible refine (Dev.endRun_fuses ..).trans ?_) | (with_reducible refine (Dev.leaveStaging_fuses ..).trans ?_)
    | (with_reducible refine (Dev.onCirc_fuses ..).trans ?_) | (with_reducible refine (Dev.placeSig_fuses ..).trans ?_)
    | (with_reducible refine (Dev.spine_fuses ..).trans ?_) | (intro _) | split | dsimp only

theorem Dev.enterStep_fuses (d : Dev) (step : Nat) (foldChanged : Bool) : (Dev.enterStep d step foldChanged).fuses = d.fuses := by
  unfold Dev.enterStep
  repeat' first
    | with_reducible rfl | (with_reducible refine (Dev.each_fuses _ _ _ fun _ _ => ?_).trans ?_)
    | (with_reducible refine (Dev.endRun_fuses ..).trans ?_) | (with_reducible refine (Dev.onCirc_fuses ..).trans ?_)
    | (with_reducible refine (Dev.placeSig_fuses ..).trans ?_) | (with_reducible refine (Dev.syncArrive_fuses ..).trans ?_)
    | (with_reducible refine (foldl_keeps (fun a : _ × Dev => a.2.fuses) _ (fun _ _ => ?_) _ _).trans ?_)
    | (with_reducible refine (foldl_keeps (fun a : _ × _ × Dev => a.2.2.fuses) _ (fun _ _ => ?_) _ _).trans ?_)
    | (with_reducible refine (foldl_keeps (fun a : Dev × _ => a.1.fuses) _ (fun _ _ => ?_) _ _).trans ?_)
    | (with_reducible refine (foldl_keeps (fun a : Dev => a.fuses) _ (fun _ _ => ?_) _ _).trans ?_) | (intro _) | split | dsimp only

theorem Dev.redoStep_fuses (d : Dev) (step : Nat) : (Dev.redoStep d step).fuses = d.fuses := by
  unfold Dev.redoStep
  repeat' first
    | with_reducible rfl | (with_reducible refine (Dev.each_fuses _ _ _ fun _ _ => ?_).trans ?_)
    | (with_reducible refine (Dev.endRun_fuses ..).trans ?_) | (with_reducible refine (Dev.placeSig_fuses ..).trans ?_)
    | (with_reducible refine (Dev.syncArrive_fuses ..).trans ?_)
    | (with_reducible refine (foldl_keeps (fun a : _ × Dev => a.2.fuses) _ (fun _ _ => ?_) _ _).trans ?_)
    | (with_reducible refine (foldl_keeps (fun a : _ × _ × Dev => a.2.2.fuses) _ (fun _ _ => ?_) _ _).trans ?_)
    | (with_reducible refine (foldl_keeps (fun a : Dev × _ => a.1.fuses) _ (fun _ _ => ?_) _ _).trans ?_)
    | (with_reducible refine (foldl_keeps (fun a : Dev => a.fuses) _ (fun _ _ => ?_) _ _).trans ?_) | (intro _) | split | dsimp only

theorem Dev.packedTile_fuses (d : Dev) (e : Bytes) (t : Nat) : (Dev.packedTile d e t).2.2.fuses = d.fuses := by
  unfold Dev.packedTile
  repeat' first
    | with_reducible rfl | (with_reducible refine (Dev.memGet_fuses ..).trans ?_)
    | (with_reducible refine (foldl_keeps (fun a : _ × Dev => a.2.fuses) _ (fun _ _ => ?_) _ _).trans ?_)
    | (with_reducible refine (foldl_keeps (fun a : _ × _ × Dev => a.2.2.fuses) _ (fun _ _ => ?_) _ _).trans ?_)
    | (with_reducible refine (foldl_keeps (fun a : Dev × _ => a.1.fuses) _ (fun _ _ => ?_) _ _).trans ?_)
    | (with_reducible refine (foldl_keeps (fun a : Dev => a.fuses) _ (fun _ _ => ?_) _ _).trans ?_) | (intro _) | dsimp only

theorem Dev.buildTiles_fuses (d : Dev) (e : Bytes) : (Dev.buildTiles d e).2.fuses = d.fuses := by
  unfold Dev.buildTiles
  repeat' first
    | with_reducible rfl | (with_reducible refine (Dev.memGet_fuses ..).trans ?_)
    | (with_reducible refine (Dev.packedTile_fuses ..).trans ?_)
    | (with_reducible refine (foldl_keeps (fun a : _ × Dev => a.2.fuses) _ (fun _ _ => ?_) _ _).trans ?_)
    | (with_reducible refine (foldl_keeps (fun a : _ × _ × Dev => a.2.2.fuses) _ (fun _ _ => ?_) _ _).trans ?_)
    | (with_reducible refine (foldl_keeps (fun a : Dev × _ => a.1.fuses) _ (fun _ _ => ?_) _ _).trans ?_)
    | (with_reducible refine (foldl_keeps (fun a : Dev => a.fuses) _ (fun _ _ => ?_) _ _).trans ?_) | (intro _) | split | dsimp only

theorem Dev.sendSig_fuses (d : Dev) (b : Bytes) : (Dev.sendSig d b).fuses = d.fuses := by
  unfold Dev.sendSig
  repeat' first
    | with_reducible rfl | (with_reducible refine (Dev.obtainSig_fuses ..).trans ?_)
    | (with_reducible refine (Dev.spread_fuses ..).trans ?_) | dsimp only

theorem Dev.noteSlip_fuses (d : Dev) (e : Bytes) (late : Nat) : (Dev.noteSlip d e late).fuses = d.fuses := by
  unfold Dev.noteSlip
  repeat' first
    | with_reducible rfl | (with_reducible refine (Dev.markSlip_fuses ..).trans ?_)
    | (with_reducible refine (Dev.onCirc_fuses ..).trans ?_) | (with_reducible refine (Dev.onErr_fuses ..).trans ?_) | (intro _) | split
    | dsimp only

theorem Dev.takeEntry_fuses (d : Dev) (r : Run) (e : Bytes) : (Dev.takeEntry d r e).fuses = d.fuses := by
  unfold Dev.takeEntry
  repeat' first
    | with_reducible rfl | (with_reducible refine (Dev.noteSlip_fuses ..).trans ?_)
    | (with_reducible refine (Dev.onCirc_fuses ..).trans ?_) | (with_reducible refine (Dev.reach_fuses ..).trans ?_) | (intro _)
    | dsimp only

theorem Dev.takeNumber_fuses (d : Dev) : (Dev.takeNumber d).fuses = d.fuses := by
  unfold Dev.takeNumber
  repeat' first | with_reducible rfl | (with_reducible refine (Dev.onCirc_fuses ..).trans ?_) | (intro _) | dsimp only

theorem Dev.built_fuses (d : Dev) (leaf : Nat) (cxl : Bool) (b : Bytes) : (Dev.built d leaf cxl b).fuses = d.fuses := by
  unfold Dev.built
  repeat' first
    | with_reducible rfl | (with_reducible refine (Dev.onCirc_fuses ..).trans ?_)
    | (with_reducible refine (Dev.sendSig_fuses ..).trans ?_) | (with_reducible refine (Dev.touchPeak_fuses ..).trans ?_) | (intro _)
    | split | dsimp only

theorem Dev.inject_fuses (d : Dev) : (Dev.inject d).fuses = d.fuses := by
  unfold Dev.inject
  repeat' first
    | with_reducible rfl | (with_reducible refine (Dev.awake_fuses ..).trans ?_)
    | (with_reducible refine (Dev.buildTiles_fuses ..).trans ?_) | (with_reducible refine (Dev.built_fuses ..).trans ?_)
    | (with_reducible refine (Dev.endRun_fuses ..).trans ?_) | (with_reducible refine (Dev.takeEntry_fuses ..).trans ?_)
    | (with_reducible refine (Dev.takeNumber_fuses ..).trans ?_) | split | dsimp only

theorem Dev.buildDone_fuses (d : Dev) (leaf : Nat) : (Dev.buildDone d leaf).fuses = d.fuses := by
  unfold Dev.buildDone
  repeat' first
    | with_reducible rfl | (with_reducible refine (Dev.onCirc_fuses ..).trans ?_)
    | (with_reducible refine (Dev.sendSig_fuses ..).trans ?_) | (intro _) | split | dsimp only

theorem Dev.beginRun_fuses (d : Dev) (j : Job) (no t0 : Nat) : (Dev.beginRun d j no t0).fuses = d.fuses := by
  unfold Dev.beginRun
  repeat' first
    | with_reducible rfl | (with_reducible refine (Dev.boundaryDecisions_fuses ..).trans ?_)
    | (with_reducible refine (Dev.endRun_fuses ..).trans ?_) | (with_reducible refine (Dev.keepCount_fuses ..).trans ?_)
    | (with_reducible refine (Dev.onCirc_fuses ..).trans ?_) | (with_reducible refine (Dev.onWork_fuses ..).trans ?_) | (intro _) | split
    | dsimp only

theorem Dev.tryRun_fuses (d : Dev) : (Dev.tryRun d).fuses = d.fuses := by
  unfold Dev.tryRun
  repeat' first
    | with_reducible rfl | (with_reducible refine (Dev.accepted_fuses ..).trans ?_)
    | (with_reducible refine (Dev.beginRun_fuses ..).trans ?_) | (with_reducible refine (Dev.each_fuses _ _ _ fun _ _ => ?_).trans ?_)
    | (with_reducible refine (Dev.failJob_fuses ..).trans ?_) | (with_reducible refine (Dev.finishRuns_fuses ..).trans ?_)
    | (with_reducible refine (Dev.launchControl_fuses ..).trans ?_) | (with_reducible refine (Dev.onJob_fuses ..).trans ?_)
    | (with_reducible refine (Dev.onWork_fuses ..).trans ?_) | (intro _) | split | dsimp only

theorem Dev.runStart_fuses (d : Dev) : (Dev.runStart d).fuses = d.fuses := by
  unfold Dev.runStart
  repeat' first
    | with_reducible rfl | (with_reducible refine (Dev.awake_fuses ..).trans ?_)
    | (with_reducible refine (Dev.enterStep_fuses ..).trans ?_) | (with_reducible refine (Dev.onWork_fuses ..).trans ?_)
    | (with_reducible refine (Dev.reach_fuses ..).trans ?_) | (with_reducible refine (Dev.startOrWait_fuses ..).trans ?_) | (intro _)
    | split | dsimp only

theorem Dev.runEnd_fuses (d : Dev) (r : Run) : (Dev.runEnd d r).fuses = d.fuses := by
  unfold Dev.runEnd
  repeat' first
    | with_reducible rfl | (with_reducible refine (Dev.each_fuses _ _ _ fun _ _ => ?_).trans ?_)
    | (with_reducible refine (Dev.finishRuns_fuses ..).trans ?_) | (with_reducible refine (Dev.onCirc_fuses ..).trans ?_)
    | (with_reducible refine (Dev.onSeq_fuses ..).trans ?_) | (with_reducible refine (Dev.onWork_fuses ..).trans ?_) | (intro _) | split
    | dsimp only

theorem Dev.nextStep_fuses (d : Dev) (r : Run) (p it : Nat) (bases : List Nat) : (Dev.nextStep d r p it bases).fuses = d.fuses := by
  unfold Dev.nextStep
  repeat' first
    | with_reducible rfl | (with_reducible refine (Dev.boundaryDecisions_fuses ..).trans ?_)
    | (with_reducible refine (Dev.enterStep_fuses ..).trans ?_) | (with_reducible refine (Dev.onWork_fuses ..).trans ?_)
    | (with_reducible refine (Dev.startOrWait_fuses ..).trans ?_) | (intro _) | split | dsimp only

theorem Dev.boundary_fuses (d : Dev) : (Dev.boundary d).fuses = d.fuses := by
  unfold Dev.boundary
  repeat' first
    | with_reducible rfl | (with_reducible refine (Dev.keepCount_fuses ..).trans ?_)
    | (with_reducible refine (Dev.keepSpan_fuses ..).trans ?_) | (with_reducible refine (Dev.learnDur_fuses ..).trans ?_)
    | (with_reducible refine (Dev.nextStep_fuses ..).trans ?_) | (with_reducible refine (Dev.runEnd_fuses ..).trans ?_) | split
    | dsimp only

theorem Dev.controlIn_fuses (d : Dev) (port : Nat) (packet : Bytes) : (Dev.controlIn d port packet).1.fuses = d.fuses := by
  unfold Dev.controlIn
  repeat' first
    | with_reducible rfl | (exact Dev.receive_got (by assumption)) | (exact Dev.controlIn_got (by assumption))
    | (with_reducible refine (Dev.launchControl_fuses ..).trans ?_) | (with_reducible refine (Dev.receive_fuses ..).trans ?_)
    | (with_reducible refine (Dev.sendTo_fuses ..).trans ?_) | split | dsimp only
theorem Dev.controlIn_got {d d1 : Dev} {p : Nat} {b : Bytes} {h : Option Bytes} (e : d.controlIn p b = (d1, h)) : d1.fuses = d.fuses := by
  have := Dev.controlIn_fuses d p b
  rwa [e] at this

theorem Dev.controlStart_fuses (d : Dev) (port : Nat) (packet : Bytes) : (Dev.controlStart d port packet).fuses = d.fuses := by
  unfold Dev.controlStart
  repeat' first
    | with_reducible rfl | (exact Dev.controlIn_got (by assumption)) | (with_reducible refine (Dev.controlIn_fuses ..).trans ?_)
    | (with_reducible refine (Dev.onWork_fuses ..).trans ?_) | (with_reducible refine (Dev.touchPeak_fuses ..).trans ?_)
    | (with_reducible refine (Dev.tryRun_fuses ..).trans ?_) | (intro _) | split | dsimp only

theorem Dev.controlAbort_fuses (d : Dev) (port : Nat) (packet : Bytes) : (Dev.controlAbort d port packet).fuses = d.fuses := by
  unfold Dev.controlAbort
  repeat' first
    | with_reducible rfl | (exact Dev.controlIn_got (by assumption)) | (with_reducible refine (Dev.abortEnded_fuses ..).trans ?_)
    | (with_reducible refine (Dev.controlIn_fuses ..).trans ?_) | (with_reducible refine (Dev.onWork_fuses ..).trans ?_)
    | (with_reducible refine (Dev.stopRun_fuses ..).trans ?_) | (with_reducible refine (Dev.tryRun_fuses ..).trans ?_) | (intro _) | split
    | dsimp only

theorem Dev.itemInput_fuses (d : Dev) (c : Nat) (input : HostRead) : (Dev.itemInput d c input).fuses = d.fuses := by
  unfold Dev.itemInput
  repeat' first
    | with_reducible rfl | (with_reducible refine (Dev.accepted_fuses ..).trans ?_) | (with_reducible refine (Dev.emit_fuses ..).trans ?_)
    | (with_reducible refine (Dev.failJob_fuses ..).trans ?_) | (with_reducible refine (Dev.memPut_fuses ..).trans ?_)
    | (with_reducible refine (Dev.onJob_fuses ..).trans ?_) | (with_reducible refine (Dev.tryRun_fuses ..).trans ?_) | (intro _) | split
    | dsimp only

theorem Dev.resultCopy_fuses (d : Dev) : (Dev.resultCopy d).fuses = d.fuses := by
  unfold Dev.resultCopy
  repeat' first
    | with_reducible rfl | (with_reducible refine (Dev.emit_fuses ..).trans ?_) | (with_reducible refine (Dev.failJob_fuses ..).trans ?_)
    | (with_reducible refine (Dev.finishRuns_fuses ..).trans ?_) | (with_reducible refine (Dev.memGet_fuses ..).trans ?_)
    | (with_reducible refine (Dev.settle_fuses ..).trans ?_) | (intro _) | split | dsimp only

theorem Dev.logJob_fuses (d : Dev) (j : Job) (n : Nat) (act : Dev → Dev) (h_act : ∀ d, (act d).fuses = d.fuses) : (Dev.logJob d j n
    act).fuses = d.fuses := by
  unfold Dev.logJob
  repeat' first
    | with_reducible rfl | (with_reducible refine (h_act ..).trans ?_) | (with_reducible refine (Dev.logRefused_fuses ..).trans ?_)
    | (with_reducible refine (Dev.settle_fuses ..).trans ?_) | split | dsimp only

theorem Dev.logDesc_fuses (d : Dev) (j : Job) (old new : Nat) : (Dev.logDesc d j old new).fuses = d.fuses := by
  unfold Dev.logDesc
  repeat' first | with_reducible rfl | (with_reducible refine (Dev.log_fuses ..).trans ?_) | split | dsimp only

theorem Dev.bindRefused_fuses (d : Dev) (c : Nat) (x : Nat × Nat × Nat) : (Dev.bindRefused d c x).fuses = d.fuses := by
  unfold Dev.bindRefused
  repeat' first | with_reducible rfl | (with_reducible refine (Dev.onRegs_fuses ..).trans ?_) | (intro _) | dsimp only

theorem Dev.putConstants_fuses (d : Dev) (c : Nat) (l : List (Nat × Bytes)) : (Dev.putConstants d c l).2.fuses = d.fuses := by
  unfold Dev.putConstants
  repeat' first
    | with_reducible rfl | (with_reducible refine (Dev.eachWrite_fuses (h_f := ?_) ..).trans ?_)
    | (with_reducible refine (Dev.slotPut_fuses ..).trans ?_) | (intro _) | dsimp only

theorem Dev.forgetLearned_fuses (d : Dev) (c id : Nat) : (Dev.forgetLearned d c id).fuses = d.fuses := by
  unfold Dev.forgetLearned
  repeat' first | with_reducible rfl | (with_reducible refine (Dev.onPwr_fuses ..).trans ?_) | (intro _) | dsimp only

theorem Dev.storeBinding_fuses (d : Dev) (j : Job) (b : Bytes) (g : Option (Nat × Nat)) : (Dev.storeBinding d j b g).2.fuses = d.fuses := by
  unfold Dev.storeBinding
  repeat' first
    | with_reducible rfl | (with_reducible refine (Dev.putConstants_fuses ..).trans ?_)
    | (with_reducible refine (Dev.slotPut_fuses ..).trans ?_) | dsimp only

theorem Dev.keepBinding_fuses (d : Dev) (j : Job) (b : Bytes) (g : Option (Nat × Nat)) : (Dev.keepBinding d j b g).fuses = d.fuses := by
  unfold Dev.keepBinding
  repeat' first
    | with_reducible rfl | (with_reducible refine (Dev.forgetLearned_fuses ..).trans ?_)
    | (with_reducible refine (Dev.logDesc_fuses ..).trans ?_) | (with_reducible refine (Dev.onCtx_fuses ..).trans ?_) | (intro _)
    | dsimp only

theorem Dev.bindLoad_fuses (d : Dev) (j : Job) (resp : HostRead) : (Dev.bindLoad d j resp).fuses = d.fuses := by
  unfold Dev.bindLoad
  repeat' first
    | with_reducible rfl | (with_reducible refine (Dev.bindRefused_fuses ..).trans ?_)
    | (with_reducible refine (Dev.emit_fuses ..).trans ?_) | (with_reducible refine (Dev.errMem_fuses ..).trans ?_)
    | (with_reducible refine (Dev.keepBinding_fuses ..).trans ?_) | (with_reducible refine (Dev.logJob_fuses (h_act := ?_) ..).trans ?_)
    | (with_reducible refine (Dev.settle_fuses ..).trans ?_) | (with_reducible refine (Dev.storeBinding_fuses ..).trans ?_) | (intro _)
    | split | dsimp only

theorem Dev.leaveBinding_fuses (d : Dev) : (Dev.leaveBinding d).fuses = d.fuses := by
  unfold Dev.leaveBinding
  repeat' first
    | with_reducible rfl | (with_reducible refine (Dev.deactivate_fuses ..).trans ?_)
    | (with_reducible refine (Dev.dropRuns_fuses ..).trans ?_) | (with_reducible refine (Dev.endRun_fuses ..).trans ?_) | dsimp only

theorem Dev.activate_fuses (d : Dev) (c id : Nat) (k : Kept) (fold : Nat) : (Dev.activate d c id k fold).fuses = d.fuses := by
  unfold Dev.activate
  repeat' first
    | with_reducible rfl | (with_reducible refine (Dev.applySyncPlan_fuses ..).trans ?_)
    | (with_reducible refine (Dev.clearBuffers_fuses ..).trans ?_) | (with_reducible refine (Dev.clearCmem_fuses ..).trans ?_)
    | (with_reducible refine (Dev.each_fuses _ _ _ fun _ _ => ?_).trans ?_) | (with_reducible refine (Dev.onRegs_fuses ..).trans ?_)
    | (with_reducible refine (Dev.onWork_fuses ..).trans ?_) | (with_reducible refine (Dev.reload_fuses ..).trans ?_)
    | (with_reducible refine (Dev.setFold_fuses ..).trans ?_) | (intro _) | split | dsimp only

theorem Dev.switchTo_fuses (d : Dev) (j : Job) (k : Kept) (fold : Nat) : (Dev.switchTo d j k fold).fuses = d.fuses := by
  unfold Dev.switchTo
  repeat' first
    | with_reducible rfl | (with_reducible refine (Dev.activate_fuses ..).trans ?_)
    | (with_reducible refine (Dev.logDesc_fuses ..).trans ?_) | (with_reducible refine (Dev.onCtx_fuses ..).trans ?_) | (intro _)
    | dsimp only

theorem Dev.bindSwitch_fuses (d : Dev) (j : Job) : (Dev.bindSwitch d j).fuses = d.fuses := by
  unfold Dev.bindSwitch
  repeat' first
    | with_reducible rfl | (with_reducible refine (Dev.bindRefused_fuses ..).trans ?_)
    | (with_reducible refine (Dev.errMem_fuses ..).trans ?_) | (with_reducible refine (Dev.leaveBinding_fuses ..).trans ?_)
    | (with_reducible refine (Dev.logJob_fuses (h_act := ?_) ..).trans ?_) | (with_reducible refine (Dev.putConstants_fuses ..).trans ?_)
    | (with_reducible refine (Dev.settle_fuses ..).trans ?_) | (with_reducible refine (Dev.switchTo_fuses ..).trans ?_) | (intro _)
    | split | dsimp only

theorem Dev.ringCapture_fuses (d : Dev) (c r cause : Nat) : (Dev.ringCapture d c r cause).fuses = d.fuses := by
  unfold Dev.ringCapture
  repeat' first
    | with_reducible rfl | (with_reducible refine (Dev.cause_fuses ..).trans ?_) | (with_reducible refine (Dev.onRegs_fuses ..).trans ?_)
    | (intro _) | dsimp only

theorem Dev.ringError_fuses (d : Dev) (c r cause : Nat) : (Dev.ringError d c r cause).fuses = d.fuses := by
  unfold Dev.ringError
  repeat' first
    | with_reducible rfl | (with_reducible refine (Dev.cause_fuses ..).trans ?_) | (with_reducible refine (Dev.msix_fuses ..).trans ?_)
    | (with_reducible refine (Dev.onRing_fuses ..).trans ?_) | (with_reducible refine (Dev.ringCapture_fuses ..).trans ?_) | (intro _)
    | dsimp only

theorem Dev.sqTail_fuses (d : Dev) (c r : Nat) (v : Word) : (Dev.sqTail d c r v).fuses = d.fuses := by
  unfold Dev.sqTail
  repeat' first
    | with_reducible rfl | (with_reducible refine (Dev.onRing_fuses ..).trans ?_)
    | (with_reducible refine (Dev.ringError_fuses ..).trans ?_) | (intro _) | split | dsimp only

theorem Dev.cqHead_fuses (d : Dev) (c r : Nat) (v : Word) : (Dev.cqHead d c r v).fuses = d.fuses := by
  unfold Dev.cqHead
  repeat' first
    | with_reducible rfl | (with_reducible refine (Dev.busyCheck_fuses ..).trans ?_)
    | (with_reducible refine (Dev.drainRing_fuses ..).trans ?_) | (with_reducible refine (Dev.finishRuns_fuses ..).trans ?_)
    | (with_reducible refine (Dev.onRing_fuses ..).trans ?_) | (with_reducible refine (Dev.ringError_fuses ..).trans ?_) | (intro _)
    | split | dsimp only

theorem Dev.doorbell_fuses (d0 : Dev) (fn : CtxId) (offset size : Nat) (v : Dword) : (Dev.doorbell d0 fn offset size v).fuses = d0.fuses
    := by
  unfold Dev.doorbell
  repeat' first
    | with_reducible rfl | (with_reducible refine (Dev.cqHead_fuses ..).trans ?_)
    | (with_reducible refine (Dev.ringCapture_fuses ..).trans ?_) | (with_reducible refine (Dev.rouse_fuses ..).trans ?_)
    | (with_reducible refine (Dev.sqTail_fuses ..).trans ?_) | split | dsimp only

theorem Dev.fetch_fuses (d0 : Dev) (c r : Nat) (resp : HostRead) : (Dev.fetch d0 c r resp).fuses = d0.fuses := by
  unfold Dev.fetch
  repeat' first
    | with_reducible rfl | (with_reducible refine (Dev.emit_fuses ..).trans ?_) | (with_reducible refine (Dev.onCtx_fuses ..).trans ?_)
    | (with_reducible refine (Dev.onRing_fuses ..).trans ?_) | (with_reducible refine (Dev.ringError_fuses ..).trans ?_) | (intro _)
    | split | dsimp only

theorem Dev.takeHead_fuses (d : Dev) (c r : Nat) : (Dev.takeHead d c r).fuses = d.fuses := by
  unfold Dev.takeHead
  repeat' first
    | with_reducible rfl | (with_reducible refine (Dev.onCtx_fuses ..).trans ?_) | (with_reducible refine (Dev.onRing_fuses ..).trans ?_)
    | (intro _) | dsimp only

theorem Dev.addJob_fuses (d : Dev) (c r : Nat) (f : Fetched) (entry run mb : Option Nat) : (Dev.addJob d c r f entry run mb).fuses =
    d.fuses := by
  unfold Dev.addJob
  repeat' first
    | with_reducible rfl | (with_reducible refine (Dev.accepted_fuses ..).trans ?_)
    | (with_reducible refine (Dev.onWork_fuses ..).trans ?_) | (intro _) | dsimp only

theorem Dev.replaceOpens_fuses (d : Dev) (c : Nat) : (Dev.replaceOpens d c).fuses = d.fuses := by
  unfold Dev.replaceOpens
  repeat' first | with_reducible rfl | (with_reducible refine (Dev.onWork_fuses ..).trans ?_) | (intro _) | split | dsimp only

theorem Dev.accept_fuses (d : Dev) (c r : Nat) (f : Fetched) : (Dev.accept d c r f).fuses = d.fuses := by
  unfold Dev.accept
  repeat' first
    | with_reducible rfl | (with_reducible refine (Dev.addJob_fuses ..).trans ?_) | (with_reducible refine (Dev.onWork_fuses ..).trans ?_)
    | (with_reducible refine (Dev.postRecord_fuses ..).trans ?_) | (with_reducible refine (Dev.replaceOpens_fuses ..).trans ?_)
    | (with_reducible refine (Dev.takeHead_fuses ..).trans ?_) | (with_reducible refine (Dev.tryRun_fuses ..).trans ?_) | (intro _)
    | split | dsimp only

theorem Dev.acceptNext_fuses (d : Dev) (c : Nat) : (Dev.acceptNext d c).fuses = d.fuses := by
  unfold Dev.acceptNext
  repeat' first | with_reducible rfl | (with_reducible refine (Dev.accept_fuses ..).trans ?_) | (intro _) | split | dsimp only

theorem Dev.takeItems_fuses (c m max run : Nat) (n : Nat) (d : Dev) : (Dev.takeItems c m max run n d).fuses = d.fuses := by
  induction n generalizing d with
  | zero => rfl
  | succ n ih => rw [Dev.takeItems]; repeat' first
    | with_reducible rfl | (with_reducible refine (ih ..).trans ?_) | (with_reducible refine (Dev.addJob_fuses ..).trans ?_)
    | (with_reducible refine (Dev.postRecord_fuses ..).trans ?_) | (with_reducible refine (Dev.takeHead_fuses ..).trans ?_) | (intro _)
    | split | dsimp only

theorem Dev.passVersions_fuses (d : Dev) (m : Nat) : (Dev.passVersions d m).fuses = d.fuses := by
  unfold Dev.passVersions
  repeat' first | with_reducible rfl | (with_reducible refine (Dev.onWork_fuses ..).trans ?_) | (intro _) | split | dsimp only

theorem Dev.passStart_fuses (d : Dev) (m : Nat) : (Dev.passStart d m).fuses = d.fuses := by
  unfold Dev.passStart
  repeat' first
    | with_reducible rfl | (with_reducible refine (Dev.passVersions_fuses ..).trans ?_)
    | (with_reducible refine (Dev.takeItems_fuses ..).trans ?_) | split | dsimp only

theorem Dev.rejoin_fuses (d : Dev) (no c : Nat) : (Dev.rejoin d no c).fuses = d.fuses := by
  unfold Dev.rejoin
  repeat' first
    | with_reducible rfl | (with_reducible refine (Dev.accepted_fuses ..).trans ?_)
    | (with_reducible refine (Dev.onWork_fuses ..).trans ?_) | (intro _) | split | dsimp only

theorem Dev.abortJob_fuses (d : Dev) (no : Nat) : (Dev.abortJob d no).fuses = d.fuses := by
  unfold Dev.abortJob
  repeat' first
    | with_reducible rfl | (with_reducible refine (Dev.abortEnded_fuses ..).trans ?_)
    | (with_reducible refine (Dev.accepted_fuses ..).trans ?_) | (with_reducible refine (Dev.endRun_fuses ..).trans ?_)
    | (with_reducible refine (Dev.failJob_fuses ..).trans ?_) | (with_reducible refine (Dev.launchControl_fuses ..).trans ?_)
    | (with_reducible refine (Dev.onCtx_fuses ..).trans ?_) | (with_reducible refine (Dev.rejoin_fuses ..).trans ?_)
    | (with_reducible refine (Dev.settle_fuses ..).trans ?_) | (intro _) | split | dsimp only

theorem Dev.abortFetched_fuses (d : Dev) (c r : Nat) (f : Fetched) : (Dev.abortFetched d c r f).fuses = d.fuses := by
  unfold Dev.abortFetched
  repeat' first
    | with_reducible rfl | (with_reducible refine (Dev.onRing_fuses ..).trans ?_)
    | (with_reducible refine (Dev.postRecord_fuses ..).trans ?_) | (intro _) | split | dsimp only

theorem Dev.abortScope_fuses (d : Dev) (c scope r tag : Nat) : (Dev.abortScope d c scope r tag).2.fuses = d.fuses := by
  unfold Dev.abortScope
  repeat' first
    | with_reducible rfl | (with_reducible refine (Dev.abortFetched_fuses ..).trans ?_)
    | (with_reducible refine (Dev.abortJob_fuses ..).trans ?_) | (with_reducible refine (Dev.each_fuses _ _ _ fun _ _ => ?_).trans ?_)
    | (with_reducible refine (Dev.endRun_fuses ..).trans ?_)
    | (with_reducible refine (foldl_keeps (fun a : _ × Dev => a.2.fuses) _ (fun _ _ => ?_) _ _).trans ?_)
    | (with_reducible refine (foldl_keeps (fun a : _ × _ × Dev => a.2.2.fuses) _ (fun _ _ => ?_) _ _).trans ?_)
    | (with_reducible refine (foldl_keeps (fun a : Dev × _ => a.1.fuses) _ (fun _ _ => ?_) _ _).trans ?_)
    | (with_reducible refine (foldl_keeps (fun a : Dev => a.fuses) _ (fun _ _ => ?_) _ _).trans ?_) | (intro _) | split | dsimp only

theorem Dev.abortRing_fuses (d : Dev) (c r : Nat) : (Dev.abortRing d c r).fuses = d.fuses := by
  unfold Dev.abortRing
  repeat' first
    | with_reducible rfl | (with_reducible refine (Dev.abortScope_fuses ..).trans ?_)
    | (with_reducible refine (Dev.onRing_fuses ..).trans ?_) | (with_reducible refine (Dev.postRecord_fuses ..).trans ?_) | (intro _)
    | split | dsimp only

theorem Dev.abortReg_fuses (d : Dev) (c : Nat) (v : Word) : (Dev.abortReg d c v).fuses = d.fuses := by
  unfold Dev.abortReg
  repeat' first
    | with_reducible rfl | (with_reducible refine (Dev.abortScope_fuses ..).trans ?_)
    | (with_reducible refine (Dev.onRegs_fuses ..).trans ?_) | (intro _) | split | dsimp only

theorem Dev.moderationTime_fuses (d : Dev) (c r : Nat) : (Dev.moderationTime d c r).fuses = d.fuses := by
  unfold Dev.moderationTime
  repeat' first
    | with_reducible rfl | (with_reducible refine (Dev.reach_fuses ..).trans ?_)
    | (with_reducible refine (Dev.ringSignal_fuses ..).trans ?_) | split | dsimp only

theorem Dev.logJob_keeps (d : Dev) (j : Job) (n : Nat) (act : Dev → Dev) (h : ∀ d e, act d = e → e.fuses = d.fuses) :
    (d.logJob j n act).fuses = d.fuses := Dev.logJob_fuses _ _ _ _ fun d => h d _ rfl

theorem Dev.editionErr_fuses (d : Dev) (cause ctx layer : Nat) (st : Status) (block : Nat) :
    (d.editionErr cause ctx layer st block).fuses = d.fuses := by
  unfold Dev.editionErr
  split
  · rfl
  · rw [Dev.cause_fuses, Dev.onErr_fuses]

theorem Dev.onEdition_fuses (d : Dev) (c id : Nat) (f : Edition → Edition) : (Dev.onEdition d c id f).fuses = d.fuses := by
  unfold Dev.onEdition
  repeat' first | with_reducible rfl | (with_reducible refine (Dev.onCtx_fuses ..).trans ?_) | (intro _) | split | dsimp only

theorem Dev.endDamaged_fuses (d : Dev) (c id : Nat) : (Dev.endDamaged d c id).fuses = d.fuses := by
  unfold Dev.endDamaged
  repeat' first | with_reducible rfl | (with_reducible refine (Dev.endRun_fuses ..).trans ?_) | split | dsimp only

theorem Dev.markDamaged_fuses (d : Dev) (c id : Nat) (st : Status) (bad : Shard → Bool) : (Dev.markDamaged d c id st bad).fuses = d.fuses
    := by
  unfold Dev.markDamaged
  repeat' first
    | with_reducible rfl | (with_reducible refine (Dev.endDamaged_fuses ..).trans ?_)
    | (with_reducible refine (Dev.logSafety_fuses ..).trans ?_) | (with_reducible refine (Dev.onEdition_fuses ..).trans ?_) | (intro _)
    | split | dsimp only

theorem Dev.unmapEdition_fuses (d : Dev) (c id : Nat) : (Dev.unmapEdition d c id).fuses = d.fuses := by
  unfold Dev.unmapEdition
  repeat' first
    | with_reducible rfl | (with_reducible refine (Dev.each_fuses _ _ _ fun _ _ => ?_).trans ?_)
    | (with_reducible refine (Dev.unmapPage_fuses ..).trans ?_) | (intro _) | split | dsimp only

theorem Dev.dropEdition_fuses (d : Dev) (c id : Nat) : (Dev.dropEdition d c id).fuses = d.fuses := by
  unfold Dev.dropEdition
  repeat' first
    | with_reducible rfl | (with_reducible refine (Dev.onCtx_fuses ..).trans ?_)
    | (with_reducible refine (Dev.unmapEdition_fuses ..).trans ?_) | (intro _) | dsimp only

theorem Dev.mapRanges_fuses (d : Dev) (c : Nat) (ed : Option Nat) (write : Bool) (l : List PageRange) : (Dev.mapRanges d c ed write
    l).fuses = d.fuses := by
  unfold Dev.mapRanges
  repeat' first
    | with_reducible rfl | (with_reducible refine (Dev.each_fuses _ _ _ fun _ _ => ?_).trans ?_)
    | (with_reducible refine (Dev.mapPages_fuses ..).trans ?_) | (intro _) | dsimp only

theorem Dev.putShard_fuses (d : Dev) (c : Nat) (l : Layer) (f : Fetch) : (Dev.putShard d c l f).2.fuses = d.fuses := by
  unfold Dev.putShard
  repeat' first
    | with_reducible rfl | (with_reducible refine (Dev.eachWrite_fuses (h_f := ?_) ..).trans ?_)
    | (with_reducible refine (Dev.slotPut_fuses ..).trans ?_) | (intro _) | dsimp only

theorem Dev.readManifest_fuses (d : Dev) (at_ : Nat) (m : HostRead) : (Dev.readManifest d at_ m).fuses = d.fuses := by
  unfold Dev.readManifest
  repeat' first
    | with_reducible rfl | (with_reducible refine (Dev.emit_fuses ..).trans ?_)
    | (with_reducible refine (Dev.given_fuses (h := ?_) ..).trans ?_) | (intro _) | split | dsimp only

theorem Dev.readUnits_fuses (d : Dev) (at_ : Nat) (s : Shard) : (Dev.readUnits d at_ s).fuses = d.fuses := by
  unfold Dev.readUnits
  repeat' first | with_reducible rfl | (with_reducible refine (Dev.emit_fuses ..).trans ?_) | dsimp only

theorem Dev.loadShards_fuses (c : Nat) (m image : Bytes) (at_ ed : Nat) (ls : List Layer) (l : List Shard) (d : Dev) :
    (Dev.loadShards c m image at_ ed ls l d).2.fuses = d.fuses := by
  induction l generalizing d with
  | nil => rfl
  | cons s ss ih =>
    have h := Dev.readUnits_fuses d at_ s
    rw [Dev.loadShards]
    dsimp only
    repeat' first
      | exact h | exact (Dev.putShard_fuses ..).trans h | exact (ih ..).trans ((Dev.putShard_fuses ..).trans h) | split

theorem Dev.loadFails_fuses (d : Dev) (j : Job) (ed layer : Nat) (st : Status) (block : Nat) : (Dev.loadFails d j ed layer st block).fuses
    = d.fuses := by
  unfold Dev.loadFails
  repeat' first
    | with_reducible rfl | (with_reducible refine (Dev.dropEdition_fuses ..).trans ?_)
    | (with_reducible refine (Dev.editionErr_fuses ..).trans ?_) | (with_reducible refine (Dev.settle_fuses ..).trans ?_) | dsimp only

theorem Dev.spend_fuses (d : Dev) (no n : Nat) : (Dev.spend d no n).fuses = d.fuses := by
  unfold Dev.spend
  repeat' first
    | with_reducible rfl | (with_reducible refine (Dev.colRelease_fuses ..).trans ?_)
    | (with_reducible refine (Dev.onJob_fuses ..).trans ?_) | (intro _) | dsimp only

theorem Dev.reserve_fuses (d : Dev) (no n : Nat) : (Dev.reserve d no n).fuses = d.fuses := by
  unfold Dev.reserve
  repeat' first
    | with_reducible rfl | (with_reducible refine (Dev.colReserve_fuses ..).trans ?_)
    | (with_reducible refine (Dev.onJob_fuses ..).trans ?_) | (intro _) | dsimp only

theorem Dev.adoptAll_fuses (d : Dev) (no c : Nat) (es : List Bytes) : (Dev.adoptAll d no c es).fuses = d.fuses := by
  unfold Dev.adoptAll
  repeat' first
    | with_reducible rfl | (with_reducible refine (Dev.each_fuses _ _ _ fun _ _ => ?_).trans ?_)
    | (with_reducible refine (Dev.log_fuses ..).trans ?_) | (with_reducible refine (Dev.onCtx_fuses ..).trans ?_)
    | (with_reducible refine (Dev.spend_fuses ..).trans ?_) | (intro _) | split | dsimp only

theorem Dev.loadDone_fuses (d : Dev) (j : Job) (ed : Nat) (adopt : List Bytes) : (Dev.loadDone d j ed adopt).fuses = d.fuses := by
  unfold Dev.loadDone
  repeat' first
    | with_reducible rfl | (with_reducible refine (Dev.adoptAll_fuses ..).trans ?_)
    | (with_reducible refine (Dev.loadFails_fuses ..).trans ?_) | (with_reducible refine (Dev.logDesc_fuses ..).trans ?_)
    | (with_reducible refine (Dev.onCtx_fuses ..).trans ?_) | (with_reducible refine (Dev.onEdition_fuses ..).trans ?_)
    | (with_reducible refine (Dev.settle_fuses ..).trans ?_) | (with_reducible refine (Dev.spend_fuses ..).trans ?_) | (intro _) | split
    | dsimp only

theorem Dev.beginLoad_fuses (d : Dev) (j : Job) (m : Bytes) (ls : List Layer) (pages : List PageRange) : (Dev.beginLoad d j m ls
    pages).fuses = d.fuses := by
  unfold Dev.beginLoad
  repeat' first
    | with_reducible rfl | (with_reducible refine (Dev.mapRanges_fuses ..).trans ?_)
    | (with_reducible refine (Dev.onCtx_fuses ..).trans ?_) | (intro _) | dsimp only

theorem Dev.awaitPass_fuses (d : Dev) (j : Job) (ed : Nat) (adopt : List Bytes) : (Dev.awaitPass d j ed adopt).fuses = d.fuses := by
  unfold Dev.awaitPass
  repeat' first
    | with_reducible rfl | (with_reducible refine (Dev.onJob_fuses ..).trans ?_) | (with_reducible refine (Dev.onWork_fuses ..).trans ?_)
    | (intro _) | dsimp only

theorem Dev.loadImage_fuses (d : Dev) (j : Job) (m : Bytes) (ls : List Layer) (pages : List PageRange) (image : HostRead) : (Dev.loadImage
    d j m ls pages image).fuses = d.fuses := by
  unfold Dev.loadImage
  repeat' first
    | with_reducible rfl | (with_reducible refine (Dev.awaitPass_fuses ..).trans ?_)
    | (with_reducible refine (Dev.beginLoad_fuses ..).trans ?_) | (with_reducible refine (Dev.loadDone_fuses ..).trans ?_)
    | (with_reducible refine (Dev.loadFails_fuses ..).trans ?_) | (with_reducible refine (Dev.loadShards_fuses ..).trans ?_)
    | (with_reducible refine (Dev.readManifest_fuses ..).trans ?_) | (intro _) | split | dsimp only

theorem Dev.loadRefused_fuses (d : Dev) (j : Job) (m : HostRead) : (Dev.loadRefused d j m).fuses = d.fuses := by
  unfold Dev.loadRefused
  repeat' first
    | with_reducible rfl | (with_reducible refine (Dev.editionErr_fuses ..).trans ?_)
    | (with_reducible refine (Dev.readManifest_fuses ..).trans ?_) | (with_reducible refine (Dev.settle_fuses ..).trans ?_) | dsimp only

theorem Dev.loadPlaced_fuses (d : Dev) (j : Job) (m : Bytes) (image : HostRead) : (d.loadPlaced j m image).fuses = d.fuses := by
  unfold Dev.loadPlaced
  extract_lets p
  split
  · exact Dev.loadRefused_fuses ..
  · split
    · rfl
    · exact Dev.loadImage_fuses ..

theorem Dev.editionLoad_fuses (d : Dev) (j : Job) (manifest image : HostRead) : (d.editionLoad j manifest image).fuses = d.fuses := by
  unfold Dev.editionLoad
  have r : ∀ (m : Option Bytes) (d e : Dev), d.loadRefused j m = e → e.fuses = d.fuses := by
    intro m d e h; rw [← h]; exact Dev.loadRefused_fuses ..
  have p : ∀ (n : Nat) (m : Bytes) (d e : Dev), (d.reserve j.no n).loadPlaced j m image = e → e.fuses = d.fuses := by
    intro n m d e h; rw [← h]; exact (Dev.loadPlaced_fuses ..).trans (Dev.reserve_fuses ..)
  split
  · exact Dev.logJob_keeps _ _ _ _ (r _)
  · split
    · exact Dev.logJob_keeps _ _ _ _ (r _)
    · extract_lets n
      exact Dev.logJob_keeps _ _ _ _ (p _ _)

theorem Dev.passBegin_fuses (d : Dev) (c : Nat) : (Dev.passBegin d c).fuses = d.fuses := by
  unfold Dev.passBegin
  repeat' first | with_reducible rfl | (with_reducible refine (Dev.onWork_fuses ..).trans ?_) | (intro _) | split | dsimp only

theorem Dev.putSlot_fuses (d : Dev) (c a : Nat) (body : Bytes) : (Dev.putSlot d c a body).2.fuses = d.fuses := by
  unfold Dev.putSlot
  repeat' first
    | with_reducible rfl | (with_reducible refine (Dev.freeBytes_fuses ..).trans ?_)
    | (with_reducible refine (Dev.slotPut_fuses ..).trans ?_) | dsimp only

theorem Dev.foldBlocks_fuses (c : Nat) (l : Layer) (p : Nat × Nat × Word × Bool) (n blk : Nat) (k : PassCount) (d : Dev) :
    (Dev.foldBlocks c l p n blk k d).2.fuses = d.fuses := by
  induction n generalizing blk k d with
  | zero => rfl
  | succ n ih =>
    unfold Dev.foldBlocks
    extract_lets a g x h w v
    have hg : g.2.2.fuses = d.fuses := Dev.memGet_fuses ..
    have hw : w.2.fuses = d.fuses := (Dev.slotPut_fuses ..).trans hg
    clear_value g x h w
    have hv : v.2.fuses = d.fuses := (Dev.putSlot_fuses ..).trans hw
    clear_value v
    split
    · exact hg
    · split
      · exact hv
      · exact (ih ..).trans hv

theorem Dev.foldShards_fuses (c ed : Nat) (p : Nat × Nat × Word × Bool) (l : List (Layer × Shard)) (ks : List PassCount) (d : Dev) :
    (Dev.foldShards c ed p l ks d).2.fuses = d.fuses := by
  induction l generalizing ks d with
  | nil => rfl
  | cons x rest ih =>
    obtain ⟨l, s⟩ := x
    unfold Dev.foldShards
    extract_lets k before r
    have hr : r.2.fuses = d.fuses := Dev.foldBlocks_fuses ..
    repeat' first | exact hr | exact (ih ..).trans hr | split

theorem Dev.loadPassEnd_fuses (d : Dev) (j : Job) (p : PassJob) (e : Edition) (q : Nat × Nat × Word × Bool) : (Dev.loadPassEnd d j p e
    q).fuses = d.fuses := by
  unfold Dev.loadPassEnd
  repeat' first
    | with_reducible rfl | (with_reducible refine (Dev.emit_fuses ..).trans ?_)
    | (with_reducible refine (Dev.foldShards_fuses ..).trans ?_) | (with_reducible refine (Dev.loadDone_fuses ..).trans ?_)
    | (with_reducible refine (Dev.loadFails_fuses ..).trans ?_) | split | dsimp only

theorem Dev.editionUnload_fuses (d : Dev) (j : Job) : (Dev.editionUnload d j).fuses = d.fuses := by
  unfold Dev.editionUnload
  repeat' first
    | with_reducible rfl | (with_reducible refine (Dev.dropEdition_fuses ..).trans ?_)
    | (with_reducible refine (Dev.logDesc_fuses ..).trans ?_) | (with_reducible refine (Dev.logJob_fuses (h_act := ?_) ..).trans ?_)
    | (with_reducible refine (Dev.settle_fuses ..).trans ?_) | (intro _) | split | dsimp only

theorem Dev.installAll_fuses (j : Job) (l : List Bytes) (n : Nat) (d : Dev) : (Dev.installAll j l n d).2.2.fuses = d.fuses := by
  induction l generalizing n d with
  | nil => rfl
  | cons e es ih =>
    rw [Dev.installAll]
    split
    · rfl
    · rw [ih, Dev.onCtx_fuses, Dev.logDesc_fuses, Dev.spend_fuses]

theorem Dev.digestInstall_fuses (d : Dev) (j : Job) (resp : HostRead) : (Dev.digestInstall d j resp).fuses = d.fuses := by
  unfold Dev.digestInstall
  repeat' first
    | with_reducible rfl | (with_reducible refine (Dev.emit_fuses ..).trans ?_)
    | (with_reducible refine (Dev.installAll_fuses ..).trans ?_) | (with_reducible refine (Dev.logJob_fuses (h_act := ?_) ..).trans ?_)
    | (with_reducible refine (Dev.reserve_fuses ..).trans ?_) | (with_reducible refine (Dev.settle_fuses ..).trans ?_) | (intro _) | split
    | dsimp only

theorem Dev.digestRemove_fuses (d : Dev) (j : Job) : (Dev.digestRemove d j).fuses = d.fuses := by
  unfold Dev.digestRemove
  repeat' first
    | with_reducible rfl | (with_reducible refine (Dev.logDesc_fuses ..).trans ?_)
    | (with_reducible refine (Dev.logJob_fuses (h_act := ?_) ..).trans ?_) | (with_reducible refine (Dev.onCtx_fuses ..).trans ?_)
    | (with_reducible refine (Dev.settle_fuses ..).trans ?_) | (intro _) | split | dsimp only

theorem Dev.serviceForm_fuses (c : Nat) (l : Layer) (n blk : Nat) (d : Dev) : (Dev.serviceForm c l n blk d).2.2.fuses = d.fuses := by
  induction n generalizing blk d with
  | zero => rfl
  | succ n ih => rw [Dev.serviceForm]; exact (ih ..).trans ((Dev.memGet_fuses ..).trans (Dev.memGet_fuses ..))

theorem Dev.scrubShard_fuses (d : Dev) (c : Nat) (e : Edition) (l0 : Layer) (s : Shard) : (Dev.scrubShard d c e l0 s).fuses = d.fuses := by
  unfold Dev.scrubShard
  repeat' first
    | with_reducible rfl | (with_reducible refine (Dev.editionErr_fuses ..).trans ?_)
    | (with_reducible refine (Dev.markDamaged_fuses ..).trans ?_) | (with_reducible refine (Dev.serviceForm_fuses ..).trans ?_)
    | (intro _) | split | dsimp only

theorem Dev.scrubSweep_fuses (d : Dev) (c : Nat) : (Dev.scrubSweep d c).fuses = d.fuses := by
  unfold Dev.scrubSweep
  repeat' first
    | with_reducible rfl | (with_reducible refine (Dev.each_fuses _ _ _ fun _ _ => ?_).trans ?_)
    | (with_reducible refine (Dev.onCtx_fuses ..).trans ?_) | (with_reducible refine (Dev.reach_fuses ..).trans ?_)
    | (with_reducible refine (Dev.scrubShard_fuses ..).trans ?_) | (intro _) | split | dsimp only

theorem Dev.setStaged_fuses (d : Dev) (c id layer : Nat) (x : Option Staged) : (Dev.setStaged d c id layer x).fuses = d.fuses := by
  unfold Dev.setStaged
  repeat' first | with_reducible rfl | (with_reducible refine (Dev.onCtx_fuses ..).trans ?_) | (intro _) | dsimp only

theorem Dev.dropCommitted_fuses (d : Dev) (c id layer : Nat) : (Dev.dropCommitted d c id layer).fuses = d.fuses := by
  unfold Dev.dropCommitted
  repeat' first | with_reducible rfl | (with_reducible refine (Dev.onCtx_fuses ..).trans ?_) | (intro _) | dsimp only

theorem Dev.sealShard_fuses (c : Nat) (key : Bytes) (l : Layer) (path : Nat) (req : Bytes) (n blk : Nat) (d : Dev) :
    (Dev.sealShard c key l path req n blk d).2.2.fuses = d.fuses := by
  induction n generalizing blk d with
  | zero => rfl
  | succ n ih => unfold Dev.sealShard; exact (ih ..).trans ((Dev.memGet_fuses ..).trans (Dev.memGet_fuses ..))

theorem Dev.stageShards_fuses (c : Nat) (m : Bytes) (ed : Nat) (l : Layer) (path : Nat) (us : List Units) (va : Nat) (d : Dev) :
    (Dev.stageShards c m ed l path us va d).2.fuses = d.fuses := by
  induction us generalizing va d with
  | nil => rfl
  | cons x us ih =>
    obtain ⟨s, req, src⟩ := x
    unfold Dev.stageShards
    dsimp only
    split
    · rfl
    · split
      · exact Dev.memPut_fuses ..
      · split
        · exact Dev.memPut_fuses ..
        · exact (ih ..).trans (Dev.memPut_fuses ..)

theorem Dev.hostUnits_fuses (m : Bytes) (at_ : Nat) (img : Bytes) (own : List Shard) (d : Dev) : (Dev.hostUnits m at_ img own d).2.fuses =
    d.fuses := by
  unfold Dev.hostUnits
  repeat' first
    | with_reducible rfl | (with_reducible refine (Dev.each_fuses _ _ _ fun _ _ => ?_).trans ?_)
    | (with_reducible refine (Dev.readUnits_fuses ..).trans ?_) | (intro _) | dsimp only

theorem Dev.peerUnits_fuses (j : Job) (layer : Nat) (self : Option Layer) (ss : List Shard) (img : Bytes) (d : Dev) :
    (Dev.peerUnits j layer self ss img d).2.fuses = d.fuses := by
  induction ss generalizing img d with
  | nil => rfl
  | cons s ss ih =>
    unfold Dev.peerUnits
    refine (ih ..).trans ((Dev.emit_fuses ..).trans ((Dev.tookFree_fuses _).trans ?_))
    split
    · exact Dev.sealShard_fuses ..
    · rfl

theorem Dev.stageFetch_fuses (d : Dev) (j : Job) (m : Bytes) (e : Edition) (n : Layer) (img : Bytes) :
    (Dev.stageFetch d j m e n img).2.fuses = d.fuses := by
  unfold Dev.stageFetch
  extract_lets own self u
  have hu : u.2.fuses = d.fuses := by
    unfold u
    split
    · exact Dev.peerUnits_fuses ..
    · exact Dev.hostUnits_fuses ..
  split
  · exact hu
  · exact (Dev.stageShards_fuses ..).trans hu

theorem Dev.kettleStage_fuses (d : Dev) (j : Job) (manifest image : HostRead) : (Dev.kettleStage d j manifest image).fuses = d.fuses := by
  unfold Dev.kettleStage
  repeat' first
    | with_reducible rfl | (with_reducible refine (Dev.editionErr_fuses ..).trans ?_)
    | (with_reducible refine (Dev.readManifest_fuses ..).trans ?_) | (with_reducible refine (Dev.setStaged_fuses ..).trans ?_)
    | (with_reducible refine (Dev.settle_fuses ..).trans ?_) | (with_reducible refine (Dev.stageFetch_fuses ..).trans ?_) | (intro _)
    | split | dsimp only

theorem Dev.closing_fuses (d : Dev) (j : Job) (n : Nat) : (Dev.closing d j n).fuses = d.fuses := by
  unfold Dev.closing
  repeat' first
    | with_reducible rfl | (with_reducible refine (Dev.logJob_fuses (h_act := ?_) ..).trans ?_)
    | (with_reducible refine (Dev.onCtx_fuses ..).trans ?_) | (with_reducible refine (Dev.onJob_fuses ..).trans ?_)
    | (with_reducible refine (Dev.reserve_fuses ..).trans ?_) | (with_reducible refine (Dev.settle_fuses ..).trans ?_) | (intro _) | split
    | dsimp only

theorem Dev.barrierShuts_fuses (d : Dev) (c : Nat) : (Dev.barrierShuts d c).fuses = d.fuses := by
  unfold Dev.barrierShuts
  repeat' first
    | with_reducible rfl | (with_reducible refine (Dev.logDesc_fuses ..).trans ?_) | (with_reducible refine (Dev.onCtx_fuses ..).trans ?_)
    | (with_reducible refine (Dev.onJob_fuses ..).trans ?_) | (with_reducible refine (Dev.settle_fuses ..).trans ?_)
    | (with_reducible refine (Dev.spend_fuses ..).trans ?_) | (intro _) | split | dsimp only

theorem Dev.copyRecords_fuses (c : Nat) (l : Layer) (n blk va : Nat) (d : Dev) : (Dev.copyRecords c l n blk va d).2.fuses = d.fuses := by
  induction n generalizing blk va d with
  | zero => rfl
  | succ n ih =>
    unfold Dev.copyRecords
    exact (ih ..).trans ((Dev.slotPut_fuses ..).trans ((Dev.slotPut_fuses ..).trans ((Dev.memGet_fuses ..).trans (Dev.memGet_fuses ..))))

theorem Dev.copySource_fuses (c : Nat) (l : Layer) (n blk va : Nat) (d : Dev) : (Dev.copySource c l n blk va d).2.fuses = d.fuses := by
  induction n generalizing blk va d with
  | zero => rfl
  | succ n ih => unfold Dev.copySource; exact (ih ..).trans ((Dev.slotPut_fuses ..).trans (Dev.memGet_fuses ..))

theorem Dev.commitFails_fuses (d : Dev) (j : Job) (st : Status) (block : Nat) (bad : Shard → Bool) : (Dev.commitFails d j st block
    bad).fuses = d.fuses := by
  unfold Dev.commitFails
  repeat' first
    | with_reducible rfl | (with_reducible refine (Dev.editionErr_fuses ..).trans ?_)
    | (with_reducible refine (Dev.markDamaged_fuses ..).trans ?_) | (with_reducible refine (Dev.settle_fuses ..).trans ?_) | dsimp only

theorem Dev.commitDone_fuses (d : Dev) (j : Job) (s : Staged) (adopt : List Bytes) : (Dev.commitDone d j s adopt).fuses = d.fuses := by
  unfold Dev.commitDone
  repeat' first
    | with_reducible rfl | (with_reducible refine (Dev.adoptAll_fuses ..).trans ?_)
    | (with_reducible refine (Dev.editionErr_fuses ..).trans ?_) | (with_reducible refine (Dev.onCtx_fuses ..).trans ?_)
    | (with_reducible refine (Dev.onEdition_fuses ..).trans ?_) | (with_reducible refine (Dev.onJob_fuses ..).trans ?_)
    | (with_reducible refine (Dev.setStaged_fuses ..).trans ?_) | (with_reducible refine (Dev.settle_fuses ..).trans ?_) | (intro _)
    | split | dsimp only

theorem Dev.sourceForm_fuses (c : Nat) (l : Layer) (n blk : Nat) (d : Dev) : (Dev.sourceForm c l n blk d).2.2.fuses = d.fuses := by
  induction n generalizing blk d with
  | zero => rfl
  | succ n ih => unfold Dev.sourceForm; exact (ih ..).trans (Dev.memGet_fuses ..)

theorem Dev.commitOnce_fuses (c : Nat) (packed : Bool) (l : Layer) (s : Shard) (d : Dev) :
    (Dev.commitOnce c packed l s d).2.fuses = d.fuses := by
  unfold Dev.commitOnce
  extract_lets w r
  have hw : w.2.fuses = d.fuses := by
    unfold w
    split
    · exact Dev.copyRecords_fuses ..
    · exact Dev.copySource_fuses ..
  have hr : r.2.2.fuses = d.fuses := by
    unfold r
    split
    · exact (Dev.serviceForm_fuses ..).trans hw
    · exact (Dev.sourceForm_fuses ..).trans hw
  split
  · exact hr
  · split <;> exact hr

theorem Dev.commitShards_fuses (c : Nat) (packed : Bool) (l : Layer) (ss : List Shard) (d : Dev) :
    (Dev.commitShards c packed l ss d).2.fuses = d.fuses := by
  induction ss generalizing d with
  | nil => rfl
  | cons s ss ih =>
    unfold Dev.commitShards
    extract_lets a
    have ha : a.2.fuses = d.fuses := Dev.commitOnce_fuses ..
    split
    · exact (ih ..).trans ha
    · split
      · exact (ih ..).trans ((Dev.commitOnce_fuses ..).trans ha)
      · exact (Dev.commitOnce_fuses ..).trans ha

theorem Dev.commitAgain_fuses (c ed : Nat) (q : Nat × Nat × Word × Bool) (l : Layer) (s : Shard) (d : Dev) : (Dev.commitAgain c ed q l s
    d).2.fuses = d.fuses := by
  unfold Dev.commitAgain
  repeat' first
    | with_reducible rfl | (with_reducible refine (Dev.commitOnce_fuses ..).trans ?_)
    | (with_reducible refine (Dev.foldShards_fuses ..).trans ?_) | split | dsimp only

theorem Dev.commitFolds_fuses (c ed : Nat) (q : Nat × Nat × Word × Bool) (l : Layer) (ss : List Shard) (d : Dev) :
    (Dev.commitFolds c ed q l ss d).2.fuses = d.fuses := by
  induction ss generalizing d with
  | nil => rfl
  | cons s ss ih =>
    unfold Dev.commitFolds
    extract_lets a b
    have ha : a.2.fuses = d.fuses := Dev.foldShards_fuses ..
    have hb : b.2.fuses = d.fuses := by
      unfold b
      split
      · exact ha
      · exact (Dev.commitAgain_fuses ..).trans ha
    split
    · exact hb
    · exact (ih ..).trans hb

theorem Dev.commitGo_fuses (d : Dev) (j : Job) (s : Staged) : (Dev.commitGo d j s).fuses = d.fuses := by
  unfold Dev.commitGo
  extract_lets c r
  have hr : r.2.fuses = d.fuses := (Dev.commitShards_fuses ..).trans (Dev.logDesc_fuses ..)
  split
  · exact (Dev.commitFails_fuses ..).trans hr
  · split
    · exact (Dev.onWork_fuses ..).trans ((Dev.onJob_fuses ..).trans hr)
    · exact (Dev.commitDone_fuses ..).trans hr

theorem Dev.commitRefused_fuses (d : Dev) (j : Job) : (Dev.commitRefused d j).fuses = d.fuses := by
  unfold Dev.commitRefused
  repeat' first
    | with_reducible rfl | (with_reducible refine (Dev.editionErr_fuses ..).trans ?_)
    | (with_reducible refine (Dev.settle_fuses ..).trans ?_) | dsimp only

theorem Dev.commitStart_fuses (d : Dev) (j : Job) : (Dev.commitStart d j).fuses = d.fuses := by
  unfold Dev.commitStart
  repeat' first
    | with_reducible rfl | (with_reducible refine (Dev.commitRefused_fuses ..).trans ?_)
    | (with_reducible refine (Dev.logJob_fuses (h_act := ?_) ..).trans ?_) | (with_reducible refine (Dev.onJob_fuses ..).trans ?_)
    | (with_reducible refine (Dev.reserve_fuses ..).trans ?_) | (intro _) | split | dsimp only

theorem Dev.commitPassEnd_fuses (d : Dev) (j : Job) (p : PassJob) (q : Nat × Nat × Word × Bool) :
    (Dev.commitPassEnd d j p q).fuses = d.fuses := by
  unfold Dev.commitPassEnd
  split
  · extract_lets r
    have hr : r.2.fuses = d.fuses := Dev.commitFolds_fuses ..
    split
    · exact (Dev.commitFails_fuses ..).trans hr
    · exact (Dev.commitDone_fuses ..).trans hr
  · exact Dev.commitRefused_fuses ..

theorem Dev.passFinish_fuses (d : Dev) (c : Nat) : (Dev.passFinish d c).fuses = d.fuses := by
  unfold Dev.passFinish
  repeat' first
    | with_reducible rfl | (with_reducible refine (Dev.commitPassEnd_fuses ..).trans ?_)
    | (with_reducible refine (Dev.loadPassEnd_fuses ..).trans ?_) | (with_reducible refine (Dev.onWork_fuses ..).trans ?_)
    | (with_reducible refine (Dev.settle_fuses ..).trans ?_) | (with_reducible refine (Dev.tryRun_fuses ..).trans ?_) | (intro _) | split
    | dsimp only

theorem Dev.release_fuses (d : Dev) (c : Nat) : (Dev.release d c).fuses = d.fuses := by
  unfold Dev.release
  repeat' first
    | with_reducible rfl | (with_reducible refine (Dev.onCirc_fuses ..).trans ?_) | (with_reducible refine (Dev.onCtx_fuses ..).trans ?_)
    | (with_reducible refine (Dev.onWork_fuses ..).trans ?_) | (with_reducible refine (Dev.tryRun_fuses ..).trans ?_) | (intro _) | split
    | dsimp only

theorem Dev.openLayer_fuses (d : Dev) (j : Job) : (Dev.openLayer d j).fuses = d.fuses := by
  unfold Dev.openLayer
  repeat' first
    | with_reducible rfl | (with_reducible refine (Dev.dropCommitted_fuses ..).trans ?_)
    | (with_reducible refine (Dev.log_fuses ..).trans ?_) | (with_reducible refine (Dev.onEdition_fuses ..).trans ?_)
    | (with_reducible refine (Dev.spend_fuses ..).trans ?_) | (intro _) | split | dsimp only

theorem Dev.kettleOpens_fuses (d : Dev) (j : Job) : (Dev.kettleOpens d j).fuses = d.fuses := by
  unfold Dev.kettleOpens
  repeat' first
    | with_reducible rfl | (with_reducible refine (Dev.logJob_fuses (h_act := ?_) ..).trans ?_)
    | (with_reducible refine (Dev.openLayer_fuses ..).trans ?_) | (with_reducible refine (Dev.release_fuses ..).trans ?_)
    | (with_reducible refine (Dev.settle_fuses ..).trans ?_) | (intro _) | split | dsimp only

theorem Dev.replaceCommit_fuses (d : Dev) (j : Job) : (Dev.replaceCommit d j).fuses = d.fuses := by
  unfold Dev.replaceCommit
  repeat' first
    | with_reducible rfl | (with_reducible refine (Dev.commitGo_fuses ..).trans ?_)
    | (with_reducible refine (Dev.commitRefused_fuses ..).trans ?_) | (with_reducible refine (Dev.onJob_fuses ..).trans ?_)
    | (with_reducible refine (Dev.spend_fuses ..).trans ?_) | (intro _) | split | dsimp only

theorem Dev.replacesOpen_fuses (d : Dev) (c : Nat) (l : List Job) : (Dev.replacesOpen d c l).fuses = d.fuses := by
  unfold Dev.replacesOpen
  repeat' first
    | with_reducible rfl | (with_reducible refine (Dev.each_fuses _ _ _ fun _ _ => ?_).trans ?_)
    | (with_reducible refine (Dev.openLayer_fuses ..).trans ?_) | (with_reducible refine (Dev.release_fuses ..).trans ?_)
    | (with_reducible refine (Dev.settle_fuses ..).trans ?_) | (intro _) | dsimp only

theorem Dev.replaceGo_fuses (d : Dev) (c : Nat) : (Dev.replaceGo d c).fuses = d.fuses := by
  unfold Dev.replaceGo
  repeat' first
    | with_reducible rfl | (with_reducible refine (Dev.accepted_fuses ..).trans ?_)
    | (with_reducible refine (Dev.closing_fuses ..).trans ?_) | (with_reducible refine (Dev.replaceCommit_fuses ..).trans ?_)
    | (with_reducible refine (Dev.replacesOpen_fuses ..).trans ?_) | (intro _) | split | dsimp only

theorem Dev.written_fuses (d0 : Dev) (org : Origin) (ofs : Nat) (f : Dev → Dev) (h_f : ∀ d, (f d).fuses = d.fuses) :
    (d0.written org ofs f).fuses = d0.fuses := by
  unfold Dev.written
  extract_lets heard d
  have hd : d.fuses = d0.fuses := Dev.given_fuses _ _ _ (Dev.rouse_fuses _)
  clear_value d
  split
  · split
    · exact (Dev.refuse_fuses ..).trans hd
    · exact hd
  · split
    · exact (Dev.accepted_fuses ..).trans hd
    · split
      · exact (Dev.refuse_fuses ..).trans hd
      · exact (h_f _).trans hd

theorem Dev.pfOnly_fuses (d : Dev) (org : Origin) (ofs : Nat) (f : Dev → Dev) (h_f : ∀ d, (f d).fuses = d.fuses) : (Dev.pfOnly d org ofs
    f).fuses = d.fuses := by
  unfold Dev.pfOnly
  repeat' first
    | with_reducible rfl | (with_reducible refine (h_f ..).trans ?_) | (with_reducible refine (Dev.refuse_fuses ..).trans ?_)
    | (with_reducible refine (Dev.written_fuses (h_f := ?_) ..).trans ?_) | (intro _) | split | dsimp only

theorem Dev.mapNow_fuses (d : Dev) (j : Job) : (Dev.mapNow d j).fuses = d.fuses := by
  unfold Dev.mapNow
  repeat' first
    | with_reducible rfl | (with_reducible refine (Dev.logDesc_fuses ..).trans ?_)
    | (with_reducible refine (Dev.mapPages_fuses ..).trans ?_) | (with_reducible refine (Dev.settle_fuses ..).trans ?_) | dsimp only

theorem Dev.mapDesc_fuses (d : Dev) (j : Job) : (Dev.mapDesc d j).fuses = d.fuses := by
  unfold Dev.mapDesc
  repeat' first
    | with_reducible rfl | (with_reducible refine (Dev.logJob_fuses (h_act := ?_) ..).trans ?_)
    | (with_reducible refine (Dev.mapNow_fuses ..).trans ?_) | (with_reducible refine (Dev.onJob_fuses ..).trans ?_)
    | (with_reducible refine (Dev.reserve_fuses ..).trans ?_) | (with_reducible refine (Dev.settle_fuses ..).trans ?_) | (intro _) | split
    | dsimp only

theorem Dev.mapReady_fuses (d : Dev) : (Dev.mapReady d).fuses = d.fuses := by
  unfold Dev.mapReady
  repeat' first
    | with_reducible rfl | (with_reducible refine (Dev.mapNow_fuses ..).trans ?_) | (with_reducible refine (Dev.settle_fuses ..).trans ?_)
    | (with_reducible refine (Dev.spend_fuses ..).trans ?_) | (intro _) | split | dsimp only

theorem Dev.unmapDesc_fuses (d : Dev) (j : Job) : (Dev.unmapDesc d j).fuses = d.fuses := by
  unfold Dev.unmapDesc
  repeat' first
    | with_reducible rfl | (with_reducible refine (Dev.each_fuses _ _ _ fun _ _ => ?_).trans ?_)
    | (with_reducible refine (Dev.logDesc_fuses ..).trans ?_) | (with_reducible refine (Dev.logJob_fuses (h_act := ?_) ..).trans ?_)
    | (with_reducible refine (Dev.settle_fuses ..).trans ?_) | (with_reducible refine (Dev.unmapPage_fuses ..).trans ?_) | (intro _)
    | split | dsimp only

theorem Dev.copyDesc_fuses (d : Dev) (j : Job) (data : HostRead) : (Dev.copyDesc d j data).fuses = d.fuses := by
  unfold Dev.copyDesc
  repeat' first
    | with_reducible rfl | (with_reducible refine (Dev.emit_fuses ..).trans ?_)
    | (with_reducible refine (Dev.freeBytes_fuses ..).trans ?_) | (with_reducible refine (Dev.memGet_fuses ..).trans ?_)
    | (with_reducible refine (Dev.memPut_fuses ..).trans ?_) | (with_reducible refine (Dev.settle_fuses ..).trans ?_) | split | dsimp only

theorem Dev.retireFrame_fuses (d : Dev) (f : Nat) : (Dev.retireFrame d f).fuses = d.fuses := by
  unfold Dev.retireFrame
  repeat' first | with_reducible rfl | dsimp only

theorem Dev.retireLater_fuses (d : Dev) (f : Nat) : (Dev.retireLater d f).fuses = d.fuses := by
  unfold Dev.retireLater
  repeat' first | with_reducible rfl | (with_reducible refine (Dev.onMem_fuses ..).trans ?_) | (intro _) | split | dsimp only

theorem Dev.moveFrame_fuses (d : Dev) (f g : Nat) : (Dev.moveFrame d f g).fuses = d.fuses := by
  unfold Dev.moveFrame
  repeat' first | with_reducible rfl | (with_reducible refine (Dev.onMem_fuses ..).trans ?_) | (intro _) | dsimp only

theorem Dev.retire_fuses (d : Dev) (f : Nat) : (Dev.retire d f).fuses = d.fuses := by
  unfold Dev.retire
  repeat' first
    | with_reducible rfl | (with_reducible refine (Dev.log_fuses ..).trans ?_) | (with_reducible refine (Dev.moveFrame_fuses ..).trans ?_)
    | (with_reducible refine (Dev.retireFrame_fuses ..).trans ?_) | (with_reducible refine (Dev.retireLater_fuses ..).trans ?_) | split
    | dsimp only

theorem Dev.cxlResets_fuses (d : Dev) (mask : Nat) (logIt : Bool) : (Dev.cxlResets d mask logIt).fuses = d.fuses := by
  unfold Dev.cxlResets
  repeat' first
    | with_reducible rfl | (with_reducible refine (Dev.each_fuses _ _ _ fun _ _ => ?_).trans ?_)
    | (with_reducible refine (Dev.log_fuses ..).trans ?_) | (with_reducible refine (Dev.markDamaged_fuses ..).trans ?_)
    | (with_reducible refine (Dev.onMem_fuses ..).trans ?_) | (intro _) | split | dsimp only

theorem Dev.cxlWant_fuses (d : Dev) (mask : Nat) : (Dev.cxlWant d mask).fuses = d.fuses := by
  unfold Dev.cxlWant
  repeat' first
    | with_reducible rfl | (with_reducible refine (Dev.cxlResets_fuses ..).trans ?_)
    | (with_reducible refine (Dev.onMem_fuses ..).trans ?_) | (intro _) | split | dsimp only

theorem Dev.cxlDueGo_fuses (d : Dev) : (Dev.cxlDueGo d).fuses = d.fuses := by
  unfold Dev.cxlDueGo
  repeat' first | with_reducible rfl | (with_reducible refine (Dev.cxlWant_fuses ..).trans ?_) | split | dsimp only

theorem Dev.cxlLost_fuses (d : Dev) (mask : Nat) : (Dev.cxlLost d mask).fuses = d.fuses := by
  unfold Dev.cxlLost
  repeat' first
    | with_reducible rfl | (with_reducible refine (Dev.cxlWant_fuses ..).trans ?_) | (with_reducible refine (Dev.onMem_fuses ..).trans ?_)
    | (intro _) | dsimp only

theorem Dev.cxlTimedOut_fuses (d : Dev) (dev c va : Nat) (write : Bool) : (Dev.cxlTimedOut d dev c va write).fuses = d.fuses := by
  unfold Dev.cxlTimedOut
  repeat' first
    | with_reducible rfl | (with_reducible refine (Dev.cxlLost_fuses ..).trans ?_)
    | (with_reducible refine (Dev.errMem_fuses ..).trans ?_) | (with_reducible refine (Dev.onMem_fuses ..).trans ?_) | (intro _) | split
    | dsimp only

theorem Dev.cxlEnum_fuses (d : Dev) : (Dev.cxlEnum d).fuses = d.fuses := by
  unfold Dev.cxlEnum
  repeat' first | with_reducible rfl | (with_reducible refine (Dev.onMem_fuses ..).trans ?_) | (intro _) | split | dsimp only

theorem Dev.cxlCfgWrite_fuses (d : Dev) (org : Origin) (v : Word) : (Dev.cxlCfgWrite d org v).fuses = d.fuses := by
  unfold Dev.cxlCfgWrite
  repeat' first
    | with_reducible rfl | (with_reducible refine (Dev.cxlEnum_fuses ..).trans ?_)
    | (with_reducible refine (Dev.loggedReg_fuses (h := ?_) ..).trans ?_) | (with_reducible refine (Dev.onMem_fuses ..).trans ?_)
    | (with_reducible refine (Dev.refuse_fuses ..).trans ?_) | (intro _) | split | dsimp only

theorem Dev.cxlReady_fuses (d0 : Dev) (dev cap : Nat) : (Dev.cxlReady d0 dev cap).fuses = d0.fuses := by
  unfold Dev.cxlReady
  repeat' first
    | with_reducible rfl | (with_reducible refine (Dev.cxlDueGo_fuses ..).trans ?_)
    | (with_reducible refine (Dev.cxlEnum_fuses ..).trans ?_) | (with_reducible refine (Dev.onMem_fuses ..).trans ?_) | (intro _) | split
    | dsimp only

theorem Dev.ctxWrite_fuses (d : Dev) (org : Origin) (c o : Nat) (f : Dev → Dev) (h_f : ∀ d, (f d).fuses = d.fuses) : (Dev.ctxWrite d org c
    o f).fuses = d.fuses := by
  unfold Dev.ctxWrite
  repeat' first
    | with_reducible rfl | (with_reducible refine (h_f ..).trans ?_) | (with_reducible refine (Dev.refuse_fuses ..).trans ?_)
    | (with_reducible refine (Dev.written_fuses (h_f := ?_) ..).trans ?_) | (intro _) | split | dsimp only

theorem Dev.eraseKey_fuses (d : Dev) (c : Nat) (reserved : Bool) : (Dev.eraseKey d c reserved).fuses = d.fuses := by
  unfold Dev.eraseKey
  repeat' first
    | with_reducible rfl | (with_reducible refine (Dev.logNext_fuses ..).trans ?_)
    | (with_reducible refine (Dev.logOwed_fuses ..).trans ?_) | (with_reducible refine (Dev.onCtx_fuses ..).trans ?_) | (intro _) | split
    | dsimp only

theorem Dev.closeContext_fuses (d : Dev) (c : Nat) (reserved : Bool) : (Dev.closeContext d c reserved).fuses = d.fuses := by
  unfold Dev.closeContext
  repeat' first
    | with_reducible rfl | (with_reducible refine (Dev.deactivate_fuses ..).trans ?_)
    | (with_reducible refine (Dev.dropRuns_fuses ..).trans ?_) | (with_reducible refine (Dev.each_fuses _ _ _ fun _ _ => ?_).trans ?_)
    | (with_reducible refine (Dev.eraseKey_fuses ..).trans ?_) | (with_reducible refine (Dev.onCtx_fuses ..).trans ?_)
    | (with_reducible refine (Dev.syncClearRange_fuses ..).trans ?_) | (with_reducible refine (Dev.unmapPage_fuses ..).trans ?_)
    | (intro _) | split | dsimp only

theorem Dev.disable_fuses (d : Dev) (c : Nat) (reserved : Bool) : (Dev.disable d c reserved).fuses = d.fuses := by
  unfold Dev.disable
  repeat' first
    | with_reducible rfl | (with_reducible refine (Dev.abortScope_fuses ..).trans ?_)
    | (with_reducible refine (Dev.busyCheck_fuses ..).trans ?_) | (with_reducible refine (Dev.closeContext_fuses ..).trans ?_)
    | (with_reducible refine (Dev.onRegs_fuses ..).trans ?_) | (intro _) | dsimp only

theorem Dev.enableWrite_fuses (d : Dev) (org : Origin) (c : Nat) : (Dev.enableWrite d org c).fuses = d.fuses := by
  unfold Dev.enableWrite
  repeat' first
    | with_reducible rfl | (with_reducible refine (Dev.loggedReg_fuses (h := ?_) ..).trans ?_)
    | (with_reducible refine (Dev.onRegs_fuses ..).trans ?_) | (with_reducible refine (Dev.refuse_fuses ..).trans ?_) | (intro _) | split
    | dsimp only

theorem Dev.disableWrite_fuses (d : Dev) (org : Origin) (c : Nat) : (Dev.disableWrite d org c).fuses = d.fuses := by
  unfold Dev.disableWrite
  repeat' first
    | with_reducible rfl | (with_reducible refine (Dev.disable_fuses ..).trans ?_)
    | (with_reducible refine (Dev.logNext_fuses ..).trans ?_) | (with_reducible refine (Dev.loggedAll_fuses (h_make := ?_) ..).trans ?_)
    | (intro _) | dsimp only

theorem Dev.ringCfgWrite_fuses (d : Dev) (org : Origin) (c r : Nat) (v : Word) : (Dev.ringCfgWrite d org c r v).fuses = d.fuses := by
  unfold Dev.ringCfgWrite
  repeat' first
    | with_reducible rfl | (with_reducible refine (Dev.cqHead_fuses ..).trans ?_)
    | (with_reducible refine (Dev.loggedReg_fuses (h := ?_) ..).trans ?_) | (with_reducible refine (Dev.onRing_fuses ..).trans ?_)
    | (with_reducible refine (Dev.refuse_fuses ..).trans ?_) | (with_reducible refine (Dev.sqTail_fuses ..).trans ?_) | (intro _) | split
    | dsimp only

theorem Dev.dropJobs_fuses (d : Dev) (c : Nat) : (Dev.dropJobs d c).fuses = d.fuses := by
  unfold Dev.dropJobs
  repeat' first
    | with_reducible rfl | (with_reducible refine (Dev.colRelease_fuses ..).trans ?_)
    | (with_reducible refine (Dev.onWork_fuses ..).trans ?_) | (with_reducible refine (Dev.releaseSetups_fuses ..).trans ?_)
    | (with_reducible refine (Dev.tryRun_fuses ..).trans ?_)
    | (with_reducible refine (foldl_keeps (fun a : _ × Dev => a.2.fuses) _ (fun _ _ => ?_) _ _).trans ?_)
    | (with_reducible refine (foldl_keeps (fun a : _ × _ × Dev => a.2.2.fuses) _ (fun _ _ => ?_) _ _).trans ?_)
    | (with_reducible refine (foldl_keeps (fun a : Dev × _ => a.1.fuses) _ (fun _ _ => ?_) _ _).trans ?_)
    | (with_reducible refine (foldl_keeps (fun a : Dev => a.fuses) _ (fun _ _ => ?_) _ _).trans ?_) | (intro _) | split | dsimp only

theorem Dev.flr_fuses (d : Dev) (c : Nat) : (Dev.flr d c).fuses = d.fuses := by
  unfold Dev.flr
  repeat' first
    | with_reducible rfl | (with_reducible refine (Dev.disable_fuses ..).trans ?_)
    | (with_reducible refine (Dev.dropJobs_fuses ..).trans ?_) | (with_reducible refine (Dev.onCtx_fuses ..).trans ?_) | (intro _)
    | dsimp only

theorem Dev.onGlb_fuses (d : Dev) (f : Glb → Glb) : (d.onGlb f).fuses = d.fuses := rfl

theorem Dev.flrAll_fuses (d : Dev) : (Dev.flrAll d).fuses = d.fuses := by
  unfold Dev.flrAll
  repeat' first
    | with_reducible rfl | (with_reducible refine (Dev.each_fuses _ _ _ fun _ _ => ?_).trans ?_)
    | (with_reducible refine (Dev.flr_fuses ..).trans ?_) | (intro _) | dsimp only

theorem Dev.linkReset_fuses (d : Dev) : d.linkReset.fuses = d.fuses := (Dev.onGlb_fuses _ _).trans (Dev.flrAll_fuses d)

theorem Dev.enableReg_fuses (d : Dev) (org : Origin) (c : Nat) (v : Word) : (Dev.enableReg d org c v).fuses = d.fuses := by
  unfold Dev.enableReg
  repeat' first
    | with_reducible rfl | (with_reducible refine (Dev.ctxWrite_fuses (h_f := ?_) ..).trans ?_)
    | (with_reducible refine (Dev.disableWrite_fuses ..).trans ?_) | (with_reducible refine (Dev.enableWrite_fuses ..).trans ?_)
    | (with_reducible refine (Dev.refuse_fuses ..).trans ?_) | (intro _) | split | dsimp only

theorem Dev.onCord_fuses (d : Dev) (p k : Nat) (f : Cord → Cord) : (Dev.onCord d p k f).fuses = d.fuses := by
  unfold Dev.onCord
  repeat' first | with_reducible rfl | (with_reducible refine (Dev.onPort_fuses ..).trans ?_) | (intro _) | dsimp only

theorem Dev.sendCordSet_fuses (d : Dev) (p at_ : Nat) : (Dev.sendCordSet d p at_).fuses = d.fuses := by
  unfold Dev.sendCordSet
  repeat' first | with_reducible rfl | (with_reducible refine (Dev.linkOut_fuses ..).trans ?_) | dsimp only

theorem Dev.sendNak_fuses (d : Dev) (p : Nat) : (Dev.sendNak d p).fuses = d.fuses := by
  unfold Dev.sendNak
  repeat' first
    | with_reducible rfl | (with_reducible refine (Dev.flitOut_fuses ..).trans ?_)
    | (with_reducible refine (Dev.onLink_fuses ..).trans ?_) | (intro _) | dsimp only

theorem Dev.rewind_fuses (d : Dev) (p : Nat) : (Dev.rewind d p).fuses = d.fuses := by
  unfold Dev.rewind
  repeat' first | with_reducible rfl | (with_reducible refine (Dev.onPort_fuses ..).trans ?_) | (intro _) | split | dsimp only

theorem Dev.sendCerts_fuses (d : Dev) (p : Nat) : (Dev.sendCerts d p).fuses = d.fuses := by
  unfold Dev.sendCerts
  repeat' first
    | with_reducible rfl | (with_reducible refine (Dev.each_fuses _ _ _ fun _ _ => ?_).trans ?_)
    | (with_reducible refine (Dev.linkOut_fuses ..).trans ?_) | (intro _) | dsimp only

theorem Dev.sendShare_fuses (d : Dev) (p : Nat) : (Dev.sendShare d p).fuses = d.fuses := by
  unfold Dev.sendShare
  repeat' first
    | with_reducible rfl | (with_reducible refine (Dev.linkOut_fuses ..).trans ?_)
    | (with_reducible refine (Dev.onPort_fuses ..).trans ?_) | (with_reducible refine (Dev.tookFree_fuses ..).trans ?_) | (intro _)
    | dsimp only

theorem Dev.portFails_fuses (d : Dev) (p : Nat) (st : Status) : (Dev.portFails d p st).fuses = d.fuses := by
  unfold Dev.portFails
  extract_lets used d1 d2 d3
  refine (Dev.spine_fuses ..).trans ((Dev.onPort_fuses ..).trans ?_)
  refine (Dev.each_fuses _ _ _ fun _ _ => Dev.boardEnd_fuses ..).trans ?_
  refine (Dev.each_fuses _ _ _ fun _ _ => (Dev.failTransfer_fuses ..).trans ((Dev.sendEnds_fuses ..).trans (Dev.onCirc_fuses ..))).trans ?_
  exact (Dev.given_fuses (d.recvsLose p used) used _ (Dev.endRun_fuses ..)).trans (Dev.recvsLose_fuses d p used)

theorem Dev.lostPort_fuses (d : Dev) (p : Nat) (st : Status) : (Dev.lostPort d p st).fuses = d.fuses := by
  unfold Dev.lostPort
  repeat' first
    | with_reducible rfl | (with_reducible refine (Dev.cause_fuses ..).trans ?_) | (with_reducible refine (Dev.onPort_fuses ..).trans ?_)
    | (with_reducible refine (Dev.portChange_fuses (h_f := ?_) ..).trans ?_) | (with_reducible refine (Dev.portFails_fuses ..).trans ?_)
    | (intro _) | dsimp only

theorem Dev.applyVerdict_fuses (d : Dev) (p : Nat) : (Dev.applyVerdict d p).fuses = d.fuses := by
  unfold Dev.applyVerdict
  repeat' first
    | with_reducible rfl | (with_reducible refine (Dev.cause_fuses ..).trans ?_) | (with_reducible refine (Dev.onPort_fuses ..).trans ?_)
    | (with_reducible refine (Dev.portChange_fuses (h_f := ?_) ..).trans ?_) | (with_reducible refine (Dev.portFails_fuses ..).trans ?_)
    | (with_reducible refine (Dev.sendCerts_fuses ..).trans ?_) | (intro _) | split | dsimp only

theorem Dev.keysFail_fuses (d : Dev) (p : Nat) : (Dev.keysFail d p).fuses = d.fuses := by
  unfold Dev.keysFail
  repeat' first
    | with_reducible rfl | (with_reducible refine (Dev.applyVerdict_fuses ..).trans ?_)
    | (with_reducible refine (Dev.onPort_fuses ..).trans ?_) | (intro _) | split | dsimp only

theorem Dev.joinCord_fuses (d : Dev) (p k : Nat) : (Dev.joinCord d p k).fuses = d.fuses := by
  unfold Dev.joinCord
  repeat' first
    | with_reducible rfl | (with_reducible refine (Dev.cause_fuses ..).trans ?_) | (with_reducible refine (Dev.onCord_fuses ..).trans ?_)
    | (with_reducible refine (Dev.onPort_fuses ..).trans ?_) | (with_reducible refine (Dev.portChange_fuses (h_f := ?_) ..).trans ?_)
    | (intro _) | split | dsimp only

theorem Dev.manageModule_fuses (d : Dev) (p k lanes gbps : Nat) : (Dev.manageModule d p k lanes gbps).fuses = d.fuses := by
  unfold Dev.manageModule
  repeat' first
    | with_reducible rfl | (with_reducible refine (Dev.each_fuses _ _ _ fun _ _ => ?_).trans ?_)
    | (with_reducible refine (Dev.emit_fuses ..).trans ?_) | (with_reducible refine (Dev.onPort_fuses ..).trans ?_) | (intro _)
    | dsimp only

theorem Dev.cordAdvance_fuses (d : Dev) (p k lanes gbps : Nat) : (Dev.cordAdvance d p k lanes gbps).fuses = d.fuses := by
  unfold Dev.cordAdvance
  repeat' first
    | with_reducible rfl | (with_reducible refine (Dev.applyVerdict_fuses ..).trans ?_)
    | (with_reducible refine (Dev.joinCord_fuses ..).trans ?_) | (with_reducible refine (Dev.manageModule_fuses ..).trans ?_)
    | (with_reducible refine (Dev.onCord_fuses ..).trans ?_) | (with_reducible refine (Dev.sendCordSet_fuses ..).trans ?_) | (intro _)
    | split | dsimp only

theorem Dev.cordLate_fuses (d : Dev) (p k : Nat) : (Dev.cordLate d p k).fuses = d.fuses := by
  unfold Dev.cordLate
  repeat' first | with_reducible rfl | (with_reducible refine (Dev.onCord_fuses ..).trans ?_) | (intro _) | split | dsimp only

theorem Dev.cordOut_fuses (d : Dev) (p k : Nat) : (Dev.cordOut d p k).fuses = d.fuses := by
  unfold Dev.cordOut
  repeat' first
    | with_reducible rfl | (with_reducible refine (Dev.onCord_fuses ..).trans ?_) | (with_reducible refine (Dev.onPort_fuses ..).trans ?_)
    | (with_reducible refine (Dev.portChange_fuses (h_f := ?_) ..).trans ?_) | (with_reducible refine (Dev.wakeCords_fuses ..).trans ?_)
    | (intro _) | split | dsimp only

theorem Dev.dropCord_fuses (d : Dev) (p k : Nat) : (Dev.dropCord d p k).fuses = d.fuses := by
  unfold Dev.dropCord
  repeat' first
    | with_reducible rfl | (with_reducible refine (Dev.cordOut_fuses ..).trans ?_)
    | (with_reducible refine (Dev.rewind_fuses ..).trans ?_) | (with_reducible refine (Dev.sendCordSet_fuses ..).trans ?_)
    | (with_reducible refine (Dev.sendNak_fuses ..).trans ?_) | split | dsimp only

theorem Dev.retrain_fuses (d : Dev) (p k : Nat) : (Dev.retrain d p k).fuses = d.fuses := by
  unfold Dev.retrain
  repeat' first
    | with_reducible rfl | (with_reducible refine (Dev.onCord_fuses ..).trans ?_) | (with_reducible refine (Dev.reach_fuses ..).trans ?_)
    | (intro _) | split | dsimp only

theorem Dev.resend_fuses (d : Dev) (p no : Nat) : (Dev.resend d p no).fuses = d.fuses := by
  unfold Dev.resend
  repeat' first
    | with_reducible rfl | (with_reducible refine (Dev.each_fuses _ _ _ fun _ _ => ?_).trans ?_)
    | (with_reducible refine (Dev.flitOut_fuses ..).trans ?_) | (with_reducible refine (Dev.onPort_fuses ..).trans ?_) | (intro _) | split
    | dsimp only

theorem Dev.cordSetIn_fuses (d : Dev) (p : Nat) (msg : Bytes) : (Dev.cordSetIn d p msg).fuses = d.fuses := by
  unfold Dev.cordSetIn
  repeat' first
    | with_reducible rfl | (with_reducible refine (Dev.applyVerdict_fuses ..).trans ?_)
    | (with_reducible refine (Dev.cordOut_fuses ..).trans ?_) | (with_reducible refine (Dev.each_fuses _ _ _ fun _ _ => ?_).trans ?_)
    | (with_reducible refine (Dev.given_fuses (h := ?_) ..).trans ?_) | (with_reducible refine (Dev.joinCord_fuses ..).trans ?_)
    | (with_reducible refine (Dev.resend_fuses ..).trans ?_) | (intro _) | dsimp only

theorem Dev.cordPowerIn_fuses (d : Dev) (p : Nat) (msg : Bytes) : (Dev.cordPowerIn d p msg).fuses = d.fuses := by
  unfold Dev.cordPowerIn
  repeat' first
    | with_reducible rfl | (with_reducible refine (Dev.each_fuses _ _ _ fun _ _ => ?_).trans ?_)
    | (with_reducible refine (Dev.linkOut_fuses ..).trans ?_) | (with_reducible refine (Dev.onCord_fuses ..).trans ?_)
    | (with_reducible refine (Dev.wakeCords_fuses ..).trans ?_) | (intro _) | split | dsimp only

theorem Dev.stoppingIn_fuses (d : Dev) (p : Nat) (msg : Bytes) : (Dev.stoppingIn d p msg).fuses = d.fuses := by
  unfold Dev.stoppingIn
  repeat' first | with_reducible rfl | (with_reducible refine (Dev.lostPort_fuses ..).trans ?_) | split | dsimp only

theorem Dev.portLoses_fuses (d : Dev) (p : Nat) : (Dev.portLoses d p).fuses = d.fuses := by
  unfold Dev.portLoses
  repeat' first
    | with_reducible rfl | (with_reducible refine (Dev.lostPort_fuses ..).trans ?_)
    | (with_reducible refine (Dev.reach_fuses ..).trans ?_) | split | dsimp only

theorem Dev.helloIn_fuses (d : Dev) (p : Nat) (msg : Bytes) : (Dev.helloIn d p msg).fuses = d.fuses := by
  unfold Dev.helloIn
  repeat' first
    | with_reducible rfl | (with_reducible refine (Dev.applyVerdict_fuses ..).trans ?_)
    | (with_reducible refine (Dev.onPort_fuses ..).trans ?_) | (intro _) | split | dsimp only

theorem Dev.absent_fuses (d : Dev) (p : Nat) : (Dev.absent d p).fuses = d.fuses := by
  unfold Dev.absent
  repeat' first
    | with_reducible rfl | (with_reducible refine (Dev.cause_fuses ..).trans ?_) | (with_reducible refine (Dev.onPort_fuses ..).trans ?_)
    | (with_reducible refine (Dev.portChange_fuses (h_f := ?_) ..).trans ?_) | (with_reducible refine (Dev.reach_fuses ..).trans ?_)
    | (intro _) | split | dsimp only

theorem Dev.certIn_fuses (d : Dev) (p : Nat) (msg : Bytes) : (Dev.certIn d p msg).fuses = d.fuses := by
  unfold Dev.certIn
  repeat' first
    | with_reducible rfl | (with_reducible refine (Dev.keysFail_fuses ..).trans ?_)
    | (with_reducible refine (Dev.onPort_fuses ..).trans ?_) | (with_reducible refine (Dev.sendShare_fuses ..).trans ?_) | (intro _)
    | split | dsimp only

theorem Dev.shareIn_fuses (d : Dev) (p : Nat) (msg : Bytes) : (Dev.shareIn d p msg).fuses = d.fuses := by
  unfold Dev.shareIn
  repeat' first
    | with_reducible rfl | (with_reducible refine (Dev.applyVerdict_fuses ..).trans ?_)
    | (with_reducible refine (Dev.keysFail_fuses ..).trans ?_) | (with_reducible refine (Dev.linkOut_fuses ..).trans ?_)
    | (with_reducible refine (Dev.onPort_fuses ..).trans ?_) | (with_reducible refine (Dev.sendShare_fuses ..).trans ?_) | (intro _)
    | split | dsimp only

theorem Dev.switchIn_fuses (d : Dev) (p : Nat) (msg : Bytes) : (Dev.switchIn d p msg).fuses = d.fuses := by
  unfold Dev.switchIn
  repeat' first | with_reducible rfl | (with_reducible refine (Dev.onPort_fuses ..).trans ?_) | (intro _) | split | dsimp only

theorem Dev.agreeAgain_fuses (d : Dev) (p : Nat) : (Dev.agreeAgain d p).fuses = d.fuses := by
  unfold Dev.agreeAgain
  repeat' first
    | with_reducible rfl | (with_reducible refine (Dev.applyVerdict_fuses ..).trans ?_)
    | (with_reducible refine (Dev.given_fuses (h := ?_) ..).trans ?_) | (with_reducible refine (Dev.onPort_fuses ..).trans ?_)
    | (with_reducible refine (Dev.sendShare_fuses ..).trans ?_) | (intro _) | split | dsimp only

theorem Dev.keyIn_fuses (d : Dev) (p : Nat) (msg : Bytes) : (Dev.keyIn d p msg).fuses = d.fuses := by
  unfold Dev.keyIn
  repeat' first
    | with_reducible rfl | (with_reducible refine (Dev.certIn_fuses ..).trans ?_)
    | (with_reducible refine (Dev.shareIn_fuses ..).trans ?_) | (with_reducible refine (Dev.switchIn_fuses ..).trans ?_) | split
    | dsimp only

theorem Dev.moduleFlag_fuses (d : Dev) (p k : Nat) : (Dev.moduleFlag d p k).fuses = d.fuses := by
  unfold Dev.moduleFlag
  repeat' first
    | with_reducible rfl | (with_reducible refine (Dev.dropCord_fuses ..).trans ?_) | (with_reducible refine (Dev.emit_fuses ..).trans ?_)
    | (with_reducible refine (Dev.given_fuses (h := ?_) ..).trans ?_) | (with_reducible refine (Dev.onPort_fuses ..).trans ?_)
    | (with_reducible refine (Dev.tookFree_fuses ..).trans ?_) | (intro _) | split | dsimp only

theorem Dev.planPort_fuses (d : Dev) (p : Nat) (e : Word) : (Dev.planPort d p e).fuses = d.fuses := by
  unfold Dev.planPort
  repeat' first
    | with_reducible rfl | (with_reducible refine (Dev.applyVerdict_fuses ..).trans ?_)
    | (with_reducible refine (Dev.lostPort_fuses ..).trans ?_) | (with_reducible refine (Dev.onPort_fuses ..).trans ?_)
    | (with_reducible refine (Dev.portChange_fuses (h_f := ?_) ..).trans ?_) | (intro _) | split | dsimp only

theorem Dev.applyPlan_fuses (d : Dev) (self : Word) (ps : List Word) : (Dev.applyPlan d self ps).fuses = d.fuses := by
  unfold Dev.applyPlan
  repeat' first
    | with_reducible rfl | (with_reducible refine (Dev.each_fuses _ _ _ fun _ _ => ?_).trans ?_)
    | (with_reducible refine (Dev.planPort_fuses ..).trans ?_) | (intro _) | split | dsimp only

theorem Dev.planWrite_fuses (d : Dev) (org : Origin) (v : Word) : (Dev.planWrite d org v).fuses = d.fuses := by
  unfold Dev.planWrite
  repeat' first
    | with_reducible rfl | (with_reducible refine (Dev.applyPlan_fuses ..).trans ?_)
    | (with_reducible refine (Dev.loggedReg_fuses (h := ?_) ..).trans ?_) | (with_reducible refine (Dev.refuse_fuses ..).trans ?_)
    | (intro _) | split | dsimp only

theorem Dev.reapplyPlan_fuses (d : Dev) : (Dev.reapplyPlan d).fuses = d.fuses := by
  unfold Dev.reapplyPlan
  repeat' first
    | with_reducible rfl | (with_reducible refine (Dev.applyPlan_fuses ..).trans ?_) | (with_reducible refine (Dev.log_fuses ..).trans ?_)
    | split | dsimp only

theorem Dev.findNbrs_fuses (g : Gathering) (l : List (Nat × Bool)) (d : Dev) : (Dev.findNbrs g l d).2.fuses = d.fuses := by
  induction l generalizing d with
  | nil => rfl
  | cons x rest ih =>
    obtain ⟨a, plus⟩ := x
    unfold Dev.findNbrs
    extract_lets st
    split
    · split
      · rfl
      · exact ih _
    · split
      · rfl
      · split
        · exact Dev.tookFree_fuses _
        · split
          · exact Dev.tookFree_fuses _
          · extract_lets n r
            have hr : r.2.fuses = d.fuses := (ih _).trans ((Dev.linkOut_fuses ..).trans (Dev.tookFree_fuses _))
            split
            · exact hr
            · exact (Dev.releaseSetups_fuses ..).trans hr

theorem Dev.sendFormation_fuses (d : Dev) (g : Gathering) (hash : Bytes) (n : Nbr) : (Dev.sendFormation d g hash n).fuses = d.fuses := by
  unfold Dev.sendFormation
  repeat' first | with_reducible rfl | (with_reducible refine (Dev.packetOut_fuses ..).trans ?_) | dsimp only

theorem Dev.formEnds_fuses (d : Dev) (f : Forming) : (Dev.formEnds d f).fuses = d.fuses := by
  unfold Dev.formEnds
  repeat' first
    | with_reducible rfl | (with_reducible refine (Dev.onWork_fuses ..).trans ?_)
    | (with_reducible refine (Dev.releaseSetups_fuses ..).trans ?_) | (with_reducible refine (Dev.settle_fuses ..).trans ?_) | (intro _)
    | split | dsimp only

theorem Dev.formFails_fuses (d : Dev) (f : Forming) : (Dev.formFails d f).fuses = d.fuses := by
  unfold Dev.formFails
  repeat' first
    | with_reducible rfl | (with_reducible refine (Dev.formEnds_fuses ..).trans ?_)
    | (with_reducible refine (Dev.onWork_fuses ..).trans ?_) | (intro _) | split | dsimp only

theorem Dev.formLapses_fuses (d : Dev) : (Dev.formLapses d).fuses = d.fuses := by
  unfold Dev.formLapses
  repeat' first | with_reducible rfl | (with_reducible refine (Dev.formEnds_fuses ..).trans ?_) | split | dsimp only

theorem Dev.tryFormed_fuses (d : Dev) : (Dev.tryFormed d).fuses = d.fuses := by
  unfold Dev.tryFormed
  repeat' first
    | with_reducible rfl | (with_reducible refine (Dev.logDesc_fuses ..).trans ?_)
    | (with_reducible refine (Dev.onWork_fuses ..).trans ?_) | (with_reducible refine (Dev.settle_fuses ..).trans ?_)
    | (with_reducible refine (Dev.spend_fuses ..).trans ?_)
    | (with_reducible refine (foldl_keeps (fun a : _ × Dev => a.2.fuses) _ (fun _ _ => ?_) _ _).trans ?_)
    | (with_reducible refine (foldl_keeps (fun a : _ × _ × Dev => a.2.2.fuses) _ (fun _ _ => ?_) _ _).trans ?_)
    | (with_reducible refine (foldl_keeps (fun a : Dev × _ => a.1.fuses) _ (fun _ _ => ?_) _ _).trans ?_)
    | (with_reducible refine (foldl_keeps (fun a : Dev => a.fuses) _ (fun _ _ => ?_) _ _).trans ?_) | (intro _) | split | dsimp only

theorem Dev.formGot_fuses (d : Dev) (src gath : Nat) (hash : Bytes) : (Dev.formGot d src gath hash).fuses = d.fuses := by
  unfold Dev.formGot
  repeat' first
    | with_reducible rfl | (with_reducible refine (Dev.formFails_fuses ..).trans ?_)
    | (with_reducible refine (Dev.onWork_fuses ..).trans ?_) | (with_reducible refine (Dev.tryFormed_fuses ..).trans ?_) | (intro _)
    | split | dsimp only

theorem Dev.beginForming_fuses (d : Dev) (j : Job) (g : Gathering) (hash : Bytes) : (Dev.beginForming d j g hash).fuses = d.fuses := by
  unfold Dev.beginForming
  repeat' first
    | with_reducible rfl | (with_reducible refine (Dev.each_fuses _ _ _ fun _ _ => ?_).trans ?_)
    | (with_reducible refine (Dev.formGot_fuses ..).trans ?_) | (with_reducible refine (Dev.onJob_fuses ..).trans ?_)
    | (with_reducible refine (Dev.onWork_fuses ..).trans ?_) | (with_reducible refine (Dev.reserve_fuses ..).trans ?_)
    | (with_reducible refine (Dev.sendFormation_fuses ..).trans ?_) | (intro _) | dsimp only

theorem Dev.gatherForm_fuses (d : Dev) (j : Job) (record : HostRead) : (Dev.gatherForm d j record).fuses = d.fuses := by
  unfold Dev.gatherForm
  repeat' first
    | with_reducible rfl | (with_reducible refine (Dev.beginForming_fuses ..).trans ?_)
    | (with_reducible refine (Dev.emit_fuses ..).trans ?_) | (with_reducible refine (Dev.findNbrs_fuses ..).trans ?_)
    | (with_reducible refine (Dev.logJob_fuses (h_act := ?_) ..).trans ?_) | (with_reducible refine (Dev.settle_fuses ..).trans ?_)
    | (intro _) | split | dsimp only

theorem Dev.formationIn_fuses (d : Dev) (port : Nat) (b : Bytes) : (Dev.formationIn d port b).fuses = d.fuses := by
  unfold Dev.formationIn
  repeat' first
    | with_reducible rfl | (exact Dev.receive_got (by assumption)) | (with_reducible refine (Dev.formGot_fuses ..).trans ?_)
    | (with_reducible refine (Dev.receive_fuses ..).trans ?_) | split | dsimp only

theorem Dev.gatherRelease_fuses (d : Dev) (j : Job) : (Dev.gatherRelease d j).fuses = d.fuses := by
  unfold Dev.gatherRelease
  repeat' first
    | with_reducible rfl | (with_reducible refine (Dev.leaveBinding_fuses ..).trans ?_)
    | (with_reducible refine (Dev.logDesc_fuses ..).trans ?_) | (with_reducible refine (Dev.logJob_fuses (h_act := ?_) ..).trans ?_)
    | (with_reducible refine (Dev.releaseGath_fuses ..).trans ?_) | (with_reducible refine (Dev.settle_fuses ..).trans ?_) | (intro _)
    | split | dsimp only

theorem Dev.transitDo_fuses (d : Dev) (port : Nat) (msg : Bytes) : (Dev.transitDo d port msg).fuses = d.fuses := by
  unfold Dev.transitDo
  repeat' first
    | with_reducible rfl | (with_reducible refine (Dev.each_fuses _ _ _ fun _ _ => ?_).trans ?_)
    | (with_reducible refine (Dev.formFails_fuses ..).trans ?_) | (with_reducible refine (Dev.linkOut_fuses ..).trans ?_)
    | (with_reducible refine (Dev.onWork_fuses ..).trans ?_) | (with_reducible refine (Dev.sendFormation_fuses ..).trans ?_)
    | (with_reducible refine (Dev.tryFormed_fuses ..).trans ?_) | (intro _) | split | dsimp only

theorem Dev.transitIn_fuses (d : Dev) (port : Nat) (msg : Bytes) : (Dev.transitIn d port msg).fuses = d.fuses := by
  unfold Dev.transitIn
  repeat' first | with_reducible rfl | (with_reducible refine (Dev.transitDo_fuses ..).trans ?_) | split | dsimp only

theorem Dev.transitsGo_fuses (d : Dev) : (Dev.transitsGo d).fuses = d.fuses := by
  unfold Dev.transitsGo
  repeat' first
    | with_reducible rfl | (with_reducible refine (Dev.each_fuses _ _ _ fun _ _ => ?_).trans ?_)
    | (with_reducible refine (Dev.formLapses_fuses ..).trans ?_) | (with_reducible refine (Dev.linkOut_fuses ..).trans ?_)
    | (with_reducible refine (Dev.transitDo_fuses ..).trans ?_) | (intro _) | dsimp only

theorem Dev.sendSteer_fuses (d : Dev) (ppm : Int) (at_ : Nat) : (Dev.sendSteer d ppm at_).fuses = d.fuses := by
  unfold Dev.sendSteer
  repeat' first
    | with_reducible rfl | (with_reducible refine (Dev.each_fuses _ _ _ fun _ _ => ?_).trans ?_)
    | (with_reducible refine (Dev.linkOut_fuses ..).trans ?_) | (intro _) | split | dsimp only

theorem Dev.timeReply_fuses (d : Dev) (p t1 t2 : Nat) : (Dev.timeReply d p t1 t2).fuses = d.fuses := by
  unfold Dev.timeReply
  repeat' first | with_reducible rfl | (with_reducible refine (Dev.linkOut_fuses ..).trans ?_) | split | dsimp only

theorem Dev.timeSync_fuses (d : Dev) (p t1 t2 t3 t4 : Nat) : (Dev.timeSync d p t1 t2 t3 t4).fuses = d.fuses := by
  unfold Dev.timeSync
  repeat' first
    | with_reducible rfl | (with_reducible refine (Dev.sendSteer_fuses ..).trans ?_)
    | (with_reducible refine (Dev.setTs_fuses ..).trans ?_) | (with_reducible refine (Dev.timeReply_fuses ..).trans ?_)
    | (with_reducible refine (Dev.tookFree_fuses ..).trans ?_) | (intro _) | split | dsimp only

theorem Dev.steerIn_fuses (d : Dev) (p : Nat) (ppm : Int) (at_ : Nat) : (Dev.steerIn d p ppm at_).fuses = d.fuses := by
  unfold Dev.steerIn
  repeat' first | with_reducible rfl | (with_reducible refine (Dev.sendSteer_fuses ..).trans ?_) | split | dsimp only

theorem Dev.packetIn_fuses (d0 : Dev) (p : Nat) (b : Bytes) : (Dev.packetIn d0 p b).fuses = d0.fuses := by
  unfold Dev.packetIn
  repeat' first
    | with_reducible rfl | (exact Dev.receive_got (by assumption)) | (with_reducible refine (Dev.ackArrive_fuses ..).trans ?_)
    | (with_reducible refine (Dev.boardLoadIn_fuses ..).trans ?_) | (with_reducible refine (Dev.boardResponseIn_fuses ..).trans ?_)
    | (with_reducible refine (Dev.boardStoreIn_fuses ..).trans ?_) | (with_reducible refine (Dev.controlAbort_fuses ..).trans ?_)
    | (with_reducible refine (Dev.controlStart_fuses ..).trans ?_) | (with_reducible refine (Dev.coresGo_fuses ..).trans ?_)
    | (with_reducible refine (Dev.formationIn_fuses ..).trans ?_) | (with_reducible refine (Dev.receive_fuses ..).trans ?_)
    | (with_reducible refine (Dev.rouseAt_fuses ..).trans ?_) | (with_reducible refine (Dev.sigArrive_fuses ..).trans ?_)
    | (with_reducible refine (Dev.transferPacket_fuses ..).trans ?_) | split | dsimp only

theorem Dev.timeIn_fuses (d : Dev) (p : Nat) (msg : Bytes) : (Dev.timeIn d p msg).fuses = d.fuses := by
  unfold Dev.timeIn
  repeat' first
    | with_reducible rfl | (with_reducible refine (Dev.timeReply_fuses ..).trans ?_)
    | (with_reducible refine (Dev.timeSync_fuses ..).trans ?_) | split | dsimp only

theorem Dev.controlMsg_fuses (d : Dev) (p : Nat) (msg : Bytes) : (Dev.controlMsg d p msg).fuses = d.fuses := by
  unfold Dev.controlMsg
  repeat' first
    | with_reducible rfl | (with_reducible refine (Dev.cordPowerIn_fuses ..).trans ?_)
    | (with_reducible refine (Dev.cordSetIn_fuses ..).trans ?_) | (with_reducible refine (Dev.helloIn_fuses ..).trans ?_)
    | (with_reducible refine (Dev.keyIn_fuses ..).trans ?_) | (with_reducible refine (Dev.steerIn_fuses ..).trans ?_)
    | (with_reducible refine (Dev.stoppingIn_fuses ..).trans ?_) | (with_reducible refine (Dev.timeIn_fuses ..).trans ?_)
    | (with_reducible refine (Dev.transitIn_fuses ..).trans ?_) | split | dsimp only

theorem Dev.deliver_fuses (d : Dev) (p kind : Nat) (payload : Bytes) : (Dev.deliver d p kind payload).fuses = d.fuses := by
  unfold Dev.deliver
  repeat' first
    | with_reducible rfl | (with_reducible refine (Dev.controlMsg_fuses ..).trans ?_)
    | (with_reducible refine (Dev.each_fuses _ _ _ fun _ _ => ?_).trans ?_) | (with_reducible refine (Dev.onLink_fuses ..).trans ?_)
    | (with_reducible refine (Dev.packetIn_fuses ..).trans ?_) | (intro _) | split | dsimp only

theorem Dev.sendAcks_fuses (d : Dev) (p : Nat) : (Dev.sendAcks d p).fuses = d.fuses := by
  unfold Dev.sendAcks
  repeat' first
    | with_reducible rfl | (exact Dev.receive_got (by assumption)) | (with_reducible refine (Dev.each_fuses _ _ _ fun _ _ => ?_).trans ?_)
    | (with_reducible refine (Dev.flitOut_fuses ..).trans ?_) | (with_reducible refine (Dev.onLink_fuses ..).trans ?_) | (intro _) | split
    | dsimp only

theorem Dev.ackIn_fuses (d : Dev) (p no : Nat) : (Dev.ackIn d p no).fuses = d.fuses := by
  unfold Dev.ackIn
  repeat' first
    | with_reducible rfl | (with_reducible refine (Dev.flush_fuses ..).trans ?_) | (with_reducible refine (Dev.onLink_fuses ..).trans ?_)
    | (intro _) | split | dsimp only

theorem Dev.nakIn_fuses (d : Dev) (p no : Nat) : (Dev.nakIn d p no).fuses = d.fuses := by
  unfold Dev.nakIn
  repeat' first
    | with_reducible rfl | (with_reducible refine (Dev.lostPort_fuses ..).trans ?_)
    | (with_reducible refine (Dev.onLink_fuses ..).trans ?_) | (with_reducible refine (Dev.resend_fuses ..).trans ?_) | (intro _) | split
    | dsimp only

theorem Dev.creditIn_fuses (d : Dev) (p : Nat) (circ esc : Bool) : (Dev.creditIn d p circ esc).fuses = d.fuses := by
  unfold Dev.creditIn
  repeat' first
    | with_reducible rfl | (with_reducible refine (Dev.channelGo_fuses ..).trans ?_)
    | (with_reducible refine (Dev.onLink_fuses ..).trans ?_) | (with_reducible refine (Dev.spine_fuses ..).trans ?_) | (intro _) | split
    | dsimp only

theorem Dev.headIn_fuses (d : Dev) (p : Nat) (b : Bytes) : (Dev.headIn d p b).fuses = d.fuses := by
  unfold Dev.headIn
  repeat' first
    | with_reducible rfl | (with_reducible refine (Dev.ackIn_fuses ..).trans ?_)
    | (with_reducible refine (Dev.creditIn_fuses ..).trans ?_) | (with_reducible refine (Dev.nakIn_fuses ..).trans ?_) | split
    | dsimp only

theorem Dev.inOrder_fuses (d : Dev) (p : Nat) : (Dev.inOrder d p).fuses = d.fuses := by
  unfold Dev.inOrder
  repeat' first
    | with_reducible rfl | (with_reducible refine (Dev.onLink_fuses ..).trans ?_)
    | (with_reducible refine (Dev.sendAcks_fuses ..).trans ?_) | (intro _) | split | dsimp only

theorem Dev.takeFlit_fuses (d : Dev) (p : Nat) (b payload : Bytes) : (Dev.takeFlit d p b payload).fuses = d.fuses := by
  unfold Dev.takeFlit
  repeat' first
    | with_reducible rfl | (with_reducible refine (Dev.deliver_fuses ..).trans ?_)
    | (with_reducible refine (Dev.headIn_fuses ..).trans ?_) | split | dsimp only

theorem Dev.holdFlit_fuses (d : Dev) (p : Nat) (b : Bytes) : (Dev.holdFlit d p b).fuses = d.fuses := by
  unfold Dev.holdFlit
  repeat' first
    | with_reducible rfl | (with_reducible refine (Dev.inOrder_fuses ..).trans ?_)
    | (with_reducible refine (Dev.onPort_fuses ..).trans ?_) | (intro _) | split | dsimp only

theorem Dev.deliverHeld_fuses (p : Nat) (l : List Bytes) (plain : Bytes) (d : Dev) : (Dev.deliverHeld p l plain d).fuses = d.fuses := by
  induction l generalizing plain d with
  | nil => rfl
  | cons f fs ih =>
    unfold Dev.deliverHeld
    split
    · rfl
    · split <;> exact (ih ..).trans (Dev.takeFlit_fuses ..)

theorem Dev.tagIn_fuses (d : Dev) (p : Nat) (b : Bytes) : (Dev.tagIn d p b).fuses = d.fuses := by
  unfold Dev.tagIn
  repeat' first
    | with_reducible rfl | (with_reducible refine (Dev.deliverHeld_fuses ..).trans ?_)
    | (with_reducible refine (Dev.headIn_fuses ..).trans ?_) | (with_reducible refine (Dev.inOrder_fuses ..).trans ?_)
    | (with_reducible refine (Dev.lostPort_fuses ..).trans ?_) | (with_reducible refine (Dev.onPort_fuses ..).trans ?_)
    | (with_reducible refine (Dev.rewind_fuses ..).trans ?_) | (with_reducible refine (Dev.sendNak_fuses ..).trans ?_)
    | (with_reducible refine (Dev.takeFlit_fuses ..).trans ?_) | (intro _) | split | dsimp only

theorem Dev.flitNext_fuses (d : Dev) (p : Nat) (b : Bytes) : (Dev.flitNext d p b).fuses = d.fuses := by
  unfold Dev.flitNext
  repeat' first
    | with_reducible rfl | (with_reducible refine (Dev.holdFlit_fuses ..).trans ?_)
    | (with_reducible refine (Dev.inOrder_fuses ..).trans ?_) | (with_reducible refine (Dev.tagIn_fuses ..).trans ?_)
    | (with_reducible refine (Dev.takeFlit_fuses ..).trans ?_) | split | dsimp only

theorem Dev.markerIn_fuses (d : Dev) (p n : Nat) : (Dev.markerIn d p n).fuses = d.fuses := by
  unfold Dev.markerIn
  repeat' first
    | with_reducible rfl | (with_reducible refine (Dev.onLink_fuses ..).trans ?_)
    | (with_reducible refine (Dev.sendNak_fuses ..).trans ?_) | (intro _) | split | dsimp only

theorem Dev.flitIn_fuses (d : Dev) (p : Nat) (f : FlitIn) : (Dev.flitIn d p f).fuses = d.fuses := by
  unfold Dev.flitIn
  repeat' first
    | with_reducible rfl | (with_reducible refine (Dev.flitNext_fuses ..).trans ?_)
    | (with_reducible refine (Dev.headIn_fuses ..).trans ?_) | (with_reducible refine (Dev.markerIn_fuses ..).trans ?_)
    | (with_reducible refine (Dev.onLink_fuses ..).trans ?_) | (with_reducible refine (Dev.onPort_fuses ..).trans ?_)
    | (with_reducible refine (Dev.sendNak_fuses ..).trans ?_) | (intro _) | split | dsimp only

theorem Dev.spineAll_fuses (d : Dev) : (Dev.spineAll d).fuses = d.fuses := by
  unfold Dev.spineAll
  repeat' first
    | with_reducible rfl | (with_reducible refine (Dev.each_fuses _ _ _ fun _ _ => ?_).trans ?_)
    | (with_reducible refine (Dev.spineArrive_fuses ..).trans ?_) | (intro _) | dsimp only

theorem Dev.withdraw_fuses (d : Dev) (cores : List Nat) : (Dev.withdraw d cores).fuses = d.fuses := by
  unfold Dev.withdraw
  repeat' first | with_reducible rfl | (intro _) | dsimp only

theorem Dev.skipRest_fuses (c : Nat) (n : Nat) (d : Dev) : (Dev.skipRest c n d).fuses = d.fuses := by
  induction n generalizing d with
  | zero => rfl
  | succ n ih => rw [Dev.skipRest]; repeat' first
    | with_reducible rfl | (with_reducible refine (ih ..).trans ?_) | (with_reducible refine (Dev.onSeq_fuses ..).trans ?_)
    | (with_reducible refine (Dev.signal_fuses ..).trans ?_) | (intro _) | split | dsimp only

theorem Dev.abandon_fuses (d : Dev) (c : Nat) : (Dev.abandon d c).fuses = d.fuses := by
  unfold Dev.abandon
  repeat' first
    | with_reducible rfl | (with_reducible refine (Dev.each_fuses _ _ _ fun _ _ => ?_).trans ?_)
    | (with_reducible refine (Dev.onSeq_fuses ..).trans ?_) | (with_reducible refine (Dev.putQueue_fuses ..).trans ?_)
    | (with_reducible refine (Dev.signal_fuses ..).trans ?_) | (with_reducible refine (Dev.skipRest_fuses ..).trans ?_) | (intro _)
    | split | dsimp only

theorem Dev.coreStops_fuses (d : Dev) (c : Nat) : (Dev.coreStops d c).fuses = d.fuses := by
  unfold Dev.coreStops
  repeat' first
    | with_reducible rfl | (with_reducible refine (Dev.onCirc_fuses ..).trans ?_) | (with_reducible refine (Dev.onCore_fuses ..).trans ?_)
    | (with_reducible refine (Dev.withdraw_fuses ..).trans ?_) | (intro _) | dsimp only

theorem Dev.abandonPhase_fuses (d : Dev) : (Dev.abandonPhase d).fuses = d.fuses := by
  unfold Dev.abandonPhase
  repeat' first
    | with_reducible rfl | (with_reducible refine (Dev.abandon_fuses ..).trans ?_)
    | (with_reducible refine (Dev.coresGo_fuses ..).trans ?_) | (with_reducible refine (Dev.each_fuses _ _ _ fun _ _ => ?_).trans ?_)
    | (with_reducible refine (Dev.failOwners_fuses ..).trans ?_) | (with_reducible refine (Dev.syncDone_fuses ..).trans ?_)
    | (with_reducible refine (Dev.syncIssue_fuses ..).trans ?_) | (with_reducible refine (Dev.withdraw_fuses ..).trans ?_) | (intro _)
    | split | dsimp only

theorem Dev.decideAgain_fuses (d : Dev) (r : Run) : (Dev.decideAgain d r).fuses = d.fuses := by
  unfold Dev.decideAgain
  repeat' first
    | with_reducible rfl | (with_reducible refine (Dev.boundaryDecisions_fuses ..).trans ?_)
    | (with_reducible refine (Dev.keepCount_fuses ..).trans ?_) | (with_reducible refine (Dev.redoStep_fuses ..).trans ?_)
    | (with_reducible refine (Dev.startOrWait_fuses ..).trans ?_) | split | dsimp only

theorem Dev.parkCore_fuses (d : Dev) (c kind : Nat) : (Dev.parkCore d c kind).fuses = d.fuses := by
  unfold Dev.parkCore
  repeat' first
    | with_reducible rfl | (with_reducible refine (Dev.cause_fuses ..).trans ?_)
    | (with_reducible refine (Dev.coreStops_fuses ..).trans ?_) | (with_reducible refine (Dev.logOwed_fuses ..).trans ?_)
    | (with_reducible refine (Dev.onErr_fuses ..).trans ?_) | (intro _) | dsimp only

theorem Dev.afterParking_fuses (d : Dev) (c : Nat) : (Dev.afterParking d c).fuses = d.fuses := by
  unfold Dev.afterParking
  repeat' first
    | with_reducible rfl | (with_reducible refine (Dev.abandonPhase_fuses ..).trans ?_)
    | (with_reducible refine (Dev.decideAgain_fuses ..).trans ?_) | split | dsimp only

theorem Dev.coreFault_fuses (d : Dev) (c kind : Nat) : (Dev.coreFault d c kind).fuses = d.fuses := by
  unfold Dev.coreFault
  repeat' first
    | with_reducible rfl | (with_reducible refine (Dev.afterParking_fuses ..).trans ?_)
    | (with_reducible refine (Dev.parkCore_fuses ..).trans ?_) | (with_reducible refine (Dev.spineAll_fuses ..).trans ?_) | split
    | dsimp only

theorem Dev.retestWrite_fuses (d : Dev) (org : Origin) (v : Word) : (Dev.retestWrite d org v).fuses = d.fuses := by
  unfold Dev.retestWrite
  repeat' first
    | with_reducible rfl | (with_reducible refine (Dev.accepted_fuses ..).trans ?_)
    | (with_reducible refine (Dev.onErr_fuses ..).trans ?_) | (with_reducible refine (Dev.pfOnly_fuses (h_f := ?_) ..).trans ?_)
    | (intro _) | dsimp only

theorem Dev.retestEnd_fuses (d : Dev) (c : Nat) (passed : Bool) : (Dev.retestEnd d c passed).fuses = d.fuses := by
  unfold Dev.retestEnd
  repeat' first
    | with_reducible rfl | (with_reducible refine (Dev.log_fuses ..).trans ?_) | (with_reducible refine (Dev.onErr_fuses ..).trans ?_)
    | (intro _) | split | dsimp only

theorem Dev.internalError_fuses (d : Dev) (leaf unit : Nat) : (Dev.internalError d leaf unit).fuses = d.fuses := by
  unfold Dev.internalError
  repeat' first
    | with_reducible rfl | (with_reducible refine (Dev.cause_fuses ..).trans ?_) | (with_reducible refine (Dev.emit_fuses ..).trans ?_)
    | (with_reducible refine (Dev.onErr_fuses ..).trans ?_) | (with_reducible refine (Dev.onPwr_fuses ..).trans ?_)
    | (with_reducible refine (Dev.stopStation_fuses ..).trans ?_) | (intro _) | split | dsimp only

theorem Dev.leafTested_fuses (d : Dev) (passed : Bool) : (Dev.leafTested d passed).fuses = d.fuses := by
  unfold Dev.leafTested
  repeat' first
    | with_reducible rfl | (with_reducible refine (Dev.onErr_fuses ..).trans ?_) | (with_reducible refine (Dev.onPwr_fuses ..).trans ?_)
    | (with_reducible refine (Dev.resumeStation_fuses ..).trans ?_) | (intro _) | split | dsimp only

theorem Dev.stallFound_fuses (d : Dev) (index : Nat) : (Dev.stallFound d index).fuses = d.fuses := by
  unfold Dev.stallFound
  repeat' first
    | with_reducible rfl | (with_reducible refine (Dev.onErr_fuses ..).trans ?_) | (with_reducible refine (Dev.reach_fuses ..).trans ?_)
    | (with_reducible refine (Dev.stallRecord_fuses ..).trans ?_) | (intro _) | split | dsimp only

theorem Dev.colSend_fuses (d : Dev) (seqs : List Nat) : (Dev.colSend d seqs).2.fuses = d.fuses := by
  unfold Dev.colSend
  repeat' first | with_reducible rfl | split | dsimp only

theorem Dev.drainDesc_fuses (d : Dev) (j : Job) : (Dev.drainDesc d j).fuses = d.fuses := by
  unfold Dev.drainDesc
  repeat' first
    | with_reducible rfl | (with_reducible refine (Dev.colSend_fuses ..).trans ?_) | (with_reducible refine (Dev.emit_fuses ..).trans ?_)
    | (with_reducible refine (Dev.given_fuses (h := ?_) ..).trans ?_) | (with_reducible refine (Dev.settle_fuses ..).trans ?_) | split
    | dsimp only

theorem Dev.checkpointDue_fuses (d : Dev) : (Dev.checkpointDue d).fuses = d.fuses := by
  unfold Dev.checkpointDue
  repeat' first
    | with_reducible rfl | (with_reducible refine (Dev.colCheckpoint_fuses ..).trans ?_)
    | (with_reducible refine (Dev.reach_fuses ..).trans ?_) | split | dsimp only

theorem Dev.onSec_fuses (d : Dev) (f : Sec → Sec) : (Dev.onSec d f).fuses = d.fuses := by
  unfold Dev.onSec
  repeat' first | with_reducible rfl | dsimp only

theorem Dev.serve_fuses (d : Dev) (f : Dev → Dev) (h_f : ∀ d, (f d).fuses = d.fuses) : (Dev.serve d f).fuses = d.fuses := by
  unfold Dev.serve
  repeat' first
    | with_reducible rfl | (with_reducible refine (h_f ..).trans ?_) | (with_reducible refine (Dev.rouse_fuses ..).trans ?_) | split
    | dsimp only

theorem Dev.serveOn_fuses (d : Dev) (c : Carrier) (f : Dev → Dev) (h_f : ∀ d, (f d).fuses = d.fuses) : (d.serveOn c f).fuses = d.fuses := by
  unfold Dev.serveOn
  split
  · exact Dev.serve_fuses _ _ h_f
  · rfl

theorem Dev.saySigned_fuses (d : Dev) (c : Carrier) (session : Option Nat) (b : Bytes) : (Dev.saySigned d c session b).fuses = d.fuses := by
  unfold Dev.saySigned
  repeat' first
    | with_reducible rfl | (with_reducible refine (Dev.answer_fuses ..).trans ?_)
    | (with_reducible refine (Dev.tookFree_fuses ..).trans ?_) | dsimp only

theorem Dev.keyExchange_fuses (d : Dev) (c : Carrier) : (Dev.keyExchange d c).fuses = d.fuses := by
  unfold Dev.keyExchange
  repeat' first
    | with_reducible rfl | (with_reducible refine (Dev.onSec_fuses ..).trans ?_) | (with_reducible refine (Dev.say_fuses ..).trans ?_)
    | (with_reducible refine (Dev.saySigned_fuses ..).trans ?_) | (with_reducible refine (Dev.tookFree_fuses ..).trans ?_) | (intro _)
    | split | dsimp only

theorem Dev.spdmAnswer_fuses (d : Dev) (m : SpdmMsg) : (Dev.spdmAnswer d m).fuses = d.fuses := by
  unfold Dev.spdmAnswer
  repeat' first
    | with_reducible rfl | (with_reducible refine (Dev.answer_fuses ..).trans ?_)
    | (with_reducible refine (Dev.keyExchange_fuses ..).trans ?_) | (with_reducible refine (Dev.onSec_fuses ..).trans ?_)
    | (with_reducible refine (Dev.saySigned_fuses ..).trans ?_) | (intro _) | split | dsimp only

theorem Dev.spdmServe_fuses (d : Dev) (m : SpdmMsg) : (Dev.spdmServe d m).fuses = d.fuses := by
  unfold Dev.spdmServe
  repeat' first
    | with_reducible rfl | (with_reducible refine (Dev.answer_fuses ..).trans ?_)
    | (with_reducible refine (Dev.spdmAnswer_fuses ..).trans ?_) | split | dsimp only

theorem Dev.spdm_fuses (d : Dev) (m : SpdmMsg) : (Dev.spdm d m).fuses = d.fuses := by
  unfold Dev.spdm
  repeat' first
    | with_reducible rfl | (with_reducible refine (Dev.say_fuses ..).trans ?_)
    | (with_reducible refine (Dev.serveOn_fuses (h_f := ?_) ..).trans ?_) | (with_reducible refine (Dev.spdmServe_fuses ..).trans ?_)
    | (intro _) | split | dsimp only

theorem Dev.loggedSec_fuses (d : Dev) (origin ctx code old new detail : Nat) (make : Dev → Dev) (h_make : ∀ d, (make d).fuses = d.fuses) :
    (Dev.loggedSec d origin ctx code old new detail make).2.fuses = d.fuses := by
  unfold Dev.loggedSec
  repeat' first
    | with_reducible rfl | (with_reducible refine (h_make ..).trans ?_) | (with_reducible refine (Dev.log_fuses ..).trans ?_)
    | (with_reducible refine (Dev.logRefused_fuses ..).trans ?_) | split | dsimp only

theorem Dev.newKey_fuses (d : Dev) (c : Nat) (key : Bytes) : (Dev.newKey d c key).2.fuses = d.fuses := by
  unfold Dev.newKey
  repeat' first
    | with_reducible rfl | (with_reducible refine (Dev.loggedSec_fuses (h_make := ?_) ..).trans ?_)
    | (with_reducible refine (Dev.onCtx_fuses ..).trans ?_) | (intro _) | split | dsimp only

theorem Dev.setKey_fuses (d : Dev) (session c : Nat) (key : Bytes) : (Dev.setKey d session c key).fuses = d.fuses := by
  unfold Dev.setKey
  repeat' first
    | with_reducible rfl | (with_reducible refine (Dev.newKey_fuses ..).trans ?_)
    | (with_reducible refine (Dev.saySealed_fuses ..).trans ?_) | (with_reducible refine (Dev.serveOn_fuses (h_f := ?_) ..).trans ?_)
    | (intro _) | split | dsimp only

theorem Dev.ideState_fuses (d : Dev) (on secure : Bool) : (Dev.ideState d on secure).fuses = d.fuses := by
  unfold Dev.ideState
  repeat' first
    | with_reducible rfl | (with_reducible refine (Dev.drainRings_fuses ..).trans ?_)
    | (with_reducible refine (Dev.finishRuns_fuses ..).trans ?_) | dsimp only

theorem Dev.ideDo_fuses (d : Dev) (req : IdeReq) : (Dev.ideDo d req).2.fuses = d.fuses := by
  unfold Dev.ideDo
  repeat' first
    | with_reducible rfl | (with_reducible refine (Dev.disable_fuses ..).trans ?_)
    | (with_reducible refine (Dev.ideState_fuses ..).trans ?_) | (with_reducible refine (Dev.loggedSec_fuses (h_make := ?_) ..).trans ?_)
    | (with_reducible refine (Dev.onSec_fuses ..).trans ?_) | (with_reducible refine (Dev.setKey_fuses ..).trans ?_) | (intro _) | split
    | dsimp only

theorem Dev.ide_fuses (d : Dev) (session : Nat) (req : IdeReq) : (Dev.ide d session req).fuses = d.fuses := by
  unfold Dev.ide
  repeat' first
    | with_reducible rfl | (with_reducible refine (Dev.ideDo_fuses ..).trans ?_)
    | (with_reducible refine (Dev.saySealed_fuses ..).trans ?_) | (with_reducible refine (Dev.serveOn_fuses (h_f := ?_) ..).trans ?_)
    | (intro _) | split | dsimp only

theorem Dev.newChallenge_fuses (d : Dev) : (Dev.newChallenge d).fuses = d.fuses := by
  unfold Dev.newChallenge
  repeat' first | with_reducible rfl | (with_reducible refine (Dev.tookFree_fuses ..).trans ?_) | dsimp only

theorem Dev.dropContexts_fuses (d : Dev) : (Dev.dropContexts d).fuses = d.fuses := by
  unfold Dev.dropContexts
  repeat' first
    | with_reducible rfl | (with_reducible refine (Dev.disable_fuses ..).trans ?_)
    | (with_reducible refine (Dev.each_fuses _ _ _ fun _ _ => ?_).trans ?_) | (intro _) | dsimp only

theorem Dev.dropLinkKeys_fuses (d : Dev) : (Dev.dropLinkKeys d).fuses = d.fuses := by
  unfold Dev.dropLinkKeys
  repeat' first
    | with_reducible rfl | (with_reducible refine (Dev.applyVerdict_fuses ..).trans ?_)
    | (with_reducible refine (Dev.each_fuses _ _ _ fun _ _ => ?_).trans ?_) | (with_reducible refine (Dev.onPort_fuses ..).trans ?_)
    | (intro _) | dsimp only

theorem Dev.openAll_fuses (d : Dev) : (Dev.openAll d).fuses = d.fuses := by
  unfold Dev.openAll
  repeat' first
    | with_reducible rfl | (with_reducible refine (Dev.dropContexts_fuses ..).trans ?_)
    | (with_reducible refine (Dev.dropLinkKeys_fuses ..).trans ?_) | (with_reducible refine (Dev.onSec_fuses ..).trans ?_) | (intro _)
    | dsimp only

theorem Dev.tryToken_fuses (d : Dev) (org : Origin) (t : Bytes) : (Dev.tryToken d org t).fuses = d.fuses := by
  unfold Dev.tryToken
  repeat' first
    | with_reducible rfl | (with_reducible refine (Dev.colReserve_fuses ..).trans ?_)
    | (with_reducible refine (Dev.logNext_fuses ..).trans ?_) | (with_reducible refine (Dev.logRefused_fuses ..).trans ?_)
    | (with_reducible refine (Dev.newChallenge_fuses ..).trans ?_) | (with_reducible refine (Dev.onSec_fuses ..).trans ?_)
    | (with_reducible refine (Dev.openAll_fuses ..).trans ?_) | (intro _) | split | dsimp only

theorem Dev.tokenWord_fuses (d : Dev) (org : Origin) (w : Word) : (Dev.tokenWord d org w).fuses = d.fuses := by
  unfold Dev.tokenWord
  repeat' first
    | with_reducible rfl | (with_reducible refine (Dev.accepted_fuses ..).trans ?_)
    | (with_reducible refine (Dev.onSec_fuses ..).trans ?_) | (with_reducible refine (Dev.refuse_fuses ..).trans ?_)
    | (with_reducible refine (Dev.tryToken_fuses ..).trans ?_) | (with_reducible refine (Dev.written_fuses (h_f := ?_) ..).trans ?_)
    | (intro _) | split | dsimp only

theorem Dev.anchorWrite_fuses (d : Dev) (org : Origin) (c : Nat) (v : Word) : (Dev.anchorWrite d org c v).fuses = d.fuses := by
  unfold Dev.anchorWrite
  repeat' first
    | with_reducible rfl | (with_reducible refine (Dev.accepted_fuses ..).trans ?_)
    | (with_reducible refine (Dev.logged_fuses (h_make := ?_) ..).trans ?_) | (with_reducible refine (Dev.onCtx_fuses ..).trans ?_)
    | (with_reducible refine (Dev.onRegs_fuses ..).trans ?_) | (with_reducible refine (Dev.refuse_fuses ..).trans ?_)
    | (with_reducible refine (Dev.written_fuses (h_f := ?_) ..).trans ?_) | (intro _) | split | dsimp only

theorem Dev.withoutPower_fuses (d : Dev) (s : Supply) (pins : Pins) : (Dev.withoutPower d s pins).fuses = d.fuses := by
  unfold Dev.withoutPower
  repeat' first | with_reducible rfl | dsimp only

theorem Dev.powerUpEntry_fuses (d : Dev) : (Dev.powerUpEntry d).fuses = d.fuses := by
  unfold Dev.powerUpEntry
  repeat' first | with_reducible rfl | (with_reducible refine (Dev.colPutMain_fuses ..).trans ?_) | split | dsimp only

theorem Dev.enterRecovery_fuses (d : Dev) (st : Status) : (Dev.enterRecovery d st).fuses = d.fuses := by
  unfold Dev.enterRecovery
  repeat' first | with_reducible rfl | (with_reducible refine (Dev.onBoot_fuses ..).trans ?_) | (intro _) | dsimp only

theorem Dev.planOnce_fuses (d : Dev) : (Dev.planOnce d).fuses = d.fuses := by
  unfold Dev.planOnce
  repeat' first
    | with_reducible rfl | (with_reducible refine (Dev.onBoot_fuses ..).trans ?_) | (with_reducible refine (Dev.reach_fuses ..).trans ?_)
    | (with_reducible refine (Dev.reapplyPlan_fuses ..).trans ?_) | (intro _) | split | dsimp only

theorem Dev.memoryTrained_fuses (d : Dev) (ok : Bool) : (Dev.memoryTrained d ok).fuses = d.fuses := by
  unfold Dev.memoryTrained
  repeat' first
    | with_reducible rfl | (with_reducible refine (Dev.onBoot_fuses ..).trans ?_)
    | (with_reducible refine (Dev.planOnce_fuses ..).trans ?_) | (with_reducible refine (Dev.reach_fuses ..).trans ?_) | (intro _) | split
    | dsimp only

theorem Dev.ready_fuses (d : Dev) : (Dev.ready d).fuses = d.fuses := by
  unfold Dev.ready
  repeat' first
    | with_reducible rfl | (with_reducible refine (Dev.onBoot_fuses ..).trans ?_)
    | (with_reducible refine (Dev.planOnce_fuses ..).trans ?_) | (with_reducible refine (Dev.reach_fuses ..).trans ?_) | (intro _) | split
    | dsimp only

theorem Dev.restartBegin_fuses (d : Dev) : (Dev.restartBegin d).fuses = d.fuses := by
  unfold Dev.restartBegin
  repeat' first | with_reducible rfl | (with_reducible refine (Dev.onBoot_fuses ..).trans ?_) | (intro _) | dsimp only

theorem Dev.onMbx_fuses (d : Dev) (f : Mbx → Mbx) : (Dev.onMbx d f).fuses = d.fuses := by
  unfold Dev.onMbx
  repeat' first | with_reducible rfl | dsimp only

theorem Dev.mbxEnd_fuses (d : Dev) (st : Status) (l : List Word) : (Dev.mbxEnd d st l).fuses = d.fuses := by
  unfold Dev.mbxEnd
  repeat' first
    | with_reducible rfl | (with_reducible refine (Dev.mgmtReply_fuses ..).trans ?_)
    | (with_reducible refine (Dev.onMbx_fuses ..).trans ?_) | (intro _) | split | dsimp only

theorem Dev.mbxRuns_fuses (d : Dev) (r : MbxRun) (l : List Word) : (Dev.mbxRuns d r l).fuses = d.fuses := by
  unfold Dev.mbxRuns
  repeat' first
    | with_reducible rfl | (with_reducible refine (Dev.mgmtReply_fuses ..).trans ?_)
    | (with_reducible refine (Dev.onMbx_fuses ..).trans ?_) | (intro _) | split | dsimp only

theorem Dev.fwFeed_fuses (d : Dev) (got : Bytes) (ws : List Word) : (Dev.fwFeed d got ws).fuses = d.fuses := by
  unfold Dev.fwFeed
  repeat' first
    | with_reducible rfl | (with_reducible refine (Dev.mbxEnd_fuses ..).trans ?_)
    | (with_reducible refine (Dev.mbxRuns_fuses ..).trans ?_) | (with_reducible refine (Dev.onBoot_fuses ..).trans ?_) | (intro _) | split
    | dsimp only

theorem Dev.takeIn_fuses (d : Dev) : (Dev.takeIn d).2.fuses = d.fuses := by
  unfold Dev.takeIn
  repeat' first | with_reducible rfl | (with_reducible refine (Dev.onMbx_fuses ..).trans ?_) | (intro _) | dsimp only

theorem Dev.flashImage_fuses (d : Dev) (image : Bytes) (ok : Bool) : (Dev.flashImage d image ok).fuses = d.fuses := by
  unfold Dev.flashImage
  repeat' first | with_reducible rfl | (with_reducible refine (Dev.onSec_fuses ..).trans ?_) | (intro _) | split | dsimp only

theorem Dev.logFill_fuses (n left : Nat) (d : Dev) : (Dev.logFill n left d).fuses = d.fuses := by
  induction n generalizing left d with
  | zero => exact Dev.mbxRuns_fuses ..
  | succ n ih =>
    rw [Dev.logFill]
    split
    · exact Dev.mbxEnd_fuses ..
    · dsimp only
      split
      · exact Dev.mbxEnd_fuses ..
      · split
        · exact Dev.mbxRuns_fuses ..
        · exact (ih ..).trans rfl

theorem Dev.logRead_fuses (d : Dev) (arg : Nat) : (Dev.logRead d arg).fuses = d.fuses := by
  unfold Dev.logRead
  repeat' first
    | with_reducible rfl | (with_reducible refine (Dev.colFree_fuses ..).trans ?_)
    | (with_reducible refine (Dev.cxlDueGo_fuses ..).trans ?_) | (with_reducible refine (Dev.logFill_fuses ..).trans ?_)
    | (with_reducible refine (Dev.mbxEnd_fuses ..).trans ?_) | split | dsimp only

theorem Dev.dumpOn_fuses (d : Dev) (rest : Bytes) : (Dev.dumpOn d rest).fuses = d.fuses := by
  unfold Dev.dumpOn
  repeat' first
    | with_reducible rfl | (with_reducible refine (Dev.mbxEnd_fuses ..).trans ?_)
    | (with_reducible refine (Dev.mbxRuns_fuses ..).trans ?_) | (with_reducible refine (Dev.onMbx_fuses ..).trans ?_) | (intro _) | split
    | dsimp only

theorem Dev.mbxPop_fuses (d : Dev) : (Dev.mbxPop d).2.fuses = d.fuses := by
  unfold Dev.mbxPop
  repeat' first
    | with_reducible rfl | (with_reducible refine (Dev.colFree_fuses ..).trans ?_)
    | (with_reducible refine (Dev.cxlDueGo_fuses ..).trans ?_) | (with_reducible refine (Dev.dumpOn_fuses ..).trans ?_)
    | (with_reducible refine (Dev.logFill_fuses ..).trans ?_) | (with_reducible refine (Dev.logRead_fuses ..).trans ?_)
    | (with_reducible refine (Dev.onMbx_fuses ..).trans ?_) | (intro _) | split | dsimp only

theorem Dev.mbxPush_fuses (d : Dev) (w : Word) : (Dev.mbxPush d w).fuses = d.fuses := by
  unfold Dev.mbxPush
  repeat' first
    | with_reducible rfl | (with_reducible refine (Dev.fwFeed_fuses ..).trans ?_) | (with_reducible refine (Dev.onMbx_fuses ..).trans ?_)
    | (with_reducible refine (Dev.takeIn_fuses ..).trans ?_) | (intro _) | split | dsimp only

theorem Dev.refresh_fuses (d : Dev) : (Dev.refresh d).fuses = d.fuses := by
  unfold Dev.refresh
  repeat' first
    | with_reducible rfl | (with_reducible refine (Dev.each_fuses _ _ _ fun _ _ => ?_).trans ?_)
    | (with_reducible refine (Dev.platformEvent_fuses ..).trans ?_) | (intro _) | split | dsimp only

theorem Dev.shutdownBegin_fuses (d : Dev) (abort : Bool) : (d.shutdownBegin abort).fuses = d.fuses := by
  unfold Dev.shutdownBegin
  extract_lets d1
  have h : d1.fuses = d.fuses := (Dev.onMbx_fuses _ _).trans (Dev.onBoot_fuses _ _)
  clear_value d1
  split
  · exact (Dev.each_fuses _ _ _ fun d c => Dev.abortScope_fuses ..).trans h
  · exact h

theorem Dev.shutdownEnd_fuses (d : Dev) : (Dev.shutdownEnd d).fuses = d.fuses := by
  unfold Dev.shutdownEnd
  repeat' first
    | with_reducible rfl | (with_reducible refine (Dev.colCheckpoint_fuses ..).trans ?_)
    | (with_reducible refine (Dev.each_fuses _ _ _ fun _ _ => ?_).trans ?_) | (with_reducible refine (Dev.enterIdle_fuses ..).trans ?_)
    | (with_reducible refine (Dev.linkOut_fuses ..).trans ?_) | (with_reducible refine (Dev.mbxEnd_fuses ..).trans ?_)
    | (with_reducible refine (Dev.onBoot_fuses ..).trans ?_) | (intro _) | split | dsimp only

theorem Dev.freeFlash_fuses (d : Dev) : (Dev.freeFlash d).2.fuses = d.fuses := by
  unfold Dev.freeFlash
  repeat' first | with_reducible rfl | (with_reducible refine (Dev.tookFree_fuses ..).trans ?_) | dsimp only

theorem Dev.pldmSay_fuses (d : Dev) (code : Nat) (b : Bytes) : (Dev.pldmSay d code b).fuses = d.fuses := by
  unfold Dev.pldmSay
  repeat' first | with_reducible rfl | (with_reducible refine (Dev.emit_fuses ..).trans ?_) | dsimp only

theorem Dev.pldmAsk_fuses (d : Dev) : (Dev.pldmAsk d).fuses = d.fuses := by
  unfold Dev.pldmAsk
  repeat' first | with_reducible rfl | (with_reducible refine (Dev.pldmSay_fuses ..).trans ?_) | dsimp only

theorem Dev.pldmBegin_fuses (d : Dev) : (Dev.pldmBegin d).fuses = d.fuses := by
  unfold Dev.pldmBegin
  repeat' first
    | with_reducible rfl | (with_reducible refine (Dev.onBoot_fuses ..).trans ?_)
    | (with_reducible refine (Dev.pldmAsk_fuses ..).trans ?_) | (with_reducible refine (Dev.pldmSay_fuses ..).trans ?_)
    | (with_reducible refine (Dev.serve_fuses (h_f := ?_) ..).trans ?_) | (intro _) | split | dsimp only

theorem Dev.pldmApply_fuses (d : Dev) (image : Bytes) : (Dev.pldmApply d image).fuses = d.fuses := by
  unfold Dev.pldmApply
  repeat' first
    | with_reducible rfl | (with_reducible refine (Dev.flashImage_fuses ..).trans ?_)
    | (with_reducible refine (Dev.freeFlash_fuses ..).trans ?_) | (with_reducible refine (Dev.onBoot_fuses ..).trans ?_)
    | (with_reducible refine (Dev.pldmSay_fuses ..).trans ?_) | (intro _) | split | dsimp only

theorem Dev.pldmData_fuses (d : Dev) (offset : Nat) (data : Bytes) : (Dev.pldmData d offset data).fuses = d.fuses := by
  unfold Dev.pldmData
  repeat' first
    | with_reducible rfl | (with_reducible refine (Dev.onBoot_fuses ..).trans ?_)
    | (with_reducible refine (Dev.pldmApply_fuses ..).trans ?_) | (with_reducible refine (Dev.pldmAsk_fuses ..).trans ?_)
    | (with_reducible refine (Dev.serve_fuses (h_f := ?_) ..).trans ?_) | (intro _) | split | dsimp only

theorem Dev.pldmActivate_fuses (d : Dev) : (Dev.pldmActivate d).fuses = d.fuses := by
  unfold Dev.pldmActivate
  repeat' first
    | with_reducible rfl | (with_reducible refine (Dev.pldmSay_fuses ..).trans ?_)
    | (with_reducible refine (Dev.restartBegin_fuses ..).trans ?_) | (with_reducible refine (Dev.serve_fuses (h_f := ?_) ..).trans ?_)
    | (intro _) | split | dsimp only

theorem Dev.setEid_fuses (d : Dev) (m : Medium) (eid : Byte) : (Dev.setEid d m eid).fuses = d.fuses := by
  unfold Dev.setEid
  repeat' first
    | with_reducible rfl | (with_reducible refine (Dev.say_fuses ..).trans ?_)
    | (with_reducible refine (Dev.serveOn_fuses (h_f := ?_) ..).trans ?_) | (intro _) | split | dsimp only

theorem Dev.popStall_fuses (d : Dev) : (Dev.popStall d).2.fuses = d.fuses := by
  unfold Dev.popStall
  repeat' first | with_reducible rfl | (with_reducible refine (Dev.onErr_fuses ..).trans ?_) | (intro _) | split | dsimp only

theorem Dev.latchHigh_fuses (d : Dev) (org : Origin) (ofs : Nat) : (Dev.latchHigh d org ofs).fuses = d.fuses := by
  unfold Dev.latchHigh
  repeat' first | with_reducible rfl | dsimp only

theorem Dev.readBar0_fuses (d : Dev) (org : Origin) (ofs : Nat) (wide : Bool) : (Dev.readBar0 d org ofs wide).2.fuses = d.fuses := by
  unfold Dev.readBar0
  repeat' first
    | with_reducible rfl | (with_reducible refine (Dev.latchHigh_fuses ..).trans ?_)
    | (with_reducible refine (Dev.mbxPop_fuses ..).trans ?_) | (with_reducible refine (Dev.popStall_fuses ..).trans ?_) | split
    | dsimp only

theorem Dev.readOut_fuses (d : Dev) (org : Origin) (ofs : Nat) (wide : Bool) : (Dev.readOut d org ofs wide).fuses = d.fuses := by
  unfold Dev.readOut
  repeat' first
    | with_reducible rfl | (with_reducible refine (Dev.emit_fuses ..).trans ?_) | (with_reducible refine (Dev.readBar0_fuses ..).trans ?_)
    | split | dsimp only

theorem Dev.ignored_fuses (d : Dev) (org : Origin) (ofs : Nat) : (Dev.ignored d org ofs).fuses = d.fuses := by
  unfold Dev.ignored
  repeat' first
    | with_reducible rfl | (with_reducible refine (Dev.accepted_fuses ..).trans ?_)
    | (with_reducible refine (Dev.written_fuses (h_f := ?_) ..).trans ?_) | (intro _) | dsimp only

theorem Dev.plainWrite_fuses (d : Dev) (org : Origin) (ofs : Nat) (f : Dev → Dev) (h_f : ∀ d, (f d).fuses = d.fuses) : (Dev.plainWrite d
    org ofs f).fuses = d.fuses := by
  unfold Dev.plainWrite
  repeat' first
    | with_reducible rfl | (with_reducible refine (h_f ..).trans ?_) | (with_reducible refine (Dev.accepted_fuses ..).trans ?_)
    | (with_reducible refine (Dev.written_fuses (h_f := ?_) ..).trans ?_) | (intro _) | dsimp only

theorem Dev.clearWrite_fuses (d : Dev) (org : Origin) (ofs : Nat) (v : Word) (f : Dev → Dev) (h_f : ∀ d, (f d).fuses = d.fuses) :
    (Dev.clearWrite d org ofs v f).fuses = d.fuses := by
  unfold Dev.clearWrite
  repeat' first
    | with_reducible rfl | (with_reducible refine (h_f ..).trans ?_)
    | (with_reducible refine (Dev.plainWrite_fuses (h_f := ?_) ..).trans ?_) | (intro _) | split | dsimp only

theorem Dev.putLogged_fuses (d : Dev) (org : Origin) (ofs : Nat) (old new : Word) (put : Word → Dev → Dev)
    (h_put : ∀ x d, (put x d).fuses = d.fuses) : (d.putLogged org ofs old new put).fuses = d.fuses :=
  Dev.loggedReg_fuses _ _ _ _ _ _ (h_put _)

theorem Dev.loggedWrite_fuses (d : Dev) (org : Origin) (ofs : Nat) (old new : Word) (put : Word → Dev → Dev) (h_put : ∀ x d, (put x
    d).fuses = d.fuses) : (Dev.loggedWrite d org ofs old new put).fuses = d.fuses := by
  unfold Dev.loggedWrite
  repeat' first
    | with_reducible rfl | (with_reducible refine (h_put ..).trans ?_)
    | (with_reducible refine (Dev.putLogged_fuses (h_put := ?_) ..).trans ?_)
    | (with_reducible refine (Dev.written_fuses (h_f := ?_) ..).trans ?_) | (intro _) | dsimp only

theorem Dev.loggedPf_fuses (d : Dev) (org : Origin) (ofs : Nat) (old new : Word) (put : Word → Dev → Dev) (h_put : ∀ x d, (put x d).fuses
    = d.fuses) : (Dev.loggedPf d org ofs old new put).fuses = d.fuses := by
  unfold Dev.loggedPf
  repeat' first
    | with_reducible rfl | (with_reducible refine (h_put ..).trans ?_)
    | (with_reducible refine (Dev.pfOnly_fuses (h_f := ?_) ..).trans ?_)
    | (with_reducible refine (Dev.putLogged_fuses (h_put := ?_) ..).trans ?_) | (intro _) | dsimp only

theorem Dev.resetOne_fuses (d : Dev) (b : Nat) : (Dev.resetOne d b).fuses = d.fuses := by
  unfold Dev.resetOne
  repeat' first
    | with_reducible rfl | (with_reducible refine (Dev.cxlResets_fuses ..).trans ?_)
    | (with_reducible refine (Dev.disable_fuses ..).trans ?_) | (with_reducible refine (Dev.each_fuses _ _ _ fun _ _ => ?_).trans ?_)
    | (with_reducible refine (Dev.lostPort_fuses ..).trans ?_) | (intro _) | split | dsimp only

theorem Dev.globReset_fuses (d : Dev) (org : Origin) (v : Word) : (Dev.globReset d org v).fuses = d.fuses := by
  unfold Dev.globReset
  repeat' first
    | with_reducible rfl | (with_reducible refine (Dev.accepted_fuses ..).trans ?_)
    | (with_reducible refine (Dev.each_fuses _ _ _ fun _ _ => ?_).trans ?_) | (with_reducible refine (Dev.logNext_fuses ..).trans ?_)
    | (with_reducible refine (Dev.loggedAll_fuses (h_make := ?_) ..).trans ?_)
    | (with_reducible refine (Dev.pfOnly_fuses (h_f := ?_) ..).trans ?_) | (with_reducible refine (Dev.resetOne_fuses ..).trans ?_)
    | (intro _) | split | dsimp only

theorem Dev.writeGlb_fuses (d : Dev) (org : Origin) (o : Nat) (v : Word) : (Dev.writeGlb d org o v).fuses = d.fuses := by
  unfold Dev.writeGlb
  repeat' first
    | with_reducible rfl | (with_reducible refine (Dev.clearWrite_fuses (h_f := ?_) ..).trans ?_)
    | (with_reducible refine (Dev.globReset_fuses ..).trans ?_) | (with_reducible refine (Dev.ignored_fuses ..).trans ?_)
    | (with_reducible refine (Dev.loggedWrite_fuses (h_put := ?_) ..).trans ?_) | (with_reducible refine (Dev.refuse_fuses ..).trans ?_)
    | (intro _) | split | dsimp only

theorem Dev.writeCol_fuses (d : Dev) (org : Origin) (ofs : Nat) (v : Word) : (Dev.writeCol d org ofs v).fuses = d.fuses := by
  unfold Dev.writeCol
  repeat' first
    | with_reducible rfl | (with_reducible refine (Dev.ignored_fuses ..).trans ?_)
    | (with_reducible refine (Dev.loggedPf_fuses (h_put := ?_) ..).trans ?_)
    | (with_reducible refine (Dev.plainWrite_fuses (h_f := ?_) ..).trans ?_) | (intro _) | split | dsimp only

theorem Dev.onPr_fuses (d : Dev) (f : PwrRegs → PwrRegs) : (Dev.onPr d f).fuses = d.fuses := by
  unfold Dev.onPr
  repeat' first | with_reducible rfl | dsimp only

theorem Dev.stopWrite_fuses (d : Dev) (org : Origin) (v : Word) : (Dev.stopWrite d org v).fuses = d.fuses := by
  unfold Dev.stopWrite
  repeat' first
    | with_reducible rfl | (with_reducible refine (Dev.accepted_fuses ..).trans ?_)
    | (with_reducible refine (Dev.pfOnly_fuses (h_f := ?_) ..).trans ?_) | (with_reducible refine (Dev.refuse_fuses ..).trans ?_)
    | (with_reducible refine (Dev.resumeStation_fuses ..).trans ?_) | (intro _) | split | dsimp only

theorem Dev.writePwr_fuses (d : Dev) (org : Origin) (ofs : Nat) (v : Word) : (Dev.writePwr d org ofs v).fuses = d.fuses := by
  unfold Dev.writePwr
  repeat' first
    | with_reducible rfl | (with_reducible refine (Dev.ignored_fuses ..).trans ?_)
    | (with_reducible refine (Dev.loggedPf_fuses (h_put := ?_) ..).trans ?_)
    | (with_reducible refine (Dev.loggedWrite_fuses (h_put := ?_) ..).trans ?_) | (with_reducible refine (Dev.onPr_fuses ..).trans ?_)
    | (with_reducible refine (Dev.stopWrite_fuses ..).trans ?_) | (with_reducible refine (Dev.thermAlert_fuses ..).trans ?_) | (intro _)
    | split | dsimp only

theorem Dev.writeErr_fuses (d : Dev) (org : Origin) (ofs : Nat) (v : Word) : (Dev.writeErr d org ofs v).fuses = d.fuses := by
  unfold Dev.writeErr
  repeat' first
    | with_reducible rfl | (with_reducible refine (Dev.clearWrite_fuses (h_f := ?_) ..).trans ?_)
    | (with_reducible refine (Dev.ignored_fuses ..).trans ?_) | (with_reducible refine (Dev.onErr_fuses ..).trans ?_)
    | (with_reducible refine (Dev.plainWrite_fuses (h_f := ?_) ..).trans ?_) | (with_reducible refine (Dev.retestWrite_fuses ..).trans ?_)
    | (intro _) | split | dsimp only

theorem Dev.writeMem_fuses (d : Dev) (org : Origin) (ofs : Nat) (v : Word) : (Dev.writeMem d org ofs v).fuses = d.fuses := by
  unfold Dev.writeMem
  repeat' first
    | with_reducible rfl | (with_reducible refine (Dev.cxlCfgWrite_fuses ..).trans ?_)
    | (with_reducible refine (Dev.ignored_fuses ..).trans ?_) | (with_reducible refine (Dev.loggedWrite_fuses (h_put := ?_) ..).trans ?_)
    | (with_reducible refine (Dev.onMem_fuses ..).trans ?_) | (with_reducible refine (Dev.pfOnly_fuses (h_f := ?_) ..).trans ?_)
    | (with_reducible refine (Dev.putLogged_fuses (h_put := ?_) ..).trans ?_) | (with_reducible refine (Dev.refuse_fuses ..).trans ?_)
    | (with_reducible refine (Dev.written_fuses (h_f := ?_) ..).trans ?_) | (intro _) | split | dsimp only

theorem Dev.onLnk_fuses (d : Dev) (f : Lnk → Lnk) : (Dev.onLnk d f).fuses = d.fuses := by
  unfold Dev.onLnk
  repeat' first | with_reducible rfl | dsimp only

theorem Dev.peakReset_fuses (d : Dev) (org : Origin) (leaf : Nat) (v : Word) : (Dev.peakReset d org leaf v).fuses = d.fuses := by
  unfold Dev.peakReset
  repeat' first
    | with_reducible rfl | (with_reducible refine (Dev.onCirc_fuses ..).trans ?_)
    | (with_reducible refine (Dev.plainWrite_fuses (h_f := ?_) ..).trans ?_) | (intro _) | split | dsimp only

theorem Dev.boardOpenWrite_fuses (d : Dev) (org : Origin) (hi : Bool) (v : Word) : (Dev.boardOpenWrite d org hi v).fuses = d.fuses := by
  unfold Dev.boardOpenWrite
  repeat' first
    | with_reducible rfl | (with_reducible refine (Dev.loggedWrite_fuses (h_put := ?_) ..).trans ?_)
    | (with_reducible refine (Dev.onLnk_fuses ..).trans ?_) | (intro _) | split | dsimp only

theorem Dev.writeLnk_fuses (d : Dev) (org : Origin) (ofs : Nat) (v : Word) : (Dev.writeLnk d org ofs v).fuses = d.fuses := by
  unfold Dev.writeLnk
  repeat' first
    | with_reducible rfl | (with_reducible refine (Dev.boardOpenWrite_fuses ..).trans ?_)
    | (with_reducible refine (Dev.ignored_fuses ..).trans ?_) | (with_reducible refine (Dev.loggedWrite_fuses (h_put := ?_) ..).trans ?_)
    | (with_reducible refine (Dev.onLnk_fuses ..).trans ?_) | (with_reducible refine (Dev.onPort_fuses ..).trans ?_)
    | (with_reducible refine (Dev.peakReset_fuses ..).trans ?_) | (with_reducible refine (Dev.planWrite_fuses ..).trans ?_)
    | (with_reducible refine (Dev.putLogged_fuses (h_put := ?_) ..).trans ?_) | (with_reducible refine (Dev.refuse_fuses ..).trans ?_)
    | (with_reducible refine (Dev.written_fuses (h_f := ?_) ..).trans ?_) | (intro _) | split | dsimp only

theorem Dev.writeRte_fuses (d : Dev) (org : Origin) (n : Nat) (v : Word) : (Dev.writeRte d org n v).fuses = d.fuses := by
  unfold Dev.writeRte
  repeat' first
    | with_reducible rfl | (with_reducible refine (Dev.loggedPf_fuses (h_put := ?_) ..).trans ?_)
    | (with_reducible refine (Dev.onLnk_fuses ..).trans ?_) | (intro _) | split | dsimp only

theorem Dev.onSync_fuses (d : Dev) (f : Sync → Sync) : (Dev.onSync d f).fuses = d.fuses := by
  unfold Dev.onSync
  repeat' first | with_reducible rfl | dsimp only

theorem Dev.handRefused_fuses (d : Dev) (org : Origin) (st : Status) : (Dev.handRefused d org st).fuses = d.fuses := by
  unfold Dev.handRefused
  repeat' first
    | with_reducible rfl | (with_reducible refine (Dev.onSync_fuses ..).trans ?_) | (with_reducible refine (Dev.refuse_fuses ..).trans ?_)
    | (intro _) | dsimp only

theorem Dev.handGo_fuses (d : Dev) (org : Origin) (clear : Bool) : (Dev.handGo d org clear).fuses = d.fuses := by
  unfold Dev.handGo
  repeat' first
    | with_reducible rfl | (with_reducible refine (Dev.accepted_fuses ..).trans ?_)
    | (with_reducible refine (Dev.coresGo_fuses ..).trans ?_) | (with_reducible refine (Dev.log_fuses ..).trans ?_)
    | (with_reducible refine (Dev.onSync_fuses ..).trans ?_) | (with_reducible refine (Dev.syncArrive_fuses ..).trans ?_) | (intro _)
    | split | dsimp only

theorem Dev.handSet_fuses (d : Dev) (org : Origin) (v : Word) : (Dev.handSet d org v).fuses = d.fuses := by
  unfold Dev.handSet
  repeat' first
    | with_reducible rfl | (with_reducible refine (Dev.accepted_fuses ..).trans ?_)
    | (with_reducible refine (Dev.handGo_fuses ..).trans ?_) | (with_reducible refine (Dev.handRefused_fuses ..).trans ?_)
    | (with_reducible refine (Dev.logRefused_fuses ..).trans ?_) | (with_reducible refine (Dev.onSync_fuses ..).trans ?_)
    | (with_reducible refine (Dev.written_fuses (h_f := ?_) ..).trans ?_) | (intro _) | split | dsimp only

theorem Dev.writeDbg_fuses (d : Dev) (org : Origin) (ofs : Nat) (v : Word) : (Dev.writeDbg d org ofs v).fuses = d.fuses := by
  unfold Dev.writeDbg
  repeat' first
    | with_reducible rfl | (with_reducible refine (Dev.accepted_fuses ..).trans ?_)
    | (with_reducible refine (Dev.handSet_fuses ..).trans ?_) | (with_reducible refine (Dev.ignored_fuses ..).trans ?_)
    | (with_reducible refine (Dev.onSync_fuses ..).trans ?_) | (with_reducible refine (Dev.plainWrite_fuses (h_f := ?_) ..).trans ?_)
    | (with_reducible refine (Dev.tokenWord_fuses ..).trans ?_) | (intro _) | split | dsimp only

theorem Dev.ctxLogged_fuses (d : Dev) (org : Origin) (c o : Nat) (old new : Word) (put : CtxRegs → CtxRegs) : (Dev.ctxLogged d org c o old
    new put).fuses = d.fuses := by
  unfold Dev.ctxLogged
  repeat' first
    | with_reducible rfl | (with_reducible refine (Dev.loggedWrite_fuses (h_put := ?_) ..).trans ?_)
    | (with_reducible refine (Dev.onRegs_fuses ..).trans ?_) | (intro _) | dsimp only

theorem Dev.rangeWrite_fuses (d : Dev) (org : Origin) (c o : Nat) (base count old new : Word) (put : CtxRegs → CtxRegs) : (Dev.rangeWrite
    d org c o base count old new put).fuses = d.fuses := by
  unfold Dev.rangeWrite
  repeat' first
    | with_reducible rfl | (with_reducible refine (Dev.onRegs_fuses ..).trans ?_)
    | (with_reducible refine (Dev.pfOnly_fuses (h_f := ?_) ..).trans ?_)
    | (with_reducible refine (Dev.putLogged_fuses (h_put := ?_) ..).trans ?_) | (with_reducible refine (Dev.refuse_fuses ..).trans ?_)
    | (intro _) | split | dsimp only

theorem Dev.baseWrite_fuses (d : Dev) (org : Origin) (c r k : Nat) (v : Word) : (Dev.baseWrite d org c r k v).fuses = d.fuses := by
  unfold Dev.baseWrite
  repeat' first
    | with_reducible rfl | (with_reducible refine (Dev.ctxWrite_fuses (h_f := ?_) ..).trans ?_)
    | (with_reducible refine (Dev.onRing_fuses ..).trans ?_) | (with_reducible refine (Dev.putLogged_fuses (h_put := ?_) ..).trans ?_)
    | (with_reducible refine (Dev.refuse_fuses ..).trans ?_) | (intro _) | split | dsimp only

theorem Dev.writeRing_fuses (d : Dev) (org : Origin) (c r k : Nat) (v : Word) : (Dev.writeRing d org c r k v).fuses = d.fuses := by
  unfold Dev.writeRing
  repeat' first
    | with_reducible rfl | (with_reducible refine (Dev.baseWrite_fuses ..).trans ?_)
    | (with_reducible refine (Dev.ctxWrite_fuses (h_f := ?_) ..).trans ?_) | (with_reducible refine (Dev.ignored_fuses ..).trans ?_)
    | (with_reducible refine (Dev.onRing_fuses ..).trans ?_) | (with_reducible refine (Dev.putLogged_fuses (h_put := ?_) ..).trans ?_)
    | (with_reducible refine (Dev.ringCfgWrite_fuses ..).trans ?_) | (intro _) | split | dsimp only

theorem Dev.writeCtx_fuses (d : Dev) (org : Origin) (c o : Nat) (v : Word) : (Dev.writeCtx d org c o v).fuses = d.fuses := by
  unfold Dev.writeCtx
  repeat' first
    | with_reducible rfl | (with_reducible refine (Dev.abortReg_fuses ..).trans ?_)
    | (with_reducible refine (Dev.accepted_fuses ..).trans ?_) | (with_reducible refine (Dev.anchorWrite_fuses ..).trans ?_)
    | (with_reducible refine (Dev.clearWrite_fuses (h_f := ?_) ..).trans ?_) | (with_reducible refine (Dev.ctxLogged_fuses ..).trans ?_)
    | (with_reducible refine (Dev.ctxWrite_fuses (h_f := ?_) ..).trans ?_) | (with_reducible refine (Dev.enableReg_fuses ..).trans ?_)
    | (with_reducible refine (Dev.ignored_fuses ..).trans ?_) | (with_reducible refine (Dev.onRegs_fuses ..).trans ?_)
    | (with_reducible refine (Dev.plainWrite_fuses (h_f := ?_) ..).trans ?_) | (with_reducible refine (Dev.rangeWrite_fuses ..).trans ?_)
    | (with_reducible refine (Dev.writeRing_fuses ..).trans ?_) | (intro _) | split | dsimp only

theorem Dev.badWrite_fuses (d : Dev) (org : Origin) (ofs : Nat) : (Dev.badWrite d org ofs).fuses = d.fuses := by
  unfold Dev.badWrite
  repeat' first
    | with_reducible rfl | (with_reducible refine (Dev.refuse_fuses ..).trans ?_)
    | (with_reducible refine (Dev.written_fuses (h_f := ?_) ..).trans ?_) | (intro _) | dsimp only

theorem Dev.standardWrite_fuses (d : Dev) (org : Origin) (ofs : Nat) (v : Word) : (Dev.standardWrite d org ofs v).fuses = d.fuses := by
  unfold Dev.standardWrite
  repeat' first
    | with_reducible rfl | (with_reducible refine (Dev.drainRings_fuses ..).trans ?_)
    | (with_reducible refine (Dev.finishRuns_fuses ..).trans ?_) | (with_reducible refine (Dev.pcieWrite_fuses ..).trans ?_) | split
    | dsimp only

theorem Dev.debugWrite_fuses (d : Dev) (mem : DebugMem) (a : Nat) (b : Bytes) : (Dev.debugWrite d mem a b).fuses = d.fuses := by
  unfold Dev.debugWrite
  repeat' first
    | with_reducible rfl | (with_reducible refine (Dev.onCore_fuses ..).trans ?_) | (with_reducible refine (Dev.onMem_fuses ..).trans ?_)
    | (with_reducible refine (Dev.onSync_fuses ..).trans ?_)
    | (with_reducible refine (foldl_keeps (fun a : _ × Dev => a.2.fuses) _ (fun _ _ => ?_) _ _).trans ?_)
    | (with_reducible refine (foldl_keeps (fun a : _ × _ × Dev => a.2.2.fuses) _ (fun _ _ => ?_) _ _).trans ?_)
    | (with_reducible refine (foldl_keeps (fun a : Dev × _ => a.1.fuses) _ (fun _ _ => ?_) _ _).trans ?_)
    | (with_reducible refine (foldl_keeps (fun a : Dev => a.fuses) _ (fun _ _ => ?_) _ _).trans ?_) | (intro _) | split | dsimp only

theorem Dev.winLocal_fuses (d : Dev) (n c va : Nat) (acc : WinAccess) : (Dev.winLocal d n c va acc).fuses = d.fuses := by
  unfold Dev.winLocal
  repeat' first
    | with_reducible rfl | (with_reducible refine (Dev.emit_fuses ..).trans ?_) | (with_reducible refine (Dev.memGet_fuses ..).trans ?_)
    | (with_reducible refine (Dev.memPut_fuses ..).trans ?_) | (with_reducible refine (Dev.winFails_fuses ..).trans ?_) | split
    | dsimp only

theorem Dev.window_fuses (d : Dev) (offset : Nat) (acc : WinAccess) : (Dev.window d offset acc).fuses = d.fuses := by
  unfold Dev.window
  repeat' first
    | with_reducible rfl | (with_reducible refine (Dev.boardOut_fuses ..).trans ?_)
    | (with_reducible refine (Dev.winFails_fuses ..).trans ?_) | (with_reducible refine (Dev.winLocal_fuses ..).trans ?_) | split
    | dsimp only

end Sys2Proof.Machine
end

