-- ==== Sys2Proof/Laws/Ops.lean ====
section
/-! SUPPORT. What each shared operation on the station's memories can do: that it keeps their canonical form, what a read after a write
gives, and which parts of the station it leaves alone. -/

namespace Sys2Proof.Machine

open Dev

/-! ### The canonical form -/

theorem Memory.wf_iff (d : Dev) : Memory.wf d = true ↔
    Table.wf 0 d.mem.gddr = true ∧ Table.wf none d.mem.gddrMarks = true ∧ Table.wf 0 d.mem.cxl = true ∧
    Table.wf none d.mem.cxlMarks = true ∧ Table.wf 0 d.cmem.bytes = true ∧ Table.wf none d.cmem.marks = true ∧
    Table.wf false d.cmem.bad = true ∧ ∀ e ∈ d.cores, Table.wf 0 e.2.buf.bytes = true ∧ Table.wf none e.2.buf.marks = true := by
  simp [Memory.wf, and_assoc]

theorem Memory.wf_reset : Memory.wf State.reset.dev = true := by decide

/-- Only the memories count. -/
theorem Memory.wf_of_same {d t : Dev} (h : Memory.wf d = true) (hm : t.mem = d.mem) (hc : t.cmem = d.cmem)
    (hk : t.cores = d.cores) : Memory.wf t = true := by
  rw [Memory.wf, hm, hc, hk]; exact h

/-- A chain of operations that each keep the form keeps it. -/
theorem Memory.wf_each {α : Type} (f : Dev → α → Dev) (hf : ∀ d a, Memory.wf d = true → Memory.wf (f d a) = true)
    (l : List α) (d : Dev) (h : Memory.wf d = true) : Memory.wf (d.each l f) = true := by
  induction l generalizing d with
  | nil => exact h
  | cons a l ih => exact ih _ (hf _ _ h)

theorem wf_foldl_set (t : Table (Option Status)) (h : Table.wf none t = true) (l : List Nat)
    (f : Table (Option Status) → Nat → Table (Option Status)) (hf : ∀ t i, Table.wf none t = true → Table.wf none (f t i) = true) :
    Table.wf none (l.foldl f t) = true := by
  induction l generalizing t with
  | nil => exact h
  | cons a l ih => exact ih _ (hf _ _ h)

theorem wf_markLines (t : Table (Option Status)) (o n : Nat) (m : Option Status) (h : Table.wf none t = true) :
    Table.wf none (markLines t o n m) = true := by
  unfold markLines
  split
  · exact h
  · refine wf_foldl_set t h _ _ fun t i h => ?_
    dsimp only
    split
    · exact Table.wf_set _ t _ _ h
    · exact Table.wf_modify _ t _ _ h

/-- A change of the tiers that keeps their four tables canonical. -/
theorem Memory.wf_onMem (d : Dev) (f : Mem → Mem) (h : Memory.wf d = true)
    (hf : Table.wf 0 (f d.mem).gddr = true ∧ Table.wf none (f d.mem).gddrMarks = true ∧ Table.wf 0 (f d.mem).cxl = true ∧
      Table.wf none (f d.mem).cxlMarks = true) : Memory.wf (d.onMem f) = true := by
  rw [Memory.wf_iff] at h ⊢
  exact ⟨hf.1, hf.2.1, hf.2.2.1, hf.2.2.2, h.2.2.2.2⟩

/-- Every core, listed or not, has a canonical buffer. -/
theorem Memory.wf_core (d : Dev) (c : Nat) (h : Memory.wf d = true) :
    Table.wf 0 (d.core c).buf.bytes = true ∧ Table.wf none (d.core c).buf.marks = true := by
  rw [Memory.wf_iff] at h
  have hk := h.2.2.2.2.2.2.2
  unfold Dev.core
  generalize d.cores = t at hk
  induction t with
  | nil => exact ⟨rfl, rfl⟩
  | cons e t ih =>
    obtain ⟨k, v⟩ := e
    simp only [Table.get]
    split
    · exact hk _ List.mem_cons_self
    · exact ih fun e he => hk e (List.mem_cons_of_mem _ he)

/-- A change of one core that leaves its buffer canonical. -/
theorem Memory.wf_onCore (d : Dev) (c : Nat) (f : Core → Core) (h : Memory.wf d = true)
    (hf : Table.wf 0 (f (d.core c)).buf.bytes = true ∧ Table.wf none (f (d.core c)).buf.marks = true) :
    Memory.wf (d.onCore c f) = true := by
  rw [Memory.wf_iff] at h ⊢
  refine ⟨h.1, h.2.1, h.2.2.1, h.2.2.2.1, h.2.2.2.2.1, h.2.2.2.2.2.1, h.2.2.2.2.2.2.1, fun e he => ?_⟩
  rw [Dev.onCore_cores, Table.modify, Table.set] at he
  split at he
  · exact h.2.2.2.2.2.2.2 e (Table.mem_erase _ _ he)
  · rcases Table.mem_insert _ _ _ he with rfl | he
    · exact hf
    · exact h.2.2.2.2.2.2.2 e (Table.mem_erase _ _ he)

/-- Two states of the station whose memories, contexts, work and sync words are the same. -/
def SameStores (d t : Dev) : Prop := t.mem = d.mem ∧ t.cmem = d.cmem ∧ t.cores = d.cores ∧ t.ctxs = d.ctxs ∧ t.work = d.work ∧
  t.sync = d.sync

theorem SameStores.refl (d : Dev) : SameStores d d := ⟨rfl, rfl, rfl, rfl, rfl, rfl⟩
theorem SameStores.trans {d t u : Dev} (h : SameStores d t) (k : SameStores t u) : SameStores d u :=
  ⟨k.1.trans h.1, k.2.1.trans h.2.1, k.2.2.1.trans h.2.2.1, k.2.2.2.1.trans h.2.2.2.1, k.2.2.2.2.1.trans h.2.2.2.2.1,
    k.2.2.2.2.2.trans h.2.2.2.2.2⟩
theorem SameStores.wf {d t : Dev} (k : SameStores d t) (h : Memory.wf d = true) : Memory.wf t = true :=
  Memory.wf_of_same h k.1 k.2.1 k.2.2.1
theorem SameStores.each {α : Type} (f : Dev → α → Dev) (hf : ∀ d a, SameStores d (f d a)) (l : List α) (d : Dev) :
    SameStores d (d.each l f) := by
  induction l generalizing d with
  | nil => exact SameStores.refl d
  | cons a l ih => exact (hf d a).trans (ih _)

/-- A message-signalled interrupt leaves, or its pending bit is set. -/
theorem msix_same (d : Dev) (c v : Nat) : SameStores d (d.msix c v) := by
  unfold Dev.msix
  split <;> exact ⟨rfl, rfl, rfl, rfl, rfl, rfl⟩
theorem onErr_same (d : Dev) (f : ErrRegs → ErrRegs) : SameStores d (d.onErr f) := ⟨rfl, rfl, rfl, rfl, rfl, rfl⟩
/-- A cause changes registers and interrupts only. -/
theorem cause_mem (d : Dev) (k : Nat) : SameStores d (d.cause k) := by
  unfold Dev.cause
  generalize (fun e : ErrRegs => { e with irqStatus := setFld e.irqStatus k k 1 }) = f
  dsimp only
  have h : SameStores d (d.onErr f) := ⟨rfl, rfl, rfl, rfl, rfl, rfl⟩
  split
  · exact h.trans (msix_same _ _ _)
  · exact h

/-- A capture of a memory event changes registers and interrupts only. -/
theorem errMem_mem (d : Dev) (k c ch i va : Nat) : SameStores d (d.errMem k c ch i va) := by
  have h : ∃ f : ErrRegs → ErrRegs, d.errMem k c ch i va = (if flag d.err.mem 31 then d else d.onErr f).cause Dev.cMemory :=
    ⟨_, rfl⟩
  obtain ⟨f, h⟩ := h
  have hc := cause_mem (if flag d.err.mem 31 then d else d.onErr f) Dev.cMemory
  rw [← h] at hc
  split at hc <;> exact hc

theorem Memory.wf_errMem (d : Dev) (k c ch i va : Nat) (h : Memory.wf d = true) : Memory.wf (d.errMem k c ch i va) = true :=
  (errMem_mem d k c ch i va).wf h

theorem Memory.wf_bufPut (d : Dev) (c o : Nat) (b : Bytes) (m : Option Status) (h : Memory.wf d = true) :
    Memory.wf (d.bufPut c o b m) = true :=
  Memory.wf_onCore d c _ h ⟨Table.wf_setRange _ _ _ _ (Memory.wf_core d c h).1, wf_markLines _ _ _ _ (Memory.wf_core d c h).2⟩

theorem Memory.wf_putSector (d : Dev) (c va : Nat) (b : Bytes) (m : Option Status) (h : Memory.wf d = true) :
    Memory.wf (d.putSector c va b m) = true := by
  unfold Dev.putSector
  split
  · exact h
  · have hi := (Memory.wf_iff d).1 h
    refine Memory.wf_onMem d _ h ?_
    split
    · exact ⟨hi.1, hi.2.1, Table.wf_setRange _ _ _ _ hi.2.2.1, wf_markLines _ _ _ _ hi.2.2.2.1⟩
    · exact ⟨Table.wf_setRange _ _ _ _ hi.1, wf_markLines _ _ _ _ hi.2.1, hi.2.2.1, hi.2.2.2.1⟩

theorem Memory.wf_rawPut (d : Dev) (c va : Nat) (b : Bytes) (m : Option Status) (h : Memory.wf d = true) :
    Memory.wf (d.rawPut c va b m) = true :=
  Memory.wf_each _ (fun _ _ h => Memory.wf_putSector _ _ _ _ _ h) _ _ h

/-- Sectors whose write is lost take free bytes instead, in the same form. -/
theorem Memory.wf_slotPut (d : Dev) (c va : Nat) (b : Bytes) (m : Option Status) (h : Memory.wf d = true) :
    Memory.wf (d.slotPut c va b m).2 = true := by
  unfold Dev.slotPut
  dsimp only
  split
  · exact Memory.wf_rawPut _ _ _ _ _ h
  · refine Memory.wf_errMem _ _ _ _ _ _ ?_
    have h1 := Memory.wf_each (fun (t : Dev) (s : Nat × Nat) =>
      if (d.lateSectors c va b.length).any (fun x => x.1 = s.1) then (t.freeBytes s.2).2.putSector c s.1 (t.freeBytes s.2).1 none
      else t.putSector c s.1 (sub b (s.1 - va) s.2) m) (fun t s ht => by
        split
        · exact Memory.wf_putSector _ _ _ _ _ (Memory.wf_of_same ht rfl rfl rfl)
        · exact Memory.wf_putSector _ _ _ _ _ ht) (sectorsOf va b.length) d h
    have hi := (Memory.wf_iff _).1 h1
    exact Memory.wf_onMem _ _ h1 ⟨hi.1, hi.2.1, hi.2.2.1, hi.2.2.2.1⟩

theorem Memory.wf_memPut (d : Dev) (c va : Nat) (b : Bytes) (m : Option Status) (h : Memory.wf d = true) :
    Memory.wf (d.memPut c va b m).2 = true := by
  unfold Dev.memPut
  split
  · exact Memory.wf_errMem _ _ _ _ _ _ h
  · exact Memory.wf_slotPut _ _ _ _ _ h

/-- A read leaves the bytes and marks of the memories. -/
theorem Memory.wf_memGet (d : Dev) (c va n : Nat) (h : Memory.wf d = true) : Memory.wf (d.memGet c va n).2.2 = true := by
  have hi := (Memory.wf_iff d).1 h
  have hm : ∀ f : Mem → List Nat, Memory.wf (d.onMem fun x => { x with cxlLateRead := f x }) = true := fun f =>
    Memory.wf_onMem _ _ h ⟨hi.1, hi.2.1, hi.2.2.1, hi.2.2.2.1⟩
  unfold Dev.memGet
  split
  · exact Memory.wf_errMem _ _ _ _ _ _ h
  · dsimp only
    split
    · exact h
    · split
      · exact Memory.wf_errMem _ _ _ _ _ _ (hm _)
      · split
        · split <;> exact Memory.wf_errMem _ _ _ _ _ _ (hm _)
        · exact hm _

theorem Memory.wf_clearFrame (d : Dev) (cxl : Bool) (f : Nat) (h : Memory.wf d = true) : Memory.wf (d.clearFrame cxl f) = true := by
  have hi := (Memory.wf_iff d).1 h
  refine Memory.wf_onMem d _ h ?_
  split
  · exact ⟨hi.1, hi.2.1, Table.wf_clearRange _ _ _ _ hi.2.2.1, Table.wf_clearRange _ _ _ _ hi.2.2.2.1⟩
  · exact ⟨Table.wf_clearRange _ _ _ _ hi.1, Table.wf_clearRange _ _ _ _ hi.2.1, hi.2.2.1, hi.2.2.2.1⟩

theorem wf_foldl_bad (t : Table Bool) (h : Table.wf false t = true) (l : List Nat) (c : Nat → Bool) :
    Table.wf false (l.foldl (fun t r => if c r then Table.set false t r false else t) t) = true := by
  induction l generalizing t with
  | nil => exact h
  | cons a l ih =>
    refine ih _ ?_
    dsimp only
    split
    · exact Table.wf_set _ _ _ _ h
    · exact h

theorem Memory.wf_cmemPut (d : Dev) (a : Nat) (b : Bytes) (m : Option Status) (h : Memory.wf d = true) :
    Memory.wf (d.cmemPut a b m) = true := by
  rw [Memory.wf_iff] at h ⊢
  have hw : (d.cmemWake a b.length).mem = d.mem ∧ (d.cmemWake a b.length).cmem = d.cmem ∧ (d.cmemWake a b.length).cores = d.cores := by
    unfold Dev.cmemWake
    split <;> exact ⟨rfl, rfl, rfl⟩
  unfold Dev.cmemPut
  dsimp only
  rw [hw.1, hw.2.1, hw.2.2]
  refine ⟨h.1, h.2.1, h.2.2.1, h.2.2.2.1, Table.wf_setRange _ _ _ _ h.2.2.2.2.1, wf_foldl_set _ h.2.2.2.2.2.1 _ _ fun t i ht => ?_,
    wf_foldl_bad _ h.2.2.2.2.2.2.1 _ _, h.2.2.2.2.2.2.2⟩
  split
  · exact Table.wf_set _ t _ _ ht
  · exact Table.wf_modify _ t _ _ ht

theorem dropLists_wf (d : Dev) (k : Nat) (h : Memory.wf d = true) : Memory.wf (d.dropLists k) = true := Memory.wf_of_same h rfl rfl rfl

theorem Memory.wf_clearBuffers (d : Dev) (h : Memory.wf d = true) : Memory.wf d.clearBuffers = true :=
  dropLists_wf _ _ (Memory.wf_each _ (fun d c h => Memory.wf_onCore d c _ h ⟨rfl, rfl⟩) _ _ h)

theorem Memory.wf_clearCmem (d : Dev) (h : Memory.wf d = true) : Memory.wf d.clearCmem = true := by
  rw [Memory.wf_iff] at h ⊢
  exact ⟨h.1, h.2.1, h.2.2.1, h.2.2.2.1, rfl, rfl, rfl, h.2.2.2.2.2.2.2⟩

theorem Memory.wf_unmapPage (d : Dev) (c page : Nat) (h : Memory.wf d = true) : Memory.wf (d.unmapPage c page) = true := by
  unfold Dev.unmapPage
  split
  · exact h
  · rename_i p _
    have hi := (Memory.wf_iff d).1 h
    refine Memory.wf_onMem _ _ (Memory.wf_of_same h rfl rfl rfl) ?_
    split <;> exact ⟨hi.1, hi.2.1, hi.2.2.1, hi.2.2.2.1⟩

theorem Memory.wf_mapPages (d : Dev) (c page : Nat) (cxl write : Bool) (ed : Option Nat) (l : List Nat) (h : Memory.wf d = true) :
    Memory.wf (d.mapPages c page cxl write ed l) = true := by
  induction l generalizing d page with
  | nil => exact h
  | cons f l ih =>
    refine ih _ _ ?_
    have hi := (Memory.wf_iff d).1 h
    refine Memory.wf_onMem _ _ (Memory.wf_of_same h rfl rfl rfl) ?_
    split <;> exact ⟨hi.1, hi.2.1, hi.2.2.1, hi.2.2.2.1⟩

theorem wf_copyKeys {α : Type} [DecidableEq α] (t : Table α) (x : α) (a b n : Nat) (h : Table.wf x t = true) :
    Table.wf x (copyKeys t x a b n) = true := by
  unfold copyKeys
  generalize t.filter (fun e => a ≤ e.1 && e.1 < a + n) = l
  have h' := Table.wf_clearRange x t b n h
  generalize Table.clearRange t b n = u at h'
  induction l generalizing u with
  | nil => exact h'
  | cons e l ih => exact ih _ (Table.wf_set _ _ _ _ h')

theorem Memory.wf_moveFrame (d : Dev) (f g : Nat) (h : Memory.wf d = true) : Memory.wf (d.moveFrame f g) = true := by
  have hi := (Memory.wf_iff d).1 h
  rw [Memory.wf_iff]
  exact ⟨wf_copyKeys _ _ _ _ _ hi.1, wf_copyKeys _ _ _ _ _ hi.2.1, hi.2.2⟩

/-- What a command met on its way (R254, R255) marks, it marks in canonical form. -/
theorem Memory.wf_foundOne (d : Dev) (f : Found) (h : Memory.wf d = true) : Memory.wf (d.foundOne f) = true := by
  have hi := (Memory.wf_iff d).1 h
  cases f with
  | gddr f s k =>
    cases k with
    | corrected => exact Memory.wf_onMem _ _ h ⟨hi.1, hi.2.1, hi.2.2.1, hi.2.2.2.1⟩
    | uncorrectable =>
      exact Memory.wf_errMem _ _ _ _ _ _ (Memory.wf_onMem _ _ h ⟨hi.1, (by dsimp only; exact Table.wf_set _ _ _ _ hi.2.1), hi.2.2.1, hi.2.2.2.1⟩)
  | crcRetry n => exact Memory.wf_onMem _ _ h ⟨hi.1, hi.2.1, hi.2.2.1, hi.2.2.2.1⟩
  | cxlPoison l => exact Memory.wf_onMem _ _ h ⟨hi.1, hi.2.1, hi.2.2.1, by dsimp only; exact Table.wf_set _ _ _ _ hi.2.2.2.1⟩
  | cmemRow r k =>
    cases k with
    | corrected => exact (Memory.wf_iff _).2 hi
    | uncorrectable =>
      exact (Memory.wf_iff _).2 ⟨hi.1, hi.2.1, hi.2.2.1, hi.2.2.2.1, hi.2.2.2.2.1, hi.2.2.2.2.2.1,
        (by show Table.wf false (d.cmem.bad.set false r true) = true; exact Table.wf_set _ _ _ _ hi.2.2.2.2.2.2.1), hi.2.2.2.2.2.2.2⟩
  | bufLine c l =>
    exact Memory.wf_errMem _ _ _ _ _ _ (Memory.wf_onCore _ _ _ h ⟨(Memory.wf_core d _ h).1, by dsimp only; exact Table.wf_set _ _ _ _ (Memory.wf_core d _ h).2⟩)
  | syncWord _ => exact h
  | decoder c i => exact Memory.wf_onCore _ _ _ h (Memory.wf_core d c h)

/-! ### What leaves by a port -/

theorem linkOut_parts (d : Dev) (p : Nat) (f : Port → Port) : SameStores d (d.onPort p f) := ⟨rfl, rfl, rfl, rfl, rfl, rfl⟩
theorem emit_same (d : Dev) (o : Out) : SameStores d (d.emit o) := ⟨rfl, rfl, rfl, rfl, rfl, rfl⟩
theorem flitOut_same (d : Dev) (p k cr ak n : Nat) (b : Bytes) : SameStores d (d.flitOut p k cr ak n b) := by
  unfold Dev.flitOut
  dsimp only
  split
  · exact SameStores.refl d
  · exact (linkOut_parts _ _ _).trans (emit_same _ _)
theorem numbered_same (d : Dev) (p k : Nat) (b : Bytes) : SameStores d (d.numbered p k b) :=
  (linkOut_parts _ _ _).trans (flitOut_same _ _ _ _ _ _ _)
theorem closeGroup_same (d : Dev) (p : Nat) : SameStores d (d.closeGroup p) := by
  unfold Dev.closeGroup
  dsimp only
  split
  · exact SameStores.refl d
  · split
    · exact SameStores.refl d
    · exact (numbered_same _ _ _ _).trans (linkOut_parts _ _ _)
theorem sendFlit_same (d : Dev) (p k : Nat) (b : Bytes) : SameStores d (d.sendFlit p k b) := by
  unfold Dev.sendFlit
  dsimp only
  split
  · exact numbered_same _ _ _ _
  · split
    · exact numbered_same _ _ _ _
    · split
      · exact ((numbered_same _ _ _ _).trans (linkOut_parts _ _ _)).trans (closeGroup_same _ _)
      · exact (numbered_same _ _ _ _).trans (linkOut_parts _ _ _)
theorem flitsGo_same (p n : Nat) (d : Dev) : SameStores d (flitsGo p n d) := by
  induction n generalizing d with
  | zero => exact SameStores.refl d
  | succ n ih =>
    unfold Dev.flitsGo
    dsimp only
    split
    · exact SameStores.refl d
    · split
      · exact SameStores.refl d
      · split
        · exact SameStores.refl d
        · exact ((linkOut_parts _ _ _).trans (sendFlit_same _ _ _ _)).trans (ih _)
theorem flush_same (d : Dev) (p : Nat) : SameStores d (d.flush p) := flitsGo_same _ _ _
theorem linkOut_same (d : Dev) (p : Nat) (b : Bytes) : SameStores d (d.linkOut p b) :=
  ((emit_same _ _).trans (linkOut_parts _ _ _)).trans (flush_same _ _)
theorem wakeCords_same (d : Dev) (p : Nat) : SameStores d (d.wakeCords p) := by
  unfold Dev.wakeCords
  dsimp only
  split
  · exact SameStores.refl d
  · exact (linkOut_parts _ _ _).trans (linkOut_same _ _ _)
theorem packetsGo_same (p : Nat) (circ : Bool) (n : Nat) (d : Dev) : SameStores d (packetsGo p circ n d) := by
  induction n generalizing d with
  | zero => exact SameStores.refl d
  | succ n ih =>
    unfold Dev.packetsGo
    dsimp only
    split
    · exact SameStores.refl d
    · split
      · exact SameStores.refl d
      · refine SameStores.trans ?_ (ih _)
        split
        · exact (emit_same _ _).trans (linkOut_parts _ _ _)
        · exact linkOut_parts _ _ _
theorem channelGo_same (d : Dev) (p : Nat) (circ : Bool) : SameStores d (d.channelGo p circ) := by
  unfold Dev.channelGo
  dsimp only
  split
  · exact flush_same _ _
  · exact ((wakeCords_same _ _).trans (packetsGo_same _ _ _ _)).trans (flush_same _ _)
theorem onCirc_same (d : Dev) (f : Circ → Circ) : SameStores d (d.onCirc f) := ⟨rfl, rfl, rfl, rfl, rfl, rfl⟩
theorem packetOn_same (d : Dev) (src p : Nat) (b : Bytes) : SameStores d (d.packetOn src p b) := by
  unfold Dev.packetOn
  split
  · exact SameStores.refl d
  · exact ((linkOut_parts _ _ _).trans (onCirc_same _ _)).trans (channelGo_same _ _ _)
theorem crossed_same (d : Dev) (x : Crossing) : SameStores d (d.crossed x) :=
  (onCirc_same _ _).trans (SameStores.each _ (fun d c => packetOn_same d _ _ _) _ _)
theorem spineGo_same (n : Nat) (d : Dev) : SameStores d (spineGo n d) := by
  induction n generalizing d with
  | zero => exact SameStores.refl d
  | succ n ih =>
    unfold Dev.spineGo
    split
    · exact (crossed_same _ _).trans (ih _)
    · exact SameStores.refl d
theorem cross_same (d : Dev) (x : Crossing) : SameStores d (d.cross x) :=
  ((onCirc_same _ _).trans (onCirc_same _ _)).trans (spineGo_same _ _)
/-- A packet that is to leave changes the links, the spine and what leaves, and nothing of the station's stores. -/
theorem packetPass_same (d : Dev) (src p : Nat) (b : Bytes) : SameStores d (d.packetPass src p b) := by
  unfold Dev.packetPass
  split
  · exact cross_same _ _
  · exact packetOn_same _ _ _ _
theorem sliceDrop_same (d : Dev) (cls port slice src : Nat) : SameStores d (d.sliceDrop cls port slice src) := by
  unfold Dev.sliceDrop
  dsimp only
  have h : SameStores d { d with lnk := { d.lnk with sliceDrop := satAdd d.lnk.sliceDrop 1 } } := ⟨rfl, rfl, rfl, rfl, rfl, rfl⟩
  split
  · exact h
  · exact (h.trans (onErr_same _ _)).trans (cause_mem _ _)
theorem sendBoardBy_same (d : Dev) (port : Option Nat) (m cls tag : Nat) (b : Bytes) :
    SameStores d (d.sendBoardBy port m cls tag b).2 := by
  unfold Dev.sendBoardBy
  split
  · exact sliceDrop_same _ _ _ _ _
  · split
    · exact packetOn_same _ _ _ _
    · exact SameStores.refl d
/-- A board access that leaves keeps the memories. -/
theorem Memory.wf_boardOut (d : Dev) (core : Option Nat) (entry m cls : Nat) (store : Bool) (a len : Nat) (sync : Option SyncReq) (b : Bytes)
    (h : Memory.wf d = true) : Memory.wf (d.boardOut core entry m cls store a len sync b).2 = true := by
  have hs := (sendBoardBy_same d (d.boardWay core m) m cls (boardTag d.circ.boardNo) b).wf h
  unfold Dev.boardOut
  dsimp only
  split
  · exact Memory.wf_of_same hs rfl rfl rfl
  · exact hs

theorem Memory.wf_memMark (d : Dev) (va n : Nat) (st : Status) (h : Memory.wf d = true) : Memory.wf (d.memMark va n st) = true := by
  refine Memory.wf_each _ (fun d s h => ?_) _ _ h
  have hi := (Memory.wf_iff d).1 h
  split
  · refine Memory.wf_onMem _ _ h ?_
    split
    · exact ⟨hi.1, hi.2.1, hi.2.2.1, by dsimp only; exact Table.wf_modify _ _ _ _ hi.2.2.2.1⟩
    · exact ⟨hi.1, (by dsimp only; exact Table.wf_modify _ _ _ _ hi.2.1), hi.2.2.1, hi.2.2.2.1⟩
  · exact h

theorem Memory.wf_spaceMark (d : Dev) (c entry space cm : Nat) (a : Int) (n : Nat) (st : Status) (h : Memory.wf d = true) :
    Memory.wf (d.spaceMark c entry space cm a n st) = true := by
  have hf : ∀ (t : Table (Option Status)) (l : List Nat) (g : Nat → Nat), Table.wf none t = true →
      Table.wf none (l.foldl (fun t i => t.modify none (g i) fun p => orMark p (some st)) t) = true :=
    fun t l g ht => wf_foldl_set t ht l _ fun t i ht => Table.wf_modify _ t _ _ ht
  have hb : ∀ (p : Nat) (l : List Nat) (g : Nat → Nat), Memory.wf (d.onCore p fun x => { x with buf := { x.buf with
      marks := l.foldl (fun t i => t.modify none (g i) fun p => orMark p (some st)) x.buf.marks } }) = true :=
    fun p l g => Memory.wf_onCore _ _ _ h ⟨(Memory.wf_core d p h).1, hf _ _ _ (Memory.wf_core d p h).2⟩
  unfold Dev.spaceMark
  dsimp only
  split
  · split
    · exact hb _ _ _
    · exact h
  · split
    · split
      · exact hb _ _ _
      · exact h
    · exact h
  · exact Memory.wf_memMark _ _ _ _ h
  · split
    · have hi := (Memory.wf_iff d).1 h
      exact (Memory.wf_iff _).2 ⟨hi.1, hi.2.1, hi.2.2.1, hi.2.2.2.1, hi.2.2.2.2.1, hf _ _ _ hi.2.2.2.2.2.1, hi.2.2.2.2.2.2⟩
    · exact h
  · split
    · exact h
    · split
      · exact Memory.wf_memMark _ _ _ _ h
      · exact Memory.wf_boardOut _ _ _ _ _ _ _ _ _ _ h
  · exact h

/-! ### Reads after writes -/

/-- A core buffer reads back what was written. -/
theorem bufGet_bufPut (d : Dev) (c o : Nat) (b : Bytes) (m : Option Status) : (d.bufPut c o b m).bufGet c o b.length = b := by
  unfold Dev.bufGet Dev.bufPut
  rw [Dev.core, Dev.onCore_cores, Table.get_modify_self]
  exact Table.getRange_setRange _ _ _ _

/-- A write of one core's buffer leaves the others. -/
theorem bufGet_bufPut_ne (d : Dev) {c k : Nat} (o p n : Nat) (b : Bytes) (m : Option Status) (h : c ≠ k) :
    (d.bufPut c o b m).bufGet k p n = d.bufGet k p n := by
  unfold Dev.bufGet Dev.bufPut
  rw [Dev.core, Dev.onCore_cores, Table.get_modify_ne _ _ _ h]
  rfl

/-- CMEM reads back what was written. -/
theorem cmem_cmemPut (d : Dev) (a : Nat) (b : Bytes) (m : Option Status) :
    (d.cmemPut a b m).cmem.bytes.getRange 0 a b.length = b := by
  unfold Dev.cmemPut
  exact Table.getRange_setRange _ _ _ _

/-- What `putSector` and `rawPut` leave alone. -/
theorem putSector_keeps (d : Dev) (c va : Nat) (b : Bytes) (m : Option Status) :
    (d.putSector c va b m).ctxs = d.ctxs ∧ (d.putSector c va b m).cores = d.cores ∧ (d.putSector c va b m).cmem = d.cmem ∧
    (d.putSector c va b m).sync = d.sync ∧ (d.putSector c va b m).work = d.work ∧ (d.putSector c va b m).circ = d.circ := by
  unfold Dev.putSector
  split <;> exact ⟨rfl, rfl, rfl, rfl, rfl, rfl⟩

/-- A byte of a tier after a write of one sector's part: the byte written there, else the byte that stood there. -/
theorem tierByte_putSector (d : Dev) (c va : Nat) (b : Bytes) (m : Option Status) (cxl : Bool) (a : Nat)
    (h : d.physOf c va = some (cxl, a)) (p : Bool × Nat) :
    (d.putSector c va b m).tierByte p =
      if p.1 = cxl ∧ a ≤ p.2 ∧ p.2 < a + b.length then b.getD (p.2 - a) 0 else d.tierByte p := by
  obtain ⟨q, x⟩ := p
  have key : ∀ t : Table Byte, (t.setRange 0 a b).get 0 x = if a ≤ x ∧ x < a + b.length then b.getD (x - a) 0 else t.get 0 x := by
    intro t
    split
    · rename_i hx
      have hl : x - a < b.length := by omega
      have := Table.get_setRange_in 0 t a b (x - a) hl
      rw [Nat.add_sub_cancel' hx.1] at this
      rw [this, List.getD_eq_getElem?_getD, List.getElem?_eq_getElem hl]; rfl
    · rename_i hx
      exact Table.get_setRange_out 0 t a b x (by omega)
  unfold Dev.putSector
  rw [h]
  cases cxl <;> cases q <;> simp [Dev.tierByte, Dev.onMem]
  · exact key d.mem.gddr
  · exact key d.mem.cxl

/-! ### Captures -/

/-- A capture register that holds one keeps it; an empty one takes the new value with VALID set. -/
theorem capture_held (r : Word) (v : Nat) (h : flag r 31 = true) : capture r v = r := by simp [capture, h]
theorem capture_empty (r : Word) (v : Nat) (h : flag r 31 = false) : capture r v = word (2 ^ 31 + v) := by simp [capture, h]

/-! ### Resets -/

/-- What a fold that sets each key of a list once leaves: its values at those keys, and the table elsewhere. -/
theorem foldl_set_get {α : Type} [DecidableEq α] (x : α) (f : Nat → α) (l : List Nat) (t : Table α) (r : Nat) :
    (l.foldl (fun u i => u.set x i (f i)) t).get x r = if r ∈ l then f r else t.get x r := by
  induction l generalizing t with
  | nil => simp
  | cons i l ih =>
    rw [List.foldl_cons, ih]
    by_cases h : r ∈ l
    · simp [h]
    · by_cases e : i = r
      · subst e; simp [h]
      · simp [h, Ne.symm e, Table.get_set_ne _ _ _ e]

/-- A function level reset leaves a ring pair with its indices alone. -/
theorem Dev.ringsReset_get (t : Table Ring) {r : Nat} (h : r < 16) : (ringsReset t).get {} r = ringReset (t.get {} r) := by
  rw [ringsReset, foldl_set_get, if_pos (List.mem_range.2 h)]

/-! ### Exact values -/

/-- A power of two of the machine's exact values is the power of the field. -/
theorem pow2_eq_zpow (k : Int) : pow2 k = (2 : Rat) ^ k := by
  unfold pow2
  split
  · next h => obtain ⟨n, rfl⟩ := Int.eq_ofNat_of_zero_le h; simp
  · next h =>
    obtain ⟨n, hn⟩ := Int.eq_ofNat_of_zero_le (by omega : 0 ≤ -k)
    have : k = -(n : Int) := by omega
    subst this; simp

end Sys2Proof.Machine
end

