-- ==== Sys2Proof/Laws/Svn.lean ====
section
/-! SUPPORT. What lets an image run takes the fuses forward (R348): the few operations that may advance SVN. -/

namespace Sys2Proof.Machine

open Dev

theorem FusesForward.refl (a : Fuses) : FusesForward a a := ⟨Nat.le_refl _, rfl⟩
theorem FusesForward.trans {a b c : Fuses} (h : FusesForward a b) (k : FusesForward b c) : FusesForward a c := by
  refine ⟨Nat.le_trans h.1 k.1, ?_⟩
  have e : { c with svn := a.svn } = { b with svn := a.svn } := by rw [← k.2]
  rw [e, h.2]
theorem FusesForward.of_eq {a b : Fuses} (h : b = a) : FusesForward a b := h ▸ .refl a
/-- A change that leaves the fuses alone, after one that takes them forward. -/
theorem FusesForward.then {a b c : Fuses} (h : c = b) (k : FusesForward a b) : FusesForward a c := h ▸ k

theorem Dev.advanceSvn_up (d : Dev) (image : Bytes) : FusesForward d.fuses (d.advanceSvn image).fuses := by
  unfold Dev.advanceSvn
  dsimp only
  split
  · rename_i h
    simp only [Bool.and_eq_true, decide_eq_true_eq] at h
    exact ⟨Nat.le_of_lt h.1, rfl⟩
  · exact .refl _

theorem Dev.runImage_up (d : Dev) (image : Bytes) (r : Bool) : FusesForward d.fuses (d.runImage image r).fuses := by
  unfold Dev.runImage
  exact .then ((Dev.onBoot_fuses ..).trans (Dev.onSec_fuses ..)) (d.advanceSvn_up image)

theorem Dev.handOver_up (d : Dev) (image : Bytes) (r : Bool) : FusesForward d.fuses (d.handOver image r).fuses := by
  have h : FusesForward d.fuses ((d.reach (d.now + 1000000)).runImage image r).fuses :=
    .trans (.of_eq (Dev.reach_fuses ..)) (Dev.runImage_up _ image r)
  unfold Dev.handOver
  dsimp only
  rw [Dev.resumeBoost_fuses]
  exact h

theorem Dev.startFirmware_up (d : Dev) (image : Bytes) (r : Bool) : FusesForward d.fuses (d.startFirmware image r).fuses := by
  refine .then ?_ (d.handOver_up image r)
  unfold Dev.startFirmware
  dsimp only
  split
  · exact Dev.beginMemory_fuses ..
  · rw [Dev.thermAlert_fuses, Dev.onBoot_fuses, Dev.onPwr_fuses]

theorem Dev.coldBoot_up (d : Dev) (ok : Bool) : FusesForward d.fuses (d.coldBoot ok).fuses := by
  unfold Dev.coldBoot
  extract_lets d1
  have h : d1.fuses = d.fuses := (Dev.powerUpEntry_fuses ..).trans ((Dev.reach_fuses ..).trans (Dev.onBoot_fuses ..))
  clear_value d1
  split
  · exact .trans (.of_eq h) (Dev.startFirmware_up ..)
  · exact .of_eq (by rw [Dev.onBoot_fuses, Dev.enterRecovery_fuses, h])

theorem Dev.powerOn_up (d : Dev) (pos : Nat) (ok : Bool) : FusesForward d.fuses (d.powerOn pos ok).fuses := by
  have h (q : Pins) : (d.withoutPower .on q).newChallenge.fuses = d.fuses := (Dev.newChallenge_fuses ..).trans (Dev.withoutPower_fuses ..)
  unfold Dev.powerOn
  dsimp only
  split
  · exact .trans (.of_eq ((Dev.onBoot_fuses ..).trans (h _))) (Dev.coldBoot_up _ _)
  · exact .of_eq ((Dev.onBoot_fuses ..).trans ((Dev.onBoot_fuses ..).trans (h _)))

theorem Dev.restartEnd_up (d : Dev) (image : Bytes) (r : Bool) : FusesForward d.fuses (d.restartEnd image r).fuses := by
  unfold Dev.restartEnd
  dsimp only
  refine .then ?_ (d.runImage_up image r)
  rw [Dev.cxlDueGo_fuses, Dev.resumeBoost_fuses, Dev.finishRuns_fuses, Dev.drainRings_fuses, Dev.tryFormed_fuses, Dev.transitsGo_fuses,
    Dev.each_fuses _ _ _ fun d p => Dev.applyVerdict_fuses d p, Dev.flushSafety_fuses, Dev.logOwed_fuses, Dev.onBoot_fuses]

theorem Dev.restartRead_up (d : Dev) (ok : Bool) : FusesForward d.fuses (d.restartRead ok).fuses := by
  unfold Dev.restartRead
  split
  · exact .refl _
  · split
    · exact d.restartEnd_up ..
    · exact .of_eq (by rw [Dev.onBoot_fuses, Dev.enterRecovery_fuses])

theorem Dev.bootRecovered_up (d : Dev) (image : Bytes) : FusesForward d.fuses (d.bootRecovered image).fuses := by
  unfold Dev.bootRecovered
  split
  · exact d.restartEnd_up ..
  · exact d.startFirmware_up ..

theorem Dev.fwEnd_up (d : Dev) (ok : Bool) : FusesForward d.fuses (d.fwEnd ok).fuses := by
  have h : ∀ im st l, (((d.onBoot fun b => { b with held := [], update := none }).flashImage im ok).mbxEnd st l).fuses = d.fuses := by
    intro im st l; rw [Dev.mbxEnd_fuses, Dev.flashImage_fuses, Dev.onBoot_fuses]
  unfold Dev.fwEnd
  split
  · exact .of_eq (Dev.mbxEnd_fuses ..)
  · dsimp only
    split
    · exact .of_eq (by rw [Dev.mbxEnd_fuses, Dev.onBoot_fuses])
    · split
      · exact .trans (.of_eq (h ..)) (Dev.bootRecovered_up ..)
      · exact .of_eq (h ..)

theorem Dev.mbxDo_up (d : Dev) (code arg : Nat) (ws : List Word) (ok : Bool) : FusesForward d.fuses (d.mbxDo code arg ws ok).fuses := by
  unfold Dev.mbxDo
  split
  · exact .of_eq (Dev.mbxEnd_fuses ..)
  · split
    · exact .of_eq (Dev.fwFeed_fuses ..)
    · split
      · exact .of_eq (Dev.mbxEnd_fuses ..)
      · exact .of_eq (by rw [Dev.fwFeed_fuses, Dev.onBoot_fuses])
  · exact d.fwEnd_up ok
  · exact .of_eq (by rw [Dev.restartBegin_fuses, Dev.mbxEnd_fuses])
  · exact .of_eq (by rw [Dev.restartBegin_fuses, Dev.mbxEnd_fuses])
  · exact .of_eq (Dev.logRead_fuses ..)
  · split
    · exact .of_eq (Dev.dumpOn_fuses ..)
    · split
      · exact .of_eq (Dev.mbxEnd_fuses ..)
      · exact .of_eq (Dev.dumpOn_fuses ..)
  · exact .of_eq (Dev.mbxEnd_fuses ..)
  · exact .of_eq (Dev.shutdownBegin_fuses ..)

theorem Dev.mbxGo_up (d : Dev) (code arg : Nat) (ok : Bool) : FusesForward d.fuses (d.mbxGo code arg ok).fuses := by
  unfold Dev.mbxGo
  extract_lets short d1 x
  have h : d1.fuses = d.fuses := Dev.onMbx_fuses ..
  have hx : x.2.fuses = d.fuses := (Dev.takeIn_fuses ..).trans h
  split
  · exact .refl _
  · split
    · exact .of_eq (by rw [Dev.onMbx_fuses, Dev.mbxEnd_fuses, h])
    · split
      · exact .trans (.of_eq hx) (Dev.mbxDo_up ..)
      · exact .trans (.of_eq h) (Dev.mbxDo_up ..)

theorem Dev.mbxMctp_up (d : Dev) (via : Mctp) (code arg : Nat) (ws : List Word) (ok : Bool) :
    FusesForward d.fuses (d.mbxMctp via code arg ws ok).fuses := by
  unfold Dev.mbxMctp
  extract_lets d1 goesOn
  have h : d1.fuses = d.fuses := Dev.given_fuses _ _ _ (Dev.rouse_fuses ..)
  split
  · exact .of_eq h
  · split
    · exact .of_eq ((Dev.mgmtReply_fuses ..).trans h)
    · exact .trans (.of_eq ((Dev.onMbx_fuses ..).trans h)) (Dev.mbxDo_up ..)

theorem Dev.mbxVia_up (d : Dev) (via : MbxVia) (code arg : Nat) (ok : Bool) : FusesForward d.fuses (d.mbxVia via code arg ok).fuses := by
  unfold Dev.mbxVia
  split
  · split
    · exact d.mbxGo_up ..
    · exact .refl _
  · exact d.mbxMctp_up ..

theorem Dev.mbxCmdWrite_up (d : Dev) (v : Word) : FusesForward d.fuses (d.mbxCmdWrite v).fuses := by
  unfold Dev.mbxCmdWrite
  split
  · exact .of_eq (Dev.onMbx_fuses ..)
  · split
    · exact .trans (.of_eq (Dev.freeFlash_fuses ..)) (Dev.mbxGo_up ..)
    · exact d.mbxGo_up ..

theorem Dev.written_up (d : Dev) (org : Origin) (ofs : Nat) (f : Dev → Dev) (h : ∀ d, FusesForward d.fuses (f d).fuses) :
    FusesForward d.fuses (d.written org ofs f).fuses := by
  unfold Dev.written
  extract_lets heard d1
  have h1 : d1.fuses = d.fuses := Dev.given_fuses _ _ _ (Dev.rouse_fuses ..)
  clear_value d1
  split
  · split
    · exact .of_eq ((Dev.refuse_fuses ..).trans h1)
    · exact .of_eq h1
  · split
    · exact .of_eq ((Dev.accepted_fuses ..).trans h1)
    · split
      · exact .of_eq ((Dev.refuse_fuses ..).trans h1)
      · exact .trans (.of_eq h1) (h _)

theorem Dev.writeMbx_up (d : Dev) (org : Origin) (ofs : Nat) (v : Word) : FusesForward d.fuses (d.writeMbx org ofs v).fuses := by
  unfold Dev.writeMbx
  split
  · unfold Dev.pfOnly
    refine d.written_up org _ _ fun d => ?_
    split
    · exact .then (Dev.accepted_fuses ..) (d.mbxCmdWrite_up v)
    · exact .of_eq (Dev.refuse_fuses ..)
  · refine .of_eq (Dev.pfOnly_fuses _ _ _ _ fun d => ?_)
    rw [Dev.accepted_fuses, Dev.mbxPush_fuses]
  · exact .of_eq (Dev.ignored_fuses ..)

theorem Dev.writeReg_up (d : Dev) (org : Origin) (ofs : Nat) (v : Word) : FusesForward d.fuses (d.writeReg org ofs v).fuses := by
  unfold Dev.writeReg
  split
  · exact .of_eq (Dev.writeCtx_fuses ..)
  · split
    · exact .of_eq (Dev.writeGlb_fuses ..)
    · exact d.writeMbx_up ..
    · exact .of_eq (Dev.writeCol_fuses ..)
    · exact .of_eq (Dev.writePwr_fuses ..)
    · exact .of_eq (Dev.writeErr_fuses ..)
    · exact .of_eq (Dev.writeMem_fuses ..)
    · exact .of_eq (Dev.writeMem_fuses ..)
    · exact .of_eq (Dev.writeMem_fuses ..)
    · exact .of_eq (Dev.writeLnk_fuses ..)
    · exact .of_eq (Dev.writeDbg_fuses ..)
    · split
      · exact .of_eq (Dev.writeRte_fuses ..)
      · exact .of_eq (Dev.ignored_fuses ..)

theorem Dev.writeWide_up (d : Dev) (org : Origin) (ofs : Nat) (v : Dword) : FusesForward d.fuses (d.writeWide org ofs v).fuses := by
  unfold Dev.writeWide
  split
  · exact .of_eq (Dev.badWrite_fuses ..)
  · split
    · refine .of_eq (Dev.written_fuses _ _ _ _ fun d => ?_)
      rw [Dev.refuse_fuses, Dev.logRefused_fuses]
    · extract_lets n
      have w : FusesForward d.fuses ((d.colReserve n).writeReg org ofs (half v.toNat false)).fuses := by
        rw [← Dev.colReserve_fuses d n]; exact Dev.writeReg_up ..
      generalize (d.colReserve n).writeReg org ofs (half v.toNat false) = e at w ⊢
      refine w.trans ?_
      rw [← Dev.colRelease_fuses e n]; exact Dev.writeReg_up ..

theorem Dev.jtagDo_up (d : Dev) (req : JtagReq) : FusesForward d.fuses (d.jtagDo req).fuses := by
  unfold Dev.jtagDo
  split
  · exact .of_eq (Dev.emit_fuses ..)
  · exact .of_eq (Dev.emit_fuses ..)
  · split
    · exact .of_eq ((Dev.emit_fuses ..).trans (Dev.readBar0_fuses ..))
    · exact .of_eq (Dev.emit_fuses ..)
  · split
    · exact .then (Dev.emit_fuses ..) (d.writeReg_up ..)
    · exact .of_eq (Dev.emit_fuses ..)
  · split
    · exact .of_eq (by rw [Dev.tookFree_fuses, Dev.emit_fuses])
    · exact .of_eq (Dev.emit_fuses ..)
  · split
    · exact .of_eq (by rw [Dev.tookFree_fuses, Dev.emit_fuses])
    · exact .of_eq (Dev.emit_fuses ..)
  · split
    · exact .of_eq (Dev.emit_fuses ..)
    · exact .of_eq (Dev.emit_fuses ..)
  · split
    · exact .of_eq ((Dev.emit_fuses ..).trans (Dev.debugWrite_fuses ..))
    · exact .of_eq (Dev.emit_fuses ..)

end Sys2Proof.Machine
end

