-- ==== Sys2Proof/WellFormed.lean ====
section
/-! DEFINITION. Which commands an environment can send: the lengths and ranges that the manual fixes for what a command carries.
`Instr.wf` refuses the rest; `exec` itself is total and does not rest on it. -/

namespace Sys2Proof

/-- Bytes of BAR0 (R390). -/
def bar0Bytes : Nat := 16777216
/-- The largest packet: a head and the LENGTH bytes that follow it (R216). -/
def maxPacket : Nat := 4294967311
/-- The largest link control message: the payload of a flit (R213, R227). -/
def maxMsg : Nat := 249
/-- Sizes of an access to a doorbell page (R279). -/
def accessSizes : List Nat := [1, 2, 4, 8]
/-- A decoded flit has 256 bytes (R214) and at most 8 corrected symbols in each of its codewords (R215). -/
def flitOk : FlitIn → Bool
  | .uncorrectable => true
  | .decoded _ bytes => decide (bytes.length = 256)
/-- Bytes of a memory that debug opens (R11, R247, R251). -/
def debugBytes : DebugMem → Nat
  | .buffer _ => 33554432
  | .gddr => 206158430208
  | .cxl => 8796093022208
  | .cmem => 268435456
  | .sync => 524288
/-- The registers JTAG reaches lie in BAR0, and its accesses in their memory (R360, R409). -/
def jtagOk : JtagReq → Bool
  | .readReg offset => decide (offset < bar0Bytes)
  | .writeReg offset _ => decide (offset < bar0Bytes)
  | .idcode => true
  | .bypass => true
  | .boundaryScan => true
  | .scanChain => true
  | .readMem mem addr n => decide (addr + n ≤ debugBytes mem)
  | .writeMem mem addr data => decide (addr + data.length ≤ debugBytes mem)
/-- A BAR4 access carries 1 to 4,096 bytes, the most of one PCI Express request (R402; log 63). -/
def accOk : WinAccess → Bool
  | .read n => decide (0 < n ∧ n ≤ 4096)
  | .write data => decide (0 < data.length ∧ data.length ≤ 4096)

/-- A memory error lies in a memory the station has (R247, R251), a decoder's in a record of a tile (R121). -/
def foundOk : Found → Bool
  | .gddr frame sector _ => decide (frame < 98304 ∧ sector < 32768)
  | .crcRetry _ => true
  | .cxlPoison line => decide (line < 137438953472)
  | .cmemRow row _ => decide (row < 2097152)
  | .bufLine core line => decide (core < 8 ∧ line < 524288)
  | .syncWord word => decide (word < 65536)
  | .decoder core record => decide (core < 8 ∧ record < 16)

/-- An operation from the board comes in a packet (R216, R240). -/
def arrivalOk : SyncArrival → Bool
  | .spine _ => true
  | .board _ packet => decide (packet.length ≤ maxPacket)

/-- Whether an environment can send the command. An optical module's host lane count has four bits in its pages (R224; log 77). -/
def Instr.wf : Instr → Bool
  | .nop _ => true
  | .halt _ => true
  | .phase _ => true
  | .bar _ => true
  | .mxm _ => true
  | .dist _ => true
  | .ldw _ found => found.all foundOk
  | .vec _ found => found.all foundOk
  | .cvt _ found => found.all foundOk
  | .mov _ found => found.all foundOk
  | .fsc _ => true
  | .fusedStageIteration _ _ _ _ _ found => found.all foundOk
  | .topkCmem _ found => found.all foundOk
  | .topkScan _ found => found.all foundOk
  | .topkMerge _ found => found.all foundOk
  | .send _ found => found.all foundOk
  | .recv _ => true
  | .writeFill _ => true
  | .readEmpty _ => true
  | .readPeek _ => true
  | .fetchAddFull _ => true
  | .clear _ => true
  | .writeForce _ => true
  | .syncOpArrival arrival found => arrivalOk arrival && found.all foundOk
  | .heldOpRepresent _ found => found.all foundOk
  | .instructionComplete _ _ found => found.all foundOk
  | .mxmLoadBegin _ => true
  | .blockStreamBegin _ _ _ found => found.all foundOk
  | .rowDrain _ _ => true
  | .keepwarmTimeout _ _ => true
  | .keepwarmStepDown _ => true
  | .phaseBoundary => true
  | .runStart => true
  | .oppSwitchWindow => true
  | .oppWindowResume _ => true
  | .oppChangeAbandon => true
  | .droopCrossing _ _ => true
  | .stretchDecay _ => true
  | .powerSample _ _ _ rails => decide (rails.length = 20)
  | .thermalSample readings => decide (readings.length = 72)
  | .thermalStep => true
  | .thermalStepUndo => true
  | .thermalStop => true
  | .boostAccounting => true
  | .boostFlashUpdate => true
  | .coolantFaultLow => true
  | .coolantStop => true
  | .pwrStopResume _ _ => true
  | .idleEntry => true
  | .idleWake => true
  | .unannouncedWake => true
  | .sqTailDoorbell _ _ size _ => decide (size ∈ accessSizes)
  | .cqHeadDoorbell _ _ size _ => decide (size ∈ accessSizes)
  | .descriptorFetch _ _ _ => true
  | .descriptorAccept _ => true
  | .item _ _ => true
  | .run _ => true
  | .abort _ _ => true
  | .bindLoad _ _ => true
  | .bindSwitch _ => true
  | .gatherForm _ _ => true
  | .formationMessage _ packet => decide (packet.length ≤ maxPacket)
  | .gatherFormTimeout => true
  | .gatherRelease _ => true
  | .editionLoad _ _ _ => true
  | .editionUnload _ => true
  | .digestInstall _ _ => true
  | .digestRemove _ => true
  | .bindPassStart _ => true
  | .bindPassEnd _ => true
  | .stage _ _ _ => true
  | .close _ => true
  | .barrierClosed _ => true
  | .commit _ => true
  | .commitWrite _ => true
  | .kettleOpen _ => true
  | .replace _ => true
  | .map _ => true
  | .mapFramesReady => true
  | .unmap _ => true
  | .frameClear _ frame => decide (frame < 4194304)
  | .copy _ _ found => found.all foundOk
  | .colophonDrain _ => true
  | .itemResultCopy found => found.all foundOk
  | .irqModerationTimeout _ _ => true
  | .contextEnable _ _ _ => true
  | .contextDisable _ _ _ => true
  | .ringPairEnable _ _ _ _ => true
  | .ringPairDisable _ _ _ _ => true
  | .ctxAbort _ _ _ => true
  | .functionLevelReset _ => true
  | .perstN _ => true
  | .hotReset => true
  | .info _ _ => true
  | .fwBegin _ _ => true
  | .fwEnd _ _ _ => true
  | .fwActivate _ _ => true
  | .restart _ _ => true
  | .logRead _ _ => true
  | .dumpRead _ _ => true
  | .telemetry _ _ => true
  | .shutdown _ _ => true
  | .shutdownFinish => true
  | .mbxDataWrite _ _ => true
  | .mbxDataRead _ => true
  | .finisherRestartDone _ => true
  | .finisherWatchdog _ => true
  | .regRead req => decide (req.offset < bar0Bytes)
  | .regWrite _ offset _ => decide (offset < bar0Bytes)
  | .mctpMailbox _ _ _ words => decide (words.length ≤ 512)
  | .setEndpointId _ _ => true
  | .requestFirmwareData _ _ => true
  | .activateFirmware => true
  | .setEventReceiver _ _ => true
  | .sensorRefresh => true
  | .spdmRequest _ => true
  | .setContextKey _ _ key => decide (key.length = 32)
  | .ideKm _ _ => true
  | .ideNotSecure => true
  | .unlockTokenWord _ _ => true
  | .unlockLockoutExpiry => true
  | .jtagInstruction req => jtagOk req
  | .anchorCommit _ _ _ => true
  | .anchorRemove _ _ _ => true
  | .planApply _ _ => true
  | .cordStateAdvance _ _ lanes _ => decide (lanes < 16)
  | .cordTrainingTimeout _ _ => true
  | .cordDrop _ _ => true
  | .cordRetrain _ _ => true
  | .cordSet _ msg => decide (msg.length ≤ maxMsg)
  | .cordPower _ msg => decide (msg.length ≤ maxMsg)
  | .cordWake _ => true
  | .stopping _ msg => decide (msg.length ≤ maxMsg)
  | .portLost _ => true
  | .helloSend _ => true
  | .helloReceive _ msg => decide (msg.length ≤ maxMsg)
  | .helloTimeout _ => true
  | .portAbsent _ => true
  | .moduleFlag _ _ => true
  | .keyCert _ msg => decide (msg.length ≤ maxMsg)
  | .keyShare _ msg => decide (msg.length ≤ maxMsg)
  | .keySwitch _ msg => decide (msg.length ≤ maxMsg)
  | .keyEpochRenewal _ => true
  | .keyAgreementRetry _ => true
  | .tagGroupClose _ => true
  | .tagFlit _ flit => decide (flit.length = 256)
  | .transit _ msg => decide (msg.length ≤ maxMsg)
  | .timeSyncExchange => true
  | .timeSync _ _ _ _ _ => true
  | .timeSteer _ _ _ => true
  | .timeSteerApply => true
  | .flitReceive _ flit => flitOk flit
  | .nakReceive _ _ => true
  | .ackTimer _ => true
  | .signatureArrival _ packet => decide (packet.length ≤ maxPacket)
  | .signaturePlacement => true
  | .injectionBegin found => found.all foundOk
  | .signatureBuildDone _ => true
  | .activationMessage _ packet => decide (packet.length ≤ maxPacket)
  | .shortlistPacket _ packet => decide (packet.length ≤ maxPacket)
  | .boardStore _ packet => decide (packet.length ≤ maxPacket)
  | .boardLoadRequest _ packet => decide (packet.length ≤ maxPacket)
  | .boardLoadResponse _ packet => decide (packet.length ≤ maxPacket)
  | .acknowledgement _ packet => decide (packet.length ≤ maxPacket)
  | .lagExpiry _ _ => true
  | .controlStart _ packet => decide (packet.length ≤ maxPacket)
  | .controlAbort _ packet => decide (packet.length ≤ maxPacket)
  | .passStart _ => true
  | .scrubSweepStart _ found => found.all foundOk
  | .patrol frame found => decide (frame < 98304) && found.all foundOk
  | .frameRetirement frame => decide (frame < 98304)
  | .cxlTimeout _ _ va _ => decide (va < 2 ^ 48)
  | .cxlLinkDown _ => true
  | .cxlEnumerate _ _ => true
  | .cxlReadyTimeout => true
  | .cxlEventRecord _ _ => true
  | .stallDetected _ => true
  | .stallListRead _ => true
  | .checkpoint => true
  | .coreFault _ kind => decide (1 ≤ kind.val ∧ kind.val ≤ 6)
  | .coreRetestRequest _ _ => true
  | .coreRetest _ _ => true
  | .internalFault _ _ => true
  | .leafTestEnd _ => true
  | .powerUp _ _ => true
  | .gddr7Trained _ => true
  | .stationReady => true
  | .supplyCollapse => true
  | .moduleRemoval => true
  | .hotswapOpen => true
  | .hotswapClose _ _ => true
  | .refclkLoss => true
  | .resetContexts _ _ => true
  | .resetCxl _ _ => true
  | .resetPorts _ _ => true
  | .dbgSyncSetForce _ _ => true
  | .dbgSyncSetClear _ _ => true
  | .lnkStagePeakReset _ _ _ => true
  | .loReadLatch _ offset _ => decide (offset < 2 * bar0Bytes + 262144 ∧ offset % 4 = 0)
  | .hiReadLatched _ offset => decide (offset < bar0Bytes ∧ offset % 4 = 0)
  | .bar0BadAccess _ _ offset size => decide (offset < bar0Bytes ∧ (size ≠ 4 ∨ offset % 4 ≠ 0))
  | .boardWindowAccess offset acc => decide (offset < 68719476736) && accOk acc
  | .registerWrite _ offset _ _ => decide (offset < 2 * bar0Bytes ∧ offset % 4 = 0)
  | .coolantFaultHigh => true
  | .referenceClockReturn => true
  | .requestUpdate => true
  | .cxlMediaReady _ _ => true

end Sys2Proof
end

