-- ==== Sys2Proof/Tests/Slice0.lean ====
section
/-! SUPPORT. Tests: a well-formed and an ill-formed term for each check of WellFormed; the worked examples of the manual; and, for the
statements with hypotheses, small states that meet them. -/

namespace Sys2Proof.Tests

set_option Elab.async false

open Sys2Proof.Machine Sys2Proof.Machine.Dev

/-! ### States -/

/-- A station that is powered and ready, with nothing loaded. -/
def up : Dev := { Dev.reset with supply := .on, pins := { Dev.reset.pins with perstN := true }, boot := { Dev.reset.boot with stage := .ready } }
/-- A state that holds a station, with no command waiting. -/
def st (d : Dev) : State := { dev := d }
/-- Core 0 runs a program of one word. -/
def prog (w : Nat) : Dev := up.onSeq 0 fun q => { q with st := .run, program := [(0, BitVec.ofNat 128 w)] }
/-- A queue entry: its word, its issue number and its state. -/
def ent (w no : Nat) (q : QSt) : QEnt := { word := BitVec.ofNat 128 w, pc := 0, token := none, st := q, drain := [], no := no, asked := false, got := [] }
/-- Core 0 with the entries of one unit's queue. -/
def queued (u : CoreUnit) (l : List QEnt) : Dev := up.putQueue 0 u l

/-- A pair is its first part beside its second. -/
theorem pair_of_snd {α β : Type} {p : α × β} {b : β} (h : p.2 = b) : p = (p.1, b) := Prod.ext rfl h
/-- A packet between stations in slice 1: class, destination, source, TAG and body. -/
def packet (cls dest src tag : Nat) (body : Bytes) : Bytes :=
  ofNats [cls, 0] ++ leBytes 2 1 ++ leBytes 2 dest ++ leBytes 2 src ++ leBytes 4 body.length ++ leBytes 4 tag ++ body
/-- A binding container with a mode and sections: type, position, fold, core and bytes. -/
def container (mode : Nat) (secs : List (Nat × Nat × Nat × Nat × Bytes)) : Bytes :=
  let at_ := 64 + 24 * secs.length
  let ents := (secs.foldl (fun (a : Nat × Bytes) s =>
    (a.1 + s.2.2.2.2.length, a.2 ++ leBytes 2 s.1 ++ leBytes 2 s.2.1 ++ ofNats [s.2.2.1, s.2.2.2.1, 0, 0] ++ leBytes 8 a.1
      ++ leBytes 8 s.2.2.2.2.length)) (at_, [])).2
  zeros 6 ++ leBytes 2 mode ++ zeros 2 ++ leBytes 2 secs.length ++ leBytes 4 64 ++ zeros 48 ++ ents ++ secs.flatMap (·.2.2.2.2)
/-- A phase table with one entry: the next phase and the iterations. -/
def phases (next iters : Nat) : Bytes := container 0 [(1, 0xFFFF, 0, 0xFF, leBytes 2 next ++ zeros 2 ++ leBytes 4 iters ++ zeros 88)]
/-- An active binding of context 0. -/
def active (b : Bytes) : Active := ⟨0, 0, b, 0⟩
/-- A run that has begun. -/
def run0 : Run := { no := 0, job := 0, t0 := 0, phase := 0, iter := 0, step := 0, begun := true, slipped := false, phaseAt := 0 }
/-- A station with a change of its work. -/
def working (f : Work → Work) : Dev := up.onWork f
/-- A descriptor of context 0 in a phase. -/
def job (no : Nat) (b : Bytes) (ph : JobPhase) : Job :=
  ⟨no, 0, 0, padTo b 64, no, ph, none, none, none, false, false, false, 0, 0, false, 0⟩
/-- A station with one descriptor in work. -/
def holding (j : Job) : Dev := working fun w => { w with jobs := [j] }
/-- The gathering of the tests: stations 0 and 1 on a ring of two, this station at a position. -/
def pair0 (pos : Nat) : Gathering := ⟨1, 1, [2, 1, 1], [0], false, [0, 1], pos, [⟨0, true, 1 - pos, 0, []⟩, ⟨0, false, 1 - pos, 1, []⟩]⟩
/-- A station of that gathering, in slice 1, with every port up. -/
def joined (pos : Nat) : Dev :=
  { up with work := { up.work with gath := some (pair0 pos), active := some (active (container 0 [])) }
            lnk := { up.lnk with slice := 1, station := pos, planValid := true
                                 ports := (List.range 6).map fun p => (p, { up.port p with st := .active }) } }

/-! ### The sequencers and units of the cores -/

theorem wit_sequencer : up.powered = true ∧ (prog 0x00).wordAt 0 = some 0x00 ∧ IW.opc 0x00 = IW.oNop ∧
    (prog 0x01).wordAt 0 = some 0x01 ∧ IW.opc 0x01 = IW.oHalt ∧ (prog 0x02).wordAt 0 = some 0x02 ∧ IW.opc 0x02 = IW.oPhase ∧
    (prog 0x03).wordAt 0 = some 0x03 ∧ IW.opc 0x03 = IW.oBar := by decide +kernel

theorem wit_issue_arrays : (prog 0x10).wordAt 0 = some 0x10 ∧ IW.opc 0x10 = IW.oMxm ∧ IW.opc 0x11 = IW.oDist ∧
    ((prog 0x10).queue 0 .ar).length < unitDepth .ar ∧ ((prog 0x11).queue 0 .ar).length < unitDepth .ar := by decide +kernel
theorem wit_issue_fsc_recv : (prog 0x29).wordAt 0 = some 0x29 ∧ IW.opc 0x29 = IW.oFsc ∧ ((prog 0x29).queue 0 .se).length < unitDepth .se ∧
    (prog 0x39).wordAt 0 = some 0x39 ∧ IW.opc 0x39 = IW.oRecv ∧ ((prog 0x39).queue 0 .rg).length < unitDepth .rg := by decide +kernel
theorem wit_issue_memory : ((prog 0x18).found []).wordAt 0 = some 0x18 ∧ IW.opc 0x18 = IW.oLdw ∧
    (((prog 0x18).found []).queue 0 .ex).length < unitDepth .ex ∧ IW.opc 0x20 = IW.oVec ∧ IW.opc 0x21 = IW.oCvt ∧
    (((prog 0x20).found []).queue 0 .vu).length < unitDepth .vu ∧ IW.opc 0x28 = IW.oMov ∧
    (((prog 0x28).found []).queue 0 .se).length < unitDepth .se ∧ IW.opc 0x38 = IW.oSend ∧
    (((prog 0x38).found []).queue 0 .rg).length < unitDepth .rg := by decide +kernel
theorem wit_issue_topk : (((prog 0x30).found []).queue 0 .cx).length < unitDepth .cx ∧ IW.opc 0x30 = IW.oTopk ∧
    IW.tEngine 0x30 = 0 ∧ IW.tEngine 0x100000030 = 1 ∧ IW.opc 0x100000030 = IW.oTopk ∧ IW.tEngine 0x200000030 = 2 := by decide +kernel

/-- One entry alone in its unit's queue, with nothing to hold it back. -/
theorem wit_performs : ∀ x ∈ [(CoreUnit.ex, 0x18, IW.oLdw), (.vu, 0x20, IW.oVec), (.vu, 0x21, IW.oCvt), (.se, 0x28, IW.oMov),
      (.cx, 0x30, IW.oTopk), (.se, 0x29, IW.oFsc), (.rg, 0x39, IW.oRecv), (.rg, 0x38, IW.oSend)],
    let e := ent x.2.1 0 .queued
    let d := queued x.1 [e]
    d.queue 0 x.1 = [e] ∧ e.token = none ∧ e.st = .queued ∧ e.word.toNat = x.2.1 ∧ d.claimed 0 x.1 = false ∧
    (d.circ.boards.any fun b => b.core = some 0 && b.entry = e.no && !b.store) = false ∧
    missing e.got d.moduleNo (d.entryRanges 0 x.2.1) = [] ∧ IW.opc x.2.1 = x.2.2 ∧
    d.slotHeld 0 e.no (IW.lSlot x.2.1) = false ∧ (d.writeBanks 0 x.2.1).any (fun b => d.writeWaits e.no b) = false ∧
    (d.topkArrives 0 e).engineHolds 0 x.2.1 e.no (e.arrival.getD d.arrivalNo) = false ∧
    missing e.got (d.topkArrives 0 e).moduleNo ((d.topkArrives 0 e).entryRanges 0 x.2.1) = [] ∧ d.fscHeld 0 e = false := by decide +kernel

theorem wit_sync_instructions : ∀ x ∈ [(0x40, SyncOp.writeFill), (0x40 + 2 ^ 32, .readEmpty), (0x40 + 2 * 2 ^ 32, .readPeek),
      (0x40 + 3 * 2 ^ 32, .fetchAddFull), (0x40 + 4 * 2 ^ 32, .clear), (0x40 + 5 * 2 ^ 32, .writeForce)],
    (prog x.1).wordAt 0 = some x.1 ∧ IW.opc x.1 = IW.oFe ∧ IW.fop x.1 = some x.2 ∧
    ((gates x.1).any fun u => ((prog x.1).queue 0 u).length ≥ unitDepth u) = false := by decide +kernel

/-- A WRITE_FORCE from the agent. -/
def force : SyncReq := ⟨.writeForce, false, 1, 0, .agent, 0⟩
/-- Context 0 enabled, with 16 sync words and the board's access to them. -/
def synced : Dev := { (joined 0).onRegs 0 fun r => { r with enable := true, syncCount := 16 } with
  lnk := { (joined 0).lnk with boardOpen := 1 } }
/-- A WRITE_FORCE of 7 to word 15 of context 0 from module 1. -/
def boardForce : Bytes := packet 5 0 1 9 (ofNats [0, 2] ++ zeros 14 ++ ofNats [15, 0, 5, 0] ++ zeros 4 ++ leBytes 8 7)
theorem wit_sync_board : ∃ x h, (synced.found []).receive 0 boardForce = (x, some h) ∧ h.cls = 5 ∧ u8 h.body 1 = 2 ∧
    [SyncOp.writeFill, .readEmpty, .readPeek, .fetchAddFull, .clear, .writeForce][u8 h.body 18]? = some .writeForce ∧
    (x.ctx (u8 h.body 0 % 64)).regs.enable = true ∧ bitOf x.lnk.boardOpen.toNat (u8 h.body 0 % 64) = true ∧
    x.syncPhys (u8 h.body 0 % 64) (u16 h.body 16) = some 15 :=
  ⟨((synced.found []).receive 0 boardForce).1, Head.ofBytes boardForce, pair_of_snd (by decide +kernel), by decide +kernel⟩
theorem wit_sync_spine : ({ up with sync := { up.sync with flyA := [(0, force)] } }.found []).sync.flyA = (0, force) :: [] ∧
    ({ up with sync := { up.sync with flyB := [(32768, force)] } }.found []).sync.flyB = (32768, force) :: [] := by decide +kernel
theorem wit_sync_held : (synced.found []).syncPhys 0 16 = none ∧
    ({ up with sync := { up.sync with held := [(32768, force)] } }.sync.held.find? fun e => syncLeaf e.1 = 1) = some (32768, force) := by
  decide +kernel

theorem wit_instruction_complete : ((queued .ex [ent 0x18 0 .done]).found []).queue 0 .ex = ent 0x18 0 .done :: [] ∧
    ((queued .ex [ent 0x18 0 .done]).found []).headFinished 0 (ent 0x18 0 .done) = true := by decide +kernel

/-- A tile of FP32 with nothing in it. -/
def tile : Tile := ⟨.fp32, false, [], none⟩
/-- An MXM on array 0 waits, and its slot holds a tile. -/
def loadReady : Dev := (queued .ar [ent 0x100000000010 0 .queued]).onCore 0 fun x => { x with arr := { x.arr with slots := [(0, some tile)] } }
theorem wit_mxm_load : loadReady.loadable 0 = some ([], ent 0x100000000010 0 .queued, [], tile) ∧ tile.bad = none := by decide +kernel
theorem wit_block_stream : streamable [] ((queued .ar [ent 0x100000000010 0 .loaded]).core 0).q.ar =
      some ([], ent 0x100000000010 0 .loaded, []) ∧ (ent 0x100000000010 0 .loaded).asked = false ∧
    missing (ent 0x100000000010 0 .loaded).got (queued .ar [ent 0x100000000010 0 .loaded]).moduleNo
      ((queued .ar [ent 0x100000000010 0 .loaded]).mxmRanges 0 ((queued .ar [ent 0x100000000010 0 .loaded]).mxmJob 0 (ent 0x100000000010 0 .loaded))) = [] := by decide +kernel
theorem wit_row_drain : ((queued .ar [{ ent 0x100000000010 0 .streamed with drain := [1, 0, 0, 0] }]).drainable 0 0).isSome = true ∧
    ((queued .ar [{ ent 0x100000000010 0 .streamed with drain := [1, 0, 0, 0] }]).drainable 0 3).isSome = false := by decide +kernel

/-- A fused command of one MOV stage and one iteration runs. -/
def fusedRun : FscRun := ⟨0, 0, [1, 0, 1, 0, 1, 0, 0, 0] ++ zeros 24 ++ ([1, 0xFF, 0xFF, 0] ++ zeros 28), List.replicate 8 0, [], false, none⟩
def fusedUp : Dev := (queued .se [ent 0x29 0 .begun]).onCore 0 fun x => { x with q := { x.q with fscs := [fusedRun] } }
theorem wit_fused_stage : (fusedUp.core 0).q.fscs[0]? = some fusedRun ∧
    ((fusedUp.core 0).q.se.find? fun e => e.no = fusedRun.no && e.token.isNone) = some (ent 0x29 0 .begun) ∧
    fusedUp.stageWaits 0 fusedRun (fscStage fusedRun.record 0)
      (stageNext (fscStage fusedRun.record 0) (fscPeriod fusedRun.record) (fusedRun.fin.getD 0 0)) = false ∧
    fusedRun.may 0 (stageNext (fscStage fusedRun.record 0) (fscPeriod fusedRun.record) (fusedRun.fin.getD 0 0)) = true ∧
    (fusedUp.circ.boards.any fun b => b.core = some 0 && b.entry = fusedRun.no && !b.store) = false ∧
    missing (((((fusedUp.core 0).q.se.find? fun e => e.no = fusedRun.no && e.token.isNone)).map (·.got)).getD []) fusedUp.moduleNo
      (fusedUp.stageRanges 0 fusedRun (fscStage fusedRun.record 0)
        (stageNext (fscStage fusedRun.record 0) (fscPeriod fusedRun.record) (fusedRun.fin.getD 0 0))) = [] := by decide +kernel

/-- Keep-warm on for core 0, at density code 3. -/
def warm : Dev := up.onPwr fun p => { p with kw := 0x103 }
/-- Its array 0 stepped down once. -/
def warmDown : Dev := warm.onCore 0 fun x => { x with arr := { x.arr with keep := [(0, { density := 2 })] } }
theorem wit_keepwarm :
    ((List.range 4).any fun a => let k := warm.keepOf 0 a; !k.gated && k.density = 0 && !k.slack && warm.kwCode 0 != 0) = true ∧
    ((List.range 4).any fun a => let k := warmDown.keepOf 0 a; !k.gated && k.density != 0) = true := by decide +kernel

/-! ### Runs, items and rings -/

/-- A run at a boundary: every core of the map at PHASE. -/
def boundary0 (b : Bytes) : Dev := { up with
  work := { up.work with run := some run0, active := some (active b), coreMap := [0] }
  cores := [(0, { seq := { st := .atPhase } })] }
theorem wit_boundary : ∀ x ∈ [(0xFFFF, 1), (0, 1), (0, 2)], (boundary0 (phases x.1 x.2)).work.run = some run0 ∧
    (boundary0 (phases x.1 x.2)).atBoundary = true ∧
    u16 (phaseEntry (boundary0 (phases x.1 x.2)).binding run0.phase) 0 = x.1 ∧
    u32 (phaseEntry (boundary0 (phases x.1 x.2)).binding run0.phase) 4 = x.2 := by decide +kernel
/-- A run that waits for its T0. -/
def waiting : Dev := working fun w => { w with run := some { run0 with begun := false, t0 := 100 }, active := some (active (phases 0xFFFF 1)) }
theorem wit_run_start : waiting.work.run.isSome = true ∧ waiting.pwr.stopped = false ∧
    (((waiting.reach 100).enterStep 0 true).work.run).isSome = true := by decide +kernel
/-- A RUN at position 0, and at position 1 once its START has come. -/
def runnable (pos : Nat) : Dev := (joined pos).onWork fun w => { w with jobs := [job 0 [0x02] .accepted], starts := [(0, 7, 0, 0)] }
theorem wit_run : ∀ p ∈ [0, 1], (runnable p).work.active = some (active (container 0 [])) ∧ (runnable p).work.run = none ∧
    (runnable p).pwr.stopped = false ∧ ((runnable p).ctx 0).barrier ≠ .closed ∧
    (runnable p).work.passes = [] ∧
    (runnable p).jobOf 0 Op.run .accepted = some (job 0 [0x02] .accepted) ∧
    ((runnable p).work.jobs.any fun x => x.op = Op.item && x.run = some 0 && x.phase == .accepted) = false ∧
    ((runnable p).work.aborts.find? fun x => x.1 = 0) = none ∧ (runnable p).position = p ∧
    ((runnable p).work.starts.find? fun x => x.1 = 0) = some (0, 7, 0, 0) := by decide +kernel

/-- A page of GDDR7 is mapped writable at address 0 of context 0. -/
def paged (d : Dev) : Dev := { d.onCtx 0 fun x => { x with pages := [(0, some ⟨false, 0, true, none⟩)] } with
  mem := { d.mem with gddrUsed := [0] } }
theorem wit_item : (paged (holding (job 0 [0x01] .accepted))).jobOf 0 Op.item .accepted = some (job 0 [0x01] .accepted) ∧
    ((paged (holding (job 0 [0x01] .accepted))).memPut 0 (u64 ((paged (holding (job 0 [0x01] .accepted))).seqEntry 0) 8 + 0)
      (padTo [1, 2] 0) none).1 = none := by decide +kernel
theorem wit_result : ((paged (holding (job 0 [0x01] .ended))).found []).work.jobs.find? (fun j => j.op = Op.item && j.phase == .ended) =
      some (job 0 [0x01] .ended) ∧ (paged (holding (job 0 [0x01] .ended))).hostOpen = true ∧
    ((paged (holding (job 0 [0x01] .ended))).memGet 0 0 0).2.1 = none := by decide +kernel
/-- A stationed binding whose pass record has one micro-batch. -/
def stationed : Bytes := container 1 [(2, 0xFFFF, 0, 0xFF, zeros 32 ++ leBytes 4 36 ++ (zeros 6 ++ ofNats [1, 1] ++ zeros 24))]
def passing : Dev := working fun w => { w with active := some (active stationed), run := some run0 }
theorem wit_pass : passing.work.active = some (active stationed) ∧ passing.work.run = some run0 ∧ passing.passMay (active stationed) run0 0 = true ∧
    passing.passMay (active stationed) run0 1 = false := by decide +kernel
/-- A control message from the other station. -/
def control (ty : Nat) : Bytes :=
  let b := (joined 1).controlBytes ty 0 50 St.abortedByHost
  (joined 1).head 4 false 0 b.length 0 ++ b
theorem wit_control : ((joined 0).controlIn 1 (control 1)).2.isSome = true ∧ u8 (((joined 0).controlIn 1 (control 1)).2.getD []) 3 = 1 ∧
    u8 (((joined 0).controlIn 1 (control 2)).2.getD []) 3 = 2 := by decide +kernel
theorem wit_control_abort : ((((joined 0).onWork fun w => { w with run := some run0 }).controlIn 1 (control 2)).1.work.run) = some run0 ∧
    u32 (((joined 0).controlIn 1 (control 2)).2.getD []) 8 = run0.no ∧
    (((joined 0).controlIn 1 (control 2)).1.work.active).isSome = true := by decide +kernel

/-- Context 0 enabled, with its pair 0 enabled. -/
def ringed (g : Ring → Ring) : Dev := (up.onRegs 0 fun r => { r with enable := true }).onRing 0 0 fun x => g { x with cfg := 0x80000606 }
theorem wit_doorbells : ((ringed id).fn 0).d3hot = false ∧ bar2 0 0 = some (0, 0) ∧ (ringed id).bellOk 0 0 0 8 1 = true ∧
    ((1 : Dword).setWidth 32 - ((ringed id).ring 0 0).sqTail).toNat < 2 ^ 31 ∧
    ((1 : Dword).setWidth 32 - ((ringed id).ring 0 0).sqHead).toNat ≤ ringSize (fld ((ringed id).ring 0 0).cfg 4 0) ∧
    bar2 0 256 = some (0, 256) ∧ (ringed id).bellOk 0 256 256 8 0 = true ∧
    (((ringed id).ring 0 0).cqTail - (0 : Dword).setWidth 32).toNat ≤ (((ringed id).ring 0 0).cqTail - ((ringed id).ring 0 0).cqHead).toNat := by
  decide +kernel
theorem wit_fetch : (ringed fun g => { g with sqTail := 1 }).mayFetch 0 0 = true := by decide +kernel
/-- The pair's window holds one descriptor. -/
def windowed (b : Bytes) : Dev := ringed fun g => { g with window := [⟨padTo b 64, 0⟩] }
/-- What acceptance would take. -/
def accepts (d : Dev) : Option (Nat × Fetched) :=
  (d.turnOrder 0).findSome? fun r => (d.headOf 0 r).bind fun f => if d.canAccept 0 f.bytes then some (r, f) else none
theorem wit_accept : ∀ x ∈ [([0x99], true), ([0x31], false)], (windowed x.1).fenced 0 = false ∧ (windowed x.1).abortWaits 0 = false ∧
    (windowed x.1).boot.shutDown = false ∧ accepts (windowed x.1) = some (0, ⟨padTo x.1 64, 0⟩) ∧ malformed (padTo x.1 64) = x.2 ∧
    u8 (padTo x.1 64) 0 ≠ Op.item ∧ u8 (padTo x.1 64) 0 ≠ Op.run ∧ u8 (padTo x.1 64) 0 ≠ Op.kettle := by decide +kernel
theorem wit_abort : (((windowed [0x08]).ring 0 0).window.find? fun f => u8 f.bytes 0 = Op.abort && !malformed f.bytes) =
    some ⟨padTo [0x08] 64, 0⟩ := by decide +kernel
theorem wit_moderation : ∃ g : Ring, g = (ringed fun g => { g with irqFirst := some 5, irqCount := 1, irqMod := 0x10004 }).ring 0 0 ∧
    g.irqFirst = some 5 ∧ fld g.irqMod 31 16 ≠ 0 ∧ g.irqCount ≠ 0 := ⟨_, rfl, by decide +kernel⟩

/-! ### Power, heat and idle -/

/-- A station with a change of its power controller. -/
def powering (f : Pwr → Pwr) : Dev := up.onPwr f
/-- A change of operating point from 0 to 1. -/
def change : OppChange := { from_ := 0, target := 1, waiting := true }
theorem wit_opp : (powering fun p => { p with opp := some change }).pwr.opp = some change ∧ change.paused = false ∧
    (powering fun p => { p with opp := some change }).drooped = false ∧ up.boot.restarting = false ∧
    (powering fun p => { p with opp := some { change with paused := true } }).pwr.opp = some { change with paused := true } ∧
    (powering fun p => { p with opp := some { change with paused := true } }).drooped = false ∧
    (powering fun p => { p with opp := some change, droop := [(0, 4)] }).drooped = true ∧
    change.from_ < change.target ∧ up.work.pendingBoundary = false ∧
    (working fun w => { w with pendingBoundary := true }).work.pendingBoundary = true := by decide +kernel
theorem wit_droop : ({ (working fun w => { w with coreMap := [0, 1] }) with pwr := { up.pwr with fold := 1 } }).clocked = true ∧
    (7 : Nat) ∉ (working fun w => { w with coreMap := [0, 1] }).work.coreMap ∧
    (1 : Nat) ∈ (working fun w => { w with coreMap := [0, 1] }).work.coreMap := by decide +kernel

/-- A station with a change of its heat. -/
def heated (f : Heat → Heat) : Dev := { up with heat := f up.heat }
theorem wit_thermal_step : 105 ≤ (heated fun h => { h with tj := 105 }).heat.tj ∧ (heated fun h => { h with tj := 105, steps := 5 }).heat.steps < 6 ∧
    up.pwr.stopped = false ∧ (heated fun h => { h with tj := 105 }).safetyFull = false := by decide +kernel
theorem wit_thermal_undo : ∃ d, d = heated (fun h => { h with tj := 100, steps := 1, coolSince := some 0 }) ∧ d.heat.coolSince = some 0 ∧
    0 < d.heat.steps ∧ d.heat.tj ≤ 100 ∧ d.raiseRefused = false := ⟨_, rfl, by decide +kernel⟩
theorem wit_thermal_stop : 112 ≤ (heated fun h => { h with tj := 112 }).heat.tj ∧
    (heated fun h => { h with tj := 111, hotSince := some 0, sixth := true }).heat.hotSince = some 0 ∧
    (heated fun h => { h with tj := 111, hotSince := some 0, sixth := true }).heat.tj < 112 ∧
    105 ≤ (heated fun h => { h with tj := 105, hotSince := some 0, sixth := true }).heat.tj ∧
    (heated fun h => { h with tj := 111, hotSince := some 0, sixth := true }).heat.sixth = true := by decide +kernel
theorem wit_boost : up.boot.restarting = false ∧ up.pc.boostEarned.toNat + up.fuses.reserveH * 3600000 ≤
    ({ up with pc := { up.pc with boostSpent := 0xFFFFFFFFFF } }).pc.boostSpent.toNat := by decide +kernel

/-- The coolant signal high for 10 s after a stop. -/
def stopped (cause : Nat) : Dev := { (powering fun p => { p with stopped := true, stopCause := cause }) with
  pins := { up.pins with coolantN := true, coolantHighAt := some 0 }, clk := { up.clk with ts := 10000000000 } }
theorem wit_coolant : ({ up with pins := { up.pins with coolantN := true } }).pins.coolantN = true ∧ up.pins.coolantN = false ∧
    ({ up with pins := { up.pins with coolantLowAt := some 0 } }).pins.coolantLowAt = some 0 ∧ up.boot.stage = .ready := by decide +kernel
theorem wit_resume : ∀ c ∈ [1, 2], (stopped c).reaches (.fn 0) 0x1001C = true ∧ flag (0x80000000 : Word) 31 = true ∧
    (stopped c).pwr.stopped = true ∧ (stopped c).pwr.stopCause = c ∧ (stopped c).pins.coolantHighAt = some 0 ∧
    0 + 10000000000 ≤ (stopped c).now ∧ (stopped c).heat.tj ≤ 80 := by decide +kernel
/-- A run whose core has ended its part of a phase that declares 5 ns of SLACK. -/
def slack : Dev := { up with
  work := { up.work with run := some run0, coreMap := [0]
                         active := some (active (container 0 [(1, 0xFFFF, 0, 0xFF, [0, 0, 2] ++ zeros 21 ++ [5] ++ zeros 71)])) }
  cores := [(0, { seq := { st := .atPhase } })] }
theorem wit_idle : slack.inSlack = true ∧ slack.pwr.stopped = false ∧ slack.pwr.idle = .s0 ∧ up.pwr.stopped = false ∧ up.pwr.idle = .s0 ∧ up.noWork = true ∧ up.work.run = none ∧ up.boot.shutDown = false ∧
    (powering fun p => { p with idle := .s3 }).pwr.idle ≠ .s0 := by decide +kernel

/-! ### Bindings, gatherings, editions and the kettle -/

theorem wit_bind_load : ∃ j d, j = job 0 ([0x10] ++ zeros 39 ++ [3]) .accepted ∧ d = paged (holding j) ∧
    d.jobOf 0 Op.bindLoad .accepted = some j ∧ d.memUp = true ∧ u8 j.bytes 40 ≤ 3 ∧ d.work.active = none ∧
    d.mapped j.ctx (u64 j.bytes 32) (u64 j.bytes 24) true = true ∧ d.colRoom 1 = true := ⟨_, _, rfl, rfl, by decide +kernel⟩
/-- A container's header for two stations and edition 7, with no sections. -/
def bind2 : Bytes := zeros 8 ++ ofNats [2, 0, 0, 0, 64, 0, 0, 0] ++ zeros 8 ++ leBytes 8 7 ++ zeros 32
/-- The gathering with edition 7 held, a kept binding 3 and a BIND_SWITCH to it. -/
def switching : Dev := ((joined 0).onCtx 0 fun x => { x with
    editions := [⟨7, 0, .loaded, [], []⟩], bindings := [(3, some ⟨bind2, 0, some 0, false, []⟩)] }).onWork fun w =>
  { w with jobs := [job 0 ([0x11] ++ zeros 15 ++ [3]) .accepted] }
theorem wit_bind_switch : ∃ j k, j = job 0 ([0x11] ++ zeros 15 ++ [3]) .accepted ∧ k = Kept.mk bind2 0 (some 0) false [] ∧
    switching.jobOf 0 Op.bindSwitch .accepted = some j ∧ switching.itemsSettled 0 = true ∧ switching.memUp = true ∧
    switching.boot.restarting = false ∧ switching.colRoom 1 = true ∧
    switching.leaveBinding.foldOf (min switching.leaveBinding.pwr.allowedFold switching.leaveBinding.heatFold) ≠ 0 ∧ u8 j.bytes 16 ≤ 3 ∧
    (switching.leaveBinding.ctx j.ctx).bindings.get none (u8 j.bytes 16) = some k ∧ switching.leaveBinding.switchCheck j.ctx k = none ∧
    switching.leaveBinding.constFault j.ctx (constants k.bytes switching.leaveBinding.position) = none :=
  ⟨_, _, rfl, rfl, by decide +kernel⟩

/-- The record of the tests' gathering: number 1, slice 1, a ring of two. -/
def record2 : Bytes := ofNats [1, 0, 1, 0, 2, 0, 1, 0, 1, 0, 0x3C, 0, 0, 0, 0, 0, 0, 0, 1, 0]
/-- Station 0 outside any gathering; both X ports hear station 1 in the same slice. -/
def alone : Dev := (({ joined 0 with lnk := { (joined 0).lnk with
    ports := (List.range 6).map fun p => (p, { up.port p with st := .active, heard := 1, hello := some (zeros 4 ++ leBytes 2 1 ++ zeros 26) }) } }).onWork fun w =>
  { w with gath := none, jobs := [job 0 ([0x18] ++ zeros 23 ++ [20]) .accepted] })
theorem wit_gather_form : ∃ j, j = job 0 ([0x18] ++ zeros 23 ++ [20]) .accepted ∧ alone.jobOf 0 Op.gatherForm .accepted = some j ∧
    alone.work.gath = none ∧ alone.work.forming = none ∧ alone.boot.restarting = false ∧ alone.colRoom 1 = true ∧
    Rec.ok (padTo record2 (u32 j.bytes 24)) (u32 j.bytes 24) = true ∧ alone.lnk.planValid = true ∧
    (Rec.stations (padTo record2 (u32 j.bytes 24))).count alone.station = 1 ∧ Rec.slice (padTo record2 (u32 j.bytes 24)) ≠ 0 ∧
    Rec.slice (padTo record2 (u32 j.bytes 24)) = fld alone.lnk.slice 11 0 ∧
    ((findNbrs (gatheringOf record2 0) (sidesOf (gatheringOf record2 0)) alone).1).isSome = true := ⟨_, rfl, by decide +kernel⟩
theorem wit_formation_message : ∃ h, h = (((joined 0).receive 0 ((joined 1).head 9 false 0 34 0 ++ leBytes 2 1 ++ zeros 32)).2) ∧
    (h.map (·.cls)) = some 9 := ⟨_, rfl, by decide +kernel⟩
/-- A formation that waits for its last neighbour, and the one that has every message. -/
def formingUp (got : List Nat) : Dev := (joined 0).onWork fun w =>
  { w with gath := none, forming := some ⟨0, pair0 0, zeros 32, got, [], 0, false⟩, jobs := [job 0 [0x18] .begun] }
theorem wit_formation_timeout : ∀ r ∈ [false, true], ((formingUp []).onBoot fun b => { b with restarting := r }).work.forming
    = some ⟨0, pair0 0, zeros 32, [], [], 0, false⟩ ∧ ((formingUp []).onBoot fun b => { b with restarting := r }).boot.restarting = r := by decide +kernel
theorem wit_formed : (formingUp [1]).work.forming = some ⟨0, pair0 0, zeros 32, [1], [], 0, false⟩ ∧ (∀ n ∈ (pair0 0).nbrs, n.station ∈ [1]) ∧
    (formingUp [1]).boot.restarting = false ∧ (formingUp [1]).work.jobs.find? (fun x => decide (x.no = 0)) = some (job 0 [0x18] .begun) := by
  decide +kernel
theorem wit_gather_release : ∃ d, d = ((joined 0).onWork fun w => { w with jobs := [job 0 ([0x19] ++ zeros 15 ++ [1]) .accepted] }) ∧
    d.jobOf 0 Op.gatherRelease .accepted = some (job 0 ([0x19] ++ zeros 15 ++ [1]) .accepted) ∧ d.itemsSettled 0 = true ∧
    d.work.gath = some (pair0 0) ∧ (pair0 0).number = u16 (job 0 ([0x19] ++ zeros 15 ++ [1]) .accepted).bytes 16 ∧
    d.boot.restarting = false ∧ d.colRoom 1 = true := ⟨_, rfl, by decide +kernel⟩

/-- A manifest of edition 7 with one layer and one shard of 16 blocks, at position 0. -/
def manifest7 (form nbytes : Nat) : Bytes :=
  ofNats [0x4F, 0x58, 0x45, 0x44, 1, 0, 0, 0] ++ leBytes 8 7 ++ ofNats [2, 0, 1, 0, 1, 0, 0, 0] ++ leBytes 8 256 ++ zeros 8 ++ leBytes 8 nbytes
    ++ zeros 16
    ++ (ofNats [0, 0, 1, 0, 1, form, 0, 0, 16, 0, 0, 0] ++ (if form = 2 then leBytes 4 0x3C000000 ++ [8, 7] else zeros 6) ++ zeros 14)
    ++ (zeros 8 ++ leBytes 4 16 ++ zeros 4 ++ zeros 8 ++ leBytes 8 nbytes ++ zeros 64) ++ zeros 64
/-- An EDITION_LOAD for a position, with two pages of GDDR7. -/
def loadJob (pos : Nat) : Job := job 0 ([0x20] ++ zeros 43 ++ [2] ++ zeros 11 ++ [byte pos]) .accepted
theorem wit_edition_load : ∀ x ∈ [(1, 1, 0), (2, 0, 131088)], ∃ d m p, d = holding (loadJob x.2.1) ∧ m = manifest7 x.1 x.2.2 ∧
    p = placeLayers (Manifest.own m x.2.1) (Manifest.layers m) 0 0 ∧
    d.jobOf 0 Op.editionLoad .accepted = some (loadJob x.2.1) ∧ d.memUp = true ∧
    d.work.passes.all (fun p => p.ctx != 0 || p.layer.isSome) = true ∧ Manifest.ok m false = true ∧
    u16 (loadJob x.2.1).bytes 56 = x.2.1 ∧ x.2.1 < Manifest.positions m ∧ d.edition 0 (Manifest.edition m) = none ∧
    (d.ctx 0).editions.length < 4 ∧ Manifest.foldInputsOk m (d.ctx 0).regs = true ∧ d.boot.restarting = false ∧
    d.colRoom (1 + 2 * (Manifest.own m x.2.1).length) = true ∧ d.loadFits (loadJob x.2.1) p = true ∧ d.loadFrames p.2.1 = true ∧
    ((Manifest.own m x.2.1).any fun s => p.1.any fun l => l.layer = s.layer && l.form = 2) = decide (x.1 = 2) := by
  intro x hx
  simp only [List.mem_cons, List.not_mem_nil, or_false] at hx
  rcases hx with rfl | rfl <;> exact ⟨_, _, _, rfl, rfl, rfl, by decide +kernel⟩

/-- A layer, its shard, and edition 7 with them. -/
def layer0 : Layer := ⟨0, 1, 1, 1, false, 0, 16, 0, 0, 0, 0, 0⟩
def edition7 (l : Layer) (s : List Shard) : Edition := ⟨7, 1, .loaded, [l], s⟩
def editioned (j : Job) : Dev := (holding j).onCtx 0 fun x => { x with editions := [edition7 layer0 []] }
theorem wit_edition_unload : ∃ j, j = job 0 ([0x21] ++ zeros 15 ++ [7]) .accepted ∧
    (editioned j).jobOf 0 Op.editionUnload .accepted = some j ∧ (editioned j).memUp = true ∧
    (editioned j).editionHeld 0 (u64 j.bytes 16) = true ∧ (editioned j).work.active = none ∧ (editioned j).colRoom 1 = true :=
  ⟨_, rfl, by decide +kernel⟩
/-- A digest table entry that may be installed. -/
def entry64 : Bytes := leBytes 8 7 ++ zeros 4 ++ ofNats [1, 0, 1, 0] ++ zeros 4 ++ leBytes 4 16 ++ zeros 40
theorem wit_digest_install : ∃ j, j = job 0 ([0x22] ++ zeros 23 ++ [1]) .accepted ∧
    (holding j).jobOf 0 Op.digestInstall .accepted = some j ∧ 1 ≤ u32 j.bytes 24 ∧ u32 j.bytes 24 ≤ 4096 ∧ (holding j).colRoom 1 = true ∧
    (holding j).boot.restarting = false ∧
    (installAll j (chunks 64 1 (padTo entry64 64)) 0 (((holding j).reserve 0 1).emit (.hostRead 0 64))).1 = 1 ∧
    (installAll j (chunks 64 1 (padTo entry64 64)) 0 (((holding j).reserve 0 1).emit (.hostRead 0 64))).2.1 = St.ok := ⟨_, rfl, by decide +kernel⟩
theorem wit_digest_remove : ∃ j d, j = job 0 ([0x23] ++ zeros 15 ++ sub entry64 0 15 ++ [0] ++ sub entry64 16 8) .accepted ∧
    d = ((holding j).onCtx 0 fun x => { x with digests := [entry64] }) ∧
    d.jobOf 0 Op.digestRemove .accepted = some j ∧ d.colRoom 1 = true ∧
    (digestFind (d.ctx j.ctx).digests (sub j.bytes 16 15 ++ sub j.bytes 32 8)).isSome = true := ⟨_, _, rfl, rfl, by decide +kernel⟩
/-- A pending bind pass, and one that runs. -/
def pass7 (q : Option (Nat × Nat × Word × Bool)) : PassJob := ⟨0, 0, 7, none, [], 0, q⟩
def passing7 (q : Option (Nat × Nat × Word × Bool)) : Dev := (editioned (job 0 [0x20] .begun)).onWork fun w => { w with passes := [pass7 q] }
theorem wit_pass_start : (passing7 none).memUp = true ∧ (passing7 none).work.run = none ∧
    ((passing7 none).work.passes.any fun p => p.params.isSome) = false ∧
    ((passing7 none).work.passes.find? fun p => p.ctx = 0) = some (pass7 none) := by decide +kernel
theorem wit_pass_end : ∃ q d, q = (8, 7, (0 : Word), false) ∧ d = passing7 (some q) ∧
    (d.work.passes.find? fun p => p.ctx = 0 && p.params.isSome) = some (pass7 (some q)) ∧ (pass7 (some q)).params = some q ∧
    d.work.jobs.find? (fun x => decide (x.no = 0)) = some (job 0 [0x20] .begun) ∧ d.edition 0 7 = some (edition7 layer0 []) ∧
    passShards (edition7 layer0 []) none = [] := ⟨_, _, rfl, rfl, by decide +kernel⟩
theorem wit_sweep : ∃ d, d = ((editioned (job 0 [] .begun)).onCtx 0 fun x => { x with sweepAt := some 0, regs := { x.regs with enable := true } }) ∧
    d.memUp = true ∧ (d.ctx 0).regs.enable = true ∧ ((d.found []).sweepDue 0).isSome = true := ⟨_, rfl, by decide +kernel⟩

/-- A KETTLE descriptor of a step for layer 0, version 2 of edition 7. -/
def kettle (step : Nat) (ph : JobPhase) : Job := job 0 ([0x24] ++ zeros 15 ++ ofNats [step, 0, 0, 0, 2, 0, 0, 0] ++ leBytes 8 7) ph
/-- The patch manifest for it. -/
def patch7 : Bytes := ofNats [0x4F, 0x58, 0x45, 0x44, 1, 0, 1, 0] ++ leBytes 8 7 ++ ofNats [2, 0, 1, 0, 1, 0, 0, 0] ++ leBytes 8 256 ++ zeros 32
    ++ (ofNats [0, 0, 2, 0, 1, 1, 0, 0, 16, 0, 0, 0] ++ zeros 20) ++ (zeros 8 ++ leBytes 4 16 ++ zeros 84) ++ zeros 64
theorem wit_stage : ∃ d n, d = editioned (kettle 1 .accepted) ∧ n = { Manifest.layer patch7 0 with lbase := layer0.lbase, hbase := layer0.hbase } ∧
    d.kettleJob 0 1 .accepted = some (kettle 1 .accepted) ∧ d.memUp = true ∧ d.heldLayer 0 7 0 = some (edition7 layer0 [], layer0) ∧
    d.patchOk (kettle 1 .accepted) patch7 (edition7 layer0 []) layer0 = true ∧
    Manifest.own patch7 (edition7 layer0 []).pos = [] := ⟨_, _, rfl, rfl, by decide +kernel⟩
theorem wit_close : ∃ d, d = holding (kettle 2 .accepted) ∧ d.kettleJob 0 2 .accepted = some (kettle 2 .accepted) ∧ d.stationedHere 0 = false ∧
    d.position = 0 ∧ d.boot.restarting = false ∧ d.colRoom 1 = true := ⟨_, rfl, by decide +kernel⟩
theorem wit_barrier : ∀ k ∈ [2, 5], (holding (kettle k .begun)).work.jobs.find? (fun j => j.ctx = 0 && j.op = Op.kettle &&
      (j.kstep = 2 || j.kstep = 5) && j.phase == .begun && j.entry.isNone) = some (kettle k .begun) ∧
    (holding (kettle k .begun)).barrierReady 0 0 = true ∧ (kettle k .begun).kstep = k := by decide +kernel
/-- A staged replacement of layer 0, and a station that holds it with a closed barrier. -/
def staged7 (done : Bool) : Staged := ⟨7, { layer0 with version := 2 }, [], [], 0, done, true⟩
def stagedUp (j : Job) (done : Bool) : Dev := (editioned j).onCtx 0 fun x => { x with staged := [staged7 done], barrier := .closed }
theorem wit_commit : ∀ p ∈ [JobPhase.accepted, .begun], (stagedUp (kettle 3 p) false).kettleJob 0 3 p = some (kettle 3 p) ∧
    (stagedUp (kettle 3 p) false).memUp = true ∧ (stagedUp (kettle 3 p) false).commitOk (kettle 3 p) = some (staged7 false) ∧
    (stagedUp (kettle 3 p) false).colRoom 1 = true ∧ ((stagedUp (kettle 3 p) false).work.passes.any fun q => q.job = 0) = false := by
  decide +kernel
theorem wit_open : ∃ d, d = stagedUp (kettle 4 .accepted) true ∧ d.kettleJob 0 4 .accepted = some (kettle 4 .accepted) ∧
    d.openOk (kettle 4 .accepted) = true ∧ d.colRoom 1 = true ∧ d.committedOf 0 7 0 (kettle 4 .accepted).kversion = some (staged7 true) ∧
    d.heldLayer 0 7 0 = some (edition7 layer0 [], layer0) ∧ (staged7 true).committed = true := ⟨_, rfl, by decide +kernel⟩
/-- The REPLACEs the next REPLACE command takes: the opened ones, or else all of them. -/
def mineOf (d : Dev) : List Job :=
  if ((d.replaces 0).filter (·.opened)).isEmpty then d.replaces 0 else (d.replaces 0).filter (·.opened)
theorem wit_replace : ∃ a b, a = { kettle 5 .begun with entry := some 1 } ∧ b = { kettle 5 .begun with entry := some 2, opened := true } ∧
    mineOf (stagedUp a true) = [a] ∧ (mineOf (stagedUp a true)).find? (fun j => j.phase == .accepted && j.entry.isNone) = none ∧
    ((mineOf (stagedUp a true)).find? fun j => j.entry = some 1 && !((stagedUp a true).work.passes.any fun p => p.job = j.no)) = some a ∧
    mineOf (stagedUp b true) = [b] ∧ [b].all (fun j => decide (j.entry = some 2)) = true ∧
    ((stagedUp b true).replaces 0).filter (·.opened) ≠ [] ∧ (stagedUp { b with opened := false } true).headWaits 0 = false :=
  ⟨_, _, rfl, rfl, by decide +kernel⟩

/-! ### Memory and contexts -/

/-- A MAP, UNMAP or COPY of one page at address 0. -/
def mapJob (op : Nat) (ph : JobPhase) : Job := job 0 (byte op :: zeros 23 ++ [1]) ph
theorem wit_map : ∃ j d, j = mapJob 0x30 .accepted ∧ d = holding j ∧ d.jobOf 0 Op.map .accepted = some j ∧ rangeOk j = true ∧
    u8 j.bytes 28 ≤ 1 ∧ d.rangesFree j.ctx [(mapFirst j, mapCount j, mapCxl j)] = true ∧ mapCount j ≤ d.freeCount (mapCxl j) ∧
    d.boot.restarting = false ∧ d.colRoom 1 = true ∧ d.framesReady (mapCxl j) (mapCount j + d.promised (mapCxl j)) = true :=
  ⟨_, _, rfl, rfl, by decide +kernel⟩
/-- Every frame of a small CXL tier but none is clear: one device of 2 MiB, whose only frame is being cleared. -/
def cxlSmall (j : Job) : Dev := (holding j).onMem fun m => { m with cxlEnum := 1, cxlUp := 1, cxlCap := [(0, 2)], cxlClearing := [0] }
theorem wit_map_waits : ∃ j, j = job 0 ([0x30] ++ zeros 23 ++ ofNats [1, 0, 0, 0, 1]) .accepted ∧ (cxlSmall j).jobOf 0 Op.map .accepted = some j ∧
    rangeOk j = true ∧ mapCxl j = true ∧ mapCount j ≤ (cxlSmall j).freeCount true ∧
    (cxlSmall j).framesReady true (mapCount j + (cxlSmall j).promised true) = false := ⟨_, rfl, by decide +kernel⟩
theorem wit_map_ready : ∃ j d, j = mapJob 0x30 .begun ∧ d = holding j ∧
    (d.work.jobs.find? fun j => j.op = Op.map && j.phase == .begun) = some j ∧ d.framesReady (mapCxl j) (mapCount j) = true ∧
    d.rangesFree j.ctx [(mapFirst j, mapCount j, mapCxl j)] = true := ⟨_, _, rfl, rfl, by decide +kernel⟩
theorem wit_unmap : ∃ j d, j = mapJob 0x31 .accepted ∧ d = paged (holding j) ∧ d.jobOf 0 Op.unmap .accepted = some j ∧ rangeOk j = true ∧
    (((List.range (mapCount j)).map (· + mapFirst j)).all fun p => ((d.ctx j.ctx).pages.get none p).isSome && !d.keptPage j.ctx p) = true ∧
    d.colRoom 1 = true := ⟨_, _, rfl, rfl, by decide +kernel⟩
theorem wit_clear : 0 ∈ (cxlSmall (mapJob 0 .begun)).mem.cxlClearing ∧
    (98303 : Nat) ∈ ({ up with mem := { up.mem with gddrClearing := [98303] } }).mem.gddrClearing := by decide +kernel
theorem wit_copy : ∀ dir ∈ [0, 1], ∃ j d, j = job 0 ([0x32] ++ zeros 15 ++ ofNats [dir] ++ zeros 23 ++ [1]) .accepted ∧ d = paged (holding j) ∧
    d.jobOf 0 Op.copy .accepted = some j ∧ d.hostOpen = true ∧ u64 j.bytes 40 ≠ 0 ∧ u8 j.bytes 16 = dir ∧
    ((d.found []).memPut j.ctx (u64 j.bytes 32) (padTo [7] (u64 j.bytes 40)) none).1 = none ∧
    ((d.found []).memGet j.ctx (u64 j.bytes 32) (u64 j.bytes 40)).2.1 = none := by
  intro x hx
  simp only [List.mem_cons, List.not_mem_nil, or_false] at hx
  rcases hx with rfl | rfl <;> exact ⟨_, _, rfl, rfl, by decide +kernel⟩
theorem wit_retire : ∃ d, d = ({ up with mem := { up.mem with unc := [5], gddrUsed := [6] } } : Dev) ∧ d.retireDue 5 = true ∧ 5 ∉ d.flash.retired ∧
    d.boot.restarting = false ∧ d.colRoom 1 = true ∧ d.flash.retired.length < 1024 ∧ 5 ∉ d.mem.gddrUsed ∧
    (d.onMem fun m => { m with unc := [6] }).retireDue 6 = true ∧ 6 ∈ d.mem.gddrUsed ∧ d.freeFrames false 1 = 0 :: [] ∧
    7 ∈ (d.onMem fun m => { m with retirePending := [7] }).mem.retirePending :=
  ⟨_, rfl, by decide +kernel⟩

/-- The CXL tier with a page mapped at address 0 of context 0. -/
def cxlPaged : Dev := (cxlSmall (mapJob 0 .begun)).onCtx 0 fun x => { x with pages := [(0, some ⟨true, 0, true, none⟩)] }
theorem wit_cxl : cxlPaged.physOf 0 2097151 = some (true, 2097151) ∧ (cxlPaged.mem.cxlTimeouts.get [] 0).length < 15 ∧
    bitOf cxlPaged.mem.cxlUp 0 = true ∧ up.reaches (.fn 0) 0x40000 = true ∧ up.cxlMapped = false ∧ up.boot.restarting = false ∧
    up.colRoom 1 = true ∧ fld up.mem.cxlLayout 1 0 = 0 ∧ up.mem.cxlDue = 0 ∧ up.mem.cxlShut = false ∧ bitOf up.mem.cxlEnum 0 = false := by decide +kernel

theorem wit_writes : (∃ i < [7].length, ∀ p, up.pageAt 0 (0 + i) = some p → p.write = false) ∧
    (∀ i < [7, 8].length, ∃ p, (paged up).pageAt 0 (2097150 + i) = some p ∧ p.write = true) ∧
    (paged up).lateSectors 0 2097150 2 = [] ∧
    (∃ p, (cxlPaged.onMem fun m => { m with cxlUp := 0 }).pageAt 0 2097151 = some p ∧ p.write = true) ∧
    (cxlPaged.onMem fun m => { m with cxlUp := 0 }).lateSectors 0 2097151 1 ≠ [] := by
  refine ⟨⟨0, by decide, fun p h => ?_⟩, fun i hi => ⟨⟨false, 0, true, none⟩, ?_⟩, by decide +kernel,
    ⟨⟨true, 0, true, none⟩, by decide +kernel⟩, by decide +kernel⟩
  · exact absurd (h.symm.trans (by decide +kernel : up.pageAt 0 (0 + 0) = none)) (by simp)
  · have : i = 0 ∨ i = 1 := by simp at hi; omega
    rcases this with rfl | rfl <;> decide +kernel

theorem wit_context : up.boot.stage = .ready ∧ up.boot.mailboxOnly = false ∧ up.boot.restarting = false ∧ up.colRoom 2 = true ∧
    flag (0x80000001 : Word) 0 = true ∧ flag (0x80000001 : Word) 31 = true ∧ flag (0 : Word) 0 = false ∧ flag (0 : Word) 31 = false ∧
    up.rangeClash 0 = false ∧ up.boot.shutDown = false ∧ up.fnOpen 0 = true ∧ up.fnOpen 63 = true ∧ (up.ctx 0).key = none ∧
    flag (up.ring 0 15).cfg 31 = false ∧ up.ringIdle 0 15 = true ∧ flag ((ringed id).ring 0 0).cfg 31 = true ∧ (ringed id).ringIdle 0 0 = true ∧
    fld (ringCfgOf ((ringed id).ring 0 0).cfg 0x606) 12 8 = fld ((ringed id).ring 0 0).cfg 12 8 ∧
    fld (ringCfgOf ((ringed id).ring 0 0).cfg 0x606) 4 0 = fld ((ringed id).ring 0 0).cfg 4 0 ∧ up.pins.perstN = true := by decide +kernel

/-! ### The mailbox -/

theorem wit_mailbox : up.boot.restarting = false ∧ up.boot.recovery = false ∧ up.boot.shutDown = false ∧ up.boot.stage ≠ .bootRom ∧
    up.mbx.busy = false ∧ up.mbx.mctp = none ∧ up.fnOpen 0 = true ∧ up.mbx.run = none ∧ up.boot.update = none ∧ (1 : Half) ≠ 0 ∧ (0xFFFF : Half) ≠ 0 ∧
    ({ up with boot := { up.boot with dump := some [] } }).boot.dump = some [] ∧ (1 : Half).toNat ≤ 1 := by decide +kernel
theorem wit_shutdown : ({ up with boot := { up.boot with shuttingDown := true } }).boot.shuttingDown = true ∧
    ({ up with boot := { up.boot with shuttingDown := true } }).mayShut = true := by decide +kernel
theorem wit_mbx_data : up.reaches (.fn 0) 0x1008 = true ∧ up.mbx.inFifo.length < inWords ∧ up.boot.update ≠ some .mailbox ∧ up.mbx.run = none ∧
    ({ up with mbx := { up.mbx with outFifo := [(5, none)] } }).mbx.outFifo = (5, none) :: [] := by decide +kernel

/-! ### Management and security -/

/-- Sessions 1 with the management controller over I3C and 2 over DOE. -/
def session : Dev := { up with sec := { up.sec with
  sessions := [({ id := 1, carrier := .mctp .i3c } : Session), ({ id := 2, carrier := .doe } : Session)], ideNext := some [7], debug := 2 } }
/-- A request over I3C in session 1. -/
def via1 : Mctp := ⟨.i3c, some 1⟩
theorem wit_management : session.served = true ∧ session.rouse.mbx.busy = false ∧ session.hears via1 = true ∧ session.rouse.hears via1 = true ∧
    session.carries (.mctp .i3c) = true ∧ session.carries (.mctp .vdm) = true ∧ session.pins.perstN = true ∧
    session.rouse.mbxAllowed 0x01 = true ∧ session.rouse.boot.update = none := by decide +kernel
/-- A PLDM update under way, before and after it is applied. -/
def pldm (done : Bool) : Dev := { up with boot := { up.boot with update := some .pldm, applied := done } }
/-- The first 1,024 bytes of an image of 64 KiB of code. -/
def firstPart : Bytes := zeros 18 ++ [1] ++ zeros 1005
theorem wit_pldm : (pldm false).rouse.boot.update = some .pldm ∧ (pldm false).rouse.boot.applied = false ∧
    (pldm true).rouse.boot.applied = true ∧ (pldm true).served = true ∧ firstPart.length = 1024 ∧
    ((pldm false).rouse.boot.held ++ firstPart).length < 192 + Image.length ((pldm false).rouse.boot.held ++ firstPart) := by decide +kernel
theorem wit_spdm : session.served = true ∧ session.rouse.sec.sessions.length < 4 ∧ session.rouse.inSession (.mctp .i3c) (some 1) = true ∧
    session.carries (.mctp .i3c) = true ∧ session.carries .doe = true ∧ (session.rouse.measurementBlock 1).isSome = true ∧
    session.sessionOf 1 = some ({ id := 1, carrier := .mctp .i3c } : Session) ∧ session.sessionOf 2 = some ({ id := 2, carrier := .doe } : Session) ∧
    ((session.onRegs 0 fun r => { r with enable := true }).rouse.ctx 0).regs.enable = true ∧ session.rouse.sec.ideNext = some [7] ∧
    session.rouse.boot.restarting = false ∧ session.rouse.colRoom 1 = true ∧ 2 ≤ session.sec.debug ∧
    ({ up with sec := { up.sec with ideOn := true } }).sec.ideOn = true ∧
    ({ up with boot := { up.boot with restarting := true } }).boot.restarting = true := by decide +kernel
theorem wit_unlock : up.sealedOff 0x90028 = false ∧ up.sec.locked = false ∧ up.sec.token.length < 23 ∧
    session.hears via1 = true ∧ session.rouse.reaches (.mgmt via1) 0x90028 = true ∧ session.rouse.inSession (.mctp via1.medium) via1.session = true ∧
    session.rouse.sealedOff 0x90028 = false ∧ session.rouse.sec.locked = false ∧ session.rouse.sec.token.length < 23 ∧
    ({ up with sec := { up.sec with locked := true } }).sec.locked = true ∧ up.tokenFault [] = some St.notPermitted := by decide +kernel
theorem wit_anchor : ∀ x ∈ [(up, Origin.fn 0), (session.rouse, .mgmt via1)], (x.1.given (match x.2 with | .mgmt m => x.1.hears m | _ => false) (·.rouse)) = x.1 ∧
    x.1.unheard x.2 = false ∧ x.1.reaches x.2 (ctxOfs 0 0x40) = true ∧ x.1.sealedOff (ctxOfs 0 0x40) = false ∧
    x.1.boot.restarting = false ∧ x.1.colRoom 1 = true ∧ flag (0x40000000 : Word) 31 = false ∧ flag (0x40000000 : Word) 30 = true ∧
    flag (0x80000007 : Word) 31 = true ∧ ∀ i < 8, x.1.anchorAt 0 i ≠ anchorId (x.1.anchorKey 0) := by
  intro x hx
  simp only [List.mem_cons, List.not_mem_nil, or_false] at hx
  rcases hx with rfl | rfl <;> decide +kernel

/-! ### Links -/

/-- A station with a change of one port. -/
def ported (f : Port → Port) : Dev := up.onPort 0 f
/-- Port 0 with its cord 0 in a state. -/
def corded (c : CordSt) : Dev := ported fun x => { x with st := .active, cords := [(0, { st := c })] }
theorem wit_plan : up.reaches (.fn 0) 0x70000 = true ∧ fld (0 : Word) 1 0 = up.pins.modulePos ∧ up.boot.restarting = false ∧ up.colRoom 1 = true ∧
    up.sealedOff 0x70000 = false := by decide +kernel
theorem wit_cord_advance : ∀ c ∈ [CordSt.detect, .equalise, .align, .verify, .join], bitOf (fld ((corded c).planOf 0) 11 0) 0 = true ∧ ((corded c).port 0).st ≠ .down ∧
    ((corded c).cord 0 0).st = c := by decide +kernel
/-- A planned port with one cord in DETECT: of class 0, and optical. -/
def detecting (w : Word) : Dev :=
  let d := (corded .detect).onPort 0 fun x => { x with inForce := w }
  { d with lnk := { d.lnk with planValid := true } }
theorem wit_cord_detect : (detecting 0x80000FFF).optical 0 4 = false ∧ (detecting 0x88000FFF).optical 0 4 = true ∧
    (detecting 0x88000FFF).boot.restarting = false ∧ bitOf (fld ((detecting 0x80000FFF).planOf 0) 11 0) 0 = true ∧
    bitOf (fld ((detecting 0x88000FFF).planOf 0) 11 0) 0 = true ∧ ((detecting 0x88000FFF).port 0).st ≠ .down ∧
    ((detecting 0x88000FFF).cord 0 0).st = .detect := by
  decide +kernel
theorem wit_cord_states : ((corded .equalise).cord 0 0).st = .equalise ∧ ((corded .joined).cord 0 0).st = .joined ∧
    ((corded .dropped).cord 0 0).st = .dropped ∧ (let d := (corded .joined).onPort 0 fun x => { x with inForce := 0x08000001 }
      { d with lnk := { d.lnk with planValid := true } }).portClass 0 = 2 := by decide +kernel
theorem wit_cord_set : (((List.range 12).filter fun k => ((corded .join).cord 0 k).st == .joined && !bitOf (u16 ([2, 1, 0] : Bytes) 1 % 4096) k) = []) ∧
    ((List.range 12).filter fun k => ((corded .join).cord 0 k).st == .join && bitOf (u16 ([2, 1, 0] : Bytes) 1 % 4096) k) = [0] ∧
    (((List.range 12).filter fun k => ((corded .joined).cord 0 k).st == .joined && !bitOf (u16 ([2, 0, 0, 5, 0] : Bytes) 1 % 4096) k) = [0]) ∧
    ((List.range 12).filter fun k => ((corded .joined).cord 0 k).st == .join) = [] := by decide +kernel
/-- Two cords joined on port 0; and the same with a flit kept for replay. -/
def twoCords : Dev := ported fun x => { x with st := .active, cords := [(0, { st := .joined }), (1, { st := .joined })] }
theorem wit_cord_power : ∀ kind ∈ [0, 1, 2, 4], let msg : Bytes := ofNats [6, 2, 0, kind]
    u8 msg 3 = kind ∧ twoCords.portBusy 0 = false ∧ u16 msg 1 % 4096 = 2 ∧ 2 &&& lowBit (twoCords.joinedMask 0) = 0 ∧
    ((List.range 12).filter fun k => bitOf 2 k && (twoCords.cord 0 k).st == .joined) = [1] := by decide +kernel
theorem wit_cord_power_refused :
    (twoCords.onPort 0 fun x => { x with ll := { x.ll with replay := [⟨0, 1, []⟩] } }).portBusy 0 = true ∧
    u16 (ofNats [6, 1, 0, 0]) 1 % 4096 &&& lowBit (twoCords.joinedMask 0) ≠ 0 := by decide +kernel
theorem wit_cord_wake : (ported fun x => { x with cords := [(11, { st := .joined, off := true })] }).offMask 0 ≠ 0 := by decide +kernel
theorem wit_stopping : (corded .joined).joinedMask 0 ≠ 0 ∧ u8 ([7, 0x70] : Bytes) 0 = 7 ∧
    ((ported fun x => { x with noCordAt := some 0 }).port 0).noCordAt = some 0 ∧ (ported fun x => { x with noCordAt := some 0 }).joinedMask 0 = 0 := by
  decide +kernel
theorem wit_hello : u8 ([1] : Bytes) 0 = 1 ∧ (corded .joined).joinedMask 0 ≠ 0 ∧
    ((ported fun x => { x with st := .active, helloAt := some 0 }).port 0).helloAt = some 0 := by decide +kernel
/-- A planned port that trains with no cord joined, and one that encrypts. -/
def planned (w : Word) (s : PortSt) : Dev :=
  let d := ported fun x => { x with st := s, inForce := w, trainAt := some 0 }
  { d with lnk := { d.lnk with planValid := true } }
theorem wit_port_absent : ∃ d, d = planned 0x80000FFF .training ∧ d.portUsed 0 = true ∧ (d.port 0).hello = none ∧ d.boot.restarting = false ∧
    d.joinedMask 0 = 0 ∧ (d.port 0).trainAt = some 0 ∧ (d.port 0).st = .training := ⟨_, rfl, by decide +kernel⟩
/-- The encrypting port has heard a HELLO; of two fragments of the neighbour's certificates the second arrives. -/
def fragment : Bytes := ofNats [4, 0, 1, 0, 2, 0, 1, 0, 9]
theorem wit_key_cert : ∃ d d1, d = (planned 0x8A000FFF .discovery).onPort 0 (fun x => { x with hello := some (zeros 32) }) ∧
    d1 = d.onPort 0 (fun x => { x with keys := { x.keys with frags := x.keys.frags.set [] (u16 fragment 2) (sub fragment 8 (u16 fragment 6)) } }) ∧
    d.portEnc 0 = true ∧ u16 fragment 2 < u16 fragment 4 ∧ u16 fragment 6 ≤ 240 ∧ (d.port 0).hello.isSome = true ∧
    ((List.range (u16 fragment 4)).all fun j => !((d1.port 0).keys.frags.get [] j).isEmpty) = false := ⟨_, _, rfl, rfl, by decide +kernel⟩
theorem wit_key_share : ∃ d, d = (planned 0x8A000FFF .discovery).onPort 0 (fun x => { x with keys := { x.keys with peerKey := some [] } }) ∧
    (d.port 0).keys.peerKey = some [] ∧ (d.port 0).keys.epoch = 0 ∧ (d.port 0).keys.nextTx = none ∧ (d.port 0).st ≠ .active ∧ u32 ([5, 0, 1, 0, 0, 0] : Bytes) 2 = 1 :=
  ⟨_, rfl, by decide +kernel⟩
theorem wit_key_switch : u32 ([6, 0, 1, 0, 0, 0] : Bytes) 2 = (up.port 0).keys.rxEpoch + 1 ∧
    ((ported fun x => { x with keys := { x.keys with failed := true } }).port 0).keys.failed = true := by decide +kernel
theorem wit_key_renewal : ∃ d, d = ported (fun x => { x with hello := some (zeros 16 ++ leBytes 8 5 ++ zeros 8), keys := { x.keys with txKey := some [] } }) ∧
    (d.port 0).keys.txKey.isSome = true ∧ (d.port 0).keys.ephNo = none ∧ (d.port 0).keys.nextTx = none ∧ (d.port 0).keys.failed = false ∧ d.fuses.serial < d.helloSerial 0 :=
  ⟨_, rfl, by decide +kernel⟩
/-- A TRANSIT set-up message with so many hops left. -/
def setup (n : Nat) : Bytes := ofNats [8, 1, 1, 0, 1, 0, 0, 0, n, 5]
theorem wit_transit : ({ up with boot := { up.boot with restarting := true } }).boot.restarting = true ∧ (joined 0).boot.restarting = false ∧
    (joined 0).portUp 0 = true ∧ ∀ n ∈ [0, 1], u8 (setup n) 0 = 8 ∧ u8 (setup n) 1 = 1 ∧ u8 (setup n) 8 = n ∧
    u16 (setup n) 4 = fld (joined 0).lnk.slice 11 0 ∧ (joined 0).lnk.transits.length < 8 ∧ u8 (setup n) 9 < 6 ∧
    (joined 0).portUp (u8 (setup n) 9) = true ∧ (1 : Nat) ≠ (joined 0).clk.upstream ∧ (joined 0).portUp 1 = true := by decide +kernel
/-- A station with an upstream neighbour at port 0. -/
def downstream : Dev := { joined 1 with clk := { (joined 1).clk with upstream := 0, set := true, steer := some (-100, 5) } }
theorem wit_time : (joined 0).lnk.planValid = true ∧ (joined 0).station = 0 ∧ downstream.station ≠ 0 ∧ downstream.clk.upstream < 6 ∧
    downstream.portUp downstream.clk.upstream = true ∧ downstream.rackRoot = false ∧ downstream.clk.set = true ∧
    downstream.clk.steer = some (-100, 5) ∧ downstream.clk.ppm = 0 ∧
    downstream.clk.slewPs = 0 ∧ downstream.clk.frac = 0 ∧ downstream.now = 0 ∧ (0 : Nat) + 10 < 2 ^ 64 := by decide +kernel
/-- Flits of each KIND but an idle one's, that end after seven bytes, chosen so that their check is zero. -/
def flits : List (Nat × Bytes) := [(1, ofNats [0, 0, 32, 15, 182, 57, 219]), (2, ofNats [0, 0, 64, 109, 37, 255, 186]),
  (3, ofNats [0, 0, 96, 179, 171, 66, 154]), (4, ofNats [0, 0, 128, 169, 3, 114, 121]),
  (5, ofNats [0, 0, 160, 119, 141, 207, 89]), (6, ofNats [0, 0, 192, 21, 30, 9, 56]),
  (7, ofNats [0, 0, 224, 203, 144, 180, 24])]
theorem wit_flit : ∀ x ∈ flits, crc32c (x.2.take 252) = BitVec.ofNat 32 (u32 x.2 252) ∧ flitKind x.2 = x.1 ∧
    flitCr x.2 = 0 ∧ flitAk x.2 = 0 ∧ ((corded .joined).port 0).ll.naked = false ∧ ((corded .joined).port 0).ll.skip = 0 ∧ ((corded .joined).port 0).keys.rxKey = none ∧
    ((corded .joined).port 0).keys.rxHeld = [] := by
  decide +kernel
theorem wit_keyed : ∃ k, k = ({ txKey := some [], rxKey := some [1], txOpen := [⟨3, 1, []⟩] } : LinkKeys) ∧
    (((corded .joined).onPort 0 fun x => { x with keys := k }).port 0).keys = k ∧ k.txKey = some [] ∧ k.txOpen ≠ [] ∧ k.rxKey = some [1] ∧
    ((corded .joined).port 0).ll.replay.length < replayRoom ∧ ((corded .joined).onPort 0 fun x => { x with keys := k }).joinedMask 0 ≠ 0 := ⟨_, rfl, by decide +kernel⟩
theorem wit_nak : (corded .joined).activeCords 0 = [0] ∧
    ¬ (((corded .joined).port 0).ll.nakRun + 1 ≥ 32 ∧ ((corded .joined).port 0).ll.nakNo = 65535) := by decide +kernel

/-! ### Circulation, transfers and board accesses -/

/-- An injection entry: one plain tile of 64 bytes from address 0, at step 0, by placement record 0, along the first axis. -/
def entry0 : Bytes := zeros 28 ++ leBytes 4 64 ++ zeros 8 ++ [1, 2, 1, 0] ++ zeros 4
/-- A binding with that entry, a placement record that gives core 0 the tile, and core 0's signature region of 256 bytes. -/
def placing : Bytes := container 0
  [(2, 0xFFFF, 0, 0xFF, zeros 14 ++ [1, 0] ++ zeros 16 ++ leBytes 4 64 ++ leBytes 4 80 ++ leBytes 4 128 ++ zeros 20
      ++ (zeros 4 ++ leBytes 4 1 ++ zeros 8) ++ entry0 ++ ([0, 1] ++ zeros 190)),
   (3, 0, 8, 0xFF, [1, 0] ++ zeros 6 ++ leBytes 4 256 ++ zeros 9 ++ [1] ++ zeros 10)]
/-- The tests' station 0 runs that binding at fold 8. -/
def running : Dev := { (paged (joined 0)) with
  work := { (joined 0).work with run := some run0, active := some (active placing), coreMap := List.range 8 }
  pwr := { up.pwr with fold := 8 } }
/-- The other station's signature of that entry, as its copy arrives. -/
def sig1 : Bytes := Sig.copy ((joined 1).signature entry0 0 0 [zeros 64]) 0 true 1
def packet1 : Bytes := (joined 1).head 1 false 0 sig1.length 0 ++ sig1
theorem wit_signature : (((running.rouseAt 1).receive 1 packet1).2.map fun h => (h.cls, h.body)) = some (1, sig1) ∧
    ((running.rouseAt 1).receive 1 packet1).1.sigGood sig1 = true := by decide +kernel
/-- The signature is held. -/
def held1 : Dev := running.onCirc fun q => { q with sigs := [⟨sig1, 1, true, false⟩] }
theorem wit_placement : held1.circ.sigs.find? held1.placeable = some ⟨sig1, 1, true, false⟩ ∧ (held1.placeSig sig1).1 = true := by decide +kernel
theorem wit_place_core : running.placeField (Sig.place sig1) 0 = (0, 1, 0) ∧ running.sigRegion 0 = some (0, 256) ∧ running.physCore 0 = some 0 ∧
    Sig.tileAt sig1 (0 + 1) - Sig.tileAt sig1 0 = 64 ∧ 0 + 1 ≤ Sig.tiles sig1 ∧ 0 + 64 ≤ 256 / 2 := by decide +kernel
theorem wit_place_past : ∃ b, b = Sig.copy ((joined 1).signature entry0 0 0 []) 0 true 1 ∧ running.placeField (Sig.place b) 0 = (0, 1, 0) ∧
    0 + 1 > Sig.tiles b := ⟨_, rfl, by decide +kernel⟩
theorem wit_inject : ∃ d, d = running.found [] ∧ d.work.run = some run0 ∧ d.injEntry d.circ.nextEntry = some entry0 ∧ d.mayInject entry0 = true ∧
    (d.awake.takeEntry run0 entry0).tooLong entry0 = false ∧ ((d.awake.takeEntry run0 entry0).buildTiles entry0).1.mark = none ∧
    (((d.awake.takeEntry run0 entry0).buildTiles entry0).2.signature entry0 d.circ.nextSeq 0
      ((d.awake.takeEntry run0 entry0).buildTiles entry0).1.tiles).length ≤ sigMax := ⟨_, rfl, by decide +kernel⟩
theorem wit_build : ((running.onCirc fun q => { q with builds := [⟨1, sig1⟩] }).circ.builds.head?) = some ⟨1, sig1⟩ := by decide +kernel

/-- A packet of a class with a body, from the other station. -/
def packet1of (cls : Nat) (b : Bytes) : Bytes := packet cls 0 1 7 b
theorem wit_transfers : ∀ c ∈ [2, 3, 5, 6, 7, 8],
    (((joined 0).rouseAt 1).receive 1 (packet1of c (zeros 24))).2 = some ⟨c, false, 1, 0, 1, 7, zeros 24⟩ := by decide +kernel
theorem wit_not_discarded : ∀ c ∈ [2, 3], ((((joined 0).rouseAt 1).receive 1 (packet1of c (zeros 24))).1.forwardCopy 1
    ⟨c, false, 1, 0, 1, 7, zeros 24⟩ (packet1of c (zeros 24))).discarded ⟨c, false, 1, 0, 1, 7, zeros 24⟩ = none := by decide +kernel
/-- A station whose context 0 is enabled and open to its board, with a page. -/
def opened : Dev := (paged { joined 0 with lnk := { (joined 0).lnk with boardOpen := 1 } }).onRegs 0 fun r => { r with enable := true }
theorem wit_board : (((opened.rouseAt 1).receive 1 (packet1of 5 (zeros 24))).2.map (·.body)) = some (zeros 24) ∧
    ((opened.rouseAt 1).receive 1 (packet1of 5 (zeros 24))).1.boardAllowed (u8 (zeros 24) 0 % 64) = true ∧ u8 (zeros 24) 1 ≠ 1 ∧ u8 (zeros 24) 1 ≠ 2 ∧ u8 (zeros 24) 2 = 0 ∧
    (((opened.rouseAt 1).receive 1 (packet1of 5 (zeros 24))).1.memPut 0 (boardLocal (u64 (zeros 24) 8)) ((zeros 24).drop 16) none).1 = none ∧
    (((opened.rouseAt 1).receive 1 (packet1of 6 (zeros 24))).1.memGet 0 (boardLocal (u64 (zeros 24) 8)) (u64 (zeros 24) 16)).2.1 = none := by decide +kernel
theorem wit_board_response : ∃ d b, d = (joined 0).onCirc (fun q => { q with boards := [b] }) ∧ b = BoardOut.mk 0 1 none 0 false 0 8 none 0 0 ∧ u8 (zeros 16) 0 = 0 ∧
    (((d.rouseAt 1).receive 1 (packet1of 7 (zeros 16))).2.map (·.src)) = some 1 ∧
    (((d.rouseAt 1).receive 1 ((joined 1).head 7 false 0 16 (boardTag 0) ++ zeros 16)).2.map (·.tag)) = some (boardTag b.no) ∧
    (((d.rouseAt 1).receive 1 ((joined 1).head 7 false 0 16 (boardTag 0) ++ zeros 16)).1.circ.boards.find? fun x =>
      boardTag x.no = boardTag 0 && d.boardStation x.module = 1) = some b := ⟨_, _, rfl, rfl, by decide +kernel⟩
theorem wit_acknowledgement : (((joined 0).rouseAt 1).receive 1 (packet 8 0 1 0x7FFFFFFF (zeros 8))).2 =
    some ⟨8, false, 1, 0, 1, 0x7FFFFFFF, zeros 8⟩ ∧ 0x7FFFFFFF < 2 ^ 31 ∧ u8 (zeros 8) 0 = 0 := by decide +kernel
/-- A transfer with a lag limit is held, and a later one of its TAG that has its own. -/
def late1 : Transfer := ⟨1, 1, 2, 0xFFFF, [], none, none, 0, 500⟩
def lateUp (l : List QEnt) : Dev := ((joined 0).putQueue 0 .rg l).onCirc fun q => { q with transfers := [late1, { late1 with arrivedAt := 9 }] }
/-- What the end of the first one's limit leaves. -/
def lagged (d : Dev) : Dev := ((d.reach (0 + 1000 * 500)).onCirc fun q => { q with
  transfers := [late1].foldl (fun l t => l.erase t) q.transfers
  discard := q.discard
  detach := (if q.detach.length ≥ 256 then q.detach.drop 1 else q.detach) ++ [0xFFFF]
  detachCount := satAdd q.detachCount 1 }).ackTransfer late1 1
/-- A transfer at the end of its limit, with no RECV of its TAG, and with one that waits for the later transfer of it. -/
theorem wit_lag : ∃ e, e = ent (0x39 + 0xFFFF * 2 ^ 64) 0 .begun ∧ ∀ l ∈ [[], [e]], (lateUp l).barrierShut = false ∧
    (lateUp l).lagging 1 0xFFFF = (late1 :: [], 0) ∧ (lateUp l).awaitsData late1 0 = false ∧
    (lagged (lateUp l)).circ.transfers = [{ late1 with arrivedAt := 9 }] ∧
    (lagged (lateUp l)).recvsWaiting.find? (fun r => IW.nTag r.2.word.toNat = 0xFFFF) = l.head?.map fun e => (0, e) :=
  ⟨_, rfl, by decide +kernel⟩
/-- Each case of a sequence number, at the edges of the window. -/
theorem wit_sequence : ((up.window64 sig1).classify 0 = .inWindow) ∧ (up.window64 sig1).classify 63 = .inWindow ∧
    (up.window64 sig1).classify 64 = .ahead ∧ (up.window64 sig1).classify 0xFFFFFFFF = .duplicate ∧
    (Origin64.classify ⟨0xFFFFFFFF, 1⟩ 0xFFFFFFFF) = .duplicate ∧ (⟨0xFFFFFFFF, 2 ^ 63⟩ : Origin64).map.testBit 0 = false ∧
    (⟨0xFFFFFFFF, 2 ^ 63⟩ : Origin64).map.testBit 62 = false := by decide +kernel

/-! ### Faults and the colophon -/

/-- A core waits at an FE for a word that does not come. -/
def stalled : Dev := { (prog 0x40) with sync := { up.sync with words := [(0, { q := [⟨.readEmpty, false, 0, 0, .fe 0 0 0 none, 0⟩] })] } }
theorem wit_stall : (stalled.waits[0]?).isSome = true ∧
    (stalled.stillReported stalled.waits).count ((stalled.waits.map Wait.id).headD default) ≤ ((stalled.waits.take 0).map Wait.id).count
      ((stalled.waits.map Wait.id).headD default) := by decide +kernel
theorem wit_faults : up.reaches (.fn 0) 0x2004C = true ∧ up.healthy 7 = true ∧ up.pwr.stopped = false ∧ up.reaches (.fn 0) 0x20014 = true ∧
    up.sealedOff 0x20014 = false ∧ bar0Ofs (.fn 0) 0x2004C = 0x2004C ∧ up.work.run = none ∧ up.boot.restarting = false ∧ (powering fun p => { p with internalStop := true }).pwr.internalStop = true := by decide +kernel
theorem wit_retest : ∃ d, d = ({ up with err := { up.err with retest := 0x80 }, flash := { up.flash with parked := 0x80 } } : Dev) ∧
    bitOf d.err.retest 7 = true ∧ d.healthy 7 = false ∧ d.colRoom 1 = true := ⟨_, rfl, by decide +kernel⟩
theorem wit_checkpoint : ({ up with col := { up.col with sinceCkpt := 1 } }).col.sinceCkpt ≠ 0 ∧ up.boot.shutDown = false := by decide +kernel
/-- COLOPHON_DRAINs of context 0 for two units and for one, and one of context 1. -/
def drainJob (n : Nat) : Job := job 0 ([0x40] ++ zeros 23 ++ leBytes 2 n) .accepted
theorem wit_drain : (holding (drainJob 128)).jobOf 0 Op.drain .accepted = some (drainJob 128) ∧ (holding (drainJob 128)).hostOpen = true ∧
    u32 (drainJob 128).bytes 24 % 64 = 0 ∧ 128 ≤ u32 (drainJob 128).bytes 24 ∧ u32 (drainJob 64).bytes 24 < 128 ∧
    u32 (drainJob 129).bytes 24 % 64 ≠ 0 ∧
    up.colFit 2 [zeros 8 ++ zeros 56, zeros 64, zeros 64] = ([0, 0], [zeros 64, zeros 64]) ∧ (holding { drainJob 128 with ctx := 1 }).jobOf 1 Op.drain .accepted = some { drainJob 128 with ctx := 1 } := by
  decide +kernel
theorem wit_chain : (zeros 40).length = 40 ∧ up.col.seq < 18446744073709551615 := by decide +kernel
theorem wit_logged : up.boot.restarting = false ∧ up.colRoom 1 = true ∧
    ({ up with boot := { up.boot with restarting := true } }).boot.restarting = true ∧
    ({ up with col := { up.col with reservedRoom := 16384 } }).colRoom 1 = false := by decide +kernel


/-! ### Start-up and registers -/

/-- A module in a stage of start-up. -/
def starting (st : Stage) (ok : Bool) : Dev := { up with boot := { up.boot with stage := st, trained := ok } }
theorem wit_startUp : Dev.reset.supply = .off ∧ ({ up with supply := .open } : Dev).supply = .open ∧ up.supply = .on ∧
    Dev.reset.powered = false ∧ Dev.reset.boot.waiting = none ∧ up.powered = true ∧ up.boot.waiting = none ∧
    ({ up with boot := { up.boot with waiting := some true } } : Dev).boot.waiting = some true ∧
    (starting .memory false).boot.stage = .memory ∧ (starting .memory false).boot.trained = false ∧
    (starting .memory false).pwr.stopped = false ∧ (starting .memory false).boot.planned = false ∧
    ({ (starting .memory false) with boot := { (starting .memory false).boot with planned := true } } : Dev).boot.planned = true ∧
    (starting .memory true).boot.trained = true ∧ (starting .memory true).boot.restarting = false ∧
    ({ up with boot := { up.boot with restarting := true } } : Dev).boot.recovery = false ∧ up.fwRuns = true := by decide +kernel
/-- An image whose SVN is 3: it advances fuses at 1, and with no room for its entry it leaves them; the fuses at 4 are ahead of it. -/
def image3 : Bytes := zeros 7 ++ [3] ++ zeros 184
def fused1 (room : Nat) : Dev := { up with fuses := { up.fuses with svn := 1 }, col := { up.col with reservedRoom := room } }
theorem wit_image : (fused1 0).fuses.svn < min (Image.svn image3) 64 ∧ (fused1 0).colRoom 1 = true ∧
    ((fused1 0).runImage image3 false).fuses.svn = 3 ∧ ((fused1 0).runImage image3 false).col.main.length = 1 ∧
    (fused1 16384).colRoom 1 = false ∧ ((fused1 16384).runImage image3 false).fuses.svn = 1 ∧
    Image.svn image3 < ({ up.fuses with svn := 4 }).svn := by decide +kernel
/-- The widths of the register commands: a reset, a hand-set, a peak reset, a latched read, a bad access, a window access. -/
theorem wit_registers : up.reaches (.fn 0) 0x10 = true ∧ resetBits 1 ≠ [] ∧ up.boot.restarting = false ∧
    up.colRoom ((resetBits 1).length + if flag 1 16 then (up.ctxs.filter fun e => e.2.key.isSome).length else 0) = true ∧
    up.reaches (.fn 0) 0x90018 = true ∧ flag (0x80000000 : Word) 31 = true ∧ flag (0x80000000 : Word) 0 = false ∧ flag (0x80000001 : Word) 0 = true ∧
    up.sealedOff 0x10 = false ∧ up.sealedOff 0x90018 = false ∧
    up.unheard (.fn 0) = false ∧ (session.given (session.hears via1) (·.rouse)).unheard (.mgmt via1) = false ∧
    (session.given (session.hears via1) (·.rouse)).reaches (.mgmt via1) (0x70020 + 4 * 1) = true ∧
    up.sealedOff (0x70020 + 4 * 1) = false ∧ up.pins.perstN = true ∧
    up.reaches (.fn 0) (0x70020 + 4 * 1) = true ∧ flag (0x8000 : Word) 15 = true ∧ up.reaches (.fn 0) 0x18 = true := by decide +kernel
theorem wit_latch : ∃ d, d = up.latchHigh (.fn 0) 0x60008 ∧ loAt 0x60008 = true ∧ loAt 0x6000C = false ∧ d.reaches (.fn 0) 0x6000C = true ∧
    d.glb.latch.get (0, 0) (requester (.fn 0)) = (0x6000C - 4 + 1, 0) ∧
    bar0Ofs (.fn 0) 0x60008 = 0x60008 ∧ bar0Ofs (.fn 5) 0x20 = 0x105020 ∧ (up.reaches (.fn 5) 0x105020) = true ∧ 0x60008 < 2 ^ 24 ∧ up.reaches (.fn 0) 0x60008 = true ∧ 2 ^ 24 ≤ 0x1001000 ∧ pairLogged 0x60008 = false := ⟨_, rfl, by decide +kernel⟩
/-- The board window open on context 0. -/
def windowOpen : Dev :=
  { up with ctxs := [(0, { up.ctx 0 with regs := { (up.ctx 0).regs with enable := true } })], glb := { up.glb with win := [(0, 0x80000000)] } }
theorem wit_window : windowOpen.fnOpen 0 = true ∧ flag (windowOpen.glb.win.get 0 0) 31 = true ∧ windowOpen.moduleNo = 0 ∧ (windowOpen.ctx 0).regs.enable = true ∧
    windowOpen.memUp = true ∧ ((paged windowOpen).memGet 0 0 4).2.1 = none ∧ ((paged windowOpen).memPut 0 0 [1] none).1 = none ∧
    flag ((paged windowOpen).glb.win.get 0 0) 31 = true ∧ ((paged windowOpen).ctx 0).regs.enable = true := by decide +kernel
theorem wit_refused : flag up.glb.refuse 31 = false ∧ flag (up.refuse (.fn 0) 0x18 St.notPermitted).glb.refuse 31 = true ∧
    pageOf 0x100004 = some (0, 4) ∧ pageOf 0x18 = none := by decide +kernel

/-! ### Rules of the machine -/

/-- A full word with two readers: the first completes, and the peek after it waits on the empty word. -/
theorem wit_scan : ∃ q t done, q = SyncReq.mk .readEmpty false 0 0 (.fe 0 0 0 none) 0 ∧
    (SyncWord.perform { val := 9, full := true, q := [⟨.readPeek, false, 0, 0, .fe 1 0 0 none, 0⟩] } q) = some (t, done) ∧ t.full = false ∧
    t.q.length = 1 := ⟨_, _, _, rfl, rfl, by decide +kernel⟩
theorem wit_fuses : FusesForward State.reset.dev.fuses State.reset.dev.fuses ∧ step State.reset = .next { State.reset with dev := State.reset.dev.tick } :=
  ⟨⟨le_refl _, rfl⟩, rfl⟩
theorem wit_obtained : (joined 0).work.gath = some (pair0 0) ∧ (pair0 0).dims = [2, 1, 1] ∧ (pair0 0).pos < 2 * 1 * 1 ∧ [0].Nodup ∧
    (∀ a ∈ [0], a < 3) ∧ (∀ a < 3, 1 < (pair0 0).dims.getD a 1 → a ∈ [0]) ∧ obtainedFrom (joined 0) [0] 0 1 0 0 = [1] := by decide +kernel
/-- The timestamp of a station that has started, below the last nanosecond. -/
theorem wit_now : up.now < 2 ^ 64 - 10 ∧ up.clk.ppm = 0 ∧ up.clk.slewPs = 0 ∧ up.clk.frac < 100000 := by decide +kernel
/-- Two lists of one query, and their merge. -/
def cand (s row : Nat) : LEnt := ⟨true, false, s, row, 0⟩
theorem wit_merge : ([cand 5 1, cand 7 2] ++ [cand 7 3]).all (·.valid) = true ∧ ([cand 5 1, cand 7 2] ++ [cand 7 3]).Pairwise (fun e f =>
    (e.before false true f || f.before false true e) = true) ∧ (topK false true 2 [cand 5 1, cand 7 2]).length = 2 := by decide +kernel
/-- A bank of 40 rows in rising score, all of which belong to the first 40 of its leaf: it hands over 32, and a re-pass brings the rest. -/
def bank40 : List LEnt := (List.range 40).map fun i => cand (100 + i) i
theorem wit_repass : ([bank40, [cand 7 50]].flatten.map (·.row)).Nodup ∧ (∀ e ∈ [bank40, [cand 7 50]].flatten, e.valid = true) ∧
    0 < (leafRounds true 40 (mostRounds 40) [] ([bank40, [cand 7 50]].map fun b => BankRun.start (rank false true b))).2 := by decide +kernel
/-- A station with a byte of each memory in its one form, and a step from it. -/
def stored : Dev := { up with mem := { up.mem with gddr := [(3, 7)], cxl := [(4, 1)], gddrMarks := [(0, some St.memUnc)] }, cmem := { up.cmem with bytes := [(5, 9)] }
                              cores := [(2, { buf := { bytes := [(1, 2)] } })] }
theorem wit_memory : Memory.wf stored = true ∧ step (st stored) = .next (st stored.tick) := ⟨by decide +kernel, rfl⟩
/-- Each kind of sum: two finite numbers, and each special case. -/
theorem wit_accumulate : (f32 0x3F800000).isFinite = true ∧ (FVal.fin false 1 0).isFinite = true ∧ f32 0x7F800000 = .inf false ∧
    lay32.decode (lay32.encode (.fin false 1 200)) = .inf false ∧ (lay32.decode (lay32.encode (.fin false 1 0))).isFinite = true := by decide +kernel

/-! ### Well-formed commands: a term that each check takes, and one that it refuses -/

theorem test_wf_found : ([Found.gddr 98303 32767 .corrected, .cmemRow 2097151 .corrected, .bufLine 7 524287, .syncWord 65535, .decoder 7 15,
      .cxlPoison 137438953471, .crcRetry 3].all foundOk) = true ∧
    ([Found.gddr 98304 0 .corrected, .gddr 0 32768 .corrected, .cmemRow 2097152 .corrected, .bufLine 8 0, .bufLine 0 524288, .syncWord 65536,
      .cxlPoison 137438953472, .decoder 8 0, .decoder 0 16].any foundOk) = false := by decide +kernel
/-- The commands that read a memory refuse a finding outside it. -/
theorem test_wf_reads : ([[], [Found.syncWord 65536]].map fun l => [Instr.ldw 0 l, .vec 0 l, .cvt 0 l, .mov 0 l, .fusedStageIteration 0 0 0 0 [] l,
      .topkCmem 0 l, .topkScan 0 l, .topkMerge 0 l, .send 0 l, .syncOpArrival (.spine 0) l, .heldOpRepresent 0 l, .instructionComplete 0 .ar l,
      .blockStreamBegin 0 0 [] l, .copy 0 none l, .itemResultCopy l, .injectionBegin l, .scrubSweepStart 0 l, .patrol 0 l].map (·.wf)) =
    [List.replicate 18 true, List.replicate 18 false] := by decide +kernel
theorem test_wf_samples : (Instr.powerSample 0 0 0 (List.replicate 20 {})).wf = true ∧ (Instr.powerSample 0 0 0 [{}]).wf = false ∧
    (Instr.thermalSample (List.replicate 72 40)).wf = true ∧ (Instr.thermalSample [40]).wf = false := by decide +kernel
theorem test_wf_doorbells : [1, 2, 4, 8, 0, 3].map (fun n => ((Instr.sqTailDoorbell 0 0 n 0).wf, (Instr.cqHeadDoorbell 0 0 n 0).wf)) =
    [(true, true), (true, true), (true, true), (true, true), (false, false), (false, false)] := by decide +kernel
theorem test_wf_packets (n : Nat) (p : PortId) : ([Instr.formationMessage p (List.replicate n 0), .signatureArrival p (List.replicate n 0),
      .activationMessage p (List.replicate n 0), .shortlistPacket p (List.replicate n 0), .boardStore p (List.replicate n 0),
      .boardLoadRequest p (List.replicate n 0), .boardLoadResponse p (List.replicate n 0), .controlStart p (List.replicate n 0),
      .controlAbort p (List.replicate n 0), .acknowledgement p (List.replicate n 0)].map (·.wf)) = List.replicate 10 (decide (n ≤ maxPacket)) ∧
    (Instr.syncOpArrival (.board p (List.replicate n 0)) []).wf = decide (n ≤ maxPacket) := by
  simp [Instr.wf, arrivalOk, List.replicate]
theorem test_wf_lanes : (Instr.cordStateAdvance 0 11 15 128).wf = true ∧ (Instr.cordStateAdvance 0 11 16 128).wf = false := by decide +kernel
theorem test_wf_messages : ([249, 250].map fun n => let m : Bytes := zeros n; [Instr.cordSet 0 m, .cordPower 0 m, .stopping 0 m, .helloReceive 0 m,
      .keyCert 0 m, .keyShare 0 m, .keySwitch 0 m, .transit 0 m].map (·.wf)) = [List.replicate 8 true, List.replicate 8 false] := by decide +kernel
theorem test_wf_flits : (Instr.tagFlit 0 (zeros 256)).wf = true ∧ (Instr.tagFlit 0 (zeros 255)).wf = false ∧
    (Instr.flitReceive 0 (.decoded 8 (zeros 256))).wf = true ∧ (Instr.flitReceive 0 .uncorrectable).wf = true ∧
    (Instr.flitReceive 0 (.decoded 0 (zeros 257))).wf = false := by decide +kernel
theorem test_wf_offsets : ([0xFFFFFC, 0x1000000].map fun o => [Instr.regRead ⟨via1, o⟩, .regWrite via1 o 0, .jtagInstruction (.readReg o),
      .jtagInstruction (.writeReg o 0), .hiReadLatched (.mgmt via1) o,
      .bar0BadAccess (.mgmt via1) true o 2].map (·.wf)) = [List.replicate 6 true, List.replicate 6 false] ∧
    [(Instr.loReadLatch (.fn 0) 0x203FFFC false).wf, (Instr.loReadLatch (.fn 0) 0x2040000 false).wf, (Instr.registerWrite (.fn 0) 0x1FFFFFC true 0).wf,
      (Instr.registerWrite (.fn 0) 0x2000000 true 0).wf] = [true, false, true, false] ∧
    (Instr.loReadLatch (.fn 0) 2 false).wf = false ∧ (Instr.hiReadLatched (.fn 0) 2).wf = false ∧ (Instr.registerWrite (.fn 0) 2 false 0).wf = false ∧
    (Instr.bar0BadAccess (.fn 0) true 4 4).wf = false ∧ (Instr.bar0BadAccess (.fn 0) true 2 4).wf = true ∧
    [(Instr.jtagInstruction (.readMem .cmem 0 268435456)).wf, (Instr.jtagInstruction (.writeMem .sync 524287 [1])).wf,
      (Instr.jtagInstruction (.readMem .cmem 1 268435456)).wf, (Instr.jtagInstruction (.writeMem .sync 524288 [1])).wf] =
      [true, true, false, false] := by decide +kernel
theorem test_wf_window : [WinAccess.read 4096, .write [0], .read 0, .read 4097, .write []].map (fun a => (Instr.boardWindowAccess 68719476735 a).wf) =
      [true, true, false, false, false] ∧ (Instr.boardWindowAccess 68719476736 (.read 1)).wf = false := by decide +kernel
theorem test_wf_frames : [(Instr.frameClear true 4194303).wf, (Instr.patrol 98303 []).wf, (Instr.frameRetirement 98303).wf,
      (Instr.cxlTimeout 0 0 281474976710655 true).wf, (Instr.coreFault 0 1).wf, (Instr.coreFault 0 6).wf] = List.replicate 6 true ∧
    [(Instr.frameClear true 4194304).wf, (Instr.patrol 98304 []).wf, (Instr.frameRetirement 98304).wf,
      (Instr.cxlTimeout 0 0 281474976710656 true).wf, (Instr.coreFault 0 0).wf, (Instr.coreFault 0 7).wf] = List.replicate 6 false := by decide +kernel
theorem test_wf_management : (Instr.mctpMailbox via1 1 0 (List.replicate 512 0)).wf = true ∧ (Instr.mctpMailbox via1 1 0 (List.replicate 513 0)).wf = false ∧
    (Instr.setContextKey 0 0 (zeros 32)).wf = true ∧ (Instr.setContextKey 0 0 (zeros 31)).wf = false := by decide +kernel

/-! ### Worked examples of the manual -/

/-- R28: BF16 1.5 and FP16 −2.25 in W19, and their exact product −3.375 (the example after R28). -/
theorem test_decode_pair : lay32.encode ((layBf16.decode 0x3FC0).mul (layFp16.decode 0xC080)) = 0xC0580000 ∧
    layW19.encode (layBf16.decode 0x3FC0) = 0x1FE00 ∧ layW19.encode (layFp16.decode 0xC080) = 0x60080 := by decide +kernel
/-- R34: the relevance head in BF16; 11.0 gives 4.125 and 20.0 is clipped to 6.0. -/
theorem test_relevance_head : (convRow false .bf16 0 (List.replicate 2 ⟨0x3EC00000, 0x3C800000, 0xC0C00000, 0x40C00000⟩)
    [0x41300000, 0x41A00000]).els = [0x4084, 0x40C0] := by decide +kernel
/-- R35: the group of the manual's table in OF8, without and with SUBN. -/
theorem test_of8_group : let vs := [FVal.fin false 37 0, .fin true 13 (-4), .fin false 0 0, lay32.decode 0x3A03126F] ++ List.replicate 28 (.fin false 1 0)
    grpOf8.convert false vs = (0x7C, [0x79, 0xCD, 0x00, 0x02] ++ List.replicate 28 0x50) ∧
    grpOf8.convert true vs = (0x7C, [0x79, 0xCD, 0x00, 0x00] ++ List.replicate 28 0x50) := by decide +kernel
/-- R41: the three pieces of 1/3. -/
theorem test_split_third : w19Pieces false 0x3EAAAAAB = (0x1F555, 0x1C556, 0x59800) := by decide +kernel
/-- R17: leaf A with two healthy cores and leaf B with four carry fold 4. -/
theorem test_parked_fold : ({ up with flash := { up.flash with parked := 0b0110 } } : Dev).foldOf 8 = 4 ∧ up.foldOf 8 = 8 := by decide +kernel
/-- R265: READ_PEEK WAITGE 2, READ_EMPTY and READ_PEEK wait on an empty word; a WRITE_FORCE of 1 completes the second only. -/
theorem test_sync_scan :
    let q := fun (op : SyncOp) ge i => SyncReq.mk op ge i 0 (.fe i.toNat 0 0 none) 0
    (SyncWord.perform { q := [q .readPeek true 2, q .readEmpty false 4, q .readPeek false 6] } (q .writeForce false 1)).map (fun x =>
      (x.2.map (·.op), x.1.full, x.1.q.map (·.op))) = some ([.writeForce, .readEmpty], false, [.readPeek, .readPeek]) := by decide +kernel
/-- R397: with the colophon full, PWR_CAP_CFG is refused; GLB_REFUSE, its offset and COL_REFUSED as the manual gives them, and the cap stays. -/
theorem test_refuse_example :
    let d : Dev := { up with col := { up.col with reservedRoom := 16384 } }
    let t := d.writeReg (.fn 0) 0x10000 1800
    t.glb.refuse = 0x88008000 ∧ t.glb.refuseOfs = 0x10000 ∧ t.pr.capCfg = d.pr.capCfg ∧
      (t.writeReg (.fn 0) 0x20 0x80000000).glb.refuse = 0 := by decide +kernel
/-- R118: the check value of CRC-32C over the nine ASCII bytes of "123456789". -/
theorem test_crc_check : (crc32c ((List.range 9).map fun i => byte (0x31 + i))).toNat = 0xE3069283 := by decide +kernel

end Sys2Proof.Tests
end

section
/-! PROOFS. What raising a cause and writing an entry of the colophon leave of the station, what a core that stops leaves, and the
statements on faults (R18, R269, R337 to R339, R341). -/

namespace Sys2Proof.Machine

/-! ### Single bits of numbers and registers -/

theorem bitOf_eq_testBit (x i : Nat) : bitOf x i = x.testBit i := Nat.testBit_eq_decide_div_mod_eq.symm

/-- A bit of a number of which one bit was replaced. -/
theorem bitOf_setBits_bit (x i v j : Nat) : bitOf (setBits x i i v) j = if j = i then decide (v % 2 = 1) else bitOf x j := by
  have hsum : setBits x i i v = 2 ^ i * (2 * (x / 2 ^ (i + 1)) + v % 2) + x % 2 ^ i := by
    rw [setBits, Nat.add_sub_cancel_left, Nat.pow_one, Nat.pow_succ]; ring
  rw [bitOf_eq_testBit, hsum, Nat.testBit_two_pow_mul_add _ (Nat.mod_lt _ (Nat.two_pow_pos i))]
  rcases Nat.lt_trichotomy j i with h | rfl | h
  · simp [h, h.ne, Nat.testBit_mod_two_pow, bitOf_eq_testBit]
  · simp
  · obtain ⟨k, rfl⟩ : ∃ k, j = i + 1 + k := ⟨j - (i + 1), by omega⟩
    have hk : i + 1 + k - i = k + 1 := by omega
    have hq : (2 * (x / 2 ^ (i + 1)) + v % 2) / 2 = x / 2 ^ (i + 1) := by omega
    simp only [hk, h.ne', h.not_gt, if_false, Nat.testBit_succ, hq, Nat.testBit_div_two_pow, bitOf_eq_testBit]
    rw [Nat.add_comm k]

theorem bitOf_or_two_pow_self (x c : Nat) : bitOf (x ||| 2 ^ c) c = true := by
  simp [bitOf_eq_testBit]

theorem bitOf_or_two_pow_ne (x : Nat) {c k : Nat} (h : k ≠ c) : bitOf (x ||| 2 ^ c) k = bitOf x k := by
  simp [bitOf_eq_testBit, h.symm]

theorem flag_setFld_bit (w : Word) (i v j : Nat) :
    flag (setFld w i i v) j = (decide (j < 32) && if j = i then decide (v % 2 = 1) else flag w j) := by
  rw [flag, setFld, BitVec.toNat_ofNat, bitOf_eq_testBit, Nat.testBit_mod_two_pow, ← bitOf_eq_testBit, bitOf_setBits_bit, flag]

theorem flag_lt {w : Word} {j : Nat} (h : flag w j = true) : j < 32 := by
  by_contra hj
  have : w.toNat < 2 ^ j := lt_of_lt_of_le w.isLt (Nat.pow_le_pow_right (by omega) (by omega))
  simp [flag, bitOf_eq_testBit, Nat.testBit_lt_two_pow this] at h

/-- A bit that is raised leaves the raised ones raised. -/
theorem flag_setFld_raise {w : Word} (i : Nat) {j : Nat} (h : flag w j = true) : flag (setFld w i i 1) j = true := by
  rw [flag_setFld_bit]
  simp [flag_lt h, h]

/-! ### The steps of a parking -/

namespace Dev

variable (d : Dev)

/-- A core is put in the parked mask (R18). -/
def park (c : Nat) : Dev := { d with flash := { d.flash with parked := d.flash.parked ||| 2 ^ c } }

/-- ERR_CORE captures a core's fault when it holds none (R341). -/
def captureFault (c kind : Nat) : Dev := d.onErr fun e => { e with
  core := capture e.core (kind * 2 ^ 28 + c * 2 ^ 25 + d.workCtx % 64 * 2 ^ 16 + d.phaseNow % 65536) }

/-- A core is parked by these steps: the capture, the cause, the mask, the entry and the stop of the core (R18, R337). -/
theorem parkCore_eq (c kind : Nat) : d.parkCore c kind =
    ((((d.captureFault c kind).cause cCore).park c).logOwed 5 255 4 2 c c 0).coreStops c := rfl

theorem healthy_park_self (c : Nat) : (d.park c).healthy c = false := by
  simp [healthy, park, bitOf_or_two_pow_self]

theorem healthy_park_ne {c k : Nat} (h : k ≠ c) : (d.park c).healthy k = d.healthy k := by
  simp [healthy, park, bitOf_or_two_pow_ne _ h]

end Dev

/-! ### Raising causes and writing entries of the colophon -/

/-- Between the two states of the station only causes were raised and entries of the colophon written: nothing else has changed but what
interrupts and the place of the last checkpoint need, and no cause that was raised has gone. -/
structure RecordsOnly (d t : Dev) : Prop where
  station : { t with err := d.err, flash := d.flash, fns := d.fns, col := d.col, out := d.out } = d
  err : { t.err with irqStatus := d.err.irqStatus } = d.err
  flash : { t.flash with
    ckptSeq := d.flash.ckptSeq, ckptChain := d.flash.ckptChain, ckptDrained := d.flash.ckptDrained } = d.flash
  causes : ∀ b, flag d.err.irqStatus b = true → flag t.err.irqStatus b = true

namespace RecordsOnly

theorem refl (d : Dev) : RecordsOnly d d := ⟨rfl, rfl, rfl, fun _ h => h⟩

theorem trans {d t u : Dev} (h : RecordsOnly d t) (k : RecordsOnly t u) : RecordsOnly d u where
  station := (congrArg (fun x : Dev => { x with err := d.err, flash := d.flash, fns := d.fns, col := d.col, out := d.out })
    k.station).trans h.station
  err := (congrArg (fun e : ErrRegs => { e with irqStatus := d.err.irqStatus }) k.err).trans h.err
  flash := (congrArg (fun f : Flash => { f with
    ckptSeq := d.flash.ckptSeq, ckptChain := d.flash.ckptChain, ckptDrained := d.flash.ckptDrained }) k.flash).trans h.flash
  causes b hb := k.causes b (h.causes b hb)

section
variable {d t : Dev} (h : RecordsOnly d t)
include h

theorem mem : t.mem = d.mem := (congrArg Dev.mem h.station :)
theorem cmem : t.cmem = d.cmem := (congrArg Dev.cmem h.station :)
theorem cores : t.cores = d.cores := (congrArg Dev.cores h.station :)
theorem ctxs : t.ctxs = d.ctxs := (congrArg Dev.ctxs h.station :)
theorem work : t.work = d.work := (congrArg Dev.work h.station :)
theorem lnk : t.lnk = d.lnk := (congrArg Dev.lnk h.station :)
theorem pwr : t.pwr = d.pwr := (congrArg Dev.pwr h.station :)
theorem errCore : t.err.core = d.err.core := (congrArg ErrRegs.core h.err :)
theorem parked : t.flash.parked = d.flash.parked := (congrArg Flash.parked h.flash :)
theorem healthy (c : Nat) : t.healthy c = d.healthy c := by rw [Dev.healthy, Dev.healthy, h.parked]
theorem core (c : Nat) : t.core c = d.core c := by rw [Dev.core, Dev.core, h.cores]

/-- Putting a core in the parked mask does not meet what was recorded. -/
theorem park (c : Nat) : RecordsOnly (d.park c) (t.park c) where
  station := congrArg (·.park c) h.station
  err := h.err
  flash := congrArg (fun x : Flash => { x with parked := x.parked ||| 2 ^ c }) h.flash
  causes := h.causes

end

end RecordsOnly

namespace Dev

variable (d : Dev)

theorem msix_recordsOnly (c v : Nat) : RecordsOnly d (d.msix c v) := by
  unfold msix
  split
  · exact ⟨rfl, rfl, rfl, fun _ h => h⟩
  · exact ⟨rfl, rfl, rfl, fun _ h => h⟩

theorem cause_recordsOnly (b : Nat) : RecordsOnly d (d.cause b) := by
  have hraise : RecordsOnly d (d.onErr fun e => { e with irqStatus := setFld e.irqStatus b b 1 }) :=
    ⟨rfl, rfl, rfl, fun _ h => flag_setFld_raise b h⟩
  unfold cause
  dsimp only
  split
  · exact hraise.trans (msix_recordsOnly _ _ _)
  · exact hraise

theorem cause_pwr (b : Nat) : (d.cause b).pwr = d.pwr := (cause_recordsOnly d b).pwr

/-- A cause of ERR_IRQ_STATUS stands once it is raised. -/
theorem flag_cause {b : Nat} (hb : b < 32) : flag (d.cause b).err.irqStatus b = true := by
  have hraise : flag (d.onErr fun e => { e with irqStatus := setFld e.irqStatus b b 1 }).err.irqStatus b = true := by
    simp [flag_setFld_bit, hb]
  unfold cause
  dsimp only
  split
  · exact (msix_recordsOnly _ _ _).causes b hraise
  · exact hraise

theorem col_recordsOnly (c : Colophon) : RecordsOnly d { d with col := c } := ⟨rfl, rfl, rfl, fun _ h => h⟩

theorem colLevel_recordsOnly (n : Nat) : RecordsOnly d (d.colLevel n) := by
  unfold colLevel
  dsimp only
  split
  · exact cause_recordsOnly _ _
  · exact .refl d

theorem colPutMain_recordsOnly (b : Bytes) : RecordsOnly d (d.colPutMain b) :=
  (col_recordsOnly d _).trans (colLevel_recordsOnly _ _)

theorem colPutReserved_recordsOnly (b : Bytes) : RecordsOnly d (d.colPutReserved b) :=
  (col_recordsOnly d _).trans (cause_recordsOnly _ _)

/-- The place of a checkpoint is kept in the colophon and in flash (R364). -/
theorem ckpt_recordsOnly (c : Colophon) (n : Nat) (chain : Bytes) (m : Nat) :
    RecordsOnly d { d with col := c, flash := { d.flash with ckptSeq := n, ckptChain := chain, ckptDrained := m } } :=
  ⟨rfl, rfl, rfl, fun _ h => h⟩

theorem colCheckpoint_recordsOnly : RecordsOnly d d.colCheckpoint := by
  unfold colCheckpoint
  dsimp only
  split
  · exact .refl d
  · refine RecordsOnly.trans ?_ (ckpt_recordsOnly _ _ _ _ _)
    split
    · exact colPutReserved_recordsOnly _ _
    · exact colPutMain_recordsOnly _ _

theorem colDue_recordsOnly : RecordsOnly d d.colDue := by
  unfold colDue
  split
  · exact colCheckpoint_recordsOnly d
  · exact .refl d

theorem log_recordsOnly (origin ctx cls obj old new detail : Nat) :
    RecordsOnly d (d.log origin ctx cls obj old new detail) :=
  (colPutMain_recordsOnly d _).trans (colDue_recordsOnly _)

theorem logOwed_recordsOnly (origin ctx cls obj old new detail : Nat) :
    RecordsOnly d (d.logOwed origin ctx cls obj old new detail) := by
  unfold logOwed
  split
  · exact log_recordsOnly _ _ _ _ _ _ _ _
  · exact col_recordsOnly d _

/-! ### A core that stops -/

@[simp] theorem coreStops_err (c : Nat) : (d.coreStops c).err = d.err := rfl
@[simp] theorem coreStops_mem (c : Nat) : (d.coreStops c).mem = d.mem := rfl
@[simp] theorem coreStops_cmem (c : Nat) : (d.coreStops c).cmem = d.cmem := rfl
@[simp] theorem coreStops_ctxs (c : Nat) : (d.coreStops c).ctxs = d.ctxs := rfl
@[simp] theorem coreStops_work (c : Nat) : (d.coreStops c).work = d.work := rfl
@[simp] theorem coreStops_lnk (c : Nat) : (d.coreStops c).lnk = d.lnk := rfl
@[simp] theorem healthy_coreStops (c k : Nat) : (d.coreStops c).healthy k = d.healthy k := rfl

theorem core_onCirc (f : Circ → Circ) (c : Nat) : (d.onCirc f).core c = d.core c := rfl
theorem core_withdraw (cs : List Nat) (c : Nat) : (d.withdraw cs).core c = d.core c := rfl

/-- Nothing of its program goes on: its queues are empty, it stands at the boundary, and it waits for no barrier and no FE. -/
theorem core_coreStops_self (c : Nat) : (d.coreStops c).core c =
    { d.core c with q := {}, seq := { (d.core c).seq with st := .atPhase, fe := none, bar := none } } := by
  unfold coreStops
  rw [core_onCirc, core_onCore_self, core_withdraw]

theorem core_coreStops_ne {c k : Nat} (h : k ≠ c) : (d.coreStops c).core k = d.core k := by
  unfold coreStops
  rw [core_onCirc, core_onCore_ne _ _ h.symm, core_withdraw]

theorem queue_coreStops_self (c : Nat) (u : CoreUnit) : (d.coreStops c).queue c u = [] := by
  rw [queue, core_coreStops_self]
  cases u <;> rfl

/-- Of its steps a parking leaves what the capture and the mask left, but for records and the stop of the core, and the CORE cause
stands. -/
theorem parkCore_recordsOnly (c kind : Nat) : ∃ t, RecordsOnly ((d.captureFault c kind).park c) t ∧
    flag t.err.irqStatus cCore = true ∧ d.parkCore c kind = t.coreStops c := by
  have hcause := (cause_recordsOnly (d.captureFault c kind) cCore).park c
  have hentry := logOwed_recordsOnly (((d.captureFault c kind).cause cCore).park c) 5 255 4 2 c c 0
  exact ⟨_, hcause.trans hentry, hentry.causes _ (flag_cause _ (by decide)), parkCore_eq d c kind⟩

end Dev

/-! ### What a core's fault leaves -/

open Dev

/-- Settles O40: a parking is the capture and the mask, records, which keep both, and the stop of the one core. -/
theorem faultParksTheCore : Obligations.FaultParksTheCore := by
  unfold Obligations.FaultParksTheCore
  intro d c kind
  obtain ⟨t, hrec, hcause, hpark⟩ := d.parkCore_recordsOnly c kind
  simp only [hpark, coreStops_err, coreStops_mem, coreStops_cmem, coreStops_ctxs, coreStops_work, coreStops_lnk,
    healthy_coreStops]
  refine ⟨?parked, ?others, hcause, hrec.errCore, t.queue_coreStops_self c, ?st, ?bar, ?fe, ?cores,
    hrec.mem, hrec.cmem, hrec.ctxs, hrec.work, hrec.lnk⟩
  case parked => rw [hrec.healthy, healthy_park_self]
  case others =>
    intro k hk
    rw [hrec.healthy, healthy_park_ne _ hk]
    rfl
  case st => rw [core_coreStops_self]
  case bar => rw [core_coreStops_self]
  case fe => rw [core_coreStops_self]
  case cores =>
    intro k hk
    rw [core_coreStops_ne _ hk, hrec.core]
    rfl

/-! ### The commands on faults -/

/-- A command that acts only on a powered station completes there with what its change makes of the station. -/
theorem becomes_of_live {i : Instr} {s : State} {f : Dev → Dev} {t : Dev} (hx : exec i s = s.on fun d => d.live f)
    (hp : s.dev.powered = true) (ht : f s.dev = t) : Becomes i s t := by
  rw [Becomes, hx, State.on_eq, live_on _ _ hp, ht]

namespace Dev

variable (d : Dev)

/-- A wait of the list that is reported no more often than it stands before its place is reported (R269). -/
theorem stallFound_eq {index : Nat} {w : Wait} (hw : d.waits[index]? = some w)
    (hn : (d.stillReported d.waits).count w.id ≤ ((d.waits.take index).map Wait.id).count w.id) :
    d.stallFound index = ((d.reach (w.since + 1000000 * fld d.sync.wdog 15 0 + 1)).onErr fun e => { e with
      reported := d.stillReported d.waits ++ [w.id] }).stallRecord w.kind w.unit w.core w.ctx w.object := by
  simp only [stallFound, hw]
  exact if_neg hn.not_gt

theorem popStall_eq : d.popStall =
    (d.err.stallList.headD 0, d.onErr fun e => { e with stallList := d.err.stallList.drop 1 }) := by
  unfold popStall
  cases h : d.err.stallList with
  | nil =>
    have hsame : (d.onErr fun e => { e with stallList := [] }) = d := by rw [← h]; rfl
    simp [hsame]
  | cons w ws => simp

/-- A read of ERR_STALL_LIST that reaches it takes the oldest record (R269, R301). -/
theorem readOut_stallList {org : Origin} (ho : bar0Ofs org 0x2004C = 0x2004C) (hr : d.reaches org 0x2004C = true) :
    d.readOut org 0x2004C false = (d.onErr fun e => { e with stallList := d.err.stallList.drop 1 }).emit
      (.regValue (d.err.stallList.headD 0).toNat) := by
  simp [readOut, ho, readBar0, hr, popStall_eq]

theorem coreFault_eq {c kind : Nat} (h1 : 1 ≤ kind) (h6 : kind ≤ 6) (hh : d.healthy c = true) (hs : d.pwr.stopped = false) :
    d.coreFault c kind = (d.spineAll.parkCore c kind).afterParking c := by
  have h0 : kind ≠ 0 := by omega
  have h7 : ¬kind ≥ 7 := by omega
  simp [coreFault, h0, h7, hh, hs]

/-- A write of the physical function that reaches a register it may write is made. -/
theorem pfOnly_fn0 {ofs : Nat} (f : Dev → Dev) (hr : d.reaches (.fn 0) ofs = true) (hs : d.sealedOff ofs = false) :
    d.pfOnly (.fn 0) ofs f = f d := by
  simp [pfOnly, written, unheard, hr, hs]

/-- The RETEST bit of a core is cleared. -/
def clearRetest (c : Nat) : Dev := d.onErr fun e => { e with retest := setBits e.retest c c 0 }

/-- A core that failed its test stays as it was, but for its RETEST bit (R338). -/
theorem retestEnd_failed {c : Nat} (hb : bitOf d.err.retest c = true) (hw : d.work.run = none) (hr : d.boot.restarting = false) :
    d.retestEnd c false = d.clearRetest c := by
  simp [retestEnd, hb, hw, hr, clearRetest]

/-- A parked core that passed its test is unparked behind its entry (R338). -/
theorem retestEnd_passed {c : Nat} (hb : bitOf d.err.retest c = true) (hw : d.work.run = none) (hr : d.boot.restarting = false)
    (hh : d.healthy c = false) (hroom : d.colRoom 1 = true) : d.retestEnd c true =
      clearRetest { d.log 5 255 4 3 c c 0 with flash := { (d.log 5 255 4 3 c c 0).flash with
        parked := setBits (d.log 5 255 4 3 c c 0).flash.parked c c 0 } } c := by
  simp [retestEnd, hb, hw, hr, hh, hroom, clearRetest]

/-- An error in control state is captured and raised, and stops a station that runs (R339). -/
theorem internalError_eq (leaf unit : Nat) (hs : d.pwr.stopped = false) : d.internalError leaf unit =
    (((((d.onErr fun e => { e with internal := capture e.internal (leaf % 2 * 2 ^ 30 + unit % 256) }).cause
      cInternal).emit .aer).stopStation 0 3 St.internalFault).onPwr fun p => { p with internalStop := true }) := by
  simp [internalError, cause_pwr, hs]

theorem leafTested_failed (hi : d.pwr.internalStop = true) :
    d.leafTested false = d.onPwr fun p => { p with internalStop := false } := by
  simp [leafTested, hi]

theorem leafTested_passed (hi : d.pwr.internalStop = true) : d.leafTested true = d.resumeStation.onErr fun e => { e with
    internal := if flag e.internal 31 then setFld e.internal 29 29 1 else e.internal } := by
  simp [leafTested, hi]

end Dev

/-- The test of a parked core that passes: the core leaves the parked mask, its RETEST bit is cleared, and the cores and the memory
stand (R338). -/
theorem coreRetest_passed {s : State} {core : CoreId} (hp : s.dev.powered = true) (hb : bitOf s.dev.err.retest core.val = true)
    (hw : s.dev.work.run = none) (hr : s.dev.boot.restarting = false) (hh : s.dev.healthy core.val = false)
    (hroom : s.dev.colRoom 1 = true) :
    ∃ t, exec (.coreRetest core true) s = .next t ∧ t.dev.flash.parked = setBits s.dev.flash.parked core.val core.val 0 ∧
      bitOf t.dev.err.retest core.val = false ∧ t.dev.cores = s.dev.cores ∧ t.dev.mem = s.dev.mem := by
  have hlog := log_recordsOnly s.dev 5 255 4 3 core.val core.val 0
  refine ⟨_, becomes_of_live rfl hp (retestEnd_passed _ hb hw hr hh hroom), ?_, ?_, hlog.cores, hlog.mem⟩
  · exact congrArg (setBits · core.val core.val 0) hlog.parked
  · simp [clearRetest, bitOf_setBits_bit]

/-- Settles O39: each command on a powered station is its operation, whose equation is used. -/
theorem faultCommandsComplete : Obligations.FaultCommandsComplete := by
  unfold Obligations.FaultCommandsComplete
  intro s core leaf hp
  refine ⟨?stall, ?stallList, ?fault, ?request, ?retest, ?internal, ?leafTest⟩
  case stall =>
    intro index w hw hn
    exact becomes_of_live rfl hp (stallFound_eq _ hw hn)
  case stallList =>
    intro org ho hr
    exact becomes_of_live rfl hp (readOut_stallList _ ho hr)
  case fault =>
    intro kind h1 h6 hh hs
    exact becomes_of_live rfl hp (coreFault_eq _ h1 h6 hh hs)
  case request =>
    intro v hr hs
    exact becomes_of_live rfl hp (pfOnly_fn0 _ _ hr hs)
  case retest =>
    intro hb hw hr
    exact ⟨becomes_of_live rfl hp (retestEnd_failed _ hb hw hr), coreRetest_passed hp hb hw hr⟩
  case internal =>
    intro unit hs
    exact becomes_of_live rfl hp (internalError_eq _ _ _ hs)
  case leafTest =>
    intro hi
    exact ⟨becomes_of_live rfl hp (leafTested_failed _ hi), becomes_of_live rfl hp (leafTested_passed _ hi)⟩

end Sys2Proof.Machine
end

section
/-! PROOFS. Rounding as nearness among the places of a rising sequence, the magnitudes that a layout's patterns stand for, and the statement
on rounding into the plain layouts (R24, R34). -/

namespace Sys2Proof.Machine

/-! ### Rounding to a place of a rising sequence -/

/-- The place `k` of a rising sequence `g` is where `a` rounds to, to nearest and ties to the even place: `a` lies between the middles
of `g k` and its two neighbours, and at one of these middles only if `k` is even. -/
structure RoundsTo (g : Nat → Rat) (a : Rat) (k : Nat) : Prop where
  below : ∀ j, j + 1 = k → g j + g k ≤ 2 * a
  below_tie : ∀ j, j + 1 = k → g j + g k = 2 * a → k % 2 = 0
  above : 2 * a ≤ g k + g (k + 1)
  above_tie : 2 * a = g k + g (k + 1) → k % 2 = 0

/-- A magnitude with a sign. -/
def signed (s : Bool) (a : Rat) : Rat := if s then -a else a

namespace RoundsTo

variable {g : Nat → Rat} {a : Rat} {k : Nat}

/-- What lies at or past the middle before an even place rounds to that place or to a later one. -/
theorem even_le_iff (hg : StrictMono g) (h : RoundsTo g a k) {i : Nat} (hi : (i + 1) % 2 = 0) :
    i + 1 ≤ k ↔ g i + g (i + 1) ≤ 2 * a := by
  constructor
  · intro hk
    obtain ⟨j, rfl⟩ : ∃ j, k = j + 1 := ⟨k - 1, by omega⟩
    have := h.below j rfl
    have := hg.monotone (show i ≤ j by omega)
    have := hg.monotone hk
    linarith
  · intro ha
    by_contra hk
    have h1 := hg.monotone (show k ≤ i by omega)
    have h2 := hg.monotone (show k + 1 ≤ i + 1 by omega)
    have htie : 2 * a = g k + g (k + 1) := le_antisymm h.above (by linarith)
    have hki : k = i := le_antisymm (by omega) (hg.le_iff_le.mp (by linarith))
    have := h.above_tie htie
    omega

/-- No place is nearer, and one as near is the same or leaves `k` even. -/
theorem nearest (hg : StrictMono g) (h : RoundsTo g a k) (j : Nat) :
    |a - g k| ≤ |a - g j| ∧ (|a - g k| = |a - g j| → g j = g k ∨ k % 2 = 0) := by
  rcases Nat.lt_trichotomy j k with hj | rfl | hj
  · obtain ⟨i, rfl⟩ : ∃ i, k = i + 1 := ⟨k - 1, by omega⟩
    have hji := hg.monotone (show j ≤ i by omega)
    have hjk := hg hj
    have hb := h.below i rfl
    have hfar : |a - g j| = a - g j := abs_of_nonneg (by linarith)
    rw [hfar, abs_le, abs_eq (by linarith)]
    refine ⟨⟨by linarith, by linarith⟩, fun ht => .inr (h.below_tie i rfl ?_)⟩
    rcases ht with ht | ht <;> linarith
  · exact ⟨le_rfl, fun _ => .inl rfl⟩
  · have hji := hg.monotone (show k + 1 ≤ j from hj)
    have hjk := hg hj
    have ha := h.above
    have hfar : |a - g j| = -(a - g j) := abs_of_nonpos (by linarith)
    rw [hfar, abs_le, abs_eq (by linarith)]
    refine ⟨⟨by linarith, by linarith⟩, fun ht => .inr (h.above_tie ?_)⟩
    rcases ht with ht | ht <;> linarith

end RoundsTo

theorem abs_signed_sub (s : Bool) (a b : Rat) : |signed s a - signed s b| = |a - b| := by
  cases s
  · rfl
  · rw [signed, signed, if_pos rfl, if_pos rfl, neg_sub_neg, abs_sub_comm]

theorem abs_signed (s : Bool) {a : Rat} (ha : 0 ≤ a) : |signed s a| = a := by
  cases s <;> simp [signed, abs_of_nonneg ha]

theorem abs_signed_sub_not (s : Bool) {a b : Rat} (ha : 0 ≤ a) (hb : 0 ≤ b) : |signed s a - signed (!s) b| = a + b := by
  have : signed s a - signed (!s) b = signed s (a + b) := by
    cases s
    · simp [signed]
    · simp only [signed, Bool.not_true, Bool.false_eq_true, if_true, if_false]; ring
  rw [this, abs_signed s (by linarith)]

/-- Rounding of the magnitude under the sign rounds among the values of both signs, of a sequence that starts at zero. -/
theorem RoundsTo.nearest_signed {g : Nat → Rat} {a : Rat} {k : Nat} (hg : StrictMono g) (h0 : g 0 = 0) (ha : 0 ≤ a)
    (h : RoundsTo g a k) (s t : Bool) (j : Nat) :
    |signed s a - signed s (g k)| ≤ |signed s a - signed t (g j)| ∧
    (|signed s a - signed s (g k)| = |signed s a - signed t (g j)| → signed t (g j) = signed s (g k) ∨ k % 2 = 0) := by
  rw [abs_signed_sub]
  by_cases hst : t = s
  · subst hst
    rw [abs_signed_sub]
    obtain ⟨hle, htie⟩ := h.nearest hg j
    exact ⟨hle, fun e => (htie e).imp_left (congrArg _)⟩
  · obtain rfl : t = !s := by cases s <;> cases t <;> simp_all
    have hj : 0 ≤ g j := h0 ▸ hg.monotone (Nat.zero_le j)
    obtain ⟨hle, htie⟩ := h.nearest hg 0
    rw [h0, sub_zero, abs_of_nonneg ha] at hle htie
    rw [abs_signed_sub_not s ha hj]
    refine ⟨by linarith, fun e => ?_⟩
    have hj0 : g j = 0 := by linarith
    refine (htie (by linarith)).imp_left fun hk => ?_
    rw [hj0, ← hk]
    cases s <;> simp [signed]

/-! ### The values of finite numbers -/

theorem FVal.rat_fin (s : Bool) (m : Nat) (e : Int) : (FVal.fin s m e).rat = signed s ((m : Rat) * (2 : Rat) ^ e) := by
  cases s <;> simp [FVal.rat, pow2_eq_zpow, signed]

theorem two_zpow_pos (q : Int) : (0 : Rat) < 2 ^ q := zpow_pos (by norm_num) q

theorem FVal.abs_rat_fin (s : Bool) (m : Nat) (e : Int) : |(FVal.fin s m e).rat| = m * 2 ^ e := by
  have := two_zpow_pos e
  rw [FVal.rat_fin, abs_signed s (by positivity)]

theorem two_zpow_add_nat (q : Int) (n : Nat) : (2 : Rat) ^ (q + n) = 2 ^ n * 2 ^ q := by
  rw [zpow_add₀ (by norm_num), zpow_natCast, mul_comm]

/-! ### The magnitudes of a layout -/

namespace Layout

variable (l : Layout)

/-- The value of a pattern without its sign, read as if no exponent field were too large. -/
def magnitude (k : Nat) : Rat := ((k - (k / 2 ^ l.fb - 1) * 2 ^ l.fb : Nat) : Rat) * 2 ^ (l.emin + (k / 2 ^ l.fb - 1 : Nat))

/-- Every pattern is a significand at an exponent field, counted from the subnormals' own. -/
theorem exists_significand (k : Nat) : ∃ n u, k = n * 2 ^ l.fb + u ∧ (n = 0 ∨ 2 ^ l.fb ≤ u) ∧ u < 2 * 2 ^ l.fb := by
  have hpos := Nat.two_pow_pos l.fb
  have hdm := Nat.div_add_mod k (2 ^ l.fb)
  have hmod := Nat.mod_lt k hpos
  rcases h : k / 2 ^ l.fb with _ | n
  · exact ⟨0, k, by simp, .inl rfl, by rw [h] at hdm; omega⟩
  · refine ⟨n, 2 ^ l.fb + k % 2 ^ l.fb, ?_, .inr (Nat.le_add_right _ _), by omega⟩
    rw [h, mul_comm, Nat.succ_mul] at hdm
    omega

/-- A significand with its unit; one that has just outgrown its exponent is the first of the next. -/
theorem magnitude_add {n u : Nat} (h : n = 0 ∨ 2 ^ l.fb ≤ u) (hu : u ≤ 2 * 2 ^ l.fb) :
    l.magnitude (n * 2 ^ l.fb + u) = u * 2 ^ (l.emin + n) := by
  have hpos := Nat.two_pow_pos l.fb
  have hdiv : (n * 2 ^ l.fb + u) / 2 ^ l.fb = n + u / 2 ^ l.fb := by
    rw [mul_comm, Nat.mul_add_div hpos]
  rcases Nat.lt_or_ge u (2 ^ l.fb) with hlt | hge
  · obtain rfl : n = 0 := h.resolve_right (by omega)
    simp [magnitude, Nat.div_eq_of_lt hlt]
  · rcases Nat.lt_or_ge u (2 * 2 ^ l.fb) with hlt | hge2
    · have h1 : u / 2 ^ l.fb = 1 := Nat.div_eq_of_lt_le (by omega) (by omega)
      rw [magnitude, hdiv, h1, Nat.add_sub_cancel, Nat.add_sub_cancel_left]
    · obtain rfl : u = 2 * 2 ^ l.fb := le_antisymm hu hge2
      have hsub : n * 2 ^ l.fb + 2 * 2 ^ l.fb - (n + 1) * 2 ^ l.fb = 2 ^ l.fb := by
        rw [← Nat.add_mul, ← Nat.sub_mul, show n + 2 - (n + 1) = 1 by omega, one_mul]
      rw [magnitude, hdiv, Nat.mul_div_cancel _ hpos, show n + 2 - 1 = n + 1 by omega, hsub, Nat.cast_add, ← add_assoc,
        two_zpow_add_nat _ 1]
      push_cast
      ring

@[simp] theorem magnitude_zero : l.magnitude 0 = 0 := by simp [magnitude]

/-- From a pattern to the next there is at least the unit of every exponent that is not above the pattern's own. -/
theorem magnitude_step {n u : Nat} (h : n = 0 ∨ 2 ^ l.fb ≤ u) (hu : u ≤ 2 * 2 ^ l.fb) :
    (u + 1) * 2 ^ (l.emin + n) ≤ l.magnitude (n * 2 ^ l.fb + u + 1) := by
  have hpos := Nat.two_pow_pos l.fb
  rcases hu.lt_or_eq with hlt | rfl
  · rw [add_assoc, l.magnitude_add (h.imp_right fun h => by omega) hlt, Nat.cast_succ]
  · have hk : n * 2 ^ l.fb + 2 * 2 ^ l.fb + 1 = (n + 1) * 2 ^ l.fb + (2 ^ l.fb + 1) := by ring
    rw [hk, l.magnitude_add (.inr (by omega)) (by omega), Nat.cast_succ n, ← add_assoc, ← Nat.cast_one (R := Int),
      two_zpow_add_nat _ 1]
    have := two_zpow_pos (l.emin + n)
    push_cast
    nlinarith

/-- The pattern before another is one unit below it, unless it is the last of a smaller unit. -/
theorem magnitude_before {n u j : Nat} (h : n = 0 ∨ 2 ^ l.fb ≤ u) (hu : u ≤ 2 * 2 ^ l.fb) (hj : j + 1 = n * 2 ^ l.fb + u) :
    l.magnitude j = (u - 1) * 2 ^ (l.emin + n) ∨ (n ≠ 0 ∧ u = 2 ^ l.fb) := by
  have hpos := Nat.two_pow_pos l.fb
  rcases Nat.eq_zero_or_pos u with rfl | hu0
  · obtain rfl : n = 0 := h.resolve_right (by omega)
    rw [Nat.zero_mul] at hj
    omega
  obtain ⟨w, rfl⟩ : ∃ w, u = w + 1 := ⟨u - 1, by omega⟩
  by_cases hw : n = 0 ∨ 2 ^ l.fb ≤ w
  · left
    obtain rfl : j = n * 2 ^ l.fb + w := by omega
    rw [l.magnitude_add hw (by omega), Nat.cast_succ, add_sub_cancel_right]
  · right
    omega

theorem magnitude_strictMono : StrictMono l.magnitude := by
  refine strictMono_nat_of_lt_succ fun k => ?_
  obtain ⟨n, u, rfl, h, hu⟩ := l.exists_significand k
  have hstep := l.magnitude_step h hu.le
  rw [l.magnitude_add h hu.le]
  have := two_zpow_pos (l.emin + n)
  linarith

end Layout

/-! ### Rounding to whole units -/

/-- In whole numbers: a finer value's units are within half a unit of it, and half a unit away only if they are even. -/
theorem rneUnits_finer (m : Nat) (e : Int) {n : Nat} (hn : n ≠ 0) :
    2 * (2 ^ n * rneUnits m e (e + n)) ≤ 2 * m + 2 ^ n ∧ 2 * m ≤ 2 * (2 ^ n * rneUnits m e (e + n)) + 2 ^ n ∧
    (2 * (2 ^ n * rneUnits m e (e + n)) = 2 * m + 2 ^ n ∨ 2 * m = 2 * (2 ^ n * rneUnits m e (e + n)) + 2 ^ n →
      rneUnits m e (e + n) % 2 = 0) := by
  have hdm := Nat.div_add_mod m (2 ^ n)
  have hr := Nat.mod_lt m (Nat.two_pow_pos n)
  have he : ¬ e ≥ e + n := by omega
  simp only [rneUnits, if_neg he, add_sub_cancel_left, Int.toNat_natCast, Bool.or_eq_true, Bool.and_eq_true, decide_eq_true_eq]
  split
  · rw [Nat.mul_succ]; omega
  · omega

/-- The number of units is within half a unit, and half a unit away only if it is even. -/
theorem rneUnits_spec (m : Nat) (e q : Int) :
    (2 * rneUnits m e q - 1) * 2 ^ q ≤ 2 * ((m : Rat) * 2 ^ e) ∧ 2 * ((m : Rat) * 2 ^ e) ≤ (2 * rneUnits m e q + 1) * 2 ^ q ∧
    ((2 * rneUnits m e q - 1) * 2 ^ q = 2 * ((m : Rat) * 2 ^ e) ∨ 2 * ((m : Rat) * 2 ^ e) = (2 * rneUnits m e q + 1) * 2 ^ q →
      rneUnits m e q % 2 = 0) := by
  by_cases he : e ≥ q
  · have hq := two_zpow_pos q
    have hexact : (m : Rat) * 2 ^ e = rneUnits m e q * 2 ^ q := by
      obtain ⟨n, rfl⟩ := Int.le.dest he
      rw [rneUnits, if_pos he, two_zpow_add_nat, add_sub_cancel_left, Int.toNat_natCast]
      push_cast
      ring
    rw [hexact]
    exact ⟨by linarith, by linarith, fun h => by rcases h with h | h <;> linarith⟩
  · obtain ⟨n, rfl⟩ := Int.le.dest (not_le.mp he).le
    have hx := two_zpow_pos e
    obtain ⟨hlo, hhi, htie⟩ := rneUnits_finer m e (n := n) (by omega)
    generalize rneUnits m e (e + n) = u at *
    rw [two_zpow_add_nat]
    have hlo' : 2 * (2 ^ n * (u : Rat)) ≤ 2 * m + 2 ^ n := by exact_mod_cast hlo
    have hhi' : 2 * (m : Rat) ≤ 2 * (2 ^ n * u) + 2 ^ n := by exact_mod_cast hhi
    have hlo'' := mul_le_mul_of_nonneg_right hlo' hx.le
    have hhi'' := mul_le_mul_of_nonneg_right hhi' hx.le
    refine ⟨by linarith, by linarith, fun h => htie (h.imp (fun h => ?_) fun h => ?_)⟩
    · have : 2 * (2 ^ n * (u : Rat)) = 2 * m + 2 ^ n := mul_right_cancel₀ hx.ne' (by linarith)
      exact_mod_cast this
    · have : 2 * (m : Rat) = 2 * (2 ^ n * u) + 2 ^ n := mul_right_cancel₀ hx.ne' (by linarith)
      exact_mod_cast this

namespace Layout

variable (l : Layout)

theorem emin_le_unit (m : Nat) (e : Int) : l.emin ≤ l.unit m e := by
  unfold unit
  split
  · exact le_rfl
  · exact le_max_left _ _

/-- Above the lowest unit a value has all its significant bits. -/
theorem unit_eq_emin_or_le (m : Nat) (e : Int) :
    l.unit m e = l.emin ∨ 2 ^ l.fb * 2 ^ l.unit m e ≤ (m : Rat) * 2 ^ e := by
  unfold unit
  split
  · exact .inl rfl
  · next hm =>
    refine (max_choice l.emin (m.log2 + e - l.fb)).imp_right fun h => ?_
    have hlog : (2 : Rat) ^ m.log2 ≤ m := by exact_mod_cast Nat.log2_self_le hm
    rw [h, ← two_zpow_add_nat, sub_add_cancel, add_comm, two_zpow_add_nat]
    exact mul_le_mul_of_nonneg_right hlog (two_zpow_pos e).le

/-- No value has more significant bits than its unit leaves room for. -/
theorem lt_unit (m : Nat) (e : Int) : (m : Rat) * 2 ^ e < 2 * 2 ^ l.fb * 2 ^ l.unit m e := by
  rcases Nat.eq_zero_or_pos m with rfl | hm
  · have := two_zpow_pos (l.unit 0 e)
    rw [Nat.cast_zero, zero_mul]
    positivity
  · have hlog : (m : Rat) < 2 ^ (m.log2 + 1) := by exact_mod_cast Nat.lt_log2_self
    have hunit : (m.log2 : Int) + e - l.fb ≤ l.unit m e := by
      rw [unit, if_neg hm.ne']
      exact le_max_right _ _
    calc (m : Rat) * 2 ^ e
        < 2 ^ (m.log2 + 1) * 2 ^ e := mul_lt_mul_of_pos_right hlog (two_zpow_pos e)
      _ = 2 ^ (e + m.log2 + 1) := by rw [← two_zpow_add_nat, Nat.cast_succ, add_assoc]
      _ ≤ 2 ^ (l.unit m e + (l.fb + 1 : Nat)) := zpow_le_zpow_right₀ (by norm_num) (by push_cast; omega)
      _ = 2 * 2 ^ l.fb * 2 ^ l.unit m e := by rw [two_zpow_add_nat, pow_succ, mul_comm 2]

/-- The significand of a rounded value, in its units. -/
def significand (m : Nat) (e : Int) : Nat := rneUnits m e (l.unit m e)

/-- The pattern, without its sign, to which a value rounds were there no largest exponent. -/
def place (m : Nat) (e : Int) : Nat := (l.unit m e - l.emin).toNat * 2 ^ l.fb + l.significand m e

/-- The significand of a rounded value fills its exponent, or outgrows it by the last unit. -/
theorem significand_bounds (m : Nat) (e : Int) :
    (l.unit m e = l.emin ∨ 2 ^ l.fb ≤ l.significand m e) ∧ l.significand m e ≤ 2 * 2 ^ l.fb := by
  obtain ⟨hlo, hhi, -⟩ := rneUnits_spec m e (l.unit m e)
  rw [← significand] at hlo hhi
  have hlt := l.lt_unit m e
  have hq := two_zpow_pos (l.unit m e)
  constructor
  · refine (l.unit_eq_emin_or_le m e).imp_right fun hle => ?_
    have h : (2 * 2 ^ l.fb : Rat) ≤ 2 * l.significand m e + 1 := le_of_mul_le_mul_right (by linarith) hq
    have h' : 2 * 2 ^ l.fb ≤ 2 * l.significand m e + 1 := by exact_mod_cast h
    omega
  · have h : (2 * l.significand m e - 1 : Rat) < 2 * (2 * 2 ^ l.fb) := lt_of_mul_lt_mul_right (by linarith) hq.le
    have h' : 2 * l.significand m e < 2 * (2 * 2 ^ l.fb) + 1 := by
      rw [sub_lt_iff_lt_add] at h
      exact_mod_cast h
    omega

/-- A value rounds to the nearest place of its layout's magnitudes, ties to even. -/
theorem place_roundsTo (hf : l.fb ≠ 0) (m : Nat) (e : Int) : RoundsTo l.magnitude (m * 2 ^ e) (l.place m e) := by
  obtain ⟨hlo, hhi, htie⟩ := rneUnits_spec m e (l.unit m e)
  rw [← significand] at hlo hhi htie
  obtain ⟨hfull, hu⟩ := l.significand_bounds m e
  obtain ⟨n, hn⟩ := Int.le.dest (l.emin_le_unit m e)
  have hplace : l.place m e = n * 2 ^ l.fb + l.significand m e := by
    rw [place, ← hn, add_sub_cancel_left, Int.toNat_natCast]
  have hnorm : n = 0 ∨ 2 ^ l.fb ≤ l.significand m e := hfull.imp_left fun h => by omega
  have heven : l.place m e % 2 = l.significand m e % 2 := by
    have : 2 ∣ n * 2 ^ l.fb := (dvd_pow_self 2 hf).mul_left n
    omega
  have hmag := l.magnitude_add hnorm hu
  have hstep := l.magnitude_step hnorm hu
  rw [hn, ← hplace] at hmag hstep
  have hbefore : ∀ j, j + 1 = l.place m e → l.magnitude j = (l.significand m e - 1) * 2 ^ l.unit m e ∨
      (l.magnitude j < l.magnitude (l.place m e) ∧ l.magnitude (l.place m e) ≤ m * 2 ^ e) := by
    intro j hj
    have h := l.magnitude_before hnorm hu (hj.trans hplace)
    rw [hn] at h
    refine h.imp_right fun ⟨hn0, hpow⟩ => ⟨l.magnitude_strictMono (by omega), ?_⟩
    rw [hmag, hpow, Nat.cast_pow, Nat.cast_two]
    exact (l.unit_eq_emin_or_le m e).resolve_left (by omega)
  constructor
  case below =>
    intro j hj
    rcases hbefore j hj with h | ⟨hlt, hle⟩
    · linarith
    · linarith
  case below_tie =>
    intro j hj ht
    rcases hbefore j hj with h | ⟨hlt, hle⟩
    · exact heven.trans (htie (.inl (by linarith)))
    · linarith
  case above => linarith
  case above_tie => exact fun ht => heven.trans (htie (.inr (by linarith)))

end Layout

/-! ### The patterns of a layout -/

namespace Layout

variable (l : Layout)

/-- The pattern of a sign and of the bits below it. -/
def pattern (s : Bool) (k : Nat) : Nat := b2n s * 2 ^ (l.eb + l.fb) + k

/-- The bits of infinity below its sign: the first pattern that is not finite. -/
def infPlace : Nat := l.top * 2 ^ l.fb

theorem infBits_eq (s : Bool) : l.infBits s = l.pattern s l.infPlace := rfl

/-- Every pattern of a layout's width is a sign and the bits below it. -/
theorem exists_pattern {x : Nat} (hx : x < 2 ^ (l.eb + l.fb + 1)) : ∃ s k, k < 2 ^ (l.eb + l.fb) ∧ x = l.pattern s k := by
  rw [pow_succ] at hx
  rcases Nat.lt_or_ge x (2 ^ (l.eb + l.fb)) with h | h
  · exact ⟨false, x, h, by simp [pattern, b2n]⟩
  · exact ⟨true, x - 2 ^ (l.eb + l.fb), by omega, by simp [pattern, b2n]; omega⟩

theorem pattern_lt (s : Bool) {k : Nat} (hk : k < 2 ^ (l.eb + l.fb)) : l.pattern s k < 2 ^ (l.eb + l.fb + 1) := by
  rw [pow_succ]
  cases s <;> simp [pattern, b2n] <;> omega

theorem pattern_mod_two (hf : l.fb ≠ 0) (s : Bool) (k : Nat) : l.pattern s k % 2 = k % 2 := by
  have : 2 ∣ b2n s * 2 ^ (l.eb + l.fb) := (dvd_pow_self 2 (by omega)).mul_left _
  rw [pattern]
  omega

theorem infPlace_lt : l.infPlace < 2 ^ (l.eb + l.fb) := by
  rw [infPlace, top, pow_add]
  exact Nat.mul_lt_mul_of_pos_right (Nat.pred_lt (Nat.two_pow_pos _).ne') (Nat.two_pow_pos _)

theorem bitOf_pattern (s : Bool) {k : Nat} (hk : k < 2 ^ (l.eb + l.fb)) : bitOf (l.pattern s k) (l.eb + l.fb) = s := by
  rw [bitOf, pattern, mul_comm, Nat.mul_add_div (Nat.two_pow_pos _), Nat.div_eq_of_lt hk]
  cases s <;> rfl

theorem pattern_mod (s : Bool) (k : Nat) : l.pattern s k % 2 ^ l.fb = k % 2 ^ l.fb := by
  rw [pattern, pow_add, ← mul_assoc, Nat.mul_add_mod']

/-- The exponent field of a pattern. -/
theorem bitsOf_pattern (he : l.eb ≠ 0) (s : Bool) {k : Nat} (hk : k < 2 ^ (l.eb + l.fb)) :
    bitsOf (l.pattern s k) (l.eb + l.fb - 1) l.fb = k / 2 ^ l.fb := by
  have hw : l.eb + l.fb - 1 + 1 - l.fb = l.eb := by omega
  have hlt : k / 2 ^ l.fb < 2 ^ l.eb := Nat.div_lt_of_lt_mul (by rwa [← pow_add, add_comm l.fb])
  have hp : l.pattern s k = 2 ^ l.fb * (2 ^ l.eb * b2n s) + k := by rw [pattern, pow_add]; ring
  rw [bitsOf, hw, hp, Nat.mul_add_div (Nat.two_pow_pos _), Nat.mul_add_mod, Nat.mod_eq_of_lt hlt]

/-- The value of a pattern whose exponent field is not all ones. -/
theorem decode_finite (he : l.eb ≠ 0) (s : Bool) {k : Nat} (hk : k < l.infPlace) : l.decode (l.pattern s k) =
    .fin s (k - (k / 2 ^ l.fb - 1) * 2 ^ l.fb) (l.emin + (k / 2 ^ l.fb - 1 : Nat)) := by
  have hk' := hk.trans l.infPlace_lt
  have hdm := Nat.div_add_mod k (2 ^ l.fb)
  have htop : k / 2 ^ l.fb ≠ l.top := (Nat.div_lt_of_lt_mul (by rwa [mul_comm])).ne
  simp only [decode, bitOf_pattern l s hk', bitsOf_pattern l he s hk', pattern_mod, if_neg htop]
  rcases h : k / 2 ^ l.fb with _ | n
  · rw [h] at hdm
    have hf : k % 2 ^ l.fb = k := by omega
    simp [hf]
  · rw [h, mul_comm, Nat.succ_mul] at hdm
    have hf : 2 ^ l.fb + k % 2 ^ l.fb = k - n * 2 ^ l.fb := by omega
    simp [hf, ← add_assoc]

theorem decode_infinite (he : l.eb ≠ 0) (s : Bool) : l.decode (l.pattern s l.infPlace) = .inf s := by
  have htop : l.infPlace / 2 ^ l.fb = l.top := Nat.mul_div_cancel _ (Nat.two_pow_pos _)
  have hmod : l.infPlace % 2 ^ l.fb = 0 := Nat.mul_mod_left _ _
  simp [decode, bitOf_pattern l s l.infPlace_lt, bitsOf_pattern l he s l.infPlace_lt, pattern_mod, htop, hmod]

theorem isFinite_decode_pattern (he : l.eb ≠ 0) (s : Bool) {k : Nat} (hk : k < l.infPlace) :
    (l.decode (l.pattern s k)).isFinite = true := by
  rw [l.decode_finite he s hk, FVal.isFinite]

theorem rat_decode_pattern (he : l.eb ≠ 0) (s : Bool) {k : Nat} (hk : k < l.infPlace) :
    (l.decode (l.pattern s k)).rat = signed s (l.magnitude k) := by
  rw [l.decode_finite he s hk, FVal.rat_fin, magnitude]

/-- A finite value's pattern is below infinity's. -/
theorem lt_infPlace_of_isFinite (he : l.eb ≠ 0) {s : Bool} {k : Nat} (hk : k < 2 ^ (l.eb + l.fb))
    (h : (l.decode (l.pattern s k)).isFinite = true) : k < l.infPlace := by
  by_contra hge
  have hlt : k / 2 ^ l.fb < 2 ^ l.eb := Nat.div_lt_of_lt_mul (by rwa [← pow_add, add_comm l.fb])
  have hle : l.top ≤ k / 2 ^ l.fb := (Nat.le_div_iff_mul_le (Nat.two_pow_pos _)).mpr (not_lt.mp hge)
  have htop : k / 2 ^ l.fb = l.top := by unfold top at *; omega
  rw [decode, l.bitsOf_pattern he s hk, if_pos htop] at h
  split at h <;> simp [FVal.isFinite] at h

/-- A finite value is encoded as the pattern of the place that it rounds to, or of infinity where that is past it. -/
theorem encode_fin (he : l.eb ≠ 0) (s : Bool) (m : Nat) (e : Int) :
    l.encode (.fin s m e) = l.pattern s (min (l.place m e) l.infPlace) := by
  have htop : 2 ^ l.fb ≤ l.infPlace := Nat.le_mul_of_pos_left _ (Nat.sub_pos_of_lt (Nat.one_lt_two_pow he))
  obtain ⟨hfull, -⟩ := l.significand_bounds m e
  simp only [encode]
  split
  · next hu =>
    have hplace : l.place m e = l.significand m e := by
      rw [place, hfull.resolve_right hu.not_ge, sub_self, Int.toNat_zero, Nat.zero_mul, Nat.zero_add]
    rw [min_eq_left (hplace ▸ hu.le.trans htop), hplace, pattern, significand]
  · split
    · next h => rw [show min (l.place m e) l.infPlace = l.infPlace from min_eq_right h, infBits_eq]
    · next h => rw [show min (l.place m e) l.infPlace = l.place m e from min_eq_left (not_le.mp h).le, pattern, place, significand]

/-! ### Rounding into a layout -/

/-- A value rounds to an even place or past it when its magnitude reaches the middle before that place. -/
theorem le_place_iff (hf : l.fb ≠ 0) {n u : Nat} (h : n = 0 ∨ 2 ^ l.fb ≤ u) (hu : u < 2 * 2 ^ l.fb) (hodd : u % 2 = 1) (m : Nat) (e : Int) :
    n * 2 ^ l.fb + u + 1 ≤ l.place m e ↔ (2 * u + 1) * 2 ^ (l.emin + n) ≤ 2 * ((m : Rat) * 2 ^ e) := by
  have heven : (n * 2 ^ l.fb + u + 1) % 2 = 0 := by
    have : 2 ∣ n * 2 ^ l.fb := (dvd_pow_self 2 hf).mul_left n
    omega
  have hmid : l.magnitude (n * 2 ^ l.fb + u) + l.magnitude (n * 2 ^ l.fb + u + 1) = (2 * u + 1) * 2 ^ (l.emin + n) := by
    rw [add_assoc _ u 1, l.magnitude_add h hu.le, l.magnitude_add (h.imp_right fun h => by omega) hu, Nat.cast_succ]
    ring
  rw [(l.place_roundsTo hf m e).even_le_iff l.magnitude_strictMono heven, hmid]

theorem two_pow_fb_even (hf : l.fb ≠ 0) : 2 ^ l.fb % 2 = 0 := Nat.mod_eq_zero_of_dvd (dvd_pow_self 2 hf)

/-- A value overflows when its magnitude reaches the largest finite one and half a unit more. -/
theorem infPlace_le_place_iff (he : 2 ≤ l.eb) (hf : l.fb ≠ 0) (m : Nat) (e : Int) :
    l.infPlace ≤ l.place m e ↔ ((2 : Rat) ^ (l.fb + 2) - 1) * (2 : Rat) ^ (l.emin + l.top - 3) ≤ m * 2 ^ e := by
  have hpos := Nat.two_pow_pos l.fb
  obtain ⟨t, ht⟩ : ∃ t, l.top = t + 2 := by
    have : 2 ^ 2 ≤ 2 ^ l.eb := Nat.pow_le_pow_right (by omega) he
    exact ⟨l.top - 2, by unfold top; omega⟩
  obtain ⟨u, hu⟩ : ∃ u, 2 * 2 ^ l.fb = u + 1 := ⟨2 * 2 ^ l.fb - 1, by omega⟩
  have hplace : l.infPlace = t * 2 ^ l.fb + u + 1 := by rw [infPlace, ht, Nat.add_mul, hu, add_assoc]
  have hu' : (u : Rat) = 2 * 2 ^ l.fb - 1 := by rw [eq_sub_iff_add_eq]; exact_mod_cast hu.symm
  have hexp : (2 : Rat) ^ (l.emin + t) = 2 * 2 ^ (l.emin + l.top - 3) := by
    rw [← zpow_one_add₀ (by norm_num), ht]
    congr 1
    push_cast
    ring
  rw [hplace, l.le_place_iff hf (.inr (by omega)) (by omega) (by omega), hexp, hu', pow_add]
  constructor <;> intro h <;> linarith

/-- A value is normal after its rounding when its magnitude reaches the smallest normal one less half a unit. -/
theorem two_pow_fb_le_place_iff (hf : l.fb ≠ 0) (m : Nat) (e : Int) :
    2 ^ l.fb ≤ l.place m e ↔ (2 ^ (l.fb + 1) - 1 : Rat) * 2 ^ l.emin ≤ 2 * (m * 2 ^ e) := by
  have heven := l.two_pow_fb_even hf
  obtain ⟨u, hu⟩ : ∃ u, 2 ^ l.fb = u + 1 := ⟨2 ^ l.fb - 1, by have := Nat.two_pow_pos l.fb; omega⟩
  have hu' : (2 : Rat) ^ (l.fb + 1) - 1 = 2 * u + 1 := by
    have : (2 : Rat) ^ l.fb = u + 1 := by exact_mod_cast hu
    rw [pow_succ, this]
    ring
  have h := l.le_place_iff hf (n := 0) (u := u) (.inl rfl) (by omega) (by omega) m e
  rwa [Nat.zero_mul, Nat.zero_add, ← hu, Nat.cast_zero, add_zero, ← hu'] at h

/-- The pattern of a place below infinity's is the nearest of all finite ones, and where another is as near it is even. -/
theorem encode_nearest (he : l.eb ≠ 0) (hf : l.fb ≠ 0) {s : Bool} {m : Nat} {e : Int} (hlt : l.place m e < l.infPlace) :
    let v := (FVal.fin s m e).rat
    let r := l.pattern s (l.place m e)
    (l.decode r).isFinite = true ∧
      ∀ y < 2 ^ (l.eb + l.fb + 1), (l.decode y).isFinite = true →
        |v - (l.decode r).rat| ≤ |v - (l.decode y).rat| ∧
        (|v - (l.decode r).rat| = |v - (l.decode y).rat| → (l.decode y).rat = (l.decode r).rat ∨ r % 2 = 0) := by
  refine ⟨l.isFinite_decode_pattern he s hlt, fun y hy hfin => ?_⟩
  obtain ⟨t, j, hj, rfl⟩ := l.exists_pattern hy
  have hjlt := l.lt_infPlace_of_isFinite he hj hfin
  rw [FVal.rat_fin, l.rat_decode_pattern he s hlt, l.rat_decode_pattern he t hjlt, l.pattern_mod_two hf]
  have hpos := two_zpow_pos e
  exact (l.place_roundsTo hf m e).nearest_signed l.magnitude_strictMono l.magnitude_zero (by positivity) s t j

end Layout

/-- Settles O59: an encoded value is the pattern of the place that its magnitude rounds to. -/
theorem roundingIsToNearestEven : Obligations.RoundingIsToNearestEven := by
  unfold Obligations.RoundingIsToNearestEven
  intro l hl s m e r hr
  have hw : ∀ l ∈ [lay32, layBf16, layFp16, layW19], 2 ≤ l.eb ∧ l.fb ≠ 0 := by decide
  obtain ⟨he2, hf⟩ := hw l hl
  have he : l.eb ≠ 0 := by omega
  rw [l.encode_fin he] at hr
  subst hr
  dsimp only
  rw [FVal.abs_rat_fin, ← l.infPlace_le_place_iff he2 hf]
  refine ⟨l.pattern_lt s ((min_le_right _ _).trans_lt l.infPlace_lt), ?_⟩
  rcases Nat.lt_or_ge (l.place m e) l.infPlace with hlt | hge
  · have hnear := l.encode_nearest he hf (s := s) hlt
    rw [min_eq_left hlt.le]
    refine ⟨iff_of_false (fun h => ?_) hlt.not_ge, fun _ => hnear⟩
    have := l.isFinite_decode_pattern he s hlt
    rw [h] at this
    cases this
  · rw [min_eq_right hge, l.decode_infinite he]
    exact ⟨iff_of_true rfl hge, fun h => absurd rfl h⟩

end Sys2Proof.Machine
end

section
/-! PROOFS. Exact products and sums, their rounding to an FP32 word with its flush, and the statement on the accumulator (R30). -/

namespace Sys2Proof.Machine

/-! ### Exact sums and products -/

theorem sign_of_signed_ne_zero {s : Bool} {a : Rat} (ha : 0 ≤ a) (h : signed s a ≠ 0) : s = decide (signed s a < 0) := by
  cases s
  · simp [signed, ha]
  · have : 0 < a := lt_of_le_of_ne ha fun e => h (by simp [signed, ← e])
    simp [signed, this]

namespace FVal

theorem eq_fin_of_isFinite {x : FVal} (h : x.isFinite = true) : ∃ s m e, x = .fin s m e := by
  cases x with
  | fin s m e => exact ⟨s, m, e, rfl⟩
  | nan | inf => simp [isFinite] at h

/-- The sign of a number that is not zero. -/
theorem sign_eq {s : Bool} {m : Nat} {e : Int} (h : (fin s m e).rat ≠ 0) : s = decide ((fin s m e).rat < 0) := by
  rw [rat_fin] at *
  have := two_zpow_pos e
  exact sign_of_signed_ne_zero (by positivity) h

theorem units_mul (s : Bool) (m : Nat) {e q : Int} (h : q ≤ e) : (units s m e q : Rat) * 2 ^ q = (fin s m e).rat := by
  obtain ⟨n, rfl⟩ := Int.le.dest h
  rw [rat_fin, two_zpow_add_nat]
  cases s <;> simp [units, signed] <;> ring

/-- The exact product of two finite values. -/
theorem mul_finite {x y : FVal} (hx : x.isFinite = true) (hy : y.isFinite = true) :
    (x.mul y).isFinite = true ∧ (x.mul y).rat = x.rat * y.rat := by
  obtain ⟨s, m, e, rfl⟩ := eq_fin_of_isFinite hx
  obtain ⟨t, n, f, rfl⟩ := eq_fin_of_isFinite hy
  refine ⟨rfl, ?_⟩
  simp only [mul, rat_fin]
  rw [zpow_add₀ (by norm_num)]
  cases s <;> cases t <;> simp [signed] <;> ring

/-- The exact sum of two finite values. -/
theorem add_finite {x y : FVal} (hx : x.isFinite = true) (hy : y.isFinite = true) :
    (x.add y).isFinite = true ∧ (x.add y).rat = x.rat + y.rat := by
  obtain ⟨s, m, e, rfl⟩ := eq_fin_of_isFinite hx
  obtain ⟨t, n, f, rfl⟩ := eq_fin_of_isFinite hy
  rw [← units_mul s m (min_le_left e f), ← units_mul t n (min_le_right e f), ← add_mul]
  norm_cast
  simp only [add]
  generalize units s m e (min e f) + units t n f (min e f) = v
  split
  · next hv => simp [isFinite, rat_fin, signed, hv]
  · refine ⟨rfl, ?_⟩
    rw [rat_fin, Nat.cast_natAbs]
    rcases lt_or_ge v 0 with hneg | hpos
    · simp [signed, hneg, abs_of_neg hneg]
    · simp [signed, hpos.not_gt, abs_of_nonneg hpos]

theorem add_nan (x : FVal) : x.add .nan = .nan := by cases x <;> rfl

end FVal

/-! ### FP32 words -/

/-- The flush of a pattern leaves the sign and what is not subnormal (R37). -/
theorem Layout.flush_pattern (l : Layout) (he : l.eb ≠ 0) (s : Bool) {k : Nat} (hk : k < 2 ^ (l.eb + l.fb)) :
    l.flush (l.pattern s k) = l.pattern s (if k < 2 ^ l.fb then 0 else k) := by
  have hpos := Nat.two_pow_pos l.fb
  rw [flush, isSub, l.bitsOf_pattern he s hk, l.pattern_mod, l.bitOf_pattern s hk]
  by_cases hlt : k < 2 ^ l.fb
  · rcases Nat.eq_zero_or_pos k with rfl | hk0
    · simp
    · simp [Nat.div_eq_of_lt hlt, Nat.mod_eq_of_lt hlt, hlt, hk0.ne', pattern]
  · have : k / 2 ^ l.fb ≠ 0 := by rw [Nat.div_ne_zero_iff]; omega
    simp [this, hlt]

/-- A finite value rounded to FP32 is its place's pattern, with a subnormal flushed and infinity past the largest place. -/
theorem toF32_fin_toNat (s : Bool) (m : Nat) (e : Int) : (toF32 (.fin s m e)).toNat =
    lay32.pattern s (if lay32.place m e < 2 ^ 23 then 0 else min (lay32.place m e) lay32.infPlace) := by
  have hk : min (lay32.place m e) lay32.infPlace < 2 ^ (lay32.eb + lay32.fb) :=
    (min_le_right _ _).trans_lt lay32.infPlace_lt
  have hsub : min (lay32.place m e) lay32.infPlace < 2 ^ lay32.fb ↔ lay32.place m e < 2 ^ 23 := by
    have : ¬ lay32.infPlace < 2 ^ 23 := by decide
    rw [min_lt_iff]
    exact or_iff_left this
  rw [toF32, lay32.encode_fin (by decide), lay32.flush_pattern (by decide) s hk, word, BitVec.toNat_ofNat]
  simp only [hsub]
  refine Nat.mod_eq_of_lt (lay32.pattern_lt s ?_)
  split
  · decide
  · exact hk

/-- A sum overflows in its rounding to FP32 from half a unit above the largest number on. -/
theorem infPlace_le_place32_iff (m : Nat) (e : Int) :
    lay32.infPlace ≤ lay32.place m e ↔ ((2 : Rat) ^ 25 - 1) * 2 ^ 103 ≤ m * 2 ^ e :=
  lay32.infPlace_le_place_iff (by decide) (by decide) m e

/-- A sum is normal after its rounding to FP32 from half a unit below 2^−126 on. -/
theorem normal_le_place32_iff (m : Nat) (e : Int) :
    2 ^ 23 ≤ lay32.place m e ↔ 1 / (2 : Rat) ^ 126 - 1 / 2 ^ 150 ≤ m * 2 ^ e := by
  have hmid : ((2 : Rat) ^ (lay32.fb + 1) - 1) * 2 ^ lay32.emin = 2 * (1 / 2 ^ 126 - 1 / 2 ^ 150) := by
    have hemin : lay32.emin = -149 := by decide
    rw [hemin]
    norm_num [lay32]
  have h := lay32.two_pow_fb_le_place_iff (by decide) m e
  rw [hmid] at h
  exact h.trans (mul_le_mul_iff_right₀ (by norm_num))

section

variable {s : Bool} {m : Nat} {e : Int}

/-- A sum that overflows in its rounding is the infinity of its sign (R30). -/
theorem f32_toF32_overflow (h : ((2 : Rat) ^ 25 - 1) * 2 ^ 103 ≤ |(FVal.fin s m e).rat|) :
    f32 (toF32 (.fin s m e)) = .inf s := by
  rw [FVal.abs_rat_fin, ← infPlace_le_place32_iff] at h
  have hnormal : ¬ lay32.place m e < 2 ^ 23 := not_lt.mpr (le_trans (by decide) h)
  rw [f32, toF32_fin_toNat, if_neg hnormal, min_eq_right h, lay32.decode_infinite (by decide)]

/-- A sum that neither overflows nor is flushed is the nearest FP32 number, with ties to even (R30). -/
theorem f32_toF32_nearest (hhi : |(FVal.fin s m e).rat| < ((2 : Rat) ^ 25 - 1) * 2 ^ 103)
    (hlo : 1 / (2 : Rat) ^ 126 - 1 / 2 ^ 150 ≤ |(FVal.fin s m e).rat|) :
    let v := (FVal.fin s m e).rat
    let w := toF32 (.fin s m e)
    (f32 w).isFinite = true ∧
      ∀ z : Word, (f32 z).isFinite = true → |v - (f32 w).rat| ≤ |v - (f32 z).rat| ∧
        (|v - (f32 w).rat| = |v - (f32 z).rat| → (f32 z).rat = (f32 w).rat ∨ w.toNat % 2 = 0) := by
  rw [FVal.abs_rat_fin] at hhi hlo
  rw [← not_le, ← infPlace_le_place32_iff, not_le] at hhi
  rw [← normal_le_place32_iff, ← not_lt] at hlo
  obtain ⟨hfin, hnear⟩ := lay32.encode_nearest (by decide) (by decide) (s := s) hhi
  simp only [f32, toF32_fin_toNat, if_neg hlo, min_eq_left hhi.le]
  exact ⟨hfin, fun z hz => hnear z.toNat z.isLt hz⟩

/-- A sum that rounds below 2^−126 is the zero of its sign (R30). -/
theorem toF32_underflow (h : |(FVal.fin s m e).rat| < 1 / (2 : Rat) ^ 126 - 1 / 2 ^ 150) :
    toF32 (.fin s m e) = if s then 0x80000000 else 0 := by
  rw [FVal.abs_rat_fin, ← not_le, ← normal_le_place32_iff, not_le] at h
  apply BitVec.eq_of_toNat_eq
  rw [toF32_fin_toNat, if_pos h]
  cases s <;> rfl

end

/-- The sum of an accumulator and a zero when the accumulator is a zero: a negative one only of two negative zeros (R30). -/
theorem toF32_add_zeros (s t : Bool) (e f : Int) :
    toF32 ((FVal.fin s 0 e).add (.fin t 0 f)) = if s && t then 0x80000000 else 0 := by
  have hsum : (FVal.fin s 0 e).add (.fin t 0 f) = .fin (s && t) 0 (min e f) := by
    simp [FVal.add, FVal.units]
  rw [hsum, toF32_underflow (by rw [FVal.abs_rat_fin]; norm_num)]

/-- A finite accumulator with a finite product added is their exact sum, rounded once (R30). -/
theorem accAdd_mul_finite {acc : Word} {x y : FVal} (ha : (f32 acc).isFinite = true) (hx : x.isFinite = true)
    (hy : y.isFinite = true) :
    ∃ s m e, accAdd acc (x.mul y) = toF32 (.fin s m e) ∧ (FVal.fin s m e).rat = (f32 acc).rat + x.rat * y.rat := by
  obtain ⟨hpfin, hprod⟩ := FVal.mul_finite hx hy
  obtain ⟨hsfin, hsum⟩ := FVal.add_finite ha hpfin
  obtain ⟨s, m, e, hfin⟩ := FVal.eq_fin_of_isFinite hsfin
  exact ⟨s, m, e, congrArg toF32 hfin, by rw [← hfin, hsum, hprod]⟩

theorem toF32_nan : toF32 .nan = fnan := by decide

/-- Settles O60: the exact sum is rounded as `toF32` rounds a finite value, and the special values are cases of the sum. -/
theorem accumulationRoundsOnce : Obligations.AccumulationRoundsOnce := by
  unfold Obligations.AccumulationRoundsOnce
  refine ⟨?finite, ?infinite, ?zeros⟩
  case finite =>
    intro acc w x y ha hx hy hw
    obtain ⟨s, m, e, hround, hv⟩ := accAdd_mul_finite ha hx hy
    rw [hround] at hw
    subst hw
    rw [← hv]
    refine ⟨fun h => ?_, f32_toF32_nearest, fun h0 h => ?_⟩
    · have hne : (FVal.fin s m e).rat ≠ 0 := by
        intro h0
        rw [h0] at h
        norm_num at h
      rw [f32_toF32_overflow h, ← FVal.sign_eq hne]
    · rw [toF32_underflow h]
      conv_lhs => rw [FVal.sign_eq h0]
      simp only [decide_eq_true_eq]
  case infinite =>
    intro acc s t e
    refine ⟨?_, fun h => ?_⟩
    · rw [accAdd, FVal.mul, if_pos rfl, FVal.add_nan, toF32_nan]
    · have hopp : (FVal.inf s).add (.inf !s) = .nan := by simp [FVal.add]
      rw [accAdd, h, hopp, toF32_nan]
  case zeros =>
    intro e
    have hpos : f32 0 = .fin false 0 (-149) := by decide
    have hneg : f32 0x80000000 = .fin true 0 (-149) := by decide
    refine ⟨?_, ?_, ?_⟩
    · rw [accAdd, hpos, toF32_add_zeros]; rfl
    · rw [accAdd, hneg, toF32_add_zeros]; rfl
    · rw [accAdd, hneg, toF32_add_zeros]; rfl

end Sys2Proof.Machine
end

section
/-! PROOFS. How the one entry of a unit's queue starts, the effect of each instruction as it does, and the events of the arrays and
queues: the statements on the units and on the events of the cores (R51, R52, R55, R68, R83, R84, R105 to R108, R138). -/

namespace Sys2Proof.Machine

namespace Dev

variable {d : Dev} {c : Nat} {u : CoreUnit} {e : QEnt}

/-! ### The start of an entry -/

/-- An instruction waits, alone in its unit's queue, and no running fused command holds the unit. -/
structure StandsAlone (d : Dev) (c : Nat) (u : CoreUnit) (e : QEnt) : Prop where
  queue : d.queue c u = [e]
  token : e.token = none
  queued : e.st = .queued
  unclaimed : d.claimed c u = false

/-- The one entry of a queue begins when none of the interlocks of the staging slots, of fused commands and of CMEM holds it back
(R51, R105, R138). -/
theorem StandsAlone.startNext_eq (h : d.StandsAlone c u e) (har : u ≠ .ar) (hcx : u ≠ .cx)
    (hslot : u = .ex → d.slotHeld c e.no (IW.lSlot e.word.toNat) = false)
    (hfsc : IW.opc e.word.toNat = IW.oFsc → d.fscHeld c e = false)
    (hmov : IW.opc e.word.toNat = IW.oMov → (d.writeBanks c e.word.toNat).any (fun b => d.writeWaits e.no b) = false) :
    d.startNext c u = d.entryGo c e := by
  obtain ⟨hqueue, htoken, hqueued, hclaim⟩ := h
  have hs : (u == .ex && d.slotHeld c e.no (IW.lSlot e.word.toNat)) = false := by
    simpa [Bool.and_eq_false_imp] using hslot
  have hf : (decide (IW.opc e.word.toNat = IW.oFsc) && d.fscHeld c e) = false := by
    simpa [Bool.and_eq_false_imp] using hfsc
  have hm : (decide (IW.opc e.word.toNat = IW.oMov) &&
      (d.writeBanks c e.word.toNat).any fun b => d.writeWaits e.no b) = false := by
    simpa only [Bool.and_eq_false_imp, decide_eq_true_eq] using hmov
  simp [startNext, hqueue, htoken, hqueued, hclaim, har, hcx, hs, hf, hm]

/-- The one TOPK of a queue arrives at its engine, and begins when the engine does not hold it (R138, R142). -/
theorem StandsAlone.startNext_topk (h : d.StandsAlone c .cx e)
    (hengine : (d.topkArrives c e).engineHolds c e.word.toNat e.no (e.arrival.getD d.arrivalNo) = false) :
    d.startNext c .cx = (d.topkArrives c e).entryGo c e := by
  obtain ⟨hqueue, htoken, hqueued, hclaim⟩ := h
  simp [startNext, hqueue, htoken, hqueued, hclaim, hengine]

theorem topkArrives_circ : (d.topkArrives c e).circ = d.circ := by
  unfold topkArrives
  split <;> rfl

/-- An entry that needs no board load, and for which none is under way, begins with its own effect (R240). -/
theorem entryGo_eq (hboards : (d.circ.boards.any fun b => b.core = some c && b.entry = e.no && !b.store) = false)
    (hsources : missing e.got d.moduleNo (d.entryRanges c e.word.toNat) = []) :
    d.entryGo c e = (d.onEntry c e.no fun y => { y with
      st := if IW.opc e.word.toNat = IW.oFsc || IW.opc e.word.toNat = IW.oSend || IW.opc e.word.toNat = IW.oRecv then .begun else .done
      since := d.now }).beginEntry c e := by
  simp only [entryGo, hboards, hsources, List.isEmpty_nil, Bool.not_true, Bool.false_eq_true, if_false]

/-! ### The effect of each instruction -/

theorem beginEntry_ldw (h : IW.opc e.word.toNat = IW.oLdw) : d.beginEntry c e = d.loadTile c (ldwJob e.word.toNat) := by
  simp [beginEntry, h]

theorem beginEntry_vec (h : IW.opc e.word.toNat = IW.oVec) : d.beginEntry c e =
    (d.vecDo c e.no e.got (IW.vOp e.word.toNat) (IW.vImm e.word.toNat) (IW.vBcast e.word.toNat) false
      (d.desc c (IW.vDa e.word.toNat)) (d.desc c (IW.vDb e.word.toNat)) (d.desc c (IW.vDd e.word.toNat))).2 := by
  simp [beginEntry, h, IW.oVec, IW.oLdw]

theorem beginEntry_cvt (h : IW.opc e.word.toNat = IW.oCvt) : d.beginEntry c e =
    (d.cvtDo c e.no e.pc e.got (IW.cPiece e.word.toNat) (if IW.cNoParam e.word.toNat then 0xFFFF else IW.cDp e.word.toNat) false
      (d.desc c (IW.cDs e.word.toNat)) (d.desc c (IW.cDd e.word.toNat))).2 := by
  simp [beginEntry, h, IW.oCvt, IW.oLdw, IW.oVec]

theorem beginEntry_mov (h : IW.opc e.word.toNat = IW.oMov) : d.beginEntry c e =
    (d.movDo c e.no e.got (IW.sTrans e.word.toNat) (IW.sSkew e.word.toNat) (IW.sOblong e.word.toNat) false (IW.sBlocks e.word.toNat)
      (IW.sRows e.word.toNat) (d.desc c (IW.cDs e.word.toNat)) (d.desc c (IW.cDd e.word.toNat))).2 := by
  simp [beginEntry, h, IW.oMov, IW.oLdw, IW.oVec, IW.oCvt]

theorem beginEntry_topk (h : IW.opc e.word.toNat = IW.oTopk) : d.beginEntry c e =
    (d.topkDo c e.no e.got e.word.toNat (d.desc c (IW.tDq e.word.toNat)) (d.desc c (IW.tDt e.word.toNat))
      (d.desc c (IW.tDl e.word.toNat)) none true).2 := by
  simp [beginEntry, h, IW.oTopk, IW.oLdw, IW.oVec, IW.oCvt, IW.oMov]

/-- The run of a fused command as it begins: of its record, with no iteration of a stage finished (R105). -/
def newRun (d : Dev) (c : Nat) (e : QEnt) : FscRun :=
  { no := e.no, pc := e.pc, record := (d.core c).seq.fused.get [] (IW.fRecord e.word.toNat), fin := List.replicate 8 0, damage := [] }

theorem fscs_beginEntry_fsc (h : IW.opc e.word.toNat = IW.oFsc) :
    ((d.beginEntry c e).core c).q.fscs = (d.core c).q.fscs ++ [d.newRun c e] := by
  simp [beginEntry, newRun, h, IW.oFsc, IW.oLdw, IW.oVec, IW.oCvt, IW.oMov, IW.oTopk]

theorem beginEntry_send (h : IW.opc e.word.toNat = IW.oSend) : d.beginEntry c e =
    let r := d.sendDo c e.no e.got e.word.toNat e.lag (d.desc c (IW.nDs e.word.toNat))
    if r.1 then r.2.onEntry c e.no fun y => { y with st := .done } else r.2 := by
  simp [beginEntry, h, IW.oSend, IW.oLdw, IW.oVec, IW.oCvt, IW.oMov, IW.oTopk, IW.oFsc]

theorem beginEntry_recv (h : IW.opc e.word.toNat = IW.oRecv) : d.beginEntry c e = d.recvTry c e := by
  simp [beginEntry, h, IW.oRecv, IW.oLdw, IW.oVec, IW.oCvt, IW.oMov, IW.oTopk, IW.oFsc, IW.oSend]

theorem fscs_onEntry (no : Nat) (f : QEnt → QEnt) : ((d.onEntry c no f).core c).q.fscs = (d.core c).q.fscs := by
  rw [onEntry, core_onCore_self]

theorem newRun_onEntry (no : Nat) (f : QEnt → QEnt) : (d.onEntry c no f).newRun c e = d.newRun c e := by
  rw [newRun, onEntry, core_onCore_self, newRun]

end Dev

/-! ### What the units do -/

open Dev

/-- Settles O6: alone in its queue an entry begins, and its effect is its opcode's. -/
theorem unitsPerformTheirInstructions : Obligations.UnitsPerformTheirInstructions := by
  unfold Obligations.UnitsPerformTheirInstructions
  rintro d c u e _ hqueue htoken hqueued rfl hclaim hboards hsources
  have halone : d.StandsAlone c u e := ⟨hqueue, htoken, hqueued, hclaim⟩
  have hgo := entryGo_eq hboards hsources
  refine ⟨?ldw, ?vec, ?cvt, ?mov, ?topk, ?fsc, ?recv, ?send⟩
  case ldw =>
    rintro rfl ho hslot
    rw [halone.startNext_eq (by simp) (by simp) (fun _ => hslot) (by simp [ho, IW.oLdw, IW.oFsc]) (by simp [ho, IW.oLdw, IW.oMov]),
      hgo, beginEntry_ldw ho, ho]
    rfl
  case vec =>
    rintro rfl ho
    rw [halone.startNext_eq (by simp) (by simp) (by simp) (by simp [ho, IW.oVec, IW.oFsc]) (by simp [ho, IW.oVec, IW.oMov]),
      hgo, beginEntry_vec ho, ho]
    rfl
  case cvt =>
    rintro rfl ho
    rw [halone.startNext_eq (by simp) (by simp) (by simp) (by simp [ho, IW.oCvt, IW.oFsc]) (by simp [ho, IW.oCvt, IW.oMov]),
      hgo, beginEntry_cvt ho, ho]
    rfl
  case mov =>
    rintro rfl ho hbanks
    rw [halone.startNext_eq (by simp) (by simp) (by simp) (by simp [ho, IW.oMov, IW.oFsc]) (fun _ => hbanks),
      hgo, beginEntry_mov ho, ho]
    rfl
  case topk =>
    rintro rfl ho _ rfl hengine hsources'
    rw [halone.startNext_topk hengine, entryGo_eq (by rwa [topkArrives_circ]) hsources', beginEntry_topk ho, ho]
    rfl
  case fsc =>
    rintro rfl ho hheld
    rw [halone.startNext_eq (by simp) (by simp) (by simp) (fun _ => hheld) (by simp [ho, IW.oFsc, IW.oMov]), hgo]
    refine ⟨d.newRun c e, ?_, rfl, rfl, rfl⟩
    rw [fscs_beginEntry_fsc ho, fscs_onEntry, newRun_onEntry]
  case recv =>
    rintro rfl ho
    rw [halone.startNext_eq (by simp) (by simp) (by simp) (by simp [ho, IW.oRecv, IW.oFsc]) (by simp [ho, IW.oRecv, IW.oMov]),
      hgo, beginEntry_recv ho, ho]
    rfl
  case send =>
    rintro rfl ho
    rw [halone.startNext_eq (by simp) (by simp) (by simp) (by simp [ho, IW.oSend, IW.oFsc]) (by simp [ho, IW.oSend, IW.oMov]),
      hgo, beginEntry_send ho, ho]
    rfl

namespace Dev

variable {d : Dev} {c : Nat} {e : QEnt}

/-! ### Events of the arrays and queues -/

theorem complete_eq {u : CoreUnit} {t : List QEnt} (hq : d.queue c u = e :: t) (hf : d.headFinished c e = true) :
    d.complete c u = (((d.leaveQueue c u e t).stamped c).doneOf c e.word.toNat).coresGo := by
  simp only [complete, hq, hf, if_true]

theorem loadBegin_eq {a b : List QEnt} {t : Tile} (hl : d.loadable c = some (a, e, b, t)) (hbad : t.bad = none) :
    d.loadBegin c = (d.putArrays c (a ++ { e with st := .loaded } :: b)).loadShadow c (IW.mMask e.word.toNat)
      (IW.mOblong e.word.toNat) (decide (IW.mAfmt e.word.toNat = 3)) t := by
  simp only [loadBegin, hl, hbad]

/-- A block whose sources are all here streams (R52, R240). -/
theorem streamBegin_eq {a b : List QEnt} (hs : streamable [] (d.core c).q.ar = some (a, e, b)) (hasked : e.asked = false)
    (hsources : missing e.got d.moduleNo (d.mxmRanges c (d.mxmJob c e)) = []) (gap : Nat) (bubbles : List Nat) :
    d.streamBegin c gap bubbles = d.streamGo c gap bubbles a e b := by
  simp [streamBegin, hs, hasked, hsources]

/-- A row of an array is drained for the oldest entry that waits on it, whose flagged tile is captured with its last row (R40, R55). -/
theorem drainNext_eq {array : Nat} (hd : d.drainable c array = some e) :
    let j := d.mxmJob c e
    let r := j.m - e.drain.getD array 0
    let x := d.drainRow c j ((maskArrays j.mask).takeWhile (· != array)).length array r
    let e' := drainedEntry e array r x.1
    let t := x.2.onCore c fun y => { y with q := { y.q with ar := y.q.ar.map fun z =>
      if z.no = e.no && z.token.isNone then e' else z } }
    d.drainNext c array = if e'.st == .done then t.captureTile c j e'.flags else t := by
  simp only [drainNext, hd]

/-- An iteration that may begin, whose sources are all here and which no interlock holds back, does its stage's work (R106 to R108). -/
theorem stageIteration_eq {run stage : Nat} {f : FscRun} (hf : (d.core c).q.fscs[run]? = some f)
    (he : ((d.core c).q.se.find? fun e => e.no = f.no && e.token.isNone) = some e) {st : FscStage} {i : Nat}
    (hst : st = fscStage f.record stage) (hi : i = stageNext st (fscPeriod f.record) (f.fin.getD stage 0))
    (hmay : f.may stage i = true)
    (hboards : (d.circ.boards.any fun b => b.core = some c && b.entry = f.no && !b.store) = false)
    (hsources : missing e.got d.moduleNo (d.stageRanges c f st i) = []) (hwaits : d.stageWaits c f st i = false)
    (gap : Nat) (bubbles : List Nat) : d.stageIteration c run stage gap bubbles =
      (d.stageArrives c run f st).stageGo c run stage f e.got e.lag gap bubbles := by
  subst hst hi
  simp only [stageIteration, hf, he, hmay, hboards, hsources, hwaits, Option.map_some, Option.getD_some, List.isEmpty_nil, Bool.not_true,
    Bool.false_eq_true, if_false]

end Dev

/-- Settles O9: each event on a powered station is its operation, whose equation is used. -/
theorem coreEventsComplete : Obligations.CoreEventsComplete := by
  unfold Obligations.CoreEventsComplete
  rintro s core fs hp _ rfl
  refine ⟨?complete, ?load, ?stream, ?drain, ?iteration, ?timeout, ?stepDown⟩
  case complete =>
    intro u e t hq hf
    exact becomes_of_live rfl hp (complete_eq hq hf)
  case load =>
    rintro a e b t hl hbad _ rfl
    exact becomes_of_live rfl hp (congrArg coresGo (loadBegin_eq hl hbad))
  case stream =>
    intro a e b gap bubbles hs hasked hsources
    exact becomes_of_live rfl hp (streamBegin_eq hs hasked hsources gap bubbles)
  case drain =>
    intro array e hd
    exact becomes_of_live rfl hp (drainNext_eq hd)
  case iteration =>
    intro run stage gap bubbles f e hf he st i hst hi hmay hboards hsources hwaits
    exact becomes_of_live rfl hp (congrArg coresGo (stageIteration_eq hf he hst hi hmay hboards hsources hwaits gap bubbles))
  case timeout =>
    intro slots _
    exact becomes_of_live rfl hp rfl
  case stepDown =>
    intro _
    exact becomes_of_live rfl hp rfl

end Sys2Proof.Machine
end

section
/-! PROOFS. Every command answers a next state, what the sequencer does with the word at its program counter, and the statements
on the step, on issue and on the instructions of the sequencer (R77, R83, R97, R98, R264, R308). -/

namespace Sys2Proof.Machine

/-! ### The step -/

/-- Every command answers a next state, and changes the station alone: each is its row's change of the station (log 1). -/
theorem exists_becomes (i : Instr) (s : State) : ∃ d, Becomes i s d := by
  cases i <;> exact ⟨_, rfl⟩

/-- A cycle of the reference changes the clock and the count of free values only (log 8). -/
theorem Dev.tick_frame (d : Dev) : { d.tick with clk := d.clk, free := d.free } = d := by
  unfold tick
  split
  · rfl
  · dsimp only
    generalize decide (d.clk.slewPs ≠ 0) = slews
    cases slews <;> rfl

/-- Settles O2: a command is a change of the station, and a step with nothing waiting is one cycle. -/
theorem everyStepAnswers : Obligations.EveryStepAnswers := by
  unfold Obligations.EveryStepAnswers
  exact ⟨exists_becomes, fun s hs => ⟨_, step_nil s hs, hs, s.dev.tick_frame⟩⟩

/-! ### Issue -/

theorem Queues.get_put_self (q : Queues) (u : CoreUnit) (l : List QEnt) : (q.put u l).get u = l := by cases u <;> rfl

theorem Queues.get_put_ne (q : Queues) {u v : CoreUnit} (h : v ≠ u) (l : List QEnt) : (q.put u l).get v = q.get v := by
  cases u <;> cases v <;> simp [put, get] at h ⊢

namespace Dev

variable {d : Dev} {c w : Nat} {u : CoreUnit}

/-- The core that issues: its one queue is longer by the entry, and its program counter has moved on. -/
theorem core_enqueue_self : (d.enqueue c u w).core c = { d.core c with
    q := (d.core c).q.put u (d.queue c u ++ [d.newEntry c w none])
    seq := { (d.core c).seq with pc := (d.core c).seq.pc + 1 } } := by
  simp only [core, enqueue, onSeq, putQueue, onCore_cores, Table.get_modify_self]

theorem core_enqueue_ne {k : Nat} (h : k ≠ c) : (d.enqueue c u w).core k = d.core k := by
  simp only [core, enqueue, onSeq, putQueue, onCore_cores, Table.get_modify_ne _ _ _ h.symm]

/-- Issue touches the cores and the issue counter only. -/
theorem enqueue_frame : { d.enqueue c u w with cores := d.cores, issueNo := d.issueNo } = d := by
  simp only [enqueue, onSeq, putQueue, onCore]

end Dev

open Dev

/-- Settles O5: the issuing core is a record of its old parts, and no other part of the station is touched. -/
theorem issueFrame : Obligations.IssueFrame := by
  unfold Obligations.IssueFrame
  intro d c u w
  refine ⟨?last, ?pc, ?arr, ?buf, ?others, fun k hk => core_enqueue_ne hk, enqueue_frame⟩
  case last => rw [queue, core_enqueue_self, Queues.get_put_self]
  case pc => rw [core_enqueue_self]
  case arr => rw [core_enqueue_self]
  case buf => rw [core_enqueue_self]
  case others =>
    intro v hv
    rw [queue, core_enqueue_self, Queues.get_put_ne _ hv, queue]

namespace Dev

variable {d : Dev} {c w : Nat} {u : CoreUnit}

/-- The sequencer issues the word that it stands at into a queue with room (R83). -/
theorem issueIf_eq {test : Nat → Bool} (hw : d.wordAt c = some w) (hroom : (d.queue c u).length < unitDepth u) (ht : test w = true) :
    d.issueIf c u test = (d.enqueue c u w).coresGo := by
  simp only [issueIf, hw, ht, if_true, issue, if_neg hroom.not_ge]

end Dev

/-- Settles O4: each instruction is an issue of its opcode's word, with room in its unit's queue. -/
theorem issueCompletes : Obligations.IssueCompletes := by
  unfold Obligations.IssueCompletes
  intro s core fs w hp
  refine ⟨?arrays, ?fsc, ?recv, ?found⟩
  case arrays =>
    intro hw hroom
    exact ⟨fun ho => becomes_of_live rfl hp (issueIf_eq hw hroom (decide_eq_true ho)),
      fun ho => becomes_of_live rfl hp (issueIf_eq hw hroom (decide_eq_true ho))⟩
  case fsc =>
    intro hw hroom ho
    exact becomes_of_live rfl hp (issueIf_eq hw hroom (decide_eq_true ho))
  case recv =>
    intro hw hroom ho
    exact becomes_of_live rfl hp (issueIf_eq hw hroom (decide_eq_true ho))
  case found =>
    rintro _ rfl hw
    refine ⟨?ldw, ?vec, ?cvt, ?mov, ?topk, ?send⟩
    case topk =>
      intro ho hroom
      have htest (n : Nat) (he : IW.tEngine w = n) : (decide (IW.opc w = IW.oTopk) && decide (IW.tEngine w = n)) = true := by
        simp [ho, he]
      exact ⟨fun he => becomes_of_live rfl hp (issueIf_eq hw hroom (htest 0 he)),
        fun he => becomes_of_live rfl hp (issueIf_eq hw hroom (htest 1 he)),
        fun he => becomes_of_live rfl hp (issueIf_eq hw hroom (htest 2 he))⟩
    all_goals
      intro ho hroom
      exact becomes_of_live rfl hp (issueIf_eq hw hroom (decide_eq_true ho))

/-! ### The sequencer's own instructions -/

namespace Dev

variable {d : Dev} {c w : Nat}

/-- The sequencer executes a word of an opcode itself, and signals its completion (R84). -/
theorem doIf_eq {opc : Nat} (hw : d.wordAt c = some w) (ho : IW.opc w = opc) (f : Seq → Seq) :
    d.doIf c opc f = ((d.onSeq c fun q => f { q with pc := q.pc + 1 }).stamped c).doneOf c w := by
  simp only [doIf, hw, ho, if_true]

theorem barIssue_eq (hw : d.wordAt c = some w) (ho : IW.opc w = IW.oBar) : d.barIssue c = (d.barHere c w).coresGo := by
  simp only [barIssue, hw, ho, if_true]

/-- Standing off for declared slack concerns the arrays only (R68). -/
theorem seq_keepStandOff : ((d.keepStandOff c).core c).seq = (d.core c).seq := by
  unfold keepStandOff
  split
  · rw [onKeep, core_onCore_self]
  · rfl

theorem wordAt_keepStandOff : (d.keepStandOff c).wordAt c = d.wordAt c := by
  simp only [wordAt, seq_keepStandOff]

/-- A PHASE that the sequencer stands at stands off, and then waits at the boundary (R68, R77). -/
theorem phase_eq (hw : d.wordAt c = some w) (ho : IW.opc w = IW.oPhase) :
    (d.given ((d.wordAt c).any fun w => IW.opc w = IW.oPhase) fun d => d.keepStandOff c).doIf c IW.oPhase
        (fun q => { q with st := .atPhase }) =
      (((d.keepStandOff c).onSeq c fun q => { q with pc := q.pc + 1, st := .atPhase }).stamped c).doneOf c w := by
  have hphase : ((d.wordAt c).any fun w => IW.opc w = IW.oPhase) = true := by simp [hw, ho]
  rw [hphase, given_true, doIf_eq (wordAt_keepStandOff.trans hw) ho]

/-- An FE whose gated queues all have room is issued and its operation leaves (R97). -/
theorem feIssue_eq {op : SyncOp} (hw : d.wordAt c = some w) (ho : IW.opc w = IW.oFe) (hop : IW.fop w = some op)
    (hroom : ((gates w).any fun u => (d.queue c u).length ≥ unitDepth u) = false) :
    d.feIssue c op = ((d.feTokens c w).feSend c w d.issueNo (d.feReq c w op)).coresGo := by
  simp [feIssue, hw, ho, hop, hroom]

end Dev

/-- Settles O3: each is the sequencer's operation on the word that it stands at. -/
theorem sequencerCommandsComplete : Obligations.SequencerCommandsComplete := by
  unfold Obligations.SequencerCommandsComplete
  intro s core w hp hw
  refine ⟨?nop, ?halt, ?phase, ?bar⟩
  case nop => exact fun ho => becomes_of_live rfl hp (doIf_eq hw ho _)
  case halt => exact fun ho => becomes_of_live rfl hp (doIf_eq hw ho _)
  case phase => exact fun ho => becomes_of_live rfl hp (phase_eq hw ho)
  case bar => exact fun ho => becomes_of_live rfl hp (barIssue_eq hw ho)

/-- Settles O7: the six operations are one issue, of the operation that the word's FOP names. -/
theorem syncInstructionsComplete : Obligations.SyncInstructionsComplete := by
  unfold Obligations.SyncInstructionsComplete
  intro s core w op hp hw ho hop hroom
  have hissue := feIssue_eq hw ho hop hroom
  refine ⟨?_, ?_, ?_, ?_, ?_, ?_⟩
  all_goals
    rintro rfl
    exact becomes_of_live rfl hp hissue

end Sys2Proof.Machine
end

section
/-! PROOFS. The operations on runs, items and control messages, on bindings and on gatherings, under the conditions under which they take
effect, and the statements on their commands (R74, R75, R77, R78, R163, R172, R179, R236, R283, R287 to R290, R333). -/

namespace Sys2Proof.Machine

namespace Dev

variable {d : Dev}

/-! ### Phase boundaries and the start of a run -/

section

variable {r : Run} (hrun : d.work.run = some r)
include hrun

section

variable {e : Bytes} (he : e = phaseEntry d.binding r.phase)
include he

/-- The last iteration of the last phase ends its run (R78). -/
theorem boundary_ends (hlast : ¬ r.iter + 1 < u32 e 4) (hnone : u16 e 0 = 0xFFFF) :
    d.boundary = (d.keepSpan.keepCount.learnDur r.phase (d.now - r.phaseAt)).runEnd r := by
  simp [boundary, hrun, ← he, hlast, hnone]

/-- The last iteration of a phase is followed by the next phase (R77). -/
theorem boundary_nextPhase (hlast : ¬ r.iter + 1 < u32 e 4) (hnext : u16 e 0 ≠ 0xFFFF) : d.boundary =
    (d.keepSpan.keepCount.learnDur r.phase (d.now - r.phaseAt)).nextStep r (u16 e 0) 0 (d.phaseBases (u16 e 0)) := by
  simp [boundary, hrun, ← he, hlast, hnext]

/-- Every other iteration is followed by one more, with its base registers increased (R78). -/
theorem boundary_nextIteration (hmore : r.iter + 1 < u32 e 4) : d.boundary =
    (d.keepSpan.keepCount.learnDur r.phase (d.now - r.phaseAt)).nextStep r r.phase (r.iter + 1) (d.stepBases r.phase) := by
  simp [boundary, hrun, ← he, hmore]

end

/-- A run begins at its T0, when the decisions of its first step leave it in place (R78, R163). -/
theorem runStart_eq {r' : Run} (hbegun : r.begun = false) (hstop : d.pwr.stopped = false)
    (hstep : ((d.reach r.t0).awake.enterStep 0 true).work.run = some r') :
    d.runStart = (((d.reach r.t0).awake.enterStep 0 true).onWork fun w =>
      { w with run := some { r' with begun := true } }).startOrWait := by
  simp [runStart, hrun, hbegun, hstop, hstep]

end

/-! ### The acceptance of a RUN -/

/-- The oldest RUN of the active binding's context may take effect: no run is active, the barrier is not closed, no bind pass is pending,
the inputs of its items are read, and no ABORT has ended it (R124, R163, R172, R202, R283). -/
structure RunMayBegin (d : Dev) (a : Active) (j : Job) : Prop where
  active : d.work.active = some a
  noRun : d.work.run = none
  notStopped : d.pwr.stopped = false
  barrier : (d.ctx a.ctx).barrier ≠ .closed
  noPass : d.work.passes = []
  job : d.jobOf a.ctx Op.run .accepted = some j
  inputs : (d.work.jobs.any fun x => x.op = Op.item && x.run = some j.no && x.phase == .accepted) = false
  notAborted : (d.work.aborts.find? fun x => x.1 = a.runCount) = none

section

variable {a : Active} {j : Job} (h : d.RunMayBegin a j)
include h

/-- Position 0 sends START and begins the run (R163). -/
theorem RunMayBegin.tryRun_origin (hpos : d.position = 0) :
    d.tryRun = (d.launchControl 6 0 (d.controlBytes 1 a.runCount (d.now + u32 (schedule d.binding) 16) St.ok)).beginRun j a.runCount
      (d.now + u32 (schedule d.binding) 16) := by
  obtain ⟨hactive, hrun, hstop, hbarrier, hpass, hjob, hinputs, habort⟩ := h
  simp [tryRun, hactive, hrun, hstop, hbarrier, hpass, hjob, hinputs, habort, hpos]

/-- Any other position begins it when START has been accepted (R163, R283). -/
theorem RunMayBegin.tryRun_started {n t0 : Nat} {rest : Nat × Nat} (hpos : d.position ≠ 0)
    (hstart : (d.work.starts.find? fun x => x.1 = a.runCount) = some (n, t0, rest)) : d.tryRun = d.beginRun j a.runCount t0 := by
  obtain ⟨hactive, hrun, hstop, hbarrier, hpass, hjob, hinputs, habort⟩ := h
  simp [tryRun, hactive, hrun, hstop, hbarrier, hpass, hjob, hinputs, habort, hpos, hstart]

end

/-! ### Items, passes and control messages -/

/-- An item whose input can be written takes it into its working state (R287). -/
theorem itemInput_eq {c : Nat} {j : Job} {b : Bytes} {x : Option Status × Dev} (hjob : d.jobOf c Op.item .accepted = some j)
    (hx : x = (d.emit (.hostRead (u64 j.bytes 16) (u32 j.bytes 32))).memPut c
      (u64 (d.seqEntry (j.entry.getD 0)) 8 + u32 j.bytes 36) (padTo b (u32 j.bytes 32)) none)
    (hput : x.1 = none) : d.itemInput c (some b) = (x.2.onJob j.no fun y => { y with phase := .begun }).tryRun := by
  subst hx
  simp only [itemInput, hjob, hput]

/-- The result of an ended item that can be read is written to the host, and its record follows (R299, R333). -/
theorem resultCopy_eq {j : Job} {x : Bytes × Option Status × Dev}
    (hjob : (d.work.jobs.find? fun j => j.op = Op.item && j.phase == .ended) = some j) (hopen : d.hostOpen = true)
    (hx : x = d.memGet j.ctx (u64 (d.seqEntry (j.entry.getD 0)) 8 + u32 j.bytes 44) (u32 j.bytes 40)) (hget : x.2.1 = none) :
    d.resultCopy = ((x.2.2.emit (.hostWrite (u64 j.bytes 24) x.1)).settle j (jobStatus j) (u32 j.bytes 40) 0).finishRuns := by
  subst hx
  simp only [resultCopy, hjob, hopen, hget, Bool.not_true, Bool.false_eq_true, if_false]

/-- A pass that may start takes its items, which take the version table's values (R179, R208). -/
theorem passStart_eq {a : Active} {r : Run} {m : Nat} (hactive : d.work.active = some a) (hrun : d.work.run = some r)
    (hmay : d.passMay a r m = true) :
    d.passStart m = (d.takeItems a.ctx m (u8 d.passRecord 6) r.job 64).passVersions m := by
  simp only [passStart, hactive, hrun, hmay, if_true]

section

variable {port : Nat} {packet b : Bytes} {x : Dev} (hin : d.controlIn port packet = (x, some b))
include hin

/-- START is noted with its T0, and a RUN that waits for it begins (R163). -/
theorem controlStart_eq (hkind : u8 b 3 = 1) : d.controlStart port packet =
    (x.onWork fun w => { w with starts := w.starts ++ [(u32 b 8, u64 b 16, x.now, port)] }).touchPeak.tryRun := by
  simp [controlStart, hin, hkind]

/-- ABORT of the run in progress stops it with its status (R172). -/
theorem controlAbort_eq {a : Active} {r : Run} (hkind : u8 b 3 = 2) (hactive : x.work.active = some a) (hrun : x.work.run = some r)
    (hno : r.no = u32 b 8) : d.controlAbort port packet = x.stopRun (b.getD 24 0) := by
  simp [controlAbort, hin, hkind, hactive, hrun, hno]

end

end Dev

open Dev

/-- Settles O10: each command is one operation on runs, items or control messages, whose equation is used. -/
theorem runCommandsComplete : Obligations.RunCommandsComplete := by
  unfold Obligations.RunCommandsComplete
  intro s ctx port packet fs hp
  refine ⟨?boundary, ?runStart, ?run, ?item, ?result, ?pass, ?controlStart, ?controlAbort⟩
  case boundary =>
    intro r hrun hat
    have hgiven : s.dev.given s.dev.atBoundary boundary = s.dev.boundary := by rw [hat, given_true]
    exact ⟨fun hlast hnone => becomes_of_live rfl hp (hgiven.trans (boundary_ends hrun rfl hlast hnone)),
      fun hlast hnext => becomes_of_live rfl hp (hgiven.trans (boundary_nextPhase hrun rfl hlast hnext)),
      fun hmore => becomes_of_live rfl hp (hgiven.trans (boundary_nextIteration hrun rfl hmore))⟩
  case runStart =>
    intro r r' hrun hbegun hstop _ hstep
    exact becomes_of_live rfl hp (runStart_eq hrun hbegun hstop hstep)
  case run =>
    intro a j hactive hctx hrun hstop hbarrier hpass hjob hinputs habort
    have hmay : s.dev.RunMayBegin a j :=
      ⟨hactive, hrun, hstop, by rwa [hctx], hpass, by rwa [hctx], hinputs, habort⟩
    have hown {t : Dev} (ht : s.dev.tryRun = t) : Becomes (.run ctx) s t :=
      becomes_of_live rfl hp (by simpa only [hactive, hctx, if_true] using ht)
    exact ⟨fun hpos => hown (hmay.tryRun_origin hpos), fun n t0 rest hpos hstart => hown (hmay.tryRun_started hpos hstart)⟩
  case item =>
    intro j b hjob _ hput
    exact becomes_of_live rfl hp (itemInput_eq hjob rfl hput)
  case result =>
    rintro j _ rfl hjob hopen _ _ hget
    exact becomes_of_live rfl hp (resultCopy_eq hjob hopen rfl hget)
  case pass =>
    intro a r mb hactive hrun hmay
    exact becomes_of_live rfl hp (passStart_eq hactive hrun hmay)
  case controlStart =>
    intro d b hin hkind
    exact becomes_of_live rfl hp (controlStart_eq hin hkind)
  case controlAbort =>
    intro d b a r hin hkind hactive hrun hno
    exact becomes_of_live rfl hp (controlAbort_eq hin hkind hactive hrun hno)

namespace Dev

variable {d : Dev} {j : Job}

/-! ### Bindings -/

/-- A descriptor that is a configuration change acts when the finisher works and the colophon has room (R365, R367). -/
theorem logJob_eq {n : Nat} (act : Dev → Dev) (hup : d.boot.restarting = false) (hroom : d.colRoom n = true) :
    d.logJob j n act = act d := by
  simp [logJob, hup, hroom]

/-- A number is a binding's that may be loaded, and its pages are mapped for writing (R289). -/
structure LoadAllowed (d : Dev) (j : Job) : Prop where
  number : u8 j.bytes 40 ≤ 3
  notActive : ∀ a, d.work.active = some a → ¬ (a.ctx = j.ctx ∧ a.bindId = u8 j.bytes 40)
  mapped : d.mapped j.ctx (u64 j.bytes 32) (u64 j.bytes 24) true = true

/-- What a BIND_LOAD makes of the container that was read: kept, or refused with what failed (R74, R75, R81, R289). -/
def takeContainer (d : Dev) (j : Job) (b : Bytes) (g : Option (Nat × Nat)) : Dev :=
  match loadCheck b g with
  | some x => (d.bindRefused j.ctx x).settle j (if x.1 = 2 then St.digestMismatch else St.notPermitted) 0 0
  | none =>
    match d.constFault j.ctx (constantsAt b g) with
    | some a => (d.errMem 2 j.ctx 31 0 a).settle j St.notPermitted 0 0
    | none =>
      match (d.storeBinding j b g).1 with
      | some st => (d.storeBinding j b g).2.settle j st 0 0
      | none => ((d.storeBinding j b g).2.keepBinding j b g).settle j St.ok 0 0

/-- A BIND_LOAD that may act reads its container and takes it (R289). -/
theorem bindLoad_eq (h : d.LoadAllowed j) (hup : d.boot.restarting = false) (hroom : d.colRoom 1 = true) {b0 b : Bytes}
    (hb : padTo b0 (u64 j.bytes 24) = b) {g : Option (Nat × Nat)}
    (hg : d.work.gath.map (fun g => (g.stations.length, g.pos)) = g) :
    d.bindLoad j (some b0) = (d.emit (.hostRead (u64 j.bytes 16) (u64 j.bytes 24))).takeContainer j b g := by
  obtain ⟨hid, hother, hmapped⟩ := h
  simp only [bindLoad]
  rw [if_neg ?allowed, logJob_eq _ hup hroom]
  case allowed =>
    cases hactive : d.work.active with
    | none => simp [hid, hmapped]
    | some a => simpa [hid, hmapped] using hother a hactive
  generalize hx : d.emit (.hostRead (u64 j.bytes 16) (u64 j.bytes 24)) = x
  have hgath : x.work.gath = d.work.gath := by rw [← hx, emit_work]
  simp only [hgath, hb, hg]
  unfold takeContainer
  cases loadCheck b g with
  | some y => rfl
  | none =>
    cases x.constFault j.ctx (constantsAt b g) with
    | some a => rfl
    | none => cases (x.storeBinding j b g).1 <;> rfl

section

variable {b : Bytes} {g : Option (Nat × Nat)}

theorem takeContainer_refused {x : Nat × Nat × Nat} (hcheck : loadCheck b g = some x) : d.takeContainer j b g =
    (d.bindRefused j.ctx x).settle j (if x.1 = 2 then St.digestMismatch else St.notPermitted) 0 0 := by
  simp only [takeContainer, hcheck]

theorem takeContainer_constFault {a : Nat} (hcheck : loadCheck b g = none)
    (hfault : d.constFault j.ctx (constantsAt b g) = some a) :
    d.takeContainer j b g = (d.errMem 2 j.ctx 31 0 a).settle j St.notPermitted 0 0 := by
  simp only [takeContainer, hcheck, hfault]

theorem takeContainer_notStored {st : Status} (hcheck : loadCheck b g = none)
    (hfault : d.constFault j.ctx (constantsAt b g) = none) (hstore : (d.storeBinding j b g).1 = some st) :
    d.takeContainer j b g = (d.storeBinding j b g).2.settle j st 0 0 := by
  simp only [takeContainer, hcheck, hfault, hstore]

theorem takeContainer_kept (hcheck : loadCheck b g = none) (hfault : d.constFault j.ctx (constantsAt b g) = none)
    (hstore : (d.storeBinding j b g).1 = none) :
    d.takeContainer j b g = ((d.storeBinding j b g).2.keepBinding j b g).settle j St.ok 0 0 := by
  simp only [takeContainer, hcheck, hfault, hstore]

end

/-- A BIND_SWITCH that leaves the old binding with a fold, and whose kept binding passes, makes that binding active (R74, R289). -/
theorem bindSwitch_eq {k : Kept} {x : Dev} {fold : Nat} {cs : List (Nat × Bytes)} (hup : d.boot.restarting = false)
    (hroom : d.colRoom 1 = true) (hx : x = d.leaveBinding) (hf : fold = x.foldOf (min x.pwr.allowedFold x.heatFold))
    (hcs : cs = if k.consts then [] else constants k.bytes x.position) (hfold : fold ≠ 0) (hid : u8 j.bytes 16 ≤ 3)
    (hkept : (x.ctx j.ctx).bindings.get none (u8 j.bytes 16) = some k) (hcheck : x.switchCheck j.ctx k = none)
    (hfault : x.constFault j.ctx cs = none) (hput : (x.putConstants j.ctx cs).1 = none) :
    d.bindSwitch j = ((x.putConstants j.ctx cs).2.switchTo j k fold).settle j St.ok 0 0 := by
  subst hx hf hcs
  rw [bindSwitch, logJob_eq _ hup hroom]
  simp only [hfold, hid, hkept, hcheck, hfault, hput, if_true, if_false]

/-! ### Gatherings -/

/-- A record that a station may form: in range, naming it once, and of its plan and its slice (R233, R236). -/
structure RecordFits (d : Dev) (b : Bytes) (n : Nat) : Prop where
  inRange : Rec.ok b n = true
  plan : d.lnk.planValid = true
  once : (Rec.stations b).count d.station = 1
  sliced : Rec.slice b ≠ 0
  ownSlice : Rec.slice b = fld d.lnk.slice 11 0

/-- A station in no gathering whose neighbours are found begins to form (R236). -/
theorem gatherForm_eq {b0 : Bytes} {nbrs : List Nbr} {x : Dev} (hgath : d.work.gath = none) (hforming : d.work.forming = none)
    (hup : d.boot.restarting = false) (hroom : d.colRoom 1 = true) {b : Bytes} (hb : b = padTo b0 (u32 j.bytes 24))
    (hrec : d.RecordFits b (u32 j.bytes 24))
    (hnbrs : findNbrs (gatheringOf b d.station) (sidesOf (gatheringOf b d.station))
      (d.emit (.hostRead (u64 j.bytes 16) (u32 j.bytes 24))) = (some nbrs, x)) :
    d.gatherForm j (some b0) = x.beginForming j { gatheringOf b d.station with nbrs := nbrs } (sha256 b) := by
  subst hb
  obtain ⟨hok, hplan, honce, hsliced, hown⟩ := hrec
  have hstation : (d.emit (.hostRead (u64 j.bytes 16) (u32 j.bytes 24))).station = d.station := rfl
  rw [gatherForm, logJob_eq _ hup hroom]
  simp [hgath, hforming, hok, hplan, honce, hsliced, ← hown, hstation, hnbrs]

/-- A formation message that arrives is taken into the formation (R236). -/
theorem formationIn_eq {port : Nat} {packet : Bytes} {x : Dev} {h : Head} (hin : d.receive port packet = (x, some h))
    (hcls : h.cls = 9) : d.formationIn port packet = x.formGot h.src (u16 h.body 0) (sub h.body 2 32) := by
  simp [formationIn, hin, hcls]

/-- A formation that fails ends while the finisher works (R236). -/
theorem formFails_working (f : Forming) (hup : d.boot.restarting = false) : d.formFails f = d.formEnds f := by
  simp only [formFails, hup, Bool.false_eq_true, if_false]

/-- During a restart it is marked, and its end waits (R370). -/
theorem formFails_restarting (f : Forming) (hdown : d.boot.restarting = true) :
    d.formFails f = d.onWork fun w => { w with forming := some { f with failed := true } } := by
  simp only [formFails, hdown, if_true]

/-- The gathering that a GATHER_RELEASE names is released, its binding having left (R290). -/
theorem gatherRelease_eq {g : Gathering} (hgath : d.work.gath = some g) (hnumber : g.number = u16 j.bytes 16)
    (hup : d.boot.restarting = false) (hroom : d.colRoom 1 = true) :
    d.gatherRelease j = (((d.logDesc j g.number 0).leaveBinding).releaseGath).settle j St.ok 0 0 := by
  simp only [gatherRelease, hgath, hnumber, ne_eq, not_true, if_false, logJob_eq _ hup hroom]

end Dev

/-- A command on the oldest accepted descriptor of an opcode does what that descriptor's operation does. -/
theorem becomes_of_job {i : Instr} {s : State} {c o : Nat} {act : Dev → Job → Dev} {j : Job} {t : Dev}
    (hx : exec i s = s.on fun d => d.live fun d => match d.jobOf c o .accepted with | some j => act d j | none => d)
    (hp : s.dev.powered = true) (hjob : s.dev.jobOf c o .accepted = some j) (ht : act s.dev j = t) : Becomes i s t :=
  becomes_of_live hx hp (by simp only [hjob, ht])

/-- Settles O17: each command is one operation on a descriptor or on the formation, whose equation is used. -/
theorem bindingAndGatheringCommandsComplete : Obligations.BindingAndGatheringCommandsComplete := by
  unfold Obligations.BindingAndGatheringCommandsComplete
  intro s ctx j hp
  refine ⟨?bindLoad, ?bindSwitch, ?gatherForm, ?message, ?timeout, ?release⟩
  case bindLoad =>
    intro b0 hjob hmem hid hother hmapped hup hroom
    have hload {t : Dev} (ht : (s.dev.emit (.hostRead (u64 j.bytes 16) (u64 j.bytes 24))).takeContainer j
        (padTo b0 (u64 j.bytes 24)) (s.dev.work.gath.map fun g => (g.stations.length, g.pos)) = t) :
        Becomes (.bindLoad ctx (some b0)) s t :=
      becomes_of_job rfl hp hjob
        ((if_pos hmem).trans ((bindLoad_eq ⟨hid, hother, hmapped⟩ hup hroom rfl rfl).trans ht))
    intro b g d
    split
    case h_1 hcheck hfault hstore => exact hload (takeContainer_kept hcheck hfault hstore)
    case h_2 st hcheck hfault hstore => exact hload (takeContainer_notStored hcheck hfault hstore)
    case h_3 a hcheck hfault => exact hload (takeContainer_constFault hcheck hfault)
    case h_4 x hcheck => exact hload (takeContainer_refused hcheck)
  case bindSwitch =>
    intro k hjob hitems hmem hup hroom _ _ _ hfold hid hkept hcheck hfault hput
    have hswitch := bindSwitch_eq hup hroom rfl rfl rfl hfold hid hkept hcheck hfault hput
    exact becomes_of_job rfl hp hjob ((if_pos (by rw [hitems, hmem, Bool.and_true])).trans hswitch)
  case gatherForm =>
    intro b0 nbrs d hjob hgath hforming hup hroom _ _ hok hplan honce hsliced hown hnbrs
    have hform := gatherForm_eq hgath hforming hup hroom rfl ⟨hok, hplan, honce, hsliced, hown⟩ hnbrs
    exact becomes_of_job rfl hp hjob hform
  case message =>
    intro port packet d h hin hcls
    exact becomes_of_live rfl hp (formationIn_eq hin hcls)
  case timeout =>
    intro f hforming d
    have htime {t : Dev} (ht : (if s.dev.boot.restarting && matchedUp f then d else d.formFails f) = t) :
        Becomes .gatherFormTimeout s t :=
      becomes_of_live rfl hp (by simp only [hforming]; exact ht)
    exact ⟨fun hup => htime (by rw [hup, Bool.false_and, if_neg Bool.false_ne_true, formFails_working f (d := d) hup]),
      fun hdown => htime (by rw [hdown, Bool.true_and, formFails_restarting f (d := d) hdown])⟩
  case release =>
    intro g hjob hitems hgath hnumber hup hroom
    have hrelease := gatherRelease_eq hgath hnumber hup hroom
    exact becomes_of_job rfl hp hjob ((if_pos hitems).trans hrelease)

end Sys2Proof.Machine
end

section
/-! PROOFS. The operations of editions, of the digest table, of bind passes and of scrub sweeps, under the conditions under which they take
effect, and the statement on their commands (R124, R190, R193, R194, R196 to R198, R292). -/

namespace Sys2Proof.Machine

namespace Dev

variable {d : Dev} {j : Job}

/-! ### What a reservation leaves unchanged -/

section

variable (d) (no n : Nat)

/-- The pages that waiting MAPs are to have are read from the descriptors' bytes and phases alone (R250). -/
theorem promised_onJob {f : Job → Job} (hbytes : ∀ j, (f j).bytes = j.bytes) (hphase : ∀ j, (f j).phase = j.phase) (cxl : Bool) :
    (d.onJob no f).promised cxl = d.promised cxl := by
  have hkeep (j : Job) : (if j.no = no then f j else j).bytes = j.bytes ∧ (if j.no = no then f j else j).phase = j.phase := by
    split <;> simp only [hbytes, hphase, and_self]
  simp only [promised, onJob, onWork_work, List.filter_map, List.map_map, Function.comp_def, hkeep]

theorem promised_reserve (cxl : Bool) : (d.reserve no n).promised cxl = d.promised cxl :=
  promised_onJob (d.colReserve n) no (f := fun j => { j with room := j.room + n }) (fun _ => rfl) (fun _ => rfl) cxl

theorem freeCount_reserve (cxl : Bool) : (d.reserve no n).freeCount cxl = d.freeCount cxl := by
  unfold freeCount
  rw [promised_reserve]
  rfl

theorem loadFits_reserve (j : Job) (p : List Layer × List PageRange × Nat × Nat) :
    (d.reserve no n).loadFits j p = d.loadFits j p := by
  unfold loadFits
  rw [freeCount_reserve, freeCount_reserve]
  rfl

theorem loadFrames_reserve (pages : List PageRange) : (d.reserve no n).loadFrames pages = d.loadFrames pages := rfl

end

/-! ### Loading and unloading an edition -/

/-- A load whose layers fit, and whose pages have their frames, loads its image (R190 step 2). -/
theorem loadPlaced_eq {m : Bytes} {image : HostRead} {p : List Layer × List PageRange × Nat × Nat}
    (hp : p = placeLayers (Manifest.own m (u16 j.bytes 56)) (Manifest.layers m) (u32 j.bytes 40 * pageBytes) (u32 j.bytes 48 * pageBytes))
    (hplace : d.loadFits j p = true) (hframes : d.loadFrames p.2.1 = true) :
    d.loadPlaced j m image = d.loadImage j m p.1 p.2.1 image := by
  subst hp
  simp only [loadPlaced, hplace, hframes, Bool.not_true, Bool.false_eq_true, if_false]

/-- A load whose manifest fits reserves its entries, for which the colophon has room, and takes its pages (R190 step 1, R367). -/
theorem editionLoad_eq {m : Bytes} {image : HostRead} {n : Nat} (hfits : d.manifestFits j m = true) (hup : d.boot.restarting = false)
    (hn : n = 1 + 2 * (Manifest.own m (u16 j.bytes 56)).length - j.room) (hroom : d.colRoom n = true) :
    d.editionLoad j (some m) image = (d.reserve j.no n).loadPlaced j m image := by
  subst hn
  simp only [editionLoad, hfits, Bool.not_true, Bool.false_eq_true, if_false]
  rw [logJob_eq _ hup hroom]

section

variable {m img : Bytes} {ls : List Layer} {pages : List PageRange} {x : Except (Status × Nat × Nat) (List Bytes) × Dev}
  (hx : x = loadShards j.ctx m (padTo img (Manifest.imageBytes m)) (u64 j.bytes 24) (Manifest.edition m) ls (Manifest.own m (u16 j.bytes 56))
    ((d.readManifest (u64 j.bytes 16) (some m)).beginLoad j m ls pages))
include hx

/-- An image with no own FORM 2 shard ends its load when its shards are placed (R190 step 5), or as one of them fails (R195). -/
theorem loadImage_noPass (hform : ((Manifest.own m (u16 j.bytes 56)).any fun s => ls.any fun l => l.layer = s.layer && l.form = 2) = false) :
    d.loadImage j m ls pages (some img) = match x.1 with
      | .ok adopt => x.2.loadDone j (Manifest.edition m) adopt
      | .error e => x.2.loadFails j (Manifest.edition m) e.2.1 e.1 e.2.2 := by
  subst hx
  simp only [loadImage, hform, Bool.false_eq_true, if_false]
  split
  case h_1 hr => rw [hr]
  case h_2 hr => rw [hr]

/-- One with an own FORM 2 shard waits for its bind pass (R124, R194). -/
theorem loadImage_pass (hform : ((Manifest.own m (u16 j.bytes 56)).any fun s => ls.any fun l => l.layer = s.layer && l.form = 2) = true) :
    d.loadImage j m ls pages (some img) = match x.1 with
      | .ok adopt => x.2.awaitPass j (Manifest.edition m) adopt
      | .error e => x.2.loadFails j (Manifest.edition m) e.2.1 e.1 e.2.2 := by
  subst hx
  simp only [loadImage, hform, if_true]
  split
  case h_1 hr => rw [hr]
  case h_2 hr => rw [hr]

end

/-- An edition that is held and that the active binding does not name is unloaded (R196). -/
theorem editionUnload_eq (hheld : d.editionHeld j.ctx (u64 j.bytes 16) = true)
    (hunused : ∀ a, d.work.active = some a → ¬ (a.ctx = j.ctx ∧ bindEdition a.bytes = u64 j.bytes 16))
    (hup : d.boot.restarting = false) (hroom : d.colRoom 1 = true) :
    d.editionUnload j = ((d.logDesc j (u64 j.bytes 16) 0).dropEdition j.ctx (u64 j.bytes 16)).settle j St.ok 0 0 := by
  simp only [editionUnload]
  rw [if_neg ?allowed, logJob_eq _ hup hroom]
  case allowed =>
    cases hactive : d.work.active with
    | none => simp [hheld]
    | some a => simpa [hheld] using hunused a hactive

/-! ### The digest table -/

/-- Entries of which none fails are installed, and their number is reported (R292). -/
theorem digestInstall_eq {b : Bytes} {n k : Nat} {x : Dev} (hn : n = u32 j.bytes 24) (hpos : 1 ≤ n) (hle : n ≤ 4096)
    (hup : d.boot.restarting = false) (hroom : d.colRoom n = true)
    (hall : installAll j (chunks 64 n (padTo b (64 * n))) 0 ((d.reserve j.no n).emit (.hostRead (u64 j.bytes 16) (64 * n))) =
      (k, St.ok, x)) : d.digestInstall j (some b) = x.settle j St.ok k 0 := by
  subst hn
  have hcount : ¬ (u32 j.bytes 24 < 1 || u32 j.bytes 24 > 4096) = true := by
    simp only [gt_iff_lt, Bool.or_eq_true, decide_eq_true_eq]
    omega
  simp only [digestInstall]
  rw [if_neg hcount, logJob_eq _ hup hroom]
  simp only [hall]

/-- An entry of the table is removed (R292). -/
theorem digestRemove_eq {key : Bytes} (hkey : key = sub j.bytes 16 15 ++ sub j.bytes 32 8)
    (hin : (digestFind (d.ctx j.ctx).digests key).isSome = true) (hup : d.boot.restarting = false) (hroom : d.colRoom 1 = true) :
    d.digestRemove j = ((d.logDesc j 0 0).onCtx j.ctx fun x => { x with
      digests := x.digests.filter fun e => digestKey e != key }).settle j St.ok 0 0 := by
  subst hkey
  have hnot : ¬ (digestFind (d.ctx j.ctx).digests (sub j.bytes 16 15 ++ sub j.bytes 32 8)).isNone = true := by
    rwa [Option.isNone_iff_eq_none, ← ne_eq, ← Option.isSome_iff_ne_none]
  simp only [digestRemove]
  rw [if_neg hnot, logJob_eq _ hup hroom]

/-! ### The bind pass of a load -/

/-- The pending pass of a context begins with the parameters that its registers hold, while no run is active and no pass runs (R124). -/
theorem passBegin_eq {c : Nat} {p : PassJob} (hrun : d.work.run = none) (hnone : (d.work.passes.any fun p => p.params.isSome) = false)
    (hfind : (d.work.passes.find? fun p => p.ctx = c) = some p) :
    d.passBegin c = d.onWork fun w => { w with passes := w.passes.map fun q => if q = p then { q with
      params := some (fld (d.ctx c).regs.foldCfg 11 8, fld (d.ctx c).regs.foldCfg 2 0, (d.ctx c).regs.foldEps, (d.ctx c).regs.subn) }
      else q } := by
  simp [passBegin, hrun, hnone, hfind]

/-- A pass whose shards all fold and match reports, and its load ends well (R129, R194). -/
theorem loadPassEnd_eq {p : PassJob} {e : Edition} {q : Nat × Nat × Word × Bool} {adopt : List Bytes} {ks : List PassCount} {x : Dev}
    (hfold : foldShards p.ctx e.id q (passShards e none) [] d = (.ok (adopt, ks), x)) :
    d.loadPassEnd j p e q = (x.emit (.hostWrite p.report (passReport q ks))).loadDone j e.id (p.adopt ++ adopt) := by
  simp only [loadPassEnd, hfold]

/-- The running pass of a load leaves the list of passes, its load ends, and a run that waited for it may begin (R124, R194). -/
theorem passFinish_load {c : Nat} {p : PassJob} {q : Nat × Nat × Word × Bool} {e : Edition}
    (hfind : (d.work.passes.find? fun p => p.ctx = c && p.params.isSome) = some p) (hparams : p.params = some q)
    (hlayer : p.layer = none) (hup : d.boot.restarting = false) (hopen : d.hostOpen = true)
    (hjob : d.work.jobs.find? (fun x => decide (x.no = p.job)) = some j) (hedition : d.edition c p.edition = some e) :
    d.passFinish c = ((d.onWork fun w => { w with passes := w.passes.erase p }).loadPassEnd j p e q).tryRun := by
  have hedition' : (d.onWork fun w => { w with passes := w.passes.erase p }).edition c p.edition = some e := hedition
  simp [passFinish, hfind, hparams, hlayer, hup, hopen, hjob, hedition']

/-! ### Scrub sweeps -/

/-- A station whose memory serves is not in S3, so that waking changes its idle state alone (R325). -/
theorem awake_eq_of_memUp (hup : d.memUp = true) : d.awake = d ∨ d.awake = d.onPwr fun p => { p with idle := .s0 } := by
  have hidle : (d.pwr.idle == .s3) = false := by
    simp only [memUp, Bool.and_eq_true] at hup
    simpa using hup.2
  unfold awake
  split
  · exact .inl rfl
  · right
    simp [wake, hidle]

theorem memUp_awake (hup : d.memUp = true) : d.awake.memUp = true := by
  obtain hsame | hwoken := awake_eq_of_memUp hup
  · rwa [hsame]
  · rw [hwoken]
    simp only [memUp, Bool.and_eq_true] at hup ⊢
    exact ⟨hup.1, rfl⟩

theorem ctx_awake (hup : d.memUp = true) (c : Nat) : d.awake.ctx c = d.ctx c := by
  obtain hsame | hwoken := awake_eq_of_memUp hup
  · rw [hsame]
  · rw [hwoken]
    rfl

/-- A sweep that is due at a time begins then, and takes every shard of the editions that are held (R198). -/
theorem scrubSweep_eq {c due : Nat} {x y : Dev} (hdue : d.sweepDue c = some due) (hx : x = d.reach due)
    (hy : y = x.onCtx c fun z => { z with sweepAt := some x.now }) : d.scrubSweep c =
    y.each ((y.ctx c).editions.filter (y.heldNow c)) fun d e =>
      d.each (e.layers.flatMap fun l => (e.shards.filter fun s => s.layer = l.layer).map fun s => (l, s)) fun d z =>
        d.scrubShard c e z.1 z.2 := by
  subst hx hy
  simp only [scrubSweep, hdue]

end Dev

open Dev

/-- Settles O19: each command is one operation on a descriptor, on a pass or on a sweep, whose equation is used. -/
theorem editionCommandsComplete : Obligations.EditionCommandsComplete := by
  unfold Obligations.EditionCommandsComplete
  intro s ctx j hp
  refine ⟨?load, ?unload, ?install, ?remove, ?passStart, ?passEnd, ?sweep⟩
  case load =>
    intro m img hjob hmem hpasses hok hpos hnew hfew hinputs hup own p n hroom hplace hframes x hx
    have hfits : s.dev.manifestFits j m = true := by simp [manifestFits, hok, hpos, hnew, hfew, hinputs]
    have hplaced : (s.dev.reserve j.no n).loadPlaced j m (some img) = (s.dev.reserve j.no n).loadImage j m p.1 p.2.1 (some img) :=
      loadPlaced_eq rfl (by rwa [loadFits_reserve]) (by rwa [loadFrames_reserve])
    have hload {t : Dev} (ht : (s.dev.reserve j.no n).loadImage j m p.1 p.2.1 (some img) = t) :
        Becomes (.editionLoad ctx (some m) (some img)) s t :=
      becomes_of_job rfl hp hjob ((if_pos (by rw [hmem, hpasses, Bool.and_true])).trans
        ((editionLoad_eq hfits hup rfl hroom).trans (hplaced.trans ht)))
    exact ⟨fun hform => hload (loadImage_noPass hx hform), fun hform => hload (loadImage_pass hx hform)⟩
  case unload =>
    intro hjob hmem hheld hunused hup hroom
    exact becomes_of_job rfl hp hjob ((if_pos hmem).trans (editionUnload_eq hheld hunused hup hroom))
  case install =>
    intro b n d hjob hpos hle hup hroom hall
    exact becomes_of_job rfl hp hjob (digestInstall_eq rfl hpos hle hup hroom hall)
  case remove =>
    intro hjob hup hroom key hin
    exact becomes_of_job rfl hp hjob (digestRemove_eq rfl hin hup hroom)
  case passStart =>
    intro p hmem hrun hnone hfind
    exact becomes_of_live rfl hp ((if_pos hmem).trans (passBegin_eq hrun hnone hfind))
  case passEnd =>
    intro p q e adopt ks d hmem hfind hparams hlayer hup hopen hjob d0 hedition hfold
    have hmine := List.find?_some hfind
    simp only [Bool.and_eq_true, decide_eq_true_eq] at hmine
    obtain ⟨hctx, -⟩ := hmine
    rw [← hctx] at hfold
    exact becomes_of_live rfl hp ((if_pos hmem).trans ((passFinish_load hfind hparams hlayer hup hopen hjob hedition).trans
      (congrArg tryRun (loadPassEnd_eq hfold))))
  case sweep =>
    intro fs due hmem henable hsome hdue d1 d2
    have hwake : s.dev.given (s.dev.sweepDue ctx.val).isSome (·.awake) = s.dev.awake := by rw [hsome, given_true]
    have hready : (s.dev.awake.memUp && (s.dev.awake.ctx ctx.val).regs.enable) = true := by
      rw [memUp_awake hmem, ctx_awake hmem, henable, Bool.and_true]
    refine becomes_of_live rfl hp ?_
    rw [hwake]
    exact (if_pos hready).trans (scrubSweep_eq hdue rfl rfl)

end Sys2Proof.Machine
end

section
/-! PROOFS. What a packet of a transfer, an acknowledgement, a lag limit that expires and a board access do under the conditions under which
they take effect, and the statement on their commands (R146, R174, R240). -/

namespace Sys2Proof.Machine

namespace Dev

variable {d d1 x : Dev} {port : Nat} {packet : Bytes} {h : Head}

/-! ### Packets that a port receives for this station -/

/-- The packet of a transfer that is not detached goes on along its ring, and is held (R146, R173). -/
theorem transferPacket_eq {cls : Nat} (hr : d.receive port packet = (d1, some h)) (hcls : h.cls = cls)
    (hx : x = d1.forwardCopy port h packet) (hkept : x.discarded h = none) :
    d.transferPacket port cls packet = x.transferIn (x.transferOf h port) := by
  subst hx
  simp only [transferPacket, hr, hcls, ne_eq, not_true, if_false, hkept]

/-- A board store of an allowed context whose write is performed is acknowledged (R240). -/
theorem boardStoreIn_written (hr : d.receive port packet = (d1, some h)) (hcls : h.cls = 5) (hsend : u8 h.body 1 ≠ 1)
    (hsync : u8 h.body 1 ≠ 2) (hallowed : d1.boardAllowed (u8 h.body 0 % 64) = true)
    (hput : d1.memPut (u8 h.body 0 % 64) (boardLocal (u64 h.body 8)) (h.body.drop 16)
      (if u8 h.body 2 = 0 then none else some (h.body.getD 2 0)) = (none, x)) :
    d.boardStoreIn port packet = x.boardReply h.src h.tag 8 (ackBytes 0 St.ok) := by
  simp only [boardStoreIn, hr, hcls, ne_eq, not_true, hsend, hsync, hallowed, Bool.not_true, Bool.false_eq_true, if_false, hput]

/-- A board load of an allowed context whose data is good returns it (R240). -/
theorem boardLoadIn_read {b : Bytes} (hr : d.receive port packet = (d1, some h)) (hcls : h.cls = 6)
    (hallowed : d1.boardAllowed (u8 h.body 0 % 64) = true)
    (hget : d1.memGet (u8 h.body 0 % 64) (boardLocal (u64 h.body 8)) (u64 h.body 16) = (b, none, x)) :
    d.boardLoadIn port packet = x.boardReply h.src h.tag 7 (ackBytes 0 St.ok ++ b) := by
  simp only [boardLoadIn, hr, hcls, ne_eq, not_true, hallowed, Bool.not_true, Bool.false_eq_true, if_false, hget]

/-- Kind 0 acknowledges a write or read that was performed (log 15). -/
theorem ackOf_written {b : Bytes} (hb : u8 b 0 = 0) : ackOf b = .written := by simp only [ackOf, hb]

/-- The data of a board load that is outstanding ends it (R240). -/
theorem boardResponseIn_ends {b : BoardOut} (hr : d.receive port packet = (d1, some h)) (hcls : h.cls = 7) (hgood : u8 h.body 0 = 0)
    (hfind : (d1.circ.boards.find? fun b => boardTag b.no = h.tag && d1.boardStation b.module = h.src) = some b) :
    d.boardResponseIn port packet = d1.boardEnd b (h.body.drop 8) none false := by
  simp only [boardResponseIn, hr, hcls, if_true, ackOf_written hgood, boardAnswer, hfind, ackStatus]

/-- An acknowledgement of a SEND goes to the transfer that its TAG names (R174). -/
theorem ackArrive_send (hr : d.receive port packet = (d1, some h)) (hcls : h.cls = 8) (htag : h.tag < 2 ^ 31) (hgood : u8 h.body 0 = 0) :
    d.ackArrive port packet = d1.sendAck h.src h.tag .written := by
  simp only [ackArrive, hr, hcls, ne_eq, not_true, if_false, ge_iff_le, htag.not_ge, ackOf_written hgood]

/-! ### Lag limits that expire -/

/-- The station with a lagging transfer discarded, its TAG in the detach table and its sender told (R174). -/
def detachLagging (d : Dev) (src tag : Nat) (t : Transfer) (ts : List Transfer) (left : Nat) : Dev :=
  ((d.reach (t.arrivedAt + 1000 * t.lag)).onCirc fun q => { q with
    transfers := (t :: ts).foldl (fun l t => l.erase t) q.transfers
    discard := if left = 0 then q.discard else q.discard ++ [(src, tag, left)]
    detach := (if q.detach.length ≥ 256 then q.detach.drop 1 else q.detach) ++ [tag]
    detachCount := satAdd q.detachCount 1 }).ackTransfer t 1

/-- A lag limit that expires detaches its transfer, and the oldest RECV of its TAG that waits takes the entry (R174, R175). -/
theorem lagExpire_eq {src tag : Nat} {t : Transfer} {ts : List Transfer} {left : Nat} (hopen : d.barrierShut = false)
    (hlag : d.lagging src tag = (t :: ts, left)) (hslow : d.awaitsData t left = false) (hx : x = d.detachLagging src tag t ts left) :
    d.lagExpire src tag = match x.recvsWaiting.find? fun r => IW.nTag r.2.word.toNat = tag with
      | some r => x.recvTry r.1 r.2
      | none => x := by
  subst hx
  simp only [lagExpire, hlag, hopen, hslow, Bool.or_self, Bool.false_eq_true, if_false]
  rfl

end Dev

open Dev

/-- Settles O35: each packet is received and taken by its operation, and a lag limit detaches its transfer. -/
theorem transferCommandsComplete : Obligations.TransferCommandsComplete := by
  unfold Obligations.TransferCommandsComplete
  intro s port packet hp
  refine ⟨fun d h hr => ⟨?transfer, ?store, ?load, ?response, ?ack⟩, ?lag⟩
  case transfer =>
    intro x hx hkept
    exact ⟨fun hcls => becomes_of_live rfl hp (congrArg coresGo (transferPacket_eq hr hcls hx hkept)),
      fun hcls => becomes_of_live rfl hp (congrArg coresGo (transferPacket_eq hr hcls hx hkept))⟩
  case store =>
    intro hcls hsend hsync hallowed d1 hput
    exact becomes_of_live rfl hp (congrArg coresGo (boardStoreIn_written hr hcls hsend hsync hallowed hput))
  case load =>
    intro hcls hallowed b d1 hget
    exact becomes_of_live rfl hp (boardLoadIn_read hr hcls hallowed hget)
  case response =>
    intro b hcls hgood hfind
    exact becomes_of_live rfl hp (congrArg coresGo (boardResponseIn_ends hr hcls hgood hfind))
  case ack =>
    intro hcls htag hgood
    exact becomes_of_live rfl hp (congrArg coresGo (ackArrive_send hr hcls htag hgood))
  case lag =>
    intro src tag t ts left hopen hlag hslow d hd
    have hexpire := lagExpire_eq hopen hlag hslow hd
    refine ⟨fun hnone => becomes_of_live rfl hp (congrArg coresGo ?_), fun r hsome => becomes_of_live rfl hp (congrArg coresGo ?_)⟩
    · rw [hexpire, hnone]
    · rw [hexpire, hsome]

end Sys2Proof.Machine
end

section
/-! PROOFS. The one order of list entries, the ranking of a list, its first `k` and what does not change them, and the statement on
merges (R133). -/

namespace Sys2Proof.Machine

/-! ### The order of scores -/

namespace FVal

/-- A number among the reals and the infinities; a NaN is none of them, and its image says nothing. -/
noncomputable def toEReal : FVal → EReal
  | .nan => 0
  | .inf s => if s then ⊥ else ⊤
  | .fin s m e => (((fin s m e).rat : ℝ) : EReal)

/-- The order of finite values is that of their rational values. -/
theorem lt_fin_iff {s t : Bool} {m n : Nat} {e f : Int} :
    (fin s m e).lt (fin t n f) = true ↔ (fin s m e).rat < (fin t n f).rat := by
  rw [← units_mul s m (min_le_left e f), ← units_mul t n (min_le_right e f), mul_lt_mul_iff_left₀ (two_zpow_pos _), Int.cast_lt]
  exact decide_eq_true_iff

theorem lt_iff {x y : FVal} : x.lt y = true ↔ x.isNan = false ∧ y.isNan = false ∧ x.toEReal < y.toEReal := by
  match x, y with
  | .nan, _ | .inf _, .nan | .fin .., .nan => simp [lt, isNan]
  | .inf s, .inf t => cases s <;> cases t <;> simp [lt, isNan, toEReal]
  | .inf s, .fin .. | .fin .., .inf s => cases s <;> simp [lt, isNan, toEReal]
  | .fin .., .fin .. => simp [lt_fin_iff, isNan, toEReal]

theorem eqv_iff {x y : FVal} : x.eqv y = true ↔ x.isNan = false ∧ y.isNan = false ∧ x.toEReal = y.toEReal := by
  simp only [eqv, Bool.and_eq_true, Bool.not_eq_true', Bool.eq_false_iff (b := lt _ _), ne_eq, lt_iff]
  constructor
  · rintro ⟨⟨⟨hx, hy⟩, hxy⟩, hyx⟩
    exact ⟨hx, hy, le_antisymm (not_lt.1 fun h => hyx ⟨hy, hx, h⟩) (not_lt.1 fun h => hxy ⟨hx, hy, h⟩)⟩
  · rintro ⟨hx, hy, h⟩
    simp [hx, hy, h]

end FVal

/-- Whether a score is a number: a NaN has no place in the order (R143). -/
def scoreNumber (fp : Bool) (n : Nat) : Bool := !(fp && (f32 (word n)).isNan)
/-- The place of a score in the order, the better first (R133). -/
noncomputable def scoreKey (fp max : Bool) (n : Nat) : EReal :=
  let v : EReal := if fp then (f32 (word n)).toEReal else ((signed32 n : ℝ) : EReal)
  if max then -v else v

theorem scoreBetter_iff {fp max : Bool} {a b : Nat} : scoreBetter fp max a b = true ↔
    scoreNumber fp a = true ∧ scoreNumber fp b = true ∧ scoreKey fp max a < scoreKey fp max b := by
  cases fp
  · cases max <;> simp [scoreBetter, scoreNumber, scoreKey]
  · cases max <;> simp [scoreBetter, scoreNumber, scoreKey, FVal.lt_iff]
    exact and_left_comm

theorem scoreNe_eq_false_iff (max : Bool) {fp : Bool} {a b : Nat} : scoreNe fp a b = false ↔
    scoreNumber fp a = true ∧ scoreNumber fp b = true ∧ scoreKey fp max a = scoreKey fp max b := by
  cases fp
  · cases max <;> simp [scoreNe, scoreNumber, scoreKey]
  · cases max <;> simp [scoreNe, scoreNumber, scoreKey, FVal.eqv_iff]

/-! ### The order of entries -/

namespace LEnt

variable {fp max : Bool} {e f g : LEnt}

/-- An entry ranks before another as R133 gives it. -/
theorem before_iff : e.before fp max f = true ↔ e.valid = true ∧ (f.valid = false ∨ scoreBetter fp max e.score f.score = true ∨
    (scoreNe fp e.score f.score = false ∧ (e.row < f.row ∨ (e.row = f.row ∧ e.station < f.station)))) := by
  cases he : e.valid
  · cases hf : f.valid <;> simp [before, he, hf]
  cases hf : f.valid
  · simp [before, he, hf]
  cases hs : scoreNe fp e.score f.score
  · have hb : scoreBetter fp max e.score f.score = false := by
      obtain ⟨-, -, heq⟩ := (scoreNe_eq_false_iff max).1 hs
      rw [Bool.eq_false_iff, ne_eq, scoreBetter_iff]
      rintro ⟨-, -, hlt⟩
      exact hlt.ne heq
    by_cases hr : e.row = f.row <;> simp [before, he, hf, hs, hb, hr]
  · simp [before, he, hf, hs]

/-- The place of a valid entry in the order: its score, then its row, then its station. -/
noncomputable def rankKey (fp max : Bool) (e : LEnt) : EReal ×ₗ ℕ ×ₗ ℕ := toLex (scoreKey fp max e.score, toLex (e.row, e.station))

theorem before_iff_rankKey : e.before fp max f = true ↔ e.valid = true ∧ (f.valid = false ∨
    (scoreNumber fp e.score = true ∧ scoreNumber fp f.score = true ∧ e.rankKey fp max < f.rankKey fp max)) := by
  rw [before_iff, scoreBetter_iff, scoreNe_eq_false_iff max, rankKey, rankKey, Prod.Lex.toLex_lt_toLex, Prod.Lex.toLex_lt_toLex]
  tauto

@[simp] theorem before_irrefl (fp max : Bool) (e : LEnt) : e.before fp max e = false := by
  rw [Bool.eq_false_iff, ne_eq, before_iff_rankKey]
  rintro ⟨hv, hinv | ⟨-, -, hlt⟩⟩
  · simp [hv] at hinv
  · exact lt_irrefl _ hlt

theorem before_trans (h : e.before fp max f = true) (h' : f.before fp max g = true) : e.before fp max g = true := by
  rw [before_iff_rankKey] at *
  obtain ⟨he, hf | ⟨hne, -, hlt⟩⟩ := h
  · simp [hf] at h'
  obtain ⟨-, hg | ⟨-, hng, hlt'⟩⟩ := h'
  · exact ⟨he, .inl hg⟩
  · exact ⟨he, .inr ⟨hne, hng, hlt.trans hlt'⟩⟩

theorem before_asymm (h : e.before fp max f = true) : f.before fp max e = false :=
  Bool.eq_false_iff.2 fun h' => Bool.eq_false_iff.1 (before_irrefl fp max e) (before_trans h h')

/-- Of two entries with integer scores that tie, the rows are the same. -/
theorem row_eq_of_tie (he : e.valid = true) (hf : f.valid = true) (h : e.before false max f = false) (h' : f.before false max e = false) :
    e.row = f.row := by
  rw [Bool.eq_false_iff, ne_eq, before_iff_rankKey] at h h'
  simp only [he, hf, scoreNumber, Bool.false_and, Bool.not_false, true_and, Bool.true_eq_false, false_or, not_lt] at h h'
  exact congrArg (fun k => (ofLex (ofLex k).2).1) (le_antisymm h' h)

end LEnt

/-! ### Ranked lists -/

section

variable {fp max : Bool} {k : Nat} {e t : LEnt} {l m : List LEnt}

/-- No entry of the list ranks before one that stands ahead of it. -/
def Ranked (fp max : Bool) (l : List LEnt) : Prop := l.Pairwise fun e f => f.before fp max e = false
/-- Entries of which neither ranks before the other are copies of one. -/
def TiesAreCopies (fp max : Bool) (l : List LEnt) : Prop :=
  ∀ e ∈ l, ∀ f ∈ l, e.before fp max f = false → f.before fp max e = false → e = f

theorem TiesAreCopies.mono (h : TiesAreCopies fp max m) (hs : l ⊆ m) : TiesAreCopies fp max l :=
  fun e he f hf => h e (hs he) f (hs hf)

theorem rankIn_eq_orderedInsert (e : LEnt) (l : List LEnt) :
    rankIn fp max e l = l.orderedInsert (fun x y => x.before fp max y = true) e := by
  induction l with
  | nil => rfl
  | cons x xs ih => rw [rankIn, ih, List.orderedInsert_cons]

theorem rankIn_perm (e : LEnt) (l : List LEnt) : (rankIn fp max e l).Perm (e :: l) :=
  rankIn_eq_orderedInsert e l ▸ List.perm_orderedInsert _ _ _

theorem Ranked.rankIn (h : Ranked fp max l) (e : LEnt) : Ranked fp max (rankIn fp max e l) := by
  induction l with
  | nil => exact List.pairwise_singleton _ _
  | cons x xs ih =>
    obtain ⟨hx, hxs⟩ := List.pairwise_cons.1 h
    cases hb : e.before fp max x
    · simp only [Machine.rankIn, hb, Bool.false_eq_true, if_false]
      refine List.pairwise_cons.2 ⟨fun y hy => ?_, ih hxs⟩
      rcases List.mem_cons.1 ((rankIn_perm e xs).subset hy) with rfl | hy
      · exact hb
      · exact hx y hy
    · simp only [Machine.rankIn, hb, if_true]
      refine List.pairwise_cons.2 ⟨fun y hy => ?_, h⟩
      rcases List.mem_cons.1 hy with rfl | hy
      · exact LEnt.before_asymm hb
      · exact Bool.eq_false_iff.2 fun hye => Bool.eq_false_iff.1 (hx y hy) (LEnt.before_trans hye hb)

@[simp] theorem rank_nil (fp max : Bool) : rank fp max [] = [] := rfl

theorem rank_concat (l : List LEnt) (e : LEnt) : rank fp max (l ++ [e]) = rankIn fp max e (rank fp max l) := by
  rw [rank, List.foldl_concat, rank]

theorem rank_perm (fp max : Bool) (l : List LEnt) : (rank fp max l).Perm l := by
  induction l using List.reverseRecOn with
  | nil => rfl
  | append_singleton l e ih =>
    rw [rank_concat]
    exact (rankIn_perm e _).trans ((ih.cons e).trans (List.perm_append_singleton e l).symm)

@[simp] theorem mem_rank : e ∈ rank fp max l ↔ e ∈ l := (rank_perm fp max l).mem_iff
@[simp] theorem length_rank (fp max : Bool) (l : List LEnt) : (rank fp max l).length = l.length := (rank_perm fp max l).length_eq

theorem ranked_rank (fp max : Bool) (l : List LEnt) : Ranked fp max (rank fp max l) := by
  induction l using List.reverseRecOn with
  | nil => exact List.Pairwise.nil
  | append_singleton l e ih => exact rank_concat l e ▸ ih.rankIn e

/-- A list has one arrangement in rank order. -/
theorem Ranked.eq_rank (hm : Ranked fp max m) (h : m.Perm l) (hl : TiesAreCopies fp max l) : m = rank fp max l := by
  refine List.Perm.eq_of_pairwise (fun e f he hf hfe hef => ?_) hm (ranked_rank fp max l) (h.trans (rank_perm fp max l).symm)
  exact hl e (h.subset he) f (mem_rank.1 hf) hef hfe

theorem rank_eq_of_perm (h : m.Perm l) (hl : TiesAreCopies fp max l) : rank fp max m = rank fp max l :=
  (ranked_rank fp max m).eq_rank ((rank_perm fp max m).trans h) hl

/-! ### The first `k` of a list -/

/-- At least `k` entries of `l` are as good as `e`, which ranks before none of them. -/
def Behind (fp max : Bool) (k : Nat) (l : List LEnt) (e : LEnt) : Prop := k ≤ l.countP fun f => !e.before fp max f

theorem Behind.mono (h : Behind fp max k l e) (hs : l.Subperm m) : Behind fp max k m e := h.trans (hs.countP_le _)

theorem behind_of_forall (hk : k ≤ l.length) (h : ∀ f ∈ l, e.before fp max f = false) : Behind fp max k l e := by
  rw [Behind, List.countP_eq_length.2 fun f hf => by rw [h f hf]; rfl]
  exact hk

/-- What does not rank before an entry that is behind is behind too. -/
theorem Behind.of_not_before (h : Behind fp max k m t) (hties : TiesAreCopies fp max l) (he : e ∈ l) (ht : t ∈ l)
    (het : e.before fp max t = false) : Behind fp max k m e := by
  refine h.trans (List.countP_mono_left fun f _ htf => ?_)
  rw [Bool.not_eq_true'] at htf ⊢
  cases hte : t.before fp max e
  · rwa [hties e he t ht het hte]
  · exact Bool.eq_false_iff.2 fun hef => Bool.eq_false_iff.1 htf (LEnt.before_trans hte hef)

theorem Ranked.not_before_of_mem_drop (h : Ranked fp max l) (he : e ∈ l.drop k) : ∀ t ∈ l.take k, e.before fp max t = false := by
  rw [Ranked, ← List.take_append_drop k l, List.pairwise_append] at h
  obtain ⟨-, -, hcross⟩ := h
  exact fun t ht => hcross t ht e he

theorem mem_drop_rank (he : e ∈ l) (hout : e ∉ (rank fp max l).take k) : e ∈ (rank fp max l).drop k := by
  have hmem : e ∈ rank fp max l := mem_rank.2 he
  rw [← List.take_append_drop k (rank fp max l), List.mem_append] at hmem
  exact hmem.resolve_left hout

theorem length_take_of_mem_drop (he : e ∈ l.drop k) : (l.take k).length = k :=
  List.length_take_of_le (by have := List.length_pos_of_mem he; rw [List.length_drop] at this; omega)

theorem Ranked.behind_of_mem_drop (h : Ranked fp max l) (he : e ∈ l.drop k) : Behind fp max k (l.take k) e :=
  behind_of_forall (length_take_of_mem_drop he).ge (h.not_before_of_mem_drop he)

/-- An entry that ranks before one of a ranked list ranks before all that stand after it. -/
theorem Ranked.before_of_mem_drop {i : Nat} (h : Ranked fp max l) (hl : TiesAreCopies fp max l) (hi : i < l.length)
    (hb : e.before fp max l[i] = true) : ∀ f ∈ l.drop i, e.before fp max f = true := by
  intro f hf
  have hdrop := h.drop (i := i)
  rw [List.drop_eq_getElem_cons hi] at hf hdrop
  rcases List.mem_cons.1 hf with rfl | hf
  · exact hb
  have hfi := List.rel_of_pairwise_cons hdrop hf
  cases hif : l[i].before fp max f
  · rwa [← hl _ (List.getElem_mem hi) f (List.mem_of_mem_drop hf) hif hfi]
  · exact LEnt.before_trans hb hif

/-- An entry with `k` others as good ranks before none of the first `k`. -/
theorem Behind.not_before (h : Behind fp max k l e) (hl : TiesAreCopies fp max l) (ht : t ∈ (rank fp max l).take k) :
    e.before fp max t = false := by
  obtain ⟨i, hi, rfl⟩ := List.mem_take_iff_getElem.1 ht
  obtain ⟨hik, hil⟩ := lt_min_iff.1 hi
  by_contra hb
  have hafter := (ranked_rank fp max l).before_of_mem_drop (hl.mono (rank_perm fp max l).subset) hil
    (Bool.eq_true_of_not_eq_false hb)
  have hnone : ((rank fp max l).drop i).countP (fun f => !e.before fp max f) = 0 :=
    List.countP_eq_zero.2 fun f hf => by simp [hafter f hf]
  have hfew : k ≤ i := calc
    k ≤ (rank fp max l).countP (fun f => !e.before fp max f) := h.trans_eq ((rank_perm fp max l).countP_eq _).symm
    _ = ((rank fp max l).take i).countP (fun f => !e.before fp max f) := by
      rw [← List.take_append_drop i (rank fp max l), List.countP_append, hnone, List.take_append_drop]; rfl
    _ ≤ i := List.countP_le_length.trans (List.length_take_le _ _)
  omega

/-- Entries with `k` others as good do not change the first `k`. -/
theorem take_rank_append (hties : TiesAreCopies fp max (l ++ m)) (h : ∀ e ∈ m, Behind fp max k l e) :
    (rank fp max (l ++ m)).take k = (rank fp max l).take k := by
  have hl : TiesAreCopies fp max l := hties.mono (List.subset_append_left l m)
  have hrank : (rank fp max l).take k ++ rank fp max ((rank fp max l).drop k ++ m) = rank fp max (l ++ m) := by
    refine Ranked.eq_rank (List.pairwise_append.2 ⟨(ranked_rank fp max l).take, ranked_rank fp max _, fun t ht e he => ?_⟩) ?_ hties
    · rcases List.mem_append.1 (mem_rank.1 he) with he | he
      · exact (ranked_rank fp max l).not_before_of_mem_drop he t ht
      · exact (h e he).not_before hl ht
    · refine ((rank_perm fp max _).append_left _).trans ?_
      rw [← List.append_assoc, List.take_append_drop]
      exact (rank_perm fp max l).append_right m
  rcases Nat.lt_or_ge l.length k with hk | hk
  · have hm : m = [] := List.eq_nil_iff_forall_not_mem.2 fun e he => ((h e he).trans List.countP_le_length).not_gt hk
    rw [hm, List.append_nil]
  · rw [← hrank, List.take_left' (List.length_take_of_le (by rwa [length_rank]))]

/-- What is merged may be cut to its first `k` before (R133). -/
theorem take_rank_take_append (hties : TiesAreCopies fp max (l ++ m)) :
    (rank fp max ((rank fp max l).take k ++ m)).take k = (rank fp max (l ++ m)).take k := by
  have hperm : ((rank fp max l).take k ++ m ++ (rank fp max l).drop k).Perm (l ++ m) := by
    rw [List.append_assoc]
    refine (List.perm_append_comm.append_left _).trans ?_
    rw [← List.append_assoc, List.take_append_drop]
    exact (rank_perm fp max l).append_right m
  rw [← rank_eq_of_perm hperm hties]
  refine (take_rank_append (hties.mono hperm.subset) fun e he => ?_).symm
  exact ((ranked_rank fp max l).behind_of_mem_drop he).mono (List.sublist_append_left _ m).subperm

theorem append_take_rank_subset (l m : List LEnt) : l ++ (rank fp max m).take k ⊆ l ++ m :=
  List.append_subset.2 ⟨List.subset_append_left l m, fun _ he =>
    List.mem_append_right l (mem_rank.1 (List.mem_of_mem_take he))⟩

theorem take_rank_append_take (hties : TiesAreCopies fp max (l ++ m)) :
    (rank fp max (l ++ (rank fp max m).take k)).take k = (rank fp max (l ++ m)).take k := by
  rw [← rank_eq_of_perm List.perm_append_comm (hties.mono (append_take_rank_subset l m)),
    take_rank_take_append (hties.mono List.perm_append_comm.subset), rank_eq_of_perm List.perm_append_comm hties]

/-! ### Lists of `k` entries (R133) -/

theorem length_topK (fp max : Bool) (k : Nat) (l : List LEnt) : (topK fp max k l).length = k := by
  rw [topK, List.length_append, List.length_replicate]
  have := List.length_take_le k (rank fp max (l.filter (·.valid)))
  omega

theorem mem_of_mem_take_rank (he : e ∈ (rank fp max (l.filter (·.valid))).take k) : e ∈ l ∧ e.valid = true :=
  List.mem_filter.1 (mem_rank.1 (List.mem_of_mem_take he))

/-- The valid entries of a list are the first `k` of the valid candidates. -/
theorem filter_valid_topK (fp max : Bool) (k : Nat) (l : List LEnt) :
    (topK fp max k l).filter (·.valid) = (rank fp max (l.filter (·.valid))).take k := by
  rw [topK, List.filter_append, List.filter_eq_self.2 fun e he => (mem_of_mem_take_rank he).2,
    List.filter_replicate_of_neg Bool.false_ne_true, List.append_nil]

theorem topK_congr (h : (rank fp max (l.filter (·.valid))).take k = (rank fp max (m.filter (·.valid))).take k) :
    topK fp max k l = topK fp max k m := by
  rw [topK, topK, h]

/-- An entry of a list is one of the valid candidates' first `k`, or one of the invalid that fill it. -/
theorem mem_topK (he : e ∈ topK fp max k l) : e ∈ (rank fp max (l.filter (·.valid))).take k ∨ e = default :=
  (List.mem_append.1 he).imp_right List.eq_of_mem_replicate

theorem ranked_topK (fp max : Bool) (k : Nat) (l : List LEnt) : Ranked fp max (topK fp max k l) := by
  have hfill : ∀ e : LEnt, LEnt.before fp max default e = false := fun e =>
    Bool.eq_false_iff.2 fun h => Bool.false_ne_true (LEnt.before_iff.1 h).1
  refine List.pairwise_append.2 ⟨(ranked_rank fp max _).take, List.pairwise_replicate.2 (.inr (hfill _)), fun e _ f hf => ?_⟩
  rw [List.eq_of_mem_replicate hf]
  exact hfill e

/-- A valid candidate left out of a list ranks before none of its entries, all of them valid. -/
theorem not_before_of_not_mem_topK (he : e ∈ l) (hv : e.valid = true) (hout : e ∉ topK fp max k l) :
    ∀ f ∈ topK fp max k l, f.valid = true ∧ e.before fp max f = false := by
  have hdrop := mem_drop_rank (List.mem_filter.2 ⟨he, hv⟩) fun h => hout (List.mem_append_left _ h)
  have hfull : topK fp max k l = (rank fp max (l.filter (·.valid))).take k := by
    rw [topK, length_take_of_mem_drop hdrop, Nat.sub_self, List.replicate_zero, List.append_nil]
  rw [hfull]
  exact fun f hf => ⟨(mem_of_mem_take_rank hf).2, (ranked_rank fp max _).not_before_of_mem_drop hdrop f hf⟩

theorem topK_perm (h : l.Perm m) (hties : TiesAreCopies fp max (l.filter (·.valid))) : topK fp max k m = topK fp max k l :=
  topK_congr (congrArg (List.take k) (rank_eq_of_perm (h.symm.filter _) hties))

/-- A merge of merged lists is the merge of all (R133). -/
theorem topK_topK_append (hties : TiesAreCopies fp max ((l ++ m).filter (·.valid))) :
    topK fp max k (topK fp max k l ++ topK fp max k m) = topK fp max k (l ++ m) := by
  rw [List.filter_append] at hties
  apply topK_congr
  have hcut : TiesAreCopies fp max (l.filter (·.valid) ++ (rank fp max (m.filter (·.valid))).take k) :=
    hties.mono (append_take_rank_subset _ _)
  rw [List.filter_append, List.filter_append, filter_valid_topK, filter_valid_topK, take_rank_take_append hcut,
    take_rank_append_take hties]

end

/-- Settles O57: a list is the valid candidates' first `k`, which what they are cut from and in what order does not change. -/
theorem mergesDependOnTheirEntriesAlone : Obligations.MergesDependOnTheirEntriesAlone := by
  unfold Obligations.MergesDependOnTheirEntriesAlone
  intro fp max k a b c
  refine ⟨fun e f => ?order, fun _ hties => ?_⟩
  case order =>
    rw [LEnt.before_iff]
    cases fp <;> cases max <;> simp [scoreBetter, scoreNe]
  have hall : TiesAreCopies fp max ((a ++ b).filter (·.valid)) := fun e he f hf =>
    hties e (List.mem_of_mem_filter he) f (List.mem_of_mem_filter hf) (List.of_mem_filter he) (List.of_mem_filter hf)
  have ha : TiesAreCopies fp max (a.filter (·.valid)) := hall.mono ((List.sublist_append_left a b).filter _).subset
  refine ⟨length_topK .., ranked_topK .., fun e => not_before_of_not_mem_topK, fun e he => ?members, ?count, fun hac => topK_perm hac ha,
    topK_topK_append hall⟩
  case members =>
    rcases mem_topK he with he | rfl
    · exact .inl (mem_of_mem_take_rank he).1
    · exact .inr rfl
  case count => rw [filter_valid_topK, List.length_take, length_rank]

end Sys2Proof.Machine
end

section
/-! PROOFS. The re-pass rounds of a leaf: what each leaves behind the first `k`, and the statement on them (R136, R137). -/

namespace Sys2Proof.Machine

section

variable {max : Bool} {k j : Nat} {e : LEnt} {l handed kept : List LEnt} {left : List (List LEnt)}

/-- Where a leaf stands before it merges the next 32 entries of each bank that goes on: the entries handed over so far, those left in these
banks, each behind the `j` lists of 32 that its bank handed over, and those kept in the banks that stopped, behind the first `k`. -/
structure LeafState (max : Bool) (k j : Nat) (l handed : List LEnt) (left : List (List LEnt)) (kept : List LEnt) : Prop where
  perm : (handed ++ left.flatten ++ kept).Perm l
  ranked : ∀ b ∈ left, Ranked false max b
  behind : ∀ b ∈ left, ∀ e ∈ b, Behind false max (32 * j) handed e
  kept_behind : ∀ e ∈ kept, Behind false max k handed e

/-- What the banks hand over with the next list of each. -/
def handOver (handed : List LEnt) (left : List (List LEnt)) : List LEnt := handed ++ left.flatMap (·.take 32)

theorem LeafState.mem_of_mem_left (h : LeafState max k j l handed left kept) {b : List LEnt} (hb : b ∈ left) (he : e ∈ b) : e ∈ l :=
  h.perm.subset (List.mem_append_left _ (List.mem_append_right _ (List.mem_flatten.2 ⟨b, hb, he⟩)))

theorem LeafState.handOver_subset (h : LeafState max k j l handed left kept) : handOver handed left ⊆ l := by
  intro e he
  rcases List.mem_append.1 he with he | he
  · exact h.perm.subset (List.mem_append_left _ (List.mem_append_left _ he))
  · obtain ⟨b, hb, he⟩ := List.mem_flatMap.1 he
    exact h.mem_of_mem_left hb (List.mem_of_mem_take he)

/-- What a bank has left after its list is behind one list more. -/
theorem LeafState.behind_handOver (h : LeafState max k j l handed left kept) {b : List LEnt} (hb : b ∈ left) (he : e ∈ b.drop 32) :
    Behind false max (32 * (j + 1)) (handOver handed left) e := by
  have hbefore := h.behind b hb e (List.mem_of_mem_drop he)
  have hlist := ((h.ranked b hb).behind_of_mem_drop he).mono
    (List.sublist_flatten_of_mem (List.mem_map_of_mem (f := (·.take 32)) hb)).subperm
  rw [Behind] at *
  rw [handOver, List.countP_append, List.flatMap_def]
  omega

/-- The leaf's list after a merge is the first `k` of all that has been handed over. -/
theorem LeafState.leafMerge_eq (h : LeafState max k j l handed left kept) (hties : TiesAreCopies false max l) :
    leafMerge max k ((rank false max handed).take k) (left.map BankRun.start) = (rank false max (handOver handed left)).take k := by
  have hcur : (left.map BankRun.start).flatMap (·.cur) = left.flatMap (·.take 32) := List.flatMap_map ..
  have hswap : (left.flatMap (·.take 32) ++ handed).Perm (handOver handed left) := List.perm_append_comm
  have hall := hties.mono h.handOver_subset
  rw [leafMerge, hcur, take_rank_append_take (hall.mono hswap.subset), rank_eq_of_perm hswap hall]

/-- What the banks have left, split into those that go on and those that stop. -/
theorem flatten_perm_handOver (p : List LEnt → Bool) (left : List (List LEnt)) : (left.flatMap (·.take 32) ++
    (((left.filter p).map (·.drop 32)).flatten ++ (left.filter (!p ·)).flatMap (·.drop 32))).Perm left.flatten := by
  have hrest : (((left.filter p).map (·.drop 32)).flatten ++ (left.filter (!p ·)).flatMap (·.drop 32)).Perm
      (left.flatMap (·.drop 32)) := by
    rw [← List.flatMap_def, ← List.flatMap_append]
    exact (List.filter_append_perm p left).flatMap_right _
  refine (hrest.append_left _).trans ((List.flatMap_append_perm left _ _).trans (.of_eq ?_))
  simp [List.flatMap_id']

/-- A round: the banks whose rest may hold more of the first `k` go on, and the others keep theirs. -/
theorem LeafState.next (h : LeafState max k j l handed left kept) (p : List LEnt → Bool)
    (hstop : ∀ b ∈ left, p b = false → ∀ e ∈ b.drop 32, Behind false max k (handOver handed left) e) :
    LeafState max k (j + 1) l (handOver handed left) ((left.filter p).map (·.drop 32))
      (kept ++ (left.filter (!p ·)).flatMap (·.drop 32)) where
  perm := by
    refine (List.perm_append_comm.append_left _).trans ?_
    have hall := ((flatten_perm_handOver p left).append_left handed).append_right kept
    simp only [handOver, List.append_assoc] at hall ⊢
    exact hall.trans (by simpa only [List.append_assoc] using h.perm)
  ranked := List.forall_mem_map.2 fun b hb => (h.ranked b (List.mem_of_mem_filter hb)).drop
  behind := List.forall_mem_map.2 fun b hb e he => h.behind_handOver (List.mem_of_mem_filter hb) he
  kept_behind := by
    intro e he
    rcases List.mem_append.1 he with he | he
    · exact (h.kept_behind e he).mono (List.sublist_append_left _ _).subperm
    · obtain ⟨b, hb, he⟩ := List.mem_flatMap.1 he
      obtain ⟨hb, hp⟩ := List.mem_filter.1 hb
      exact hstop b hb (by simpa using hp) e he

/-- When no bank goes on, the first `k` of what has been handed over are those of all. -/
theorem LeafState.done (h : LeafState max k j l handed [] kept) (hties : TiesAreCopies false max l) :
    (rank false max handed).take k = (rank false max l).take k := by
  have hperm : (handed ++ kept).Perm l := by simpa using h.perm
  rw [← rank_eq_of_perm hperm hties, take_rank_append (hties.mono hperm.subset) h.kept_behind]

/-- A bank that is not saturated has none of the first `k` left (R137). -/
theorem LeafState.behind_of_not_saturated (h : LeafState max k j l handed left kept) (hties : TiesAreCopies false max l)
    {b : List LEnt} (hb : b ∈ left)
    (hsat : (BankRun.start b).saturated ((rank false max (handOver handed left)).take k) = false) (he : e ∈ b.drop 32) :
    Behind false max k (handOver handed left) e := by
  have hfull : (b.take 32).length = 32 := length_take_of_mem_drop he
  obtain ⟨f, hf, hout⟩ : ∃ f ∈ b.take 32, f ∉ (rank false max (handOver handed left)).take k := by
    simpa [BankRun.saturated, BankRun.start, hfull] using hsat
  have hfirst := (ranked_rank false max _).behind_of_mem_drop
    (mem_drop_rank (List.mem_append_right _ (List.mem_flatMap.2 ⟨b, hb, hf⟩)) hout)
  have hbehind := hfirst.mono ((List.take_sublist k _).subperm.trans (rank_perm false max _).subperm)
  exact hbehind.of_not_before hties (h.mem_of_mem_left hb (List.mem_of_mem_drop he)) (h.mem_of_mem_left hb (List.mem_of_mem_take hf))
    ((h.ranked b hb).not_before_of_mem_drop he f hf)

/-- The banks that go on collect the next of what they have left. -/
theorem map_next_start (left : List (List LEnt)) :
    (left.map BankRun.start).map BankRun.next = (left.map (·.drop 32)).map BankRun.start := by
  rw [List.map_map, List.map_map]
  rfl

theorem leafRounds_snd_le (max : Bool) (k n : Nat) (top : List LEnt) (banks : List BankRun) : (leafRounds max k n top banks).2 ≤ n := by
  induction n generalizing top banks with
  | zero => exact le_rfl
  | succ n ih =>
    rw [leafRounds]
    dsimp only
    split
    · exact Nat.zero_le _
    · exact Nat.succ_le_succ (ih _ _)

/-- With as many rounds to come as lists of 32 that the first `k` may still take, the leaf's list is exact. -/
theorem LeafState.leafRounds_eq {n : Nat} (h : LeafState max k j l handed left kept) (hties : TiesAreCopies false max l)
    (hk : k ≤ 32 * (j + 1 + n)) :
    (leafRounds max k n ((rank false max handed).take k) (left.map BankRun.start)).1 = (rank false max l).take k := by
  induction n generalizing j handed left kept with
  | zero =>
    rw [leafRounds, h.leafMerge_eq hties]
    have hlast := h.next (fun _ => false) fun b hb _ e he => hk.trans (h.behind_handOver hb he)
    rw [List.filter_false] at hlast
    exact hlast.done hties
  | succ n ih =>
    have hnext := h.next (BankRun.saturated ((rank false max (handOver handed left)).take k) ∘ BankRun.start)
      fun b hb hsat e he => h.behind_of_not_saturated hties hb hsat he
    rw [leafRounds, h.leafMerge_eq hties, List.filter_map]
    split
    next hnone =>
      rw [List.isEmpty_map, List.isEmpty_iff] at hnone
      exact (hnone ▸ hnext).done hties
    next => exact map_next_start _ ▸ ih hnext (by omega)

/-- Before the first round nothing has been handed over. -/
theorem leafState_start (max : Bool) (k : Nat) (banks : List (List LEnt)) :
    LeafState max k 0 banks.flatten [] (banks.map (rank false max)) [] where
  perm := by
    rw [List.nil_append, List.append_nil, ← List.flatMap_def]
    exact (List.Perm.flatMap_left banks fun b _ => rank_perm false max b).trans (.of_eq List.flatMap_id)
  ranked := List.forall_mem_map.2 fun b _ => ranked_rank false max b
  behind := fun _ _ _ _ => Nat.zero_le _
  kept_behind := fun _ he => absurd he List.not_mem_nil

/-- Rows of a table tie with no other. -/
theorem tiesAreCopies_of_rows (hvalid : ∀ e ∈ l, e.valid = true) (hrows : (l.map (·.row)).Nodup) : TiesAreCopies false max l :=
  fun e he f hf hef hfe => List.inj_on_of_nodup_map hrows he hf (LEnt.row_eq_of_tie (hvalid e he) (hvalid f hf) hef hfe)

end

/-- The rounds that may come are as many as lists of 32 after the first that the first `k` take. -/
theorem le_mostRounds (k : Nat) : k ≤ 32 * (0 + 1 + mostRounds k) := by
  rw [mostRounds, ceilDiv]
  omega

/-- Settles O58: after each merge the leaf's list is the first `k` of what the banks have handed over, and what the banks that stop keep
is behind it. -/
theorem repassesGiveTheExactTopK : Obligations.RepassesGiveTheExactTopK := by
  unfold Obligations.RepassesGiveTheExactTopK
  intro max k banks hvalid hrows
  have hrounds := (leafState_start max k banks).leafRounds_eq (tiesAreCopies_of_rows hvalid hrows) (le_mostRounds k)
  rw [rank_nil, List.take_nil, List.map_map] at hrounds
  exact ⟨hrounds, leafRounds_snd_le ..⟩

end Sys2Proof.Machine
end

section
/-! PROOFS. What a placement writes, and what signatures do as they arrive, are placed, injected and built: the statements on placement and
on the signature commands (R155, R156, R159, R164, R166, R167, R177). -/

namespace Sys2Proof.Machine

/-! ### Marks of the lines that a range does not touch -/

/-- A fold of changes of a table that each leave a key alone leaves it alone. -/
theorem Table.get_foldl_keeps {α β : Type} (x : α) {f : Table α → β → Table α} {l : Nat} {is : List β}
    (h : ∀ i ∈ is, ∀ t, Table.get x (f t i) l = Table.get x t l) (t : Table α) :
    Table.get x (is.foldl f t) l = Table.get x t l := by
  induction is generalizing t with
  | nil => rfl
  | cons i is ih => rw [List.foldl_cons, ih fun j hj => h j (List.mem_cons_of_mem _ hj), h i List.mem_cons_self]

/-- The marks of the lines outside a range stay (R332). -/
theorem get_markLines_out (t : Table (Option Status)) {ofs n l : Nat} (m : Option Status) (h : l < ofs / 64 ∨ ofs + n ≤ l * 64) :
    (markLines t ofs n m).get none l = t.get none l := by
  unfold markLines
  split
  · rfl
  · refine Table.get_foldl_keeps none (fun i hi t => ?_) t
    have hne : ofs / 64 + i ≠ l := by
      rw [List.mem_range] at hi
      omega
    dsimp only
    split
    · exact Table.get_set_ne _ _ _ hne
    · exact Table.get_modify_ne _ _ _ hne

namespace Dev

variable {d : Dev}

/-! ### The buffer of a core that is written -/

section

variable (d) (c ofs : Nat) (b : Bytes) (m : Option Status)

theorem core_bufPut_self : (d.bufPut c ofs b m).core c = { d.core c with buf :=
    { bytes := (d.core c).buf.bytes.setRange 0 ofs b, marks := markLines (d.core c).buf.marks ofs b.length m } } :=
  core_onCore_self d c _

theorem core_bufPut_ne {k : Nat} (h : k ≠ c) : (d.bufPut c ofs b m).core k = d.core k := core_onCore_ne d _ h.symm

/-- A write of a buffer touches the cores alone. -/
theorem bufPut_frame : { d.bufPut c ofs b m with cores := d.cores } = d := rfl

end

/-! ### Placement (R162, R166, R167) -/

section

variable {b : Bytes} {lc c first n ofs base size : Nat} (hfield : d.placeField (Sig.place b) lc = (first, n, ofs)) (hn : n ≠ 0)
  (hregion : d.sigRegion lc = some (base, size)) (hcore : d.physCore lc = some c)
include hfield hn hregion hcore

/-- A placement past the signature's tiles or past the half region fails R167's check. -/
theorem placeCore_none (hbad : first + n > Sig.tiles b ∨ ofs + (Sig.tileAt b (first + n) - Sig.tileAt b first) > size / 2) :
    d.placeCore b lc = none := by
  simp only [placeCore, hfield, hn, hregion, hcore, if_false]
  exact if_pos (by simpa using hbad)

/-- Any other writes its tiles at the half region of the step's parity (R166). -/
theorem placeCore_some (htiles : first + n ≤ Sig.tiles b)
    (hroom : ofs + (Sig.tileAt b (first + n) - Sig.tileAt b first) ≤ size / 2) :
    d.placeCore b lc = some (true, d.bufPut c (base + Sig.step b % 2 * (size / 2) + ofs)
      (sub b (Sig.tileAt b first) (Sig.tileAt b (first + n) - Sig.tileAt b first)) none) := by
  simp only [placeCore, hfield, hn, hregion, hcore, if_false]
  exact if_neg (by simpa using ⟨htiles, hroom⟩)

end

end Dev

open Dev

/-- Settles O36: a placement that passes R167's checks is one write of the core's buffer, whose frame is used. -/
theorem placementWritesTheTiles : Obligations.PlacementWritesTheTiles := by
  unfold Obligations.PlacementWritesTheTiles
  rintro d b _ lc c first n ofs base size _ _ hfield hn hregion hcore rfl rfl rfl
  refine ⟨placeCore_none hfield hn hregion hcore, fun htiles hroom =>
    ⟨_, placeCore_some hfield hn hregion hcore htiles hroom, bufGet_bufPut _ _ _ _ _, ?bytes, ?marks, ?core,
      fun k hk => core_bufPut_ne _ _ _ _ _ hk, bufPut_frame _ _ _ _ _⟩⟩
  case bytes =>
    intro a ha
    rw [core_bufPut_self]
    exact Table.get_setRange_out _ _ _ _ _ ha
  case marks =>
    intro l hl
    rw [core_bufPut_self]
    exact get_markLines_out _ _ hl
  case core => rw [core_bufPut_self]

namespace Dev

variable {d d1 d2 x : Dev}

/-! ### Arrival, placement, injection and building -/

/-- A good signature that a port receives goes on along its rings and is taken (R155, R156, R159). -/
theorem sigArrive_eq {port : Nat} {packet : Bytes} {h : Head} (hr : d.receive port packet = (d1, some h)) (hcls : h.cls = 1)
    (hgood : d1.sigGood h.body = true) : d.sigArrive port packet = (d1.passSig port h.body).takeSig port h.body := by
  simp only [sigArrive, hr, hcls, ne_eq, not_true, if_false, hgood, Bool.not_true, Bool.false_eq_true]

/-- The oldest signature that may be placed, and whose placements all pass, is placed and counted (R166). -/
theorem placeNext_eq {h : HeldSig} (hfind : d.circ.sigs.find? d.placeable = some h) (hplace : d.placeSig h.bytes = (true, x)) :
    d.placeNext = ((x.leaveStaging h).onCirc fun q => { q with placedCount := satAdd q.placedCount 1 }).spine.coresGo := by
  simp only [placeNext, hfind, hplace, if_true]

/-- The next entry of the schedule, when its injection may begin and its source is not marked, is built as a signature that leaves with
the next number (R158, R164, R177). -/
theorem inject_eq {r : Run} {e b : Bytes} {t : BuiltTiles} (hrun : d.work.run = some r)
    (hentry : d.injEntry d.circ.nextEntry = some e) (hmay : d.mayInject e = true) (htake : d1 = d.awake.takeEntry r e)
    (hshort : d1.tooLong e = false) (htiles : d1.buildTiles e = (t, d2)) (hmark : t.mark = none)
    (hb : b = d2.signature e d.circ.nextSeq r.no t.tiles) (hlen : b.length ≤ sigMax) :
    d.inject = d2.takeNumber.built (d.circ.nextSeq % 2) t.cxl b := by
  simp only [inject, hrun, hentry, hmay, ← htake, hshort, htiles, hmark, ← hb, Bool.not_true, Bool.false_eq_true, if_false]
  exact if_neg hlen.not_gt

/-- The build that began first is complete, and its signature leaves (R177). -/
theorem buildDone_eq {b : Build} {leaf : Nat} (hhead : d.circ.builds.head? = some b) (hleaf : b.leaf = leaf) :
    d.buildDone leaf = (d.onCirc fun q => { q with builds := q.builds.erase b }).sendSig b.bytes := by
  simp only [buildDone, hhead, hleaf, ne_eq, not_true, if_false]

end Dev

/-- Settles O34: each command is one operation on signatures, whose equation is used. -/
theorem signatureCommandsComplete : Obligations.SignatureCommandsComplete := by
  unfold Obligations.SignatureCommandsComplete
  intro s port packet leaf fs hp
  refine ⟨?arrival, ?placement, ?injection, ?build⟩
  case arrival =>
    intro d h hr hcls hgood
    exact becomes_of_live rfl hp (sigArrive_eq hr hcls hgood)
  case placement =>
    intro h d hfind hplace
    exact becomes_of_live rfl hp (placeNext_eq hfind hplace)
  case injection =>
    rintro _ r e d2 t d3 rfl hrun hentry hmay htake hshort htiles hmark b hb hlen
    exact becomes_of_live rfl hp (inject_eq hrun hentry hmay htake hshort htiles hmark hb hlen)
  case build =>
    intro b hhead hleaf
    exact becomes_of_live rfl hp (buildDone_eq hhead hleaf)

end Sys2Proof.Machine
end

section
/-! PROOFS. The positions of a gathering as numbers of mixed radix, the copies of a leg as the ring of its axis, and the statement that
every other position obtains a signature once (R151, R155, R156). -/

namespace Sys2Proof.Machine

/-! ### Positions as numbers of mixed radix (R151) -/

/-- Positions from one place of an axis to the next. -/
def axisStride (dims : List Nat) : Nat → Nat
  | 0 => 1
  | 1 => dims.getD 0 1
  | _ => dims.getD 0 1 * dims.getD 1 1

theorem axisStride_two (dims : List Nat) : axisStride dims 2 = dims.getD 0 1 * dims.getD 1 1 := rfl

/-- The place of a position on an axis. -/
def placeOn (dims : List Nat) (a p : Nat) : Nat := p / axisStride dims a % dims.getD a 1

/-- The position at another place of an axis. -/
def moveTo (dims : List Nat) (a p v : Nat) : Nat := p - placeOn dims a p * axisStride dims a + v * axisStride dims a

/-- The positions of a gathering. -/
def positionCount (dims : List Nat) : Nat := dims.getD 0 1 * dims.getD 1 1 * dims.getD 2 1

section

variable {dims : List Nat} {a b p q v : Nat}

theorem placeOn_mul_le (a p : Nat) : placeOn dims a p * axisStride dims a ≤ p :=
  (Nat.mul_le_mul_right _ (Nat.mod_le _ _)).trans (Nat.div_mul_le_self _ _)

theorem moveTo_placeOn (a p : Nat) : moveTo dims a p (placeOn dims a p) = p := by
  rw [moveTo, Nat.sub_add_cancel (placeOn_mul_le a p)]

/-- A position after a move: what lies beyond the axis and within its stride is as it was. -/
theorem moveTo_eq (a p v : Nat) : moveTo dims a p v =
    axisStride dims a * (dims.getD a 1 * (p / axisStride dims a / dims.getD a 1) + v) + p % axisStride dims a := by
  have hle := placeOn_mul_le (dims := dims) a p
  have hp : axisStride dims a * (dims.getD a 1 * (p / axisStride dims a / dims.getD a 1) + placeOn dims a p) +
      p % axisStride dims a = p := by
    rw [placeOn, Nat.div_add_mod, Nat.div_add_mod]
  rw [mul_add, Nat.mul_comm _ (placeOn dims a p)] at hp
  rw [moveTo, mul_add, Nat.mul_comm _ v]
  omega

theorem moveTo_mod : moveTo dims a p v % axisStride dims a = p % axisStride dims a := by
  rw [moveTo_eq, Nat.mul_add_mod, Nat.mod_mod]

/-- Strides and sizes multiply up, so that each axis stands within the strides of the later ones. -/
theorem stride_mul_dvd_stride (hab : a < b) (hb : b < 3) : axisStride dims a * dims.getD a 1 ∣ axisStride dims b := by
  obtain ⟨rfl, rfl⟩ | ⟨rfl, rfl⟩ | ⟨rfl, rfl⟩ : (a = 0 ∧ b = 1) ∨ (a = 0 ∧ b = 2) ∨ (a = 1 ∧ b = 2) := by omega
  all_goals simp [axisStride]

theorem stride_mul_dvd_count (ha : a < 3) : axisStride dims a * dims.getD a 1 ∣ positionCount dims := by
  obtain rfl | rfl | rfl : a = 0 ∨ a = 1 ∨ a = 2 := by omega
  · exact ⟨dims.getD 1 1 * dims.getD 2 1, by rw [axisStride, positionCount]; ring⟩
  · exact ⟨dims.getD 2 1, by rw [axisStride, positionCount]⟩
  · exact ⟨1, by rw [axisStride_two, positionCount, Nat.mul_one]⟩

/-- What lies within a later axis's stride says the place on an axis. -/
theorem placeOn_eq_of_mod (hab : a < b) (hb : b < 3) (h : q % axisStride dims b = p % axisStride dims b) :
    placeOn dims a q = placeOn dims a p := by
  have hdvd := stride_mul_dvd_stride (dims := dims) hab hb
  have hmod (r : Nat) : placeOn dims a r = r % axisStride dims b % (axisStride dims a * dims.getD a 1) / axisStride dims a := by
    rw [Nat.mod_mod_of_dvd r hdvd, Nat.mod_mul_right_div_self, placeOn]
  rw [hmod, hmod, h]

/-- What lies beyond an earlier axis says the place on an axis. -/
theorem placeOn_eq_of_div (hba : b < a) (ha : a < 3)
    (h : q / (axisStride dims b * dims.getD b 1) = p / (axisStride dims b * dims.getD b 1)) : placeOn dims a q = placeOn dims a p := by
  obtain ⟨m, hm⟩ := stride_mul_dvd_stride (dims := dims) hba ha
  have hdiv (r : Nat) : placeOn dims a r = r / (axisStride dims b * dims.getD b 1) / m % dims.getD a 1 := by
    rw [placeOn, hm, Nat.div_div_eq_div_mul]
  rw [hdiv, hdiv, h]

variable (hpos : ∀ a < 3, 0 < dims.getD a 1)
include hpos

theorem axisStride_pos (a : Nat) : 0 < axisStride dims a := by
  unfold axisStride
  split
  · exact Nat.one_pos
  · exact hpos 0 (by decide)
  · exact Nat.mul_pos (hpos 0 (by decide)) (hpos 1 (by decide))

theorem placeOn_lt (ha : a < 3) (p : Nat) : placeOn dims a p < dims.getD a 1 := Nat.mod_lt _ (hpos a ha)

theorem moveTo_div_stride : moveTo dims a p v / axisStride dims a = dims.getD a 1 * (p / axisStride dims a / dims.getD a 1) + v := by
  have hs := axisStride_pos hpos a
  rw [moveTo_eq, Nat.mul_add_div hs, Nat.div_eq_of_lt (Nat.mod_lt _ hs), Nat.add_zero]

theorem placeOn_moveTo_self (hv : v < dims.getD a 1) : placeOn dims a (moveTo dims a p v) = v := by
  rw [placeOn, moveTo_div_stride hpos, Nat.mul_add_mod, Nat.mod_eq_of_lt hv]

theorem moveTo_div (hv : v < dims.getD a 1) :
    moveTo dims a p v / (axisStride dims a * dims.getD a 1) = p / (axisStride dims a * dims.getD a 1) := by
  rw [← Nat.div_div_eq_div_mul, ← Nat.div_div_eq_div_mul, moveTo_div_stride hpos, Nat.mul_add_div (Nat.zero_lt_of_lt hv),
    Nat.div_eq_of_lt hv, Nat.add_zero]

/-- A move along an axis leaves the places on the others. -/
theorem placeOn_moveTo_ne (ha : a < 3) (hb : b < 3) (hne : b ≠ a) (hv : v < dims.getD a 1) :
    placeOn dims b (moveTo dims a p v) = placeOn dims b p := by
  rcases Nat.lt_or_gt_of_ne hne with hlt | hgt
  · exact placeOn_eq_of_mod hlt ha moveTo_mod
  · exact placeOn_eq_of_div hgt hb (moveTo_div hpos hv)

theorem moveTo_lt (ha : a < 3) (hv : v < dims.getD a 1) (hp : p < positionCount dims) : moveTo dims a p v < positionCount dims := by
  obtain ⟨m, hm⟩ := stride_mul_dvd_count (dims := dims) ha
  have hsize : 0 < axisStride dims a * dims.getD a 1 := Nat.mul_pos (axisStride_pos hpos a) (hpos a ha)
  rw [hm, Nat.mul_comm, ← Nat.div_lt_iff_lt_mul hsize] at hp ⊢
  rwa [moveTo_div hpos hv]

/-- A position is known by its places. -/
theorem eq_of_placeOn_eq (hp : p < positionCount dims) (hq : q < positionCount dims)
    (h : ∀ a < 3, placeOn dims a q = placeOn dims a p) : q = p := by
  have hlast (r : Nat) (hr : r < positionCount dims) : placeOn dims 2 r = r / dims.getD 0 1 / dims.getD 1 1 := by
    rw [Nat.div_div_eq_div_mul]
    refine Nat.mod_eq_of_lt ?_
    rwa [axisStride_two, Nat.div_lt_iff_lt_mul (Nat.mul_pos (hpos 0 (by decide)) (hpos 1 (by decide))), Nat.mul_comm]
  have h0 : q % dims.getD 0 1 = p % dims.getD 0 1 := by simpa [placeOn, axisStride] using h 0 (by decide)
  have h1 : q / dims.getD 0 1 % dims.getD 1 1 = p / dims.getD 0 1 % dims.getD 1 1 := h 1 (by decide)
  have h2 : q / dims.getD 0 1 / dims.getD 1 1 = p / dims.getD 0 1 / dims.getD 1 1 := by
    rw [← hlast q hq, ← hlast p hp, h 2 (by decide)]
  have hmid : q / dims.getD 0 1 = p / dims.getD 0 1 := by rw [← Nat.div_add_mod (q / _) (dims.getD 1 1), h1, h2, Nat.div_add_mod]
  rw [← Nat.div_add_mod q (dims.getD 0 1), h0, hmid, Nat.div_add_mod]

end

/-! ### The positions that differ from one on some axes only -/

/-- The positions reached from one by going to each place of each of some axes in turn. -/
def spreadOver (dims : List Nat) : List Nat → Nat → List Nat
  | [], p => [p]
  | a :: l, p => (List.range (dims.getD a 1)).flatMap fun v => spreadOver dims l (moveTo dims a p v)

/-- The positions from one's own place of an axis and those from the others are all from that axis on. -/
theorem perm_spreadOver_cons {dims l vs : List Nat} {a p : Nat} (h : (placeOn dims a p :: vs).Perm (List.range (dims.getD a 1))) :
    (spreadOver dims l p ++ vs.flatMap fun v => spreadOver dims l (moveTo dims a p v)).Perm (spreadOver dims (a :: l) p) := by
  have hfrom := h.flatMap_right fun v => spreadOver dims l (moveTo dims a p v)
  rwa [List.flatMap_cons, moveTo_placeOn] at hfrom

section

variable {dims : List Nat} (hpos : ∀ a < 3, 0 < dims.getD a 1)
include hpos

theorem mem_spreadOver {l : List Nat} {p q : Nat} (hl : ∀ a ∈ l, a < 3) (hnd : l.Nodup) (hp : p < positionCount dims) :
    q ∈ spreadOver dims l p ↔ q < positionCount dims ∧ ∀ b < 3, b ∉ l → placeOn dims b q = placeOn dims b p := by
  induction l generalizing p with
  | nil =>
    rw [spreadOver, List.mem_singleton]
    constructor
    · rintro rfl
      exact ⟨hp, fun _ _ _ => rfl⟩
    · rintro ⟨hq, hsame⟩
      exact eq_of_placeOn_eq hpos hp hq fun b hb => hsame b hb List.not_mem_nil
  | cons a l ih =>
    obtain ⟨ha, hl⟩ := List.forall_mem_cons.1 hl
    obtain ⟨hal, hnd⟩ := List.nodup_cons.1 hnd
    simp only [spreadOver, List.mem_flatMap, List.mem_range]
    constructor
    · rintro ⟨v, hv, hq⟩
      obtain ⟨hqn, hsame⟩ := (ih hl hnd (moveTo_lt hpos ha hv hp)).1 hq
      refine ⟨hqn, fun b hb hbl => ?_⟩
      rw [List.mem_cons, not_or] at hbl
      rw [hsame b hb hbl.2, placeOn_moveTo_ne hpos ha hb hbl.1 hv]
    · rintro ⟨hqn, hsame⟩
      have hv := placeOn_lt hpos ha q
      refine ⟨placeOn dims a q, hv, (ih hl hnd (moveTo_lt hpos ha hv hp)).2 ⟨hqn, fun b hb hbl => ?_⟩⟩
      by_cases hba : b = a
      · rw [hba, placeOn_moveTo_self hpos hv]
      · rw [placeOn_moveTo_ne hpos ha hb hba hv, hsame b hb (List.not_mem_cons_of_ne_of_not_mem hba hbl)]

/-- Each is reached once: those reached from two places of an axis stay at these. -/
theorem nodup_spreadOver {l : List Nat} {p : Nat} (hl : ∀ a ∈ l, a < 3) (hnd : l.Nodup) (hp : p < positionCount dims) :
    (spreadOver dims l p).Nodup := by
  induction l generalizing p with
  | nil => exact List.nodup_singleton p
  | cons a l ih =>
    obtain ⟨ha, hl⟩ := List.forall_mem_cons.1 hl
    obtain ⟨hal, hnd⟩ := List.nodup_cons.1 hnd
    have hplace {v q : Nat} (hv : v < dims.getD a 1) (hq : q ∈ spreadOver dims l (moveTo dims a p v)) : placeOn dims a q = v := by
      rw [((mem_spreadOver hpos hl hnd (moveTo_lt hpos ha hv hp)).1 hq).2 a ha hal, placeOn_moveTo_self hpos hv]
    rw [spreadOver, List.nodup_flatMap]
    refine ⟨fun v hv => ih hl hnd (moveTo_lt hpos ha (List.mem_range.1 hv) hp), ?_⟩
    refine List.nodup_range.pairwise_of_forall_ne fun v hv w hw hne q hqv hqw => hne ?_
    rw [← hplace (List.mem_range.1 hv) hqv, hplace (List.mem_range.1 hw) hqw]

/-- Over axes among which is every one longer than 1, they are all positions. -/
theorem spreadOver_perm_range {l : List Nat} {p : Nat} (hl : ∀ a ∈ l, a < 3) (hnd : l.Nodup) (hp : p < positionCount dims)
    (hall : ∀ a < 3, 1 < dims.getD a 1 → a ∈ l) : (spreadOver dims l p).Perm (List.range (positionCount dims)) := by
  rw [List.perm_ext_iff_of_nodup (nodup_spreadOver hpos hl hnd hp) List.nodup_range]
  intro q
  rw [mem_spreadOver hpos hl hnd hp, List.mem_range, and_iff_left_iff_imp]
  intro _ b hb hbl
  have hone : ¬ 1 < dims.getD b 1 := fun h => hbl (hall b hb h)
  have hqlt := placeOn_lt hpos hb q
  have hplt := placeOn_lt hpos hb p
  omega

end

/-! ### The ring of an axis (R155) -/

/-- The place `i` steps on, from place `c` of a ring of `n`. -/
def ringStep (n c : Nat) (plus : Bool) (i : Nat) : Nat := if plus then (c + i) % n else (c + n - i % n) % n

/-- The places that two copies reach, one with `hp` hops on the plus side and one with `hm` on the minus side. -/
def ringPlaces (n c hp hm : Nat) : List Nat :=
  ((List.range hp).map fun i => ringStep n c true (i + 1)) ++ (List.range hm).map fun i => ringStep n c false (i + 1)

/-- The place at distance `k` on the plus side is reached by going on, or by going back round the ring. -/
theorem mem_ringPlaces {n c hp hm v k : Nat} (hn : hp + hm + 1 = n) (hk : 0 < k) (hkn : k < n) (hv : (c + k) % n = v) :
    v ∈ ringPlaces n c hp hm := by
  simp only [ringPlaces, ringStep, List.mem_append, List.mem_map, List.mem_range, if_true, Bool.false_eq_true, if_false]
  by_cases hplus : k ≤ hp
  · exact .inl ⟨k - 1, by omega, by rw [Nat.sub_add_cancel hk, hv]⟩
  · have hback : c + n - (n - k - 1 + 1) % n = c + k := by
      rw [Nat.mod_eq_of_lt (by omega)]
      omega
    exact .inr ⟨n - k - 1, by omega, by rw [hback, hv]⟩

/-- Hops for every other place of the ring reach each of them once. -/
theorem ringPlaces_perm {n c hp hm : Nat} (hc : c < n) (hn : hp + hm + 1 = n) : (c :: ringPlaces n c hp hm).Perm (List.range n) := by
  have hsub : List.range n ⊆ c :: ringPlaces n c hp hm := by
    intro v hv
    rw [List.mem_range] at hv
    rw [List.mem_cons]
    rcases Nat.lt_trichotomy v c with hlt | rfl | hgt
    · refine .inr (mem_ringPlaces (k := v + n - c) hn (by omega) (by omega) ?_)
      rw [show c + (v + n - c) = v + n by omega, Nat.add_mod_right, Nat.mod_eq_of_lt hv]
    · exact .inl rfl
    · refine .inr (mem_ringPlaces (k := v - c) hn (by omega) (by omega) ?_)
      rw [show c + (v - c) = v by omega, Nat.mod_eq_of_lt hv]
  have hlen : (c :: ringPlaces n c hp hm).length ≤ (List.range n).length := by
    simp only [ringPlaces, List.length_cons, List.length_append, List.length_map, List.length_range]
    omega
  exact ((List.nodup_range.subperm hsub).perm_of_length_le hlen).symm

/-! ### What the copies of a signature reach (R155, R156) -/

theorem getD_of_leg {axes : List Nat} {l a : Nat} (ha : axes[l]? = some a) : axes.getD l 0 = a := by
  rw [List.getD_eq_getElem?_getD, ha, Option.getD_some]

/-- Hops of the plus copy of a leg (R155). -/
def plusHops (axes dims : List Nat) (split l : Nat) : Nat :=
  if bitOf split l then (dims.getD (axes.getD l 0) 1 - 1) / 2 else (dims.getD (axes.getD l 0) 1 - 1 + 1) / 2
/-- Hops of the minus copy of a leg. -/
def minusHops (axes dims : List Nat) (split l : Nat) : Nat := dims.getD (axes.getD l 0) 1 - 1 - plusHops axes dims split l

/-- The hops of a leg reach each other place of its ring once. -/
theorem legPlaces_perm {axes : List Nat} (dims : List Nat) (split : Nat) {l a c : Nat} (ha : axes[l]? = some a) (hc : c < dims.getD a 1) :
    (c :: ringPlaces (dims.getD a 1) c (plusHops axes dims split l) (minusHops axes dims split l)).Perm
      (List.range (dims.getD a 1)) := by
  refine ringPlaces_perm hc ?_
  have hle : plusHops axes dims split l ≤ dims.getD a 1 - 1 := by
    rw [plusHops, getD_of_leg ha]
    split <;> omega
  rw [minusHops, getD_of_leg ha]
  omega

/-- The copies of one leg. -/
def legCopies (axes dims : List Nat) (split l : Nat) : List (Nat × Bool × Nat × Nat) :=
  (if plusHops axes dims split l > 0 then [(axes.getD l 0, true, l, plusHops axes dims split l)] else []) ++
    if minusHops axes dims split l > 0 then [(axes.getD l 0, false, l, minusHops axes dims split l)] else []

theorem launches_eq (axes dims : List Nat) (split got1 : Nat) : launches axes dims split got1 =
    ((List.range axes.length).filter fun l => l ≥ got1).flatMap (legCopies axes dims split) := rfl

/-- The first leg from one on is that leg. -/
theorem filter_range_of_lt {n g : Nat} (h : g < n) :
    ((List.range n).filter fun l => l ≥ g) = g :: (List.range n).filter fun l => l ≥ g + 1 := by
  obtain ⟨m, rfl⟩ : ∃ m, n = g + 1 + m := ⟨n - (g + 1), by omega⟩
  have hbelow (k : Nat) : ((List.range k).filter fun l => l ≥ k) = [] := by simp
  have habove (k : Nat) (hk : k ≤ g + 1) : (((List.range m).map (g + 1 + ·)).filter fun l => l ≥ k) = (List.range m).map (g + 1 + ·) :=
    List.filter_eq_self.2 fun l hl => by
      obtain ⟨i, -, rfl⟩ := List.mem_map.1 hl
      exact decide_eq_true (by omega)
  rw [List.range_add, List.filter_append, List.filter_append, habove _ le_rfl, habove _ (Nat.le_succ g), hbelow,
    List.range_succ, List.filter_append, hbelow]
  simp

theorem launches_of_lt {axes : List Nat} (dims : List Nat) (split : Nat) {got1 : Nat} (h : got1 < axes.length) :
    launches axes dims split got1 = legCopies axes dims split got1 ++ launches axes dims split (got1 + 1) := by
  rw [launches_eq, filter_range_of_lt h, List.flatMap_cons, ← launches_eq]

theorem launches_of_le {axes : List Nat} (dims : List Nat) (split : Nat) {got1 : Nat} (h : axes.length ≤ got1) :
    launches axes dims split got1 = [] := by
  rw [launches_eq, List.filter_eq_nil_iff.2, List.flatMap_nil]
  intro l hl
  rw [List.mem_range] at hl
  simp only [ge_iff_le, decide_eq_true_eq]
  omega

/-- A position some steps along an axis is a move to the place that many steps on. -/
theorem posStep_eq (d : Dev) (a : Nat) (plus : Bool) (i : Nat) : d.posStep a plus i =
    moveTo d.dims a d.position (ringStep (d.dims.getD a 1) (placeOn d.dims a d.position) plus i) := rfl

/-- The positions that obtain a signature by a copy, when `next` gives those that obtain it by what each of its stations launches. -/
def obtainedBy (dims : List Nat) (next : Nat → Nat → List Nat) (p : Nat) (x : Nat × Bool × Nat × Nat) : List Nat :=
  (List.range x.2.2.2).flatMap fun i =>
    let q := moveTo dims x.1 p (ringStep (dims.getD x.1 1) (placeOn dims x.1 p) x.2.1 (i + 1))
    q :: next (x.2.2.1 + 1) q

/-- The copies of a leg reach the places of its ring. -/
theorem flatMap_legCopies {axes : List Nat} (dims : List Nat) (split : Nat) (next : Nat → Nat → List Nat) (p : Nat) {l a : Nat}
    (ha : axes[l]? = some a) : (legCopies axes dims split l).flatMap (obtainedBy dims next p) =
      (ringPlaces (dims.getD a 1) (placeOn dims a p) (plusHops axes dims split l) (minusHops axes dims split l)).flatMap fun v =>
        moveTo dims a p v :: next (l + 1) (moveTo dims a p v) := by
  have hside (plus : Bool) (h : Nat) : (if h > 0 then [(a, plus, l, h)] else []).flatMap (obtainedBy dims next p) =
      (List.range h).flatMap fun i =>
        let q := moveTo dims a p (ringStep (dims.getD a 1) (placeOn dims a p) plus (i + 1))
        q :: next (l + 1) q := by
    rcases Nat.eq_zero_or_pos h with rfl | hpos
    · rfl
    · rw [if_pos hpos, List.flatMap_singleton, obtainedBy]
  rw [legCopies, getD_of_leg ha, List.flatMap_append, hside, hside, ringPlaces, List.flatMap_append, List.flatMap_map, List.flatMap_map]

/-- The station, as it would stand at another position of its gathering. -/
def Dev.atPosition (d : Dev) (p : Nat) : Dev := d.onWork fun w => { w with gath := w.gath.map fun g => { g with pos := p } }

section

variable {d : Dev} {g : Gathering} (hg : d.work.gath = some g) {axes : List Nat} {split : Nat}
include hg

theorem dims_atPosition (p : Nat) : (d.atPosition p).dims = g.dims := by simp [Dev.atPosition, Dev.dims, hg]

theorem position_atPosition (p : Nat) : (d.atPosition p).position = p := by simp [Dev.atPosition, Dev.position, hg]

theorem obtainedFrom_succ (k got1 p : Nat) : obtainedFrom d axes split (k + 1) got1 p =
    (launches axes g.dims split got1).flatMap (obtainedBy g.dims (obtainedFrom d axes split k) p) := by
  have hcopies : obtainedFrom d axes split (k + 1) got1 p = (launches axes (d.atPosition p).dims split got1).flatMap fun x =>
      (List.range x.2.2.2).flatMap fun i =>
        let q := (d.atPosition p).posStep x.1 x.2.1 (i + 1)
        q :: obtainedFrom d axes split k (x.2.2.1 + 1) q := rfl
  simp only [hcopies, posStep_eq, dims_atPosition hg, position_atPosition hg]
  rfl

/-- Leg by leg: each place of the ring obtains the signature and launches the later legs, and the station itself launches these too. -/
theorem obtainedFrom_succ_of_leg {got1 a : Nat} (ha : axes[got1]? = some a) (k p : Nat) :
    obtainedFrom d axes split (k + 1) got1 p =
      ((ringPlaces (g.dims.getD a 1) (placeOn g.dims a p) (plusHops axes g.dims split got1) (minusHops axes g.dims split got1)).flatMap
        fun v => moveTo g.dims a p v :: obtainedFrom d axes split k (got1 + 1) (moveTo g.dims a p v)) ++
      obtainedFrom d axes split (k + 1) (got1 + 1) p := by
  rw [obtainedFrom_succ hg, launches_of_lt _ _ (List.getElem?_eq_some_iff.1 ha).1, List.flatMap_append,
    flatMap_legCopies _ _ _ _ ha, ← obtainedFrom_succ hg]

theorem obtainedFrom_of_le {got1 : Nat} (h : axes.length ≤ got1) (k p : Nat) : obtainedFrom d axes split k got1 p = [] := by
  cases k with
  | zero => rfl
  | succ k => rw [obtainedFrom_succ hg, launches_of_le _ _ h, List.flatMap_nil]

/-- A position and those that obtain the signature from it are the positions that its later legs' axes span. -/
theorem obtainedFrom_perm_spreadOver (hpos : ∀ a < 3, 0 < g.dims.getD a 1) {l : List Nat} (hl : ∀ a ∈ l, a < 3) {k got1 : Nat}
    (hdrop : axes.drop got1 = l) (hk : l.length ≤ k) (p : Nat) :
    (p :: obtainedFrom d axes split k got1 p).Perm (spreadOver g.dims l p) := by
  induction l generalizing k got1 p with
  | nil => rw [obtainedFrom_of_le hg (List.drop_eq_nil_iff.1 hdrop), spreadOver]
  | cons a l ih =>
    obtain ⟨ha, hl⟩ := List.forall_mem_cons.1 hl
    have hleg : axes[got1]? = some a := by rw [← List.head?_drop, hdrop, List.head?_cons]
    have htail : axes.drop (got1 + 1) = l := by rw [← List.tail_drop, hdrop, List.tail_cons]
    obtain ⟨k, rfl⟩ : ∃ m, k = m + 1 := Nat.exists_eq_succ_of_ne_zero (Nat.ne_zero_of_lt hk)
    have hkl : l.length ≤ k := Nat.le_of_succ_le_succ hk
    have hplaces := legPlaces_perm g.dims split hleg (placeOn_lt hpos ha p)
    rw [obtainedFrom_succ_of_leg hg hleg]
    refine .trans ?_ (perm_spreadOver_cons hplaces)
    refine (List.perm_append_comm.cons p).trans ?_
    exact (ih hl htail (Nat.le_succ_of_le hkl) p).append (List.Perm.flatMap_left _ fun v _ => ih hl htail hkl _)

end

/-- Settles O52: the legs span every axis that is longer than 1. -/
theorem eachPositionObtainsASignatureOnce : Obligations.EachPositionObtainsASignatureOnce := by
  unfold Obligations.EachPositionObtainsASignatureOnce
  intro d g x y z split axes hg hdims hx hy hz hin hnd hlt hall
  have hpos : ∀ a < 3, 0 < g.dims.getD a 1 := by
    rw [hdims]
    intro a ha
    obtain rfl | rfl | rfl : a = 0 ∨ a = 1 ∨ a = 2 := by omega
    · exact hx
    · exact hy
    · exact hz
  have hcount : positionCount g.dims = x * y * z := by rw [hdims]; rfl
  rw [← hcount] at hin ⊢
  exact (obtainedFrom_perm_spreadOver hg hpos hlt rfl le_rfl g.pos).trans (spreadOver_perm_range hpos hlt hnd hin hall)

end Sys2Proof.Machine
end

section
/-! PROOFS. What accesses of the registers of BAR0 and of the board window do under the conditions under which they take effect, and the
statement on their commands (R183, R271, R392, R396 to R398, R401 to R403). -/

namespace Sys2Proof.Machine

namespace Dev

variable {d : Dev} {org : Origin} {ofs : Nat}

/-! ### Writes that reach their register -/

/-- The station at which a write arrives: a request of the management path that firmware hears wakes it (R326). -/
def wokenBy (d : Dev) (org : Origin) : Dev := d.given (match org with | .mgmt m => d.hears m | _ => false) fun d => d.rouse

/-- A write that an origin may make, and that reaches its register, is made (R391, R396). -/
theorem written_eq (f : Dev → Dev) (hheard : (d.wokenBy org).unheard org = false) (hreach : (d.wokenBy org).reaches org ofs = true)
    (hopen : (d.wokenBy org).sealedOff ofs = false) : d.written org ofs f = f (d.wokenBy org) := by
  have hin : (!(d.wokenBy org).reaches org ofs) = false := by rw [hreach, Bool.not_true]
  exact (if_neg (Bool.eq_false_iff.1 hheard)).trans ((if_neg (Bool.eq_false_iff.1 hin)).trans (if_neg (Bool.eq_false_iff.1 hopen)))

/-- A write of a size or alignment that BAR0 does not accept is refused where it reaches an offset (R392). -/
theorem badWrite_eq (hheard : (d.wokenBy org).unheard org = false) (hreach : (d.wokenBy org).reaches org ofs = true) :
    d.badWrite org ofs = (d.wokenBy org).refuse org ofs St.notPermitted := by
  have hin : (!(d.wokenBy org).reaches org ofs) = false := by rw [hreach, Bool.not_true]
  exact (if_neg (Bool.eq_false_iff.1 hheard)).trans ((if_neg (Bool.eq_false_iff.1 hin)).trans (ite_self _))

/-- The physical function and the JTAG port stand outside the management path. -/
theorem wokenBy_direct (h : org = .fn 0 ∨ org = .jtag) : d.wokenBy org = d := by
  rcases h with rfl | rfl <;> rfl

theorem unheard_direct (h : org = .fn 0 ∨ org = .jtag) : d.unheard org = false := by
  rcases h with rfl | rfl <;> rfl

/-- A reset by the physical function reserves an entry for each of its changes and for each key that goes, and makes them in their order
(R353, R367, R401). -/
theorem globReset_eq {v : Word} {n : Nat} (hreach : d.reaches (.fn 0) 0x10 = true) (hopen : d.sealedOff 0x10 = false)
    (hbits : resetBits v ≠ []) (hup : d.boot.restarting = false)
    (hn : n = (resetBits v).length + if flag v 16 then (d.ctxs.filter fun e => e.2.key.isSome).length else 0)
    (hroom : d.colRoom n = true) : d.globReset (.fn 0) v =
      (d.colReserve n).each (resetBits v) fun d b => (d.logNext 1 255 0 0x10 0 b 0).resetOne b := by
  subst hn
  unfold globReset
  rw [pfOnly_fn0 _ _ hreach hopen]
  refine (if_neg (by simpa using hbits)).trans ?_
  simp only [loggedAll, hup, hroom, Bool.not_true, Bool.false_eq_true, if_false]
  rfl

/-- A hand-set by the physical function or the JTAG port, with room for its entry, is made (R271). -/
theorem handSet_eq {v : Word} (hdirect : org = .fn 0 ∨ org = .jtag) (hreach : d.reaches org 0x90018 = true)
    (hopen : d.sealedOff 0x90018 = false) (hgo : flag v 31 = true) (hup : d.boot.restarting = false) (hroom : d.colRoom 1 = true) :
    d.handSet org v = d.handGo org (flag v 0) := by
  have hwoken : d.wokenBy org = d := wokenBy_direct hdirect
  unfold handSet
  rw [written_eq _ (unheard_direct hdirect) (by rwa [hwoken]) (by rwa [hwoken]), hwoken]
  rcases hdirect with rfl | rfl <;> simp [hgo, hup, hroom]

/-- PEAK_RST of a staging register sets its peak to the granules in use (R183). -/
theorem peakReset_eq {leaf : Nat} {v : Word} (hheard : (d.wokenBy org).unheard org = false)
    (hreach : (d.wokenBy org).reaches org (0x70020 + 4 * leaf) = true) (hopen : (d.wokenBy org).sealedOff (0x70020 + 4 * leaf) = false)
    (hrst : flag v 15 = true) : d.peakReset org leaf v = ((d.wokenBy org).onCirc fun q =>
      if leaf = 0 then { q with peakA := (d.wokenBy org).stageOcc 0 } else { q with peakB := (d.wokenBy org).stageOcc 1 }).accepted org := by
  unfold peakReset plainWrite
  rw [written_eq _ hheard hreach hopen, hrst]
  rfl

/-- An 8-byte write of a pair, whose entries both have room where they are logged, writes its halves in order (R367, R392, R396). -/
theorem writeWide_eq {v : Dword} (hlo : loAt ofs = true) (hpair : ofs % 8 = 0) (hroom : pairLogged ofs = false ∨ d.colRoom 2 = true) :
    d.writeWide org ofs v = (((d.colReserve (b2n (pairLogged ofs))).writeReg org ofs (half v.toNat false)).colRelease
      (b2n (pairLogged ofs))).writeReg org (ofs + 4) (half v.toNat true) := by
  unfold writeWide
  refine (if_neg (by simp [hlo, hpair])).trans (if_neg ?_)
  rcases hroom with hplain | hroom
  · simp [hplain]
  · simp [hroom]

/-- A write past BAR0 is one of the function's standard registers (R273; log 76). -/
theorem standardWrite_fn (c : CtxId) (v : Word) (hperst : d.pins.perstN = true) :
    d.standardWrite (.fn c) ofs v = (d.pcieWrite c.val ofs v).drainRings.finishRuns := by
  simp only [standardWrite, hperst, if_true]

/-! ### Reads -/

section

variable {a : Nat} (ha : a < 2 ^ 24)
include ha

/-- A read below 2^24 is one of BAR0. -/
theorem readOut_bar0 (wide : Bool) : d.readOut org a wide =
    (d.readBar0 org (bar0Ofs org a) wide).2.emit (.regValue (d.readBar0 org (bar0Ofs org a) wide).1) := by
  unfold readOut
  exact (if_neg (by omega)).trans (if_neg (by omega))

end

section

variable (hreach : d.reaches org ofs = true) (halign : ofs % 4 = 0)
include hreach halign

/-- A read of a low half latches the high half for its requester (R398). -/
theorem readBar0_lo (hlo : loAt ofs = true) : d.readBar0 org ofs false = ((d.regAt ofs).toNat, d.latchHigh org ofs) := by
  have hmbx : ofs ≠ 0x1008 := by rintro rfl; exact absurd hlo (by decide)
  have hstall : ofs ≠ 0x2004C := by rintro rfl; exact absurd hlo (by decide)
  simp [readBar0, hreach, halign, hlo, hmbx, hstall]

/-- An 8-byte read of a pair reads both halves at one moment (R392). -/
theorem readBar0_wide (hlo : loAt ofs = true) (hpair : ofs % 8 = 0) :
    d.readBar0 org ofs true = ((d.regAt ofs).toNat + (d.regAt (ofs + 4)).toNat * 2 ^ 32, d) := by
  simp [readBar0, hreach, halign, hlo, hpair]

/-- A read of a high half that its requester has latched reads the latch (R398). -/
theorem readBar0_latched {l : Word} (hge : 4 ≤ ofs) (hlo : loAt (ofs - 4) = true) (hhi : loAt ofs = false) (hmbx : ofs ≠ 0x1008)
    (hstall : ofs ≠ 0x2004C) (hlatch : d.glb.latch.get (0, 0) (requester org) = (ofs - 4 + 1, l)) :
    d.readBar0 org ofs false = (l.toNat, d) := by
  simp only [readBar0, hlatch]
  simp [hreach, halign, hge, hlo, hhi, hmbx, hstall]

end

/-! ### The board window (R402, R403) -/

section

variable {n c va : Nat} (hctx : (d.ctx c).regs.enable = true) (hup : d.memUp = true)
include hctx hup

/-- A read of this module's own memory whose data is good returns it. -/
theorem winLocal_read {k : Nat} {b : Bytes} {x : Dev} (hget : d.memGet c va k = (b, none, x)) :
    d.winLocal n c va (.read k) = x.emit (.window b false) := by
  simp [winLocal, accOf, hctx, hup, hget]

/-- A write of this module's own memory that is performed answers nothing. -/
theorem winLocal_write {b : Bytes} {x : Dev} (hput : d.memPut c va b none = (none, x)) : d.winLocal n c va (.write b) = x := by
  simp [winLocal, accOf, hctx, hup, hput]

end

/-- An access by a valid window onto this module is one of its own memory. -/
theorem window_local {n c va : Nat} (hfn : d.fnOpen 0 = true) (hn : n = ofs / 2 ^ 34 % 4) (hvalid : flag (d.glb.win.get 0 n) 31 = true)
    (hc : c = fld (d.glb.win.get 0 n) 21 16) (hva : va = fld (d.glb.win.get 0 n) 11 0 * 2 ^ 34 + ofs % 2 ^ 34) (hown : n = d.moduleNo)
    (acc : WinAccess) : d.window ofs acc = d.winLocal n c va acc := by
  subst hc hva hn
  unfold window
  exact (if_neg (by simp [hfn])).trans ((if_neg (by rw [hvalid]; simp)).trans (if_pos hown))

end Dev

open Dev

/-- A size and alignment that BAR0 does not accept are not among those it does (R392). -/
theorem not_acceptedAccess {a size : Nat} {lo : Bool} (h4 : size ≠ 4 ∨ a % 4 ≠ 0) (h8 : size ≠ 8 ∨ a % 8 ≠ 0 ∨ lo = false) :
    ¬ ((size = 4 && a % 4 = 0) || (size = 8 && a % 8 = 0 && lo)) = true := by
  simp only [Bool.or_eq_true, Bool.and_eq_true, decide_eq_true_eq]
  rintro (⟨hsize, halign⟩ | ⟨⟨hsize, halign⟩, hlo⟩)
  · exact h4.elim (· hsize) (· halign)
  · exact h8.elim (· hsize) fun h => h.elim (· halign) fun hno => Bool.noConfusion (hno.symm.trans hlo)

/-- Settles O48: each command is one access, whose equation is used. -/
theorem registerCommandsComplete : Obligations.RegisterCommandsComplete := by
  unfold Obligations.RegisterCommandsComplete
  intro s org v hp
  refine ⟨?reset, ?handSet, ?peak, ?read, ?bad, ?standard, ?write, ?window⟩
  case reset =>
    intro hreach hopen hbits hup hroom
    have hreset := globReset_eq hreach hopen hbits hup rfl hroom
    exact ⟨becomes_of_live rfl hp hreset, becomes_of_live rfl hp hreset, becomes_of_live rfl hp hreset⟩
  case handSet =>
    intro hreach hopen hdirect hgo hup hroom
    have hset := handSet_eq hdirect hreach hopen hgo hup hroom
    exact ⟨fun hforce => becomes_of_live rfl hp (hforce ▸ hset), fun hclear => becomes_of_live rfl hp (hclear ▸ hset)⟩
  case peak =>
    rintro leaf _ rfl hheard hreach hopen hrst
    exact becomes_of_live rfl hp (peakReset_eq hheard hreach hopen hrst)
  case read =>
    rintro a _ ha rfl hreach halign
    refine ⟨fun hlo => ⟨becomes_of_live rfl hp ?_, fun hpair => becomes_of_live rfl hp ?_⟩,
      fun l hge hlo hhi hmbx hstall hlatch => becomes_of_live rfl hp ?_⟩
    · rw [readOut_bar0 ha, readBar0_lo hreach halign hlo]
    · rw [readOut_bar0 ha, readBar0_wide hreach halign hlo hpair]
    · rw [readOut_bar0 ha, readBar0_latched hreach halign hge hlo hhi hmbx hstall hlatch]
  case bad =>
    intro a size h4 h8
    refine ⟨becomes_of_live rfl hp (if_neg (not_acceptedAccess h4 h8)), ?_⟩
    rintro _ _ rfl rfl hheard hreach
    exact becomes_of_live rfl hp ((if_neg (not_acceptedAccess h4 h8)).trans (badWrite_eq hheard hreach))
  case standard =>
    intro a c x ha hperst
    exact becomes_of_live rfl hp ((if_pos ha).trans (standardWrite_fn c _ hperst))
  case write =>
    rintro a _ x ha rfl
    exact ⟨becomes_of_live rfl hp (if_neg ha.not_ge), fun hlo hpair hroom =>
      becomes_of_live rfl hp ((if_neg ha.not_ge).trans (writeWide_eq hlo hpair hroom))⟩
  case window =>
    intro ofs n va c hfn hn hvalid hc hva hown hctx hup
    have hlocal := window_local hfn hn hvalid hc hva hown
    exact ⟨fun k b d hget => becomes_of_live rfl hp ((hlocal _).trans (winLocal_read hctx hup hget)),
      fun b d hput => becomes_of_live rfl hp ((hlocal _).trans (winLocal_write hctx hup hput))⟩

end Sys2Proof.Machine
end

section
/-! PROOFS. The kettle's operations under the conditions under which they take effect, what an OPEN leaves of its edition and of what is
staged, and the statements on them (R200 to R205, R208, R284). -/

namespace Sys2Proof.Machine

namespace Dev

variable {d : Dev} {j : Job}

/-! ### STAGE (R201) -/

/-- What a manifest is read for leaves the station, and nothing else changes. -/
theorem readManifest_eq (a : Nat) (m : HostRead) : ∃ out, d.readManifest a m = { d with out := out } := by
  unfold readManifest given
  cases m with
  | none => exact ⟨_, rfl⟩
  | some b =>
    dsimp only
    split
    · exact ⟨_, rfl⟩
    · exact ⟨_, rfl⟩

theorem heldLayer_readManifest (a : Nat) (m : HostRead) (c id layer : Nat) :
    (d.readManifest a m).heldLayer c id layer = d.heldLayer c id layer := by
  obtain ⟨out, hread⟩ := readManifest_eq (d := d) a m
  rw [hread]
  rfl

theorem patchOk_readManifest (a : Nat) (r : HostRead) (m : Bytes) (e : Edition) (l : Layer) :
    (d.readManifest a r).patchOk j m e l = d.patchOk j m e l := by
  obtain ⟨out, hread⟩ := readManifest_eq (d := d) a r
  rw [hread]
  rfl

/-- A STAGE whose manifest fits and whose shards are fetched and checked keeps them as the staged copy of its layer. -/
theorem kettleStage_eq {m img : Bytes} {e : Edition} {l n : Layer} {ss : List Shard} {adopt : List Bytes} {x : Dev}
    (hheld : d.heldLayer j.ctx j.kedition j.klayer = some (e, l)) (hfits : d.patchOk j m e l = true)
    (hn : n = { Manifest.layer m 0 with lbase := l.lbase, hbase := l.hbase })
    (hfetch : ((d.readManifest (u64 j.bytes 32) (some m)).setStaged j.ctx j.kedition j.klayer none).stageFetch j m e n img =
      (.ok (ss, adopt), x)) :
    d.kettleStage j (some m) (some img) = (x.setStaged j.ctx j.kedition j.klayer
      (some ⟨j.kedition, n, ss, adopt, u32 j.bytes 48, false, n.form ≠ 2 || fromPeer j⟩)).settle j St.ok 0 0 := by
  dsimp only at hn
  subst hn
  unfold kettleStage
  simp only [heldLayer_readManifest, hheld, patchOk_readManifest, hfits, hfetch, Bool.not_true, Bool.false_eq_true, if_false]

/-! ### CLOSE and the barrier (R202) -/

/-- A CLOSE that its binding allows begins to close the barrier. -/
theorem closing_eq {n : Nat} (hmay : d.stationedHere j.ctx = false ∨ d.position = 0) (hup : d.boot.restarting = false)
    (hroom : d.colRoom n = true) : d.closing j n =
    ((d.reserve j.no n).onJob j.no fun x => { x with phase := .begun }).onCtx j.ctx fun x => { x with
      barrier := if x.barrier == .closed then .closed else .closing } := by
  have hallowed : ¬ (d.stationedHere j.ctx && decide (d.position ≠ 0)) = true := by
    obtain h | h := hmay
    · simp [h]
    · simp [h]
  rw [closing, if_neg hallowed, logJob_eq _ hup hroom]

/-- A barrier whose descriptors before it are complete shuts: a CLOSE completes, and a REPLACE goes on to its COMMIT. -/
theorem barrierShuts_eq {c : Nat} {x : Dev} (hjob : (d.work.jobs.find? fun j => j.ctx = c && j.op = Op.kettle && (j.kstep = 2 || j.kstep = 5)
      && j.phase == .begun && j.entry.isNone) = some j)
    (hready : d.barrierReady c j.no = true) (hup : d.boot.restarting = false)
    (hx : x = ((d.onCtx c fun x => { x with barrier := .closed }).spend j.no 1).logDesc { j with bytes := j.bytes.set 16 2 } 0 0) :
    d.barrierShuts c = if j.kstep = 2 then x.settle j St.ok 0 0 else x.onJob j.no fun y => { y with entry := some 1 } := by
  subst hx
  simp only [barrierShuts, hjob, hready, hup, Bool.not_true, Bool.or_self, Bool.false_eq_true, if_false]

/-! ### COMMIT (R204) -/

/-- A COMMIT whose conditions hold reserves its entries and waits for earlier reads of the slots. -/
theorem commitStart_eq {x : Staged} (hok : d.commitOk j = some x) (hup : d.boot.restarting = false)
    (hroom : d.colRoom (1 + 2 * x.shards.length) = true) :
    d.commitStart j = (d.reserve j.no (1 + 2 * x.shards.length)).onJob j.no fun x => { x with phase := .begun } := by
  simp only [commitStart, hok, logJob_eq _ hup hroom]

/-! ### OPEN (R203) -/

/-- An OPEN whose conditions hold makes its layer current, completes, and releases what the barrier held. -/
theorem kettleOpens_eq (hok : d.openOk j = true) (hup : d.boot.restarting = false) (hroom : d.colRoom 1 = true) :
    d.kettleOpens j = ((d.openLayer j).settle j St.ok 0 0).release j.ctx := by
  simp only [kettleOpens, hok, Bool.not_true, Bool.false_eq_true, if_false, logJob_eq _ hup hroom]

/-- A layer that is held is a layer of the edition of its context with the ID. -/
theorem edition_of_heldLayer {c id layer : Nat} {e : Edition} {l : Layer} (h : d.heldLayer c id layer = some (e, l)) :
    d.edition c id = some e := by
  unfold heldLayer at h
  split at h
  case h_2 => cases h
  case h_1 e' he =>
    split at h
    · cases h
    · obtain ⟨l', -, hl⟩ := Option.map_eq_some_iff.1 h
      cases hl
      exact he

/-- An edition that was changed and keeps its ID is read as the change left it. -/
theorem edition_onEdition_self {c id : Nat} {f : Edition → Edition} (hid : ∀ e, (f e).id = e.id) :
    (d.onEdition c id f).edition c id = (d.edition c id).map f := by
  have hkeep : (fun e : Edition => decide (e.id = id)) ∘ (fun e => if e.id = id then f e else e) = fun e => decide (e.id = id) := by
    funext e
    simp only [Function.comp_apply]
    split
    · rw [hid]
    · rfl
  simp only [edition, onEdition, ctx_onCtx_self, List.find?_map, hkeep]
  cases hfind : (d.ctx c).editions.find? fun e => decide (e.id = id) with
  | none => rfl
  | some e =>
    have he : e.id = id := by simpa using List.find?_some hfind
    simp only [Option.map_some, he, if_true]

section

variable (c id layer : Nat)

theorem edition_dropCommitted (k : Nat) : (d.dropCommitted c id layer).edition c k = d.edition c k := by
  simp only [edition, dropCommitted, ctx_onCtx_self]

/-- No version of a layer is committed once its commits are dropped. -/
theorem committedOf_dropCommitted_self (v : Nat) : (d.dropCommitted c id layer).committedOf c id layer v = none := by
  simp only [committedOf, dropCommitted, ctx_onCtx_self, List.find?_eq_none, List.mem_reverse, List.mem_filter]
  rintro s ⟨-, hkept⟩ hv
  obtain ⟨hdropped, -⟩ := Bool.and_eq_true_iff.1 hv
  simp [hdropped] at hkept

/-- The staged copy of a layer stays when its commits are dropped. -/
theorem stagedOf_dropCommitted : (d.dropCommitted c id layer).stagedOf c id layer = d.stagedOf c id layer := by
  simp only [stagedOf, dropCommitted, ctx_onCtx_self, List.find?_filter]
  congr 1
  funext s
  cases s.committed <;> simp

end

/-- What an OPEN makes of an edition: its layer is the committed one, and the layer's shards have the committed placement and digests. -/
def openedEdition (layer : Nat) (s : Staged) (e : Edition) : Edition := { e with
  layers := e.layers.map fun x => if x.layer = layer then s.layer else x
  shards := e.shards.map fun x => if x.layer = layer then
      (match s.shards.find? fun y => y.first = x.first with
       | some y => { x with position := y.position, derived := y.derived, digest := y.digest }
       | none => x) else x }

theorem openedEdition_id (layer : Nat) (s : Staged) (e : Edition) : (openedEdition layer s e).id = e.id := rfl

/-- An OPEN of a committed version logs it, changes the edition, and drops the layer's commits: the contexts and memories it acts on are those
that stood before. -/
theorem openLayer_eq {e : Edition} {l : Layer} {x : Staged} (hheld : d.heldLayer j.ctx j.kedition j.klayer = some (e, l))
    (hcommitted : d.committedOf j.ctx j.kedition j.klayer j.kversion = some x) :
    ∃ t : Dev, t.ctxs = d.ctxs ∧ t.mem = d.mem ∧ d.openLayer j =
      (t.onEdition j.ctx j.kedition (openedEdition j.klayer x)).dropCommitted j.ctx j.kedition j.klayer := by
  have hlog := log_recordsOnly (d.spend j.no (b2n (j.room > 0))) 3 j.ctx 5 j.klayer l.version j.kversion j.kedition
  refine ⟨_, hlog.ctxs, hlog.mem, ?_⟩
  simp only [openLayer, hheld, hcommitted]
  rfl

end Dev

open Dev

/-- Settles O21: an OPEN puts the committed layer in the edition's list and drops the layer's commits, and the staged copy is none of these. -/
theorem openMakesTheVersionCurrent : Obligations.OpenMakesTheVersionCurrent := by
  unfold Obligations.OpenMakesTheVersionCurrent
  intro d j e l x hheld hcommitted
  obtain ⟨t, hctxs, hmem, hopen⟩ := openLayer_eq hheld hcommitted
  have hctx (c : Nat) : t.ctx c = d.ctx c := by rw [ctx, ctx, hctxs]
  have hedition : t.edition j.ctx j.kedition = some e := by
    rw [edition, hctx]
    exact edition_of_heldLayer hheld
  have hversion := List.find?_some hcommitted
  simp only [Bool.and_eq_true, decide_eq_true_eq] at hversion
  refine ⟨hversion.2, openedEdition j.klayer x e, ?_, rfl, rfl, ?_, ?_, ?_⟩
  · rw [hopen, edition_dropCommitted, edition_onEdition_self (openedEdition_id _ _), hedition]
    rfl
  · intro v
    rw [hopen, committedOf_dropCommitted_self]
  · rw [hopen, stagedOf_dropCommitted, stagedOf, stagedOf, onEdition, ctx_onCtx_self, hctx]
  · rw [hopen]
    exact hmem

/-! ### REPLACE (R284) -/

namespace Dev

/-- The REPLACEs of a context that go on: those of the older hold first. -/
def goingOn (d : Dev) (c : Nat) : List Job :=
  if ((d.replaces c).filter (·.opened)).isEmpty then d.replaces c else (d.replaces c).filter (·.opened)

section

variable {d : Dev} {c : Nat} {j : Job} (hbegun : ((d.goingOn c).find? fun j => j.phase == .accepted && j.entry.isNone) = none)
  (hup : d.boot.restarting = false)
include hbegun hup

/-- When all have begun, the first whose barrier is closed commits. -/
theorem replaceGo_commits
    (hfind : ((d.goingOn c).find? fun j => j.entry = some 1 && !(d.work.passes.any fun p => p.job = j.no)) = some j) :
    d.replaceGo c = d.replaceCommit j := by
  unfold goingOn at hbegun hfind
  simp only [replaceGo, hbegun, hfind, hup, Bool.false_eq_true, if_false]

/-- When all have committed and no other follows, all open together. -/
theorem replaceGo_opens (hsome : d.goingOn c ≠ []) (hall : (d.goingOn c).all (fun j => decide (j.entry = some 2)) = true)
    (hlast : (d.replaces c).filter (·.opened) ≠ [] ∨ d.headWaits c = false) :
    d.replaceGo c = d.replacesOpen c (d.goingOn c) := by
  have hnone : ((d.goingOn c).find? fun j => j.entry = some 1 && !(d.work.passes.any fun p => p.job = j.no)) = none := by
    rw [List.find?_eq_none]
    intro x hx
    have hentry : x.entry = some 2 := by simpa using List.all_eq_true.1 hall x hx
    simp [hentry]
  have hmay : ¬ ((d.goingOn c).isEmpty || !((d.goingOn c).all fun j => decide (j.entry = some 2)) ||
      (((d.replaces c).filter (·.opened)).isEmpty && d.headWaits c) || d.boot.restarting) = true := by
    have hwaits : (((d.replaces c).filter (·.opened)).isEmpty && d.headWaits c) = false := by
      obtain hold | hhead := hlast
      · rw [List.isEmpty_eq_false_iff.2 hold, Bool.false_and]
      · rw [hhead, Bool.and_false]
    simp [hsome, hall, hup, hwaits]
  unfold goingOn at hbegun hnone hmay ⊢
  simp only [replaceGo, hbegun, hnone]
  rw [if_neg hmay]

end

end Dev

/-- A command on the oldest descriptor of a context with a step, in a phase, does what that descriptor's operation does. -/
theorem becomes_of_kettleJob {i : Instr} {s : State} {c step : Nat} {ph : JobPhase} {act : Dev → Job → Dev} {j : Job} {t : Dev}
    (hx : exec i s = s.on fun d => d.live fun d => match d.kettleJob c step ph with | some j => act d j | none => d)
    (hp : s.dev.powered = true) (hjob : s.dev.kettleJob c step ph = some j) (ht : act s.dev j = t) : Becomes i s t :=
  becomes_of_live hx hp (by simp only [hjob, ht])

/-- Settles O20: each command is one operation on a descriptor of the kettle, whose equation is used. -/
theorem kettleCommandsComplete : Obligations.KettleCommandsComplete := by
  unfold Obligations.KettleCommandsComplete
  intro s ctx j hp
  refine ⟨?stage, ?close, ?barrier, ?commit, ?write, ?kettleOpen, ?replace⟩
  case stage =>
    intro m img e l ss adopt d hjob hmem hheld hfits n hfetch
    exact becomes_of_kettleJob rfl hp hjob ((if_pos hmem).trans (kettleStage_eq hheld hfits rfl hfetch))
  case close =>
    intro hjob hmay hup hroom
    exact becomes_of_kettleJob rfl hp hjob (closing_eq hmay hup hroom)
  case barrier =>
    intro hjob hready hup d
    have hshuts := barrierShuts_eq hjob hready hup (x := d) rfl
    refine ⟨fun hclose => becomes_of_live rfl hp (hshuts.trans (if_pos hclose)), fun hreplace => ?_⟩
    have hnot : ¬ j.kstep = 2 := by omega
    exact becomes_of_live rfl hp (hshuts.trans (if_neg hnot))
  case commit =>
    intro x hjob hmem hok hup hroom
    exact becomes_of_kettleJob rfl hp hjob ((if_pos hmem).trans (commitStart_eq hok hup hroom))
  case write =>
    intro x hjob hmem hup hpass hok
    have hmay : ¬ (!s.dev.memUp || s.dev.boot.restarting || (s.dev.work.passes.any fun p => decide (p.job = j.no))) = true := by
      simp only [hmem, hup, hpass, Bool.not_true, Bool.or_self, Bool.false_eq_true, not_false_eq_true]
    exact becomes_of_kettleJob rfl hp hjob ((if_neg hmay).trans (by simp only [hok]))
  case kettleOpen =>
    intro hjob hok hup hroom
    exact becomes_of_kettleJob rfl hp hjob (kettleOpens_eq hok hup hroom)
  case replace =>
    rintro _ rfl hmem hbegun
    refine ⟨fun hup hfind => ?commits, fun hsome hall hlast hup => ?opens⟩
    case commits => exact becomes_of_live rfl hp ((if_pos hmem).trans (replaceGo_commits hbegun hup hfind))
    case opens => exact becomes_of_live rfl hp ((if_pos hmem).trans (replaceGo_opens hbegun hup hsome hall hlast))

end Sys2Proof.Machine
end

section
/-! PROOFS. What descriptors and runs that end leave of every context, what a closed context holds, and the statement on the disable of a
context and the reset of its function (R196, R197, R249, R266, R278, R353, R394). -/

namespace Sys2Proof.Machine

/-- A key that no entry of a table has reads as the default. -/
theorem Table.get_of_not_mem {α : Type} (x : α) (t : Table α) {i : Nat} (h : i ∉ t.map (·.1)) : t.get x i = x := by
  induction t with
  | nil => rfl
  | cons e t ih =>
    simp only [List.map_cons, List.mem_cons, not_or] at h
    obtain ⟨hne, ht⟩ := h
    rw [get, if_neg (Ne.symm hne), ih ht]

/-! ### What the end of descriptors and runs leaves of a context -/

/-- A context but for what the ending of its descriptors changes: its pairs with their records, the hint that a record brings, a barrier that an
abort opens, and BUSY. -/
def Ctx.holdings (x : Ctx) : Ctx := { x with rings := [], hint := none, barrier := .open, regs := { x.regs with busy := false } }

theorem Ctx.pages_of_holdings {x y : Ctx} (h : x.holdings = y.holdings) : x.pages = y.pages := (congrArg Ctx.pages h :)
theorem Ctx.enable_of_holdings {x y : Ctx} (h : x.holdings = y.holdings) : x.regs.enable = y.regs.enable :=
  (congrArg (fun z : Ctx => z.regs.enable) h :)

namespace Dev

variable (d : Dev)

/-- The holdings of each context. -/
def holdings (c : Nat) : Ctx := (d.ctx c).holdings

variable {d} in
theorem holdings_of_ctxs {t : Dev} (h : t.ctxs = d.ctxs) : t.holdings = d.holdings := by
  funext c
  rw [holdings, holdings, ctx, ctx, h]

variable {d} in
theorem holdings_of_same {t : Dev} (h : SameStores d t) : t.holdings = d.holdings :=
  have ⟨_, _, _, hctxs, _⟩ := h
  holdings_of_ctxs hctxs

variable {d} in
theorem holdings_of_records {t : Dev} (h : RecordsOnly d t) : t.holdings = d.holdings := holdings_of_ctxs h.ctxs

theorem holdings_onCtx (c : Nat) (f : Ctx → Ctx) (hf : ∀ x, (f x).holdings = x.holdings) : (d.onCtx c f).holdings = d.holdings := by
  funext b
  by_cases hb : c = b
  · subst hb
    rw [holdings, ctx_onCtx_self, hf, holdings]
  · rw [holdings, ctx_onCtx_ne _ _ hb, holdings]

@[simp] theorem holdings_onRing (c r : Nat) (f : Ring → Ring) : (d.onRing c r f).holdings = d.holdings :=
  holdings_onCtx d c _ fun _ => rfl
@[simp] theorem holdings_onWork (f : Work → Work) : (d.onWork f).holdings = d.holdings := rfl
@[simp] theorem holdings_onJob (no : Nat) (f : Job → Job) : (d.onJob no f).holdings = d.holdings := rfl
@[simp] theorem holdings_onErr (f : ErrRegs → ErrRegs) : (d.onErr f).holdings = d.holdings := rfl
@[simp] theorem holdings_emit (o : Out) : (d.emit o).holdings = d.holdings := rfl
@[simp] theorem holdings_msix (c v : Nat) : (d.msix c v).holdings = d.holdings := holdings_of_same (msix_same d c v)

/-! #### Records -/

theorem paySafety_recordsOnly (n : Nat) (d : Dev) : RecordsOnly d (paySafety n d) := by
  induction n generalizing d with
  | zero => exact .refl d
  | succ n ih =>
    unfold paySafety
    split
    · exact .refl d
    · split
      · exact .refl d
      · exact (((col_recordsOnly d _).trans (colPutReserved_recordsOnly _ _)).trans (colDue_recordsOnly _)).trans (ih _)

theorem payOwed_recordsOnly (n : Nat) (d : Dev) : RecordsOnly d (payOwed n d) := by
  induction n generalizing d with
  | zero => exact .refl d
  | succ n ih =>
    unfold payOwed
    split
    · exact .refl d
    · split
      · exact .refl d
      · exact (((col_recordsOnly d _).trans (colPutMain_recordsOnly _ _)).trans (colDue_recordsOnly _)).trans (ih _)

theorem flushSafety_recordsOnly : RecordsOnly d d.flushSafety := by
  unfold flushSafety
  split
  · exact .refl d
  · exact (paySafety_recordsOnly _ d).trans (payOwed_recordsOnly _ _)

/-- Entries that are delivered leave the colophon, and those held take their room (R366). -/
theorem colDelivered_recordsOnly (key : Nat) : RecordsOnly d (d.colDelivered key) :=
  ((col_recordsOnly d _).trans (col_recordsOnly _ _)).trans (flushSafety_recordsOnly _)

@[simp] theorem holdings_ringModerate (c r : Nat) (irq : Bool) : (d.ringModerate c r irq).holdings = d.holdings := by
  unfold ringModerate ringSignal
  dsimp only
  split
  · rw [holdings_msix, holdings_onRing, holdings_onRing]
  · rw [holdings_onRing]

@[simp] theorem holdings_ringWrite (c r : Nat) (h : HeldRec) : (d.ringWrite c r h).holdings = d.holdings := by
  have hdelivered (t : Dev) : (if h.drain = 0 then t else t.colDelivered h.drain).holdings = t.holdings := by
    split
    · rfl
    · exact holdings_of_records (colDelivered_recordsOnly t _)
  have hhint (t : Dev) (n : Option Nat) :
      (if h.hint = 0 then t else t.onCtx c fun x => { x with hint := n }).holdings = t.holdings := by
    split
    · rfl
    · exact holdings_onCtx t c _ fun _ => rfl
  unfold ringWrite
  dsimp only
  rw [holdings_ringModerate, hhint, hdelivered, holdings_onErr, holdings_emit, holdings_onRing]

theorem holdings_flushRing (c r n : Nat) (d : Dev) : (flushRing c r n d).holdings = d.holdings := by
  induction n generalizing d with
  | zero => rfl
  | succ n ih =>
    unfold flushRing
    dsimp only
    split
    · rfl
    · split
      · rw [ih, holdings_ringWrite]
      · rfl

@[simp] theorem holdings_drainRing (c r : Nat) : (d.drainRing c r).holdings = d.holdings := holdings_flushRing _ _ _ _

/-- A check of BUSY changes BUSY or nothing. -/
theorem ctx_busyCheck (c : Nat) : ∃ busy, (d.busyCheck c).ctx c = { d.ctx c with regs := { (d.ctx c).regs with busy := busy } } := by
  unfold busyCheck
  split
  · exact ⟨false, ctx_onCtx_self _ _ _⟩
  · exact ⟨_, rfl⟩

@[simp] theorem holdings_busyCheck (c : Nat) : (d.busyCheck c).holdings = d.holdings := by
  unfold busyCheck
  split
  · exact holdings_onCtx d c _ fun _ => rfl
  · rfl

@[simp] theorem holdings_postRecord (c r : Nat) (desc : Bytes) (st : Status) (result vmin vmax info drain : Nat) (item run : Option Nat) :
    (d.postRecord c r desc st result vmin vmax info drain item run).holdings = d.holdings := by
  unfold postRecord
  split
  · rw [holdings_busyCheck]
  · rw [holdings_busyCheck, holdings_drainRing, holdings_onRing]

/-! #### Descriptors -/

@[simp] theorem holdings_settle (j : Job) (st : Status) (result drain : Nat) : (d.settle j st result drain).holdings = d.holdings := by
  unfold settle
  dsimp only
  rw [holdings_postRecord]
  rfl

@[simp] theorem holdings_finishRuns : d.finishRuns.holdings = d.holdings := by
  refine each_keeps d holdings _ (fun d j => ?_) _
  split
  · rfl
  · rw [holdings_settle]

@[simp] theorem holdings_failJob (j : Job) (st : Status) : (d.failJob j st).holdings = d.holdings := by
  rw [failJob, holdings_finishRuns, holdings_settle]

@[simp] theorem holdings_failOwners (st : Status) : (d.failOwners st).holdings = d.holdings := by
  refine each_keeps d holdings _ (fun d e => ?_) _
  split
  · rw [holdings_failJob]
  · rfl

/-- Descriptors that fail one after another leave what each leaves. -/
theorem holdings_failEach (l : List Job) (st : Dev → Job → Status) :
    (d.each l fun d j => d.failJob j (st d j)).holdings = d.holdings :=
  each_keeps d holdings _ (fun _ _ => holdings_failJob _ _ _) l

/-! #### Runs -/

@[simp] theorem holdings_launchControl (src got1 : Nat) (b : Bytes) : (d.launchControl src got1 b).holdings = d.holdings := by
  refine each_keeps d holdings _ (fun d x => ?_) _
  unfold sendTo
  split
  · split
    · exact holdings_of_same (packetPass_same _ _ _ _)
    · rfl
  · rfl

@[simp] theorem holdings_keepCount : d.keepCount.holdings = d.holdings :=
  each_keeps d holdings keepCore (fun _ _ => rfl) (List.range 8)

theorem holdings_idleCores : d.idleCores.holdings = d.holdings := by
  refine each_keeps d holdings _ (fun d c => ?_) _
  exact holdings_of_ctxs rfl

@[simp] theorem holdings_stopCores (runNo : Nat) : (d.stopCores runNo).holdings = d.holdings := by
  rw [← holdings_idleCores d, stopCores]
  generalize d.idleCores = t
  exact holdings_of_ctxs rfl

@[simp] theorem holdings_stopRun (st : Status) : (d.stopRun st).holdings = d.holdings := by
  unfold stopRun
  split
  · rfl
  · dsimp only
    rw [holdings_finishRuns, holdings_failEach, holdings_onJob, holdings_stopCores, holdings_onWork, holdings_keepCount]
    rfl

@[simp] theorem holdings_endRun (st : Status) : (d.endRun st).holdings = d.holdings := by
  unfold endRun
  split
  · rfl
  · rw [holdings_stopRun, holdings_launchControl]

@[simp] theorem holdings_abortEnded (no : Nat) (st : Status) : (d.abortEnded no st).holdings = d.holdings := by
  unfold abortEnded
  split
  · rfl
  · dsimp only
    rw [holdings_finishRuns, holdings_failEach, holdings_onJob]

@[simp] theorem holdings_dropRuns : d.dropRuns.holdings = d.holdings :=
  each_keeps d holdings _ (fun _ _ => holdings_settle _ _ _ _ _) _

@[simp] theorem holdings_deactivate : d.deactivate.holdings = d.holdings := rfl

/-! #### Aborts (R295) -/

@[simp] theorem holdings_abortJob (no : Nat) : (d.abortJob no).holdings = d.holdings := by
  unfold abortJob
  split
  case h_1 => rfl
  case h_2 j _ =>
    split
    · rw [holdings_failJob]
    · split
      · split
        · exact holdings_settle _ _ _ _ _
        · rw [holdings_endRun]
        · split
          · rw [holdings_abortEnded, holdings_launchControl]
          · rfl
      · split
        · refine (holdings_onCtx _ _ _ ?_).trans (holdings_settle _ _ _ _ _)
          exact fun _ => rfl
        · split
          · rw [holdings_settle]
          · rfl

@[simp] theorem holdings_abortFetched (c r : Nat) (f : Fetched) : (d.abortFetched c r f).holdings = d.holdings := by
  rw [abortFetched, holdings_postRecord, holdings_onRing]

/-- An abort settles descriptors and ends a run, and leaves what these leave. -/
theorem holdings_abortScope (c scope r tag : Nat) : (d.abortScope c scope r tag).2.holdings = d.holdings := by
  have hjobs (l : List Job) (d : Dev) : (d.each l fun d j => d.abortJob j.no).holdings = d.holdings :=
    each_keeps d holdings _ (fun _ _ => holdings_abortJob _ _) l
  have hring (q : Nat) (l : List Fetched) (d : Dev) : (d.each l fun d f => d.abortFetched c q f).holdings = d.holdings :=
    each_keeps d holdings _ (fun _ _ => holdings_abortFetched _ _ _ _) l
  have hrings (nos : List Nat) (d : Dev) : (d.each (List.range 16) fun d q =>
      d.each ((d.ring c q).window.filter fun f => nos.contains f.no) fun d f => d.abortFetched c q f).holdings = d.holdings :=
    each_keeps d holdings _ (fun _ _ => hring _ _ _) _
  have hend (b : Bool) (d : Dev) : (if b then d.endRun St.abortedByHost else d).holdings = d.holdings := by
    split
    · rw [holdings_endRun]
    · rfl
  unfold abortScope
  dsimp only
  rw [hend, hrings, hjobs]

/-! #### The sync range (R266) -/

@[simp] theorem holdings_sendBoard (m cls tag : Nat) (b : Bytes) : (d.sendBoard m cls tag b).2.holdings = d.holdings :=
  holdings_of_same (sendBoardBy_same _ _ _ _ _ _)

@[simp] theorem holdings_syncDone (r : SyncReq) : (d.syncDone r).1.holdings = d.holdings := by
  unfold syncDone
  split
  · rfl
  · rw [holdings_sendBoard]
  · rfl

@[simp] theorem holdings_syncFailed (r : SyncReq) (st : Status) : (d.syncFailed r st).1.holdings = d.holdings := by
  unfold syncFailed
  split
  · rw [holdings_sendBoard]
  · rfl
  · rw [holdings_failOwners, holdings_syncDone]

@[simp] theorem holdings_syncClearRange (c : Nat) : (d.syncClearRange c).holdings = d.holdings :=
  each_keeps _ holdings _ (fun _ _ => holdings_syncFailed _ _ _) _

/-! ### Pages that are unmapped (R249) -/

/-- A page that is unmapped leaves its context as it was, but for that page. -/
theorem ctx_unmapPage (c q : Nat) : ∃ pages, (d.unmapPage c q).ctx c = { d.ctx c with pages := pages } ∧
    ∀ p, pages.get none p = if q = p then none else (d.ctx c).pages.get none p := by
  unfold unmapPage
  split
  case h_1 hnone =>
    refine ⟨(d.ctx c).pages, rfl, fun p => ?_⟩
    split
    case isTrue h => rw [← h, hnone]
    case isFalse => rfl
  case h_2 =>
    refine ⟨(d.ctx c).pages.set none q none, ctx_onCtx_self d c fun x => { x with pages := x.pages.set none q none }, fun p => ?_⟩
    split
    case isTrue h => rw [h, Table.get_set_self]
    case isFalse h => rw [Table.get_set_ne _ _ _ h]

/-- So do the pages of a list. -/
theorem ctx_unmapEach (c : Nat) (l : List Nat) : ∃ pages, (d.each l fun d q => d.unmapPage c q).ctx c = { d.ctx c with pages := pages } ∧
    ∀ p, pages.get none p = if p ∈ l then none else (d.ctx c).pages.get none p := by
  induction l generalizing d with
  | nil => exact ⟨(d.ctx c).pages, rfl, fun p => by simp⟩
  | cons q l ih =>
    obtain ⟨first, hfirst, hget⟩ := ctx_unmapPage d c q
    obtain ⟨rest, hrest, hgets⟩ := ih (d.unmapPage c q)
    refine ⟨rest, by rw [each_cons, hrest, hfirst], fun p => ?_⟩
    rw [hgets, hfirst, hget]
    by_cases hl : p ∈ l
    · simp [hl]
    · simp [hl, eq_comm]

/-- When every page of a context is unmapped, none is left. -/
theorem ctx_unmapAll (c : Nat) : ∃ pages, (d.each ((d.ctx c).pages.map (·.1)) fun d q => d.unmapPage c q).ctx c =
    { d.ctx c with pages := pages } ∧ ∀ p, pages.get none p = none := by
  obtain ⟨pages, hctx, hget⟩ := ctx_unmapEach d c ((d.ctx c).pages.map (·.1))
  refine ⟨pages, hctx, fun p => ?_⟩
  rw [hget]
  split
  case isTrue => rfl
  case isFalse h => exact Table.get_of_not_mem none _ h

/-! ### A closed context (R196, R197, R249, R266, R278, R353) -/

end Dev

/-- A context holds nothing: no page, edition, staged copy, digest entry, binding, key or hint, and its barrier is open. -/
structure Ctx.Closed (x : Ctx) : Prop where
  pages : ∀ p, x.pages.get none p = none
  editions : x.editions = []
  staged : x.staged = []
  digests : x.digests = []
  bindings : x.bindings = []
  key : x.key = none
  barrier : x.barrier = .open
  hint : x.hint = none

/-- Registers are no part of what it holds. -/
theorem Ctx.Closed.withRegs {x : Ctx} (h : x.Closed) (r : CtxRegs) : Ctx.Closed { x with regs := r } :=
  ⟨h.pages, h.editions, h.staged, h.digests, h.bindings, h.key, h.barrier, h.hint⟩

namespace Dev

variable (d : Dev)

/-- The erasure of a context's key leaves it as it was without its key (R353). -/
theorem ctx_eraseKey (c : Nat) (reserved : Bool) : (d.eraseKey c reserved).ctx c = { d.ctx c with key := none } := by
  unfold eraseKey
  split
  case h_1 hnone => rw [← hnone]
  case h_2 =>
    rw [ctx_onCtx_self, ctx, ctx]
    split
    · rw [logNext, (log_recordsOnly _ _ _ _ _ _ _ _).ctxs]
      rfl
    · rw [(logOwed_recordsOnly _ _ _ _ _ _ _ _).ctxs]

/-- A context that is closed holds nothing, and its enable is as it was. -/
theorem closeContext_closed (c : Nat) (reserved : Bool) :
    ((d.closeContext c reserved).ctx c).Closed ∧ ((d.closeContext c reserved).ctx c).regs.enable = (d.ctx c).regs.enable := by
  unfold closeContext
  dsimp only
  have hleft : (if d.activeHere c then d.dropRuns.deactivate else d).holdings = d.holdings := by
    split
    · rw [holdings_deactivate, holdings_dropRuns]
    · rfl
  generalize (if d.activeHere c then d.dropRuns.deactivate else d) = d1 at hleft ⊢
  obtain ⟨pages, hctx, hnone⟩ := ctx_unmapAll d1 c
  generalize (d1.each ((d1.ctx c).pages.map (·.1)) fun d p => d.unmapPage c p) = d2 at hctx ⊢
  have hsync : ((d2.syncClearRange c).ctx c).holdings = (d2.ctx c).holdings := congrFun (holdings_syncClearRange d2 c) c
  have hpages := Ctx.pages_of_holdings hsync
  have henable := Ctx.enable_of_holdings hsync
  have hbefore := Ctx.enable_of_holdings (congrFun hleft c)
  rw [hctx] at hpages henable
  rw [ctx_eraseKey, ctx_onCtx_self]
  exact ⟨⟨fun p => (congrArg (Table.get none · p) hpages).trans (hnone p), rfl, rfl, rfl, rfl, rfl, rfl, rfl⟩, henable.trans hbefore⟩

/-- A context that is disabled holds nothing, and its enable is clear. -/
theorem disable_closed (c : Nat) (reserved : Bool) :
    ((d.disable c reserved).ctx c).Closed ∧ ((d.disable c reserved).ctx c).regs.enable = false := by
  unfold disable
  dsimp only
  generalize hcleared : (d.onRegs c fun r => { r with enable := false, busy := true }) = d1
  have hoff : (d1.ctx c).regs.enable = false := by rw [← hcleared, onRegs, ctx_onCtx_self]
  have habort : ((d1.abortScope c 2 0 0).2.ctx c).regs.enable = (d1.ctx c).regs.enable :=
    Ctx.enable_of_holdings (congrFun (holdings_abortScope d1 c 2 0 0) c)
  obtain ⟨hclosed, henable⟩ := closeContext_closed (d1.abortScope c 2 0 0).2 c reserved
  obtain ⟨busy, hbusy⟩ := ctx_busyCheck ((d1.abortScope c 2 0 0).2.closeContext c reserved) c
  rw [hbusy]
  generalize ((d1.abortScope c 2 0 0).2.closeContext c reserved).ctx c = x at hclosed henable ⊢
  exact ⟨hclosed.withRegs _, henable.trans (habort.trans hoff)⟩

/-! ### A function level reset (R278, R394) -/

theorem fn_onCtx (c b : Nat) (f : Ctx → Ctx) : (d.onCtx c f).fn b = d.fn b := rfl

/-- A reset of a function leaves its pairs and registers as the resets of each have them, and its standard registers at reset. -/
theorem flr_parts (c : Nat) : ((d.flr c).ctx c).rings = ringsReset (d.ctx c).rings ∧
    (∃ r, ((d.flr c).ctx c).regs = regsReset r) ∧ (d.flr c).fn c = {} := by
  unfold flr
  dsimp only
  generalize ((d.onCtx c fun x => { x with rings := [] }).disable c false).dropJobs c = d1
  rw [ctx_onCtx_self, fn_onCtx]
  refine ⟨rfl, ⟨_, rfl⟩, ?_⟩
  rw [fn, Table.get_set_self]

end Dev

open Dev

/-- Settles O25: a disable is an abort, which leaves the enable clear, and the closing of the context, which leaves nothing it holds; and the last
step of a reset sets the pairs and the registers. -/
theorem disableClosesTheContext : Obligations.DisableClosesTheContext := by
  unfold Obligations.DisableClosesTheContext
  intro d c reserved
  obtain ⟨hdisabled, hoff⟩ := disable_closed d c reserved
  obtain ⟨hclosed, -⟩ := closeContext_closed d c reserved
  obtain ⟨hrings, ⟨r, hregs⟩, hfn⟩ := flr_parts d c
  refine ⟨?_, hoff, ?_, ?_, hfn⟩
  · intro x hx
    have h : x.Closed := by
      obtain hx | hx := hx
      · exact hx ▸ hdisabled
      · exact hx ▸ hclosed
    exact ⟨h.pages, h.editions, h.staged, h.digests, h.bindings, h.key, h.barrier, h.hint⟩
  · rw [hregs]
    rfl
  · intro k hk
    rw [hrings, ringsReset_get _ hk]
    rfl

end Sys2Proof.Machine
end

section
/-! PROOFS. What sending flits on a port leaves of the station, the flits of a replay in order, and the statement on acknowledgements and
NAKs (R211, R213 to R215, R226). -/

namespace Sys2Proof.Machine

/-- Keys whose open group `k` names is closed: the next group is open, under the key that waits for it where one does (R226, R357). -/
def LinkKeys.groupClosed (y k : LinkKeys) : LinkKeys :=
  if k.txSwitchAt = some (k.txGroup + 1) && k.nextTx.isSome then
    { y with txOpen := [], txGroup := 0, epoch := y.epoch + 1, txKey := y.nextTx, nextTx := none, txSwitchAt := none }
  else { y with txOpen := [], txGroup := k.txGroup + 1 }

theorem LinkKeys.txOpen_groupClosed (y k : LinkKeys) : (y.groupClosed k).txOpen = [] := by
  unfold groupClosed
  split <;> rfl

namespace Dev

variable {d t u : Dev} {p : Nat}

/-! ### A flit that leaves -/

section

variable (d p)

/-- A flit that leaves changes its port by no more than whose turn it is. -/
theorem port_flitOut (kind cr ak number : Nat) (b : Bytes) : ∃ line, (d.flitOut p kind cr ak number b).port p =
    { d.port p with ll := { (d.port p).ll with line := line } } := by
  unfold flitOut
  dsimp only
  split
  · exact ⟨_, rfl⟩
  · exact ⟨_, port_onPort_self d p _⟩

/-- A numbered flit is kept behind those kept already, and its number is used. -/
theorem port_numbered (kind : Nat) (b : Bytes) : ∃ line, (d.numbered p kind b).port p = { d.port p with
    ll := { (d.port p).ll with tx := ((d.port p).ll.tx + 1) % 65536, line := line
                               replay := (d.port p).ll.replay ++ [⟨(d.port p).ll.tx, kind, b⟩] } } := by
  obtain ⟨line, hport⟩ := port_flitOut (d.onPort p fun y => { y with ll := { y.ll with
    tx := (y.ll.tx + 1) % 65536, replay := y.ll.replay ++ [⟨y.ll.tx, kind, b⟩] } }) p kind 0 0 0 b
  rw [port_onPort_self] at hport
  exact ⟨line, hport⟩

theorem keys_numbered (kind : Nat) (b : Bytes) : ((d.numbered p kind b).port p).keys = (d.port p).keys := by
  obtain ⟨line, hport⟩ := port_numbered d p kind b
  rw [hport]

end

/-! ### What sending on a port leaves -/

/-- `t` is `d` with flits sent on port `p`: the flits kept there stand, with later ones behind them; beside its link layer and the keys that it
sends with the port is as it was, and so are the other ports and all else but the outbox. The keys change with a new one that waits. -/
structure SentOn (p : Nat) (d t : Dev) : Prop where
  replay : (d.port p).ll.replay <+: (t.port p).ll.replay
  port : { t.port p with ll := (d.port p).ll, keys := (d.port p).keys } = d.port p
  keys : (d.port p).keys.nextTx = none →
    { (t.port p).keys with txOpen := (d.port p).keys.txOpen, txGroup := (d.port p).keys.txGroup } = (d.port p).keys
  port_ne : ∀ q, q ≠ p → t.port q = d.port q
  station : { t with lnk := { t.lnk with ports := d.lnk.ports }, out := d.out } = d

namespace SentOn

theorem refl (p : Nat) (d : Dev) : SentOn p d d := ⟨List.prefix_rfl, rfl, fun _ => rfl, fun _ _ => rfl, rfl⟩

theorem nextTx (h : SentOn p d t) (hnext : (d.port p).keys.nextTx = none) : (t.port p).keys.nextTx = none :=
  (congrArg LinkKeys.nextTx (h.keys hnext) :).trans hnext

theorem trans (h : SentOn p d t) (k : SentOn p t u) : SentOn p d u where
  replay := h.replay.trans k.replay
  port := (congrArg (fun x : Port => { x with ll := (d.port p).ll, keys := (d.port p).keys }) k.port).trans h.port
  keys hnext := (congrArg (fun x : LinkKeys => { x with txOpen := (d.port p).keys.txOpen, txGroup := (d.port p).keys.txGroup })
    (k.keys (h.nextTx hnext))).trans (h.keys hnext)
  port_ne q hq := (k.port_ne q hq).trans (h.port_ne q hq)
  station := (congrArg (fun x : Dev => { x with lnk := { x.lnk with ports := d.lnk.ports }, out := d.out }) k.station).trans h.station

theorem onLink {f : LinkLayer → LinkLayer} (h : (d.port p).ll.replay <+: (f (d.port p).ll).replay) : SentOn p d (d.onLink p f) where
  replay := by rwa [Dev.onLink, port_onPort_self]
  port := by rw [Dev.onLink, port_onPort_self]
  keys _ := by rw [Dev.onLink, port_onPort_self]
  port_ne _ hq := port_onPort_ne d _ hq.symm
  station := rfl

theorem onKeys {f : LinkKeys → LinkKeys} (h : (d.port p).keys.nextTx = none →
    { f (d.port p).keys with txOpen := (d.port p).keys.txOpen, txGroup := (d.port p).keys.txGroup } = (d.port p).keys) :
    SentOn p d (d.onPort p fun x => { x with keys := f x.keys }) where
  replay := by rw [port_onPort_self]
  port := by rw [port_onPort_self]
  keys hnext := by rw [port_onPort_self, h hnext]
  port_ne _ hq := port_onPort_ne d _ hq.symm
  station := rfl

theorem emit (p : Nat) (d : Dev) (o : Out) : SentOn p d (d.emit o) := ⟨List.prefix_rfl, rfl, fun _ => rfl, fun _ _ => rfl, rfl⟩

theorem each {α : Type} {f : Dev → α → Dev} (hf : ∀ d a, SentOn p d (f d a)) (l : List α) (d : Dev) : SentOn p d (d.each l f) := by
  induction l generalizing d with
  | nil => exact .refl p d
  | cons a l ih => exact (hf d a).trans (ih _)

section

variable (h : SentOn p d t)
include h

theorem clk : t.clk = d.clk := (congrArg Dev.clk h.station :)
theorem transits : t.lnk.transits = d.lnk.transits := (congrArg (fun x : Dev => x.lnk.transits) h.station :)
theorem cords : (t.port p).cords = (d.port p).cords := (congrArg Port.cords h.port :)
theorem st : (t.port p).st = (d.port p).st := (congrArg Port.st h.port :)
theorem joinedMask : t.joinedMask p = d.joinedMask p := by simp only [Dev.joinedMask, h.cords]

end

end SentOn

variable (d p)

theorem flitOut_sentOn (kind cr ak number : Nat) (b : Bytes) : SentOn p d (d.flitOut p kind cr ak number b) := by
  unfold flitOut
  dsimp only
  split
  · exact .refl p d
  · exact (SentOn.onLink (f := fun x => { x with line := (d.port p).ll.line + 1 }) List.prefix_rfl).trans (.emit p _ _)

theorem numbered_sentOn (kind : Nat) (b : Bytes) : SentOn p d (d.numbered p kind b) :=
  (SentOn.onLink (f := fun x => { x with tx := (x.tx + 1) % 65536, replay := x.replay ++ [⟨x.tx, kind, b⟩] })
    (List.prefix_append _ _)).trans (flitOut_sentOn _ p _ _ _ _ _)

theorem closeGroup_sentOn : SentOn p d (d.closeGroup p) := by
  unfold closeGroup
  dsimp only
  split
  · exact .refl p d
  · split
    · exact .refl p d
    · refine (numbered_sentOn d p _ _).trans (SentOn.onKeys (f := (·.groupClosed (d.port p).keys)) fun hnext => ?_)
      rw [keys_numbered] at hnext
      simp [LinkKeys.groupClosed, hnext]

/-- The flit of an encrypting channel joins the open group. -/
theorem joinGroup_sentOn (f : Flit) : SentOn p d (d.onPort p fun y => { y with keys := { y.keys with txOpen := y.keys.txOpen ++ [f] } }) :=
  .onKeys (f := fun k => { k with txOpen := k.txOpen ++ [f] }) fun _ => rfl

theorem sendFlit_sentOn (kind : Nat) (b : Bytes) : SentOn p d (d.sendFlit p kind b) := by
  unfold sendFlit
  dsimp only
  split
  · exact numbered_sentOn d p _ _
  · split
    · exact numbered_sentOn d p _ _
    · split
      · exact ((numbered_sentOn d p _ _).trans (joinGroup_sentOn _ p _)).trans (closeGroup_sentOn _ p)
      · exact (numbered_sentOn d p _ _).trans (joinGroup_sentOn _ p _)

end Dev

theorem LinkLayer.replay_tookFlit (x : LinkLayer) (kind : Nat) : (x.tookFlit kind).replay = x.replay := by
  unfold LinkLayer.tookFlit LinkLayer.onChan
  dsimp only
  split_ifs <;> rfl

/-- The link layer with every flit up to a number released (R215). -/
def LinkLayer.released (x : LinkLayer) (no : Nat) : LinkLayer := { x with
  replay := x.replay.filter fun f => seqBefore 16 no f.no
  nakRun := if seqBefore 16 no x.nakNo then x.nakRun else 0 }

/-- A port as it stands once the next flit has left: the cord after the one it took is next in turn. -/
def Port.nextLine (x : Port) : Port := { x with ll := { x.ll with line := x.ll.line + 1 } }

namespace Dev

variable (d : Dev) (p : Nat)

theorem flitsGo_sentOn (n : Nat) : SentOn p d (flitsGo p n d) := by
  induction n generalizing d with
  | zero => exact .refl p d
  | succ n ih =>
    unfold flitsGo
    dsimp only
    split
    · exact .refl p d
    · split
      · exact .refl p d
      · split
        · exact .refl p d
        · refine (SentOn.trans (SentOn.onLink ?_) (sendFlit_sentOn _ p _ _)).trans (ih _)
          rw [LinkLayer.replay_tookFlit]

theorem flush_sentOn : SentOn p d (d.flush p) := flitsGo_sentOn d p _

theorem linkOut_sentOn (msg : Bytes) : SentOn p d (d.linkOut p msg) :=
  ((SentOn.emit p d _).trans (.onLink List.prefix_rfl)).trans (flush_sentOn _ p)

/-- Where nothing is ready nothing is sent. -/
theorem flush_idle {d : Dev} (hctl : (d.port p).ll.ctl = []) (hact : (d.port p).ll.act.out = [])
    (hcirc : (d.port p).ll.circ.out = []) : d.flush p = d := by
  simp only [flush, hctl, hact, hcirc, List.length_nil, Nat.add_zero, flitsGo]

/-! ### An acknowledgement -/

theorem ackIn_eq (no : Nat) : d.ackIn p no = (d.onLink p fun x => x.released no).flush p := rfl

theorem ll_onLink_self (f : LinkLayer → LinkLayer) : ((d.onLink p f).port p).ll = f (d.port p).ll := by
  rw [onLink, port_onPort_self]

/-! ### Flits sent again -/

/-- A NAK that is not the 32nd in a row of its flit is noted, and the flits from its number on are sent again (R215, R222). -/
theorem nakIn_eq (no : Nat) (h : ¬ ((d.port p).ll.nakRun + 1 ≥ 32 ∧ (d.port p).ll.nakNo = no)) :
    ∃ run, d.nakIn p no = (d.onLink p fun x => { x with nakNo := no, nakRun := run }).resend p no := by
  unfold nakIn
  dsimp only
  refine ⟨_, if_neg ?_⟩
  split
  · next hrun => simp only [Bool.and_eq_true, decide_eq_true_eq] at hrun; omega
  · decide

theorem activeCords_of_cords {d t : Dev} {p : Nat} (h : (t.port p).cords = (d.port p).cords) : t.activeCords p = d.activeCords p := by
  simp only [activeCords, h]

/-- With an active cord a flit leaves on the next of them in turn (R211). -/
theorem flitOut_eq {d : Dev} {p : Nat} (h : d.activeCords p ≠ []) (kind cr ak number : Nat) (b : Bytes) :
    d.flitOut p kind cr ak number b = (d.onPort p (·.nextLine)).emit
      (.flit p ((d.activeCords p).getD ((d.port p).ll.line % (d.activeCords p).length) 0) (flitBytes kind cr ak number b)) :=
  if_neg (by simpa using h)

/-- A flit that is sent again, with HEAD fields of its KIND alone. -/
def flitAgain (p : Nat) (d : Dev) (f : Flit) : Dev := d.flitOut p f.kind 0 0 0 f.data

/-- Flits sent one after another leave in their order, each on the next active cord. -/
theorem out_each_flitAgain (fs : List Flit) {d : Dev} {p : Nat} (h : d.activeCords p ≠ []) : (d.each fs (flitAgain p)).out = d.out ++
    (fs.map fun f => flitBytes f.kind 0 0 0 f.data).mapIdx fun i b =>
      .flit p ((d.activeCords p).getD (((d.port p).ll.line + i) % (d.activeCords p).length) 0) b := by
  induction fs generalizing d with
  | nil => simp
  | cons f fs ih =>
    have hport : (flitAgain p d f).port p = (d.port p).nextLine := by
      rw [flitAgain, flitOut_eq h]
      exact port_onPort_self d p _
    have hcords : (flitAgain p d f).activeCords p = d.activeCords p := activeCords_of_cords (by rw [hport]; rfl)
    have hline : ((flitAgain p d f).port p).ll.line = (d.port p).ll.line + 1 := by rw [hport]; rfl
    have hout : (flitAgain p d f).out = d.out ++
        [.flit p ((d.activeCords p).getD ((d.port p).ll.line % (d.activeCords p).length) 0) (flitBytes f.kind 0 0 0 f.data)] := by
      rw [flitAgain, flitOut_eq h]
      rfl
    rw [each_cons, ih (hcords ▸ h), hout, hcords, hline]
    simp [List.mapIdx_cons, Nat.add_assoc, Nat.add_comm]

/-- Sending flits again changes neither what a port keeps of flits nor its count of replays. -/
theorem counts_each_flitAgain (fs : List Flit) : (((d.each fs (flitAgain p)).port p).ll.replay,
    ((d.each fs (flitAgain p)).port p).replayCount) = ((d.port p).ll.replay, (d.port p).replayCount) := by
  refine each_keeps d (fun d => ((d.port p).ll.replay, (d.port p).replayCount)) (flitAgain p) (fun d f => ?_) fs
  obtain ⟨line, hport⟩ := port_flitOut d p f.kind 0 0 0 f.data
  dsimp only [flitAgain]
  rw [hport]

/-- The flits that a port keeps from a number on, oldest first (R215). -/
def keptFrom (no : Nat) : List Flit := (d.port p).ll.replay.filter fun f => !seqBefore 16 f.no no
/-- The marker that goes ahead of flits sent again: the number of the first of them, or of the next new one (R215). -/
def marker (fs : List Flit) : Flit := ⟨0, 5, leBytes 2 ((fs.head?.map (·.no)).getD (d.port p).ll.tx)⟩

/-- A replay is counted, and sends the marker and every flit from the number on. -/
theorem resend_eq (no : Nat) : d.resend p no = (d.onPort p fun y => { y with
    replayCount := satAdd y.replayCount (d.keptFrom p no).length }).each (d.marker p (d.keptFrom p no) :: d.keptFrom p no) (flitAgain p) := by
  rw [each_cons]
  unfold resend
  dsimp only
  split
  · next f fs h =>
    have hmarker : d.marker p (d.keptFrom p no) = ⟨0, 5, leBytes 2 f.no⟩ := by rw [marker, keptFrom, h]; rfl
    rw [hmarker]
    rfl
  · next h =>
    have hmarker : d.marker p (d.keptFrom p no) = ⟨0, 5, leBytes 2 (d.port p).ll.tx⟩ := by rw [marker, keptFrom, h]; rfl
    rw [hmarker]
    rfl

/-- A replay leaves on the active cords in turn, the marker first. -/
theorem out_resend {d : Dev} {p : Nat} (h : d.activeCords p ≠ []) (no : Nat) : (d.resend p no).out = d.out ++
    (flitBytes 5 0 0 0 (d.marker p (d.keptFrom p no)).data :: (d.keptFrom p no).map fun f => flitBytes f.kind 0 0 0 f.data).mapIdx fun i b =>
      .flit p ((d.activeCords p).getD (((d.port p).ll.line + i) % (d.activeCords p).length) 0) b := by
  rw [resend_eq]
  generalize hx : d.onPort p (fun y => { y with replayCount := satAdd y.replayCount (d.keptFrom p no).length }) = x
  have hport : x.port p = { d.port p with replayCount := satAdd (d.port p).replayCount (d.keptFrom p no).length } := by
    rw [← hx]
    exact port_onPort_self d p _
  have hcords : x.activeCords p = d.activeCords p := activeCords_of_cords (by rw [hport])
  have hout : x.out = d.out := by rw [← hx]; rfl
  rw [out_each_flitAgain _ (hcords ▸ h), hcords, hout, hport]
  rfl

/-- A replay releases nothing, and is counted by the flits kept that it sends (R215). -/
theorem counts_resend (no : Nat) : (((d.resend p no).port p).ll.replay, ((d.resend p no).port p).replayCount) =
    ((d.port p).ll.replay, satAdd (d.port p).replayCount (d.keptFrom p no).length) := by
  rw [resend_eq, counts_each_flitAgain, port_onPort_self]

end Dev

open Dev

/-- Settles O33: an acknowledgement releases flits and sends what is ready, which changes nothing but its port and the outbox; a NAK sends the
marker and the flits kept one after another. -/
theorem flitsAreReleasedAndReplayedInOrder : Obligations.FlitsAreReleasedAndReplayedInOrder := by
  unfold Obligations.FlitsAreReleasedAndReplayedInOrder
  refine ⟨fun d p no => ?ack, fun d p no hcords hfew => ?nak⟩
  case ack =>
    have hsent : SentOn p (d.onLink p (·.released no)) (d.ackIn p no) := flush_sentOn _ p
    obtain ⟨more, hmore⟩ := hsent.replay
    rw [ll_onLink_self] at hmore
    refine ⟨⟨more, hmore.symm, fun hctl hact hcirc => ?_⟩, fun q hq => ?_, ?_⟩
    · have hidle : d.ackIn p no = d.onLink p (·.released no) := by
        rw [ackIn_eq]
        apply flush_idle <;> rw [ll_onLink_self] <;> assumption
      rw [hidle, ll_onLink_self] at hmore
      exact List.append_right_eq_self.mp hmore
    · exact (hsent.port_ne q hq).trans (port_onPort_ne d _ hq.symm)
    · exact congrArg (fun x : Dev => { x with lnk := d.lnk }) hsent.station
  case nak =>
    intro fs l first
    obtain ⟨run, hnak⟩ := nakIn_eq d p no hfew
    generalize hx : d.onLink p (fun x => { x with nakNo := no, nakRun := run }) = x at hnak
    have hport : x.port p = { d.port p with ll := { (d.port p).ll with nakNo := no, nakRun := run } } := by
      rw [← hx]
      exact port_onPort_self d p _
    have hkept : x.keptFrom p no = fs := by rw [keptFrom, hport]
    have hmarker : x.marker p fs = ⟨0, 5, leBytes 2 first⟩ := by rw [marker, hport]
    have hl : x.activeCords p = l := activeCords_of_cords (by rw [hport])
    have hcounts := counts_resend x p no
    rw [hkept, hport] at hcounts
    obtain ⟨hreplay, hcount⟩ := Prod.mk.inj hcounts
    rw [hnak]
    refine ⟨?_, hreplay, hcount⟩
    rw [out_resend (hl ▸ hcords), hkept, hmarker, hl, hport, ← hx]
    rfl

end Sys2Proof.Machine
end

section
/-! PROOFS. The timestamp over a cycle of the reference, over a moment that has come and over an exchange, and the statement that it never
runs backwards (R241). -/

namespace Sys2Proof.Machine

namespace Dev

variable (d : Dev)

/-! ### A cycle of the reference -/

/-- The timestamp is the clock's. -/
theorem now_of_clk {d t : Dev} (h : t.clk = d.clk) : t.now = d.now := congrArg Clk.ts h

/-- What a powered station's cycle adds to the clock, in units of 10 fs: 10 ns at the steered rate, and the slew, which the free rate bounds
(R241; log 8). -/
def cycleUnits : Nat :=
  let step := (1000000 + d.clk.ppm).toNat
  let lim : Int := (d.freeValue % (step / 100 + 1) * 100 : Nat)
  ((d.clk.frac : Int) + step + max (-lim) (min lim (d.clk.slewPs * 100))).toNat

theorem now_tick_powered (h : d.powered = true) : d.tick.now = min (d.now + d.cycleUnits / 100000) (2 ^ 64 - 1) := by
  unfold tick
  rw [h]
  exact given_keeps _ now _ rfl _

theorem tick_unpowered (h : d.powered = false) : d.tick = d := by
  unfold tick
  rw [h]
  rfl

/-- An unsteered cycle with nothing to slew adds 10 ns to what stands of a nanosecond. -/
theorem cycleUnits_unsteered (hppm : d.clk.ppm = 0) (hslew : d.clk.slewPs = 0) : d.cycleUnits = d.clk.frac + 1000000 := by
  unfold cycleUnits
  rw [hppm, hslew]
  dsimp only
  omega

/-- A cycle leaves the timestamp where it was or later (R241, R398). -/
theorem now_tick_bounds (h : d.now < 2 ^ 64) : d.now ≤ d.tick.now ∧ d.tick.now < 2 ^ 64 := by
  cases hp : d.powered with
  | true =>
    rw [now_tick_powered d hp]
    omega
  | false =>
    rw [tick_unpowered d hp]
    exact ⟨le_rfl, h⟩

/-! ### An exchange -/

theorem clk_linkOut (p : Nat) (msg : Bytes) : (d.linkOut p msg).clk = d.clk := (linkOut_sentOn d p msg).clk

theorem clk_timeReply (p t1 t2 : Nat) : (d.timeReply p t1 t2).clk = d.clk := by
  unfold timeReply
  split
  · exact clk_linkOut d _ _
  · rfl

theorem clk_sendSteer (ppm : Int) (at_ : Nat) : (d.sendSteer ppm at_).clk = d.clk :=
  each_keeps d Dev.clk _ (fun d p => clk_linkOut d p _) _

/-- The offset that an exchange finds, in ps: half of what the two ways differ by, less the port's correction (R241). -/
def exchangeOffset (p t1 t2 t3 t4 : Nat) : Int := (((t2 : Int) - t1) - ((t4 : Int) - t3)) / 2 - d.asymPs p

/-- The clock with an offset found: it is noted and judged, and slewed once the counter is set. -/
def exchangedClk (off : Int) : Clk :=
  let bound : Int := if d.rackRoot then 20000 else 4000
  { d.clk with offsetPs := max (-32767) (min 32767 off), aligned := decide (-bound ≤ off ∧ off ≤ bound)
               set := true, slewPs := if d.clk.set then off else 0 }

/-- The station with an offset found on a port: the first sets the counter, and the port is the one that it aligns to. -/
def exchanged (p : Nat) (off : Int) : Dev :=
  let d1 := { d with clk := d.exchangedClk off }
  let d2 := if d.clk.set then d1 else d1.setTs ((d.now : Int) + off / 1000).toNat
  { d2 with lnk := { d2.lnk with ports := d2.lnk.ports.map fun x => (x.1, { x.2 with alignedCord := decide (x.1 = p) }) } }

/-- A rack root chooses a rate and a moment for it, and says so to its rack. -/
def chooseSteer : Dev :=
  let ppm : Int := (d.freeValue % 201 : Nat) - 100
  let at_ := d.tookFree.now + 1 + d.tookFree.freeValue
  ({ d.tookFree.tookFree with clk := { d.tookFree.clk with steer := some (ppm, at_) } }).sendSteer ppm at_

/-- An exchange on the upstream port takes effect, and a rack root steers its rack by it (R241). -/
theorem timeSync_upstream {p : Nat} (hp : p = d.clk.upstream) (hup : d.portUp p = true) (t1 t2 t3 t4 : Nat) :
    d.timeSync p t1 t2 t3 t4 =
      let x := d.exchanged p (d.exchangeOffset p t1 t2 t3 t4)
      if !x.rackRoot then x else x.chooseSteer := by
  unfold timeSync
  rw [if_neg (not_not.mpr hp), hup]
  rfl

/-- On any other port it is a neighbour's, which is answered. -/
theorem timeSync_other {p : Nat} (hp : p ≠ d.clk.upstream) (t1 t2 t3 t4 : Nat) : d.timeSync p t1 t2 t3 t4 = d.timeReply p t1 t2 :=
  if_pos hp

theorem timeSync_down {p : Nat} (hp : p = d.clk.upstream) (hdown : d.portUp p = false) (t1 t2 t3 t4 : Nat) :
    d.timeSync p t1 t2 t3 t4 = d := by
  unfold timeSync
  rw [if_neg (not_not.mpr hp), hdown]
  rfl

theorem clk_exchanged (p : Nat) (off : Int) : ∃ ts, (d.exchanged p off).clk = { d.exchangedClk off with ts := ts } ∧
    (d.clk.set = true → ts = d.now) := by
  unfold exchanged
  cases d.clk.set with
  | false => exact ⟨_, rfl, fun h => nomatch h⟩
  | true => exact ⟨_, rfl, fun _ => rfl⟩

theorem rackRoot_exchanged (p : Nat) (off : Int) : (d.exchanged p off).rackRoot = d.rackRoot := by
  unfold exchanged
  cases d.clk.set <;> rfl

theorem now_chooseSteer : d.chooseSteer.now = d.now := (now_of_clk (clk_sendSteer _ _ _)).trans rfl

/-- Once the counter is set an exchange slews it, and leaves the timestamp as it is. -/
theorem now_timeSync (p t1 t2 t3 t4 : Nat) (h : d.clk.set = true) : (d.timeSync p t1 t2 t3 t4).now = d.now := by
  by_cases hp : p = d.clk.upstream
  · cases hup : d.portUp p with
    | false => rw [timeSync_down d hp hup]
    | true =>
      obtain ⟨ts, hclk, hts⟩ := clk_exchanged d p (d.exchangeOffset p t1 t2 t3 t4)
      have hnow : (d.exchanged p (d.exchangeOffset p t1 t2 t3 t4)).now = d.now := by rw [now, hclk]; exact hts h
      rw [timeSync_upstream d hp hup]
      dsimp only
      split
      · exact hnow
      · exact (now_chooseSteer _).trans hnow
  · rw [timeSync_other d hp]
    exact now_of_clk (clk_timeReply d p t1 t2)

end Dev

open Dev

/-- Settles O53: a cycle adds to the timestamp, a moment that comes is a maximum, and an exchange after the first changes what is slewed. -/
theorem timeNeverRunsBack : Obligations.TimeNeverRunsBack := by
  unfold Obligations.TimeNeverRunsBack
  intro d hnow
  obtain ⟨hle, hlt⟩ := now_tick_bounds d hnow
  refine ⟨hle, hlt, fun t => ?reach, fun p t1 t2 t3 t4 hset => now_timeSync d p t1 t2 t3 t4 hset, fun hp hppm hslew hfrac hroom => ?unsteered⟩
  case reach =>
    rw [now_reach]
    omega
  case unsteered =>
    rw [now_tick_powered d hp, cycleUnits_unsteered d hppm hslew]
    omega

end Sys2Proof.Machine
end

section
/-! PROOFS. Operations that reach a sync word, the last matching message of a formation, and the statements on them (R236, R237, R240, R265,
R266). -/

namespace Sys2Proof.Machine

namespace Dev

variable {d x : Dev} {w : Nat} {r : SyncReq}

/-! ### Operations that reach a sync word -/

/-- The oldest operation on its way to leaf A arrives there (R265). -/
theorem spineArrive_leafA {t : List (Nat × SyncReq)} (h : d.sync.flyA = (w, r) :: t) :
    d.spineArrive 0 = ({ d with sync := { d.sync with flyA := t } }).syncArrive w r := by
  simp only [spineArrive, h, if_true]

theorem spineArrive_leafB {t : List (Nat × SyncReq)} (h : d.sync.flyB = (w, r) :: t) :
    d.spineArrive 1 = ({ d with sync := { d.sync with flyB := t } }).syncArrive w r := by
  simp only [spineArrive, h, Nat.one_ne_zero, if_false]

/-- The oldest operation held for a leaf is presented again (R265). -/
theorem represent_eq {leaf : Nat} (h : (d.sync.held.find? fun e => syncLeaf e.1 = leaf) = some (w, r)) :
    d.represent leaf = ({ d with sync := { d.sync with held := d.sync.held.erase (w, r) } }).syncArrive w r := by
  simp only [represent, h]

/-- An operation of another module reaches a word of a context that is enabled and open to the board (R240, R266). -/
theorem boardSync_arrives {m tag c v : Nat} {op : SyncOp} {ge : Bool} {imm : Dword} (hon : (d.ctx c).regs.enable = true)
    (hopen : bitOf d.lnk.boardOpen.toNat c = true) (hw : d.syncPhys c v = some w) :
    d.boardSync m tag c v op ge imm = d.syncArrive w ⟨op, ge, imm, c, .board m tag, d.now⟩ := by
  simp only [boardSync, hon, hopen, hw, Bool.and_self, if_true]

/-- A board store that carries a sync operation is that operation (R240; log 15). -/
theorem boardStoreIn_sync {port : Nat} {packet : Bytes} {h : Head} {op : SyncOp} (hr : d.receive port packet = (x, some h)) (hcls : h.cls = 5)
    (hsync : u8 h.body 1 = 2)
    (hop : [SyncOp.writeFill, .readEmpty, .readPeek, .fetchAddFull, .clear, .writeForce][u8 h.body 18]? = some op) :
    d.boardStoreIn port packet = x.boardSync (h.src % 4) h.tag (u8 h.body 0 % 64) (u16 h.body 16) op (u8 h.body 19 = 1)
      (BitVec.ofNat 64 (u64 h.body 24)) := by
  have hcarried : x.boardSyncIn h = x.boardSync (h.src % 4) h.tag (u8 h.body 0 % 64) (u16 h.body 16) op (u8 h.body 19 = 1)
      (BitVec.ofNat 64 (u64 h.body 24)) := by
    simp only [boardSyncIn, hop]
  simp [boardStoreIn, hr, hcls, hsync, hcarried]

end Dev

open Dev

/-- Settles O8: by whatever way an operation comes, it arrives at its word. -/
theorem syncArrivalsComplete : Obligations.SyncArrivalsComplete := by
  unfold Obligations.SyncArrivalsComplete
  rintro s fs leaf w r t port packet x h op hp d rfl
  refine ⟨?leafA, ?leafB, ?board, ?held⟩
  case leafA =>
    rintro rfl hfly
    exact becomes_of_live rfl hp (congrArg coresGo (spineArrive_leafA hfly))
  case leafB =>
    rintro rfl hfly
    exact becomes_of_live rfl hp (congrArg coresGo (spineArrive_leafB hfly))
  case board =>
    intro hr hcls hsync hop hon hopen hw
    exact becomes_of_live rfl hp (congrArg coresGo ((boardStoreIn_sync hr hcls hsync hop).trans (boardSync_arrives hon hopen hw)))
  case held =>
    intro hheld
    exact becomes_of_live rfl hp (congrArg coresGo (represent_eq hheld))

/-! ### Completion records and the rest of the station -/

/-- Between the two states of the station completion records were formed and written: only contexts have changed, and what changes as causes
are raised and entries of the colophon written. -/
structure RecordsPosted (d t : Dev) : Prop where
  station : { t with ctxs := d.ctxs, err := d.err, flash := d.flash, fns := d.fns, col := d.col, out := d.out } = d

namespace RecordsPosted

variable {d t u : Dev}

theorem refl (d : Dev) : RecordsPosted d d := ⟨rfl⟩

theorem trans (h : RecordsPosted d t) (k : RecordsPosted t u) : RecordsPosted d u where
  station := (congrArg (fun x : Dev => { x with
    ctxs := d.ctxs, err := d.err, flash := d.flash, fns := d.fns, col := d.col, out := d.out }) k.station).trans h.station

theorem ofRecordsOnly (h : RecordsOnly d t) : RecordsPosted d t := ⟨congrArg (fun x : Dev => { x with ctxs := d.ctxs }) h.station⟩

theorem onCtx (d : Dev) (c : Nat) (f : Ctx → Ctx) : RecordsPosted d (d.onCtx c f) := ⟨rfl⟩

theorem onErr (d : Dev) (f : ErrRegs → ErrRegs) : RecordsPosted d (d.onErr f) := ⟨rfl⟩
theorem emit (d : Dev) (o : Out) : RecordsPosted d (d.emit o) := ⟨rfl⟩

theorem work (h : RecordsPosted d t) : t.work = d.work := (congrArg Dev.work h.station :)
theorem lnk (h : RecordsPosted d t) : t.lnk = d.lnk := (congrArg Dev.lnk h.station :)

end RecordsPosted

namespace Dev

variable (d : Dev)

theorem onRing_posted (c r : Nat) (f : Ring → Ring) : RecordsPosted d (d.onRing c r f) := .onCtx d c _

theorem ringModerate_posted (c r : Nat) (irq : Bool) : RecordsPosted d (d.ringModerate c r irq) := by
  unfold ringModerate ringSignal
  dsimp only
  split
  · exact ((onRing_posted d c r _).trans (onRing_posted _ c r _)).trans (.ofRecordsOnly (msix_recordsOnly _ _ _))
  · exact onRing_posted d c r _

theorem ringWrite_posted (c r : Nat) (h : HeldRec) : RecordsPosted d (d.ringWrite c r h) := by
  have hdelivered (t : Dev) : RecordsPosted t (if h.drain = 0 then t else t.colDelivered h.drain) := by
    split
    · exact .refl t
    · exact .ofRecordsOnly (colDelivered_recordsOnly t _)
  have hhint (t : Dev) (n : Option Nat) : RecordsPosted t (if h.hint = 0 then t else t.onCtx c fun x => { x with hint := n }) := by
    split
    · exact .refl t
    · exact .onCtx t c _
  unfold ringWrite
  dsimp only
  refine RecordsPosted.trans ?_ (ringModerate_posted _ c r _)
  refine RecordsPosted.trans ?_ (hhint _ _)
  refine RecordsPosted.trans ?_ (hdelivered _)
  refine RecordsPosted.trans ?_ (.onErr _ _)
  exact (onRing_posted d c r _).trans (.emit _ _)

theorem flushRing_posted (c r n : Nat) : RecordsPosted d (flushRing c r n d) := by
  induction n generalizing d with
  | zero => exact .refl d
  | succ n ih =>
    unfold flushRing
    dsimp only
    split
    · exact .refl d
    · split
      · exact (ringWrite_posted d c r _).trans (ih _)
      · exact .refl d

theorem busyCheck_posted (c : Nat) : RecordsPosted d (d.busyCheck c) := by
  unfold busyCheck
  split
  · exact .onCtx d c _
  · exact .refl d

theorem postRecord_posted (c r : Nat) (desc : Bytes) (st : Status) (result vmin vmax info drain : Nat) (item run : Option Nat) :
    RecordsPosted d (d.postRecord c r desc st result vmin vmax info drain item run) := by
  unfold postRecord
  split
  · exact busyCheck_posted d c
  · exact ((onRing_posted d c r _).trans (flushRing_posted _ c r _)).trans (busyCheck_posted _ c)

/-- A descriptor that ends leaves the descriptors in work, whatever its record says. -/
theorem work_settle (j : Job) (st : Status) (result drain : Nat) :
    (d.settle j st result drain).work = { d.work with jobs := d.work.jobs.filter fun x => x.no != j.no } :=
  (postRecord_posted _ _ _ _ _ _ _ _ _ _ _ _).work

theorem lnk_settle (j : Job) (st : Status) (result drain : Nat) : (d.settle j st result drain).lnk = d.lnk :=
  (postRecord_posted _ _ _ _ _ _ _ _ _ _ _ _).lnk

/-! ### The last matching message -/

/-- The station with a gathering in place: its entry is logged, and the members' routing entries stand (R236, R237). -/
def inGathering (j : Job) (g : Gathering) : Dev :=
  let x := ((d.spend j.no 1).logDesc j 0 g.number).onWork fun w => { w with gath := some g, forming := none, early := [] }
  { x with lnk := { x.lnk with rte := (routeEntries g).foldl (fun t e => t.set 0 e.1 e.2) x.lnk.rte } }

theorem matchedUp_of_got {f : Forming} (hsetups : f.setups = []) (hgot : ∀ n ∈ f.gath.nbrs, n.station ∈ f.got) : matchedUp f = true := by
  simpa [matchedUp, hsetups] using hgot

/-- Once every neighbour has matched, the gathering is in place and its descriptor completes (R236). -/
theorem tryFormed_eq {d : Dev} {f : Forming} {j : Job} (hforming : d.work.forming = some f) (hmatched : matchedUp f = true)
    (hgood : f.failed = false) (hup : d.boot.restarting = false)
    (hjob : d.work.jobs.find? (fun x => decide (x.no = f.job)) = some j) :
    d.tryFormed = (d.inGathering j f.gath).settle j St.ok 0 0 := by
  simp only [tryFormed, hforming, hmatched, hgood, hup, hjob, Bool.not_true, Bool.or_self, Bool.false_eq_true, if_false]
  rfl

theorem lnk_inGathering (j : Job) (g : Gathering) : (d.inGathering j g).lnk =
    { d.lnk with rte := (routeEntries g).foldl (fun t e => t.set 0 e.1 e.2) d.lnk.rte } := by
  have hlnk : ((d.spend j.no 1).logDesc j 0 g.number).lnk = d.lnk := (log_recordsOnly (d.spend j.no 1) _ _ _ _ _ _ _).lnk
  simp only [inGathering, onWork, hlnk]

end Dev

/-- Settles O18: with the last match the gathering is put in place, and its descriptor's end touches neither it nor the routing entries. -/
theorem matchingNeighboursFormTheGathering : Obligations.MatchingNeighboursFormTheGathering := by
  unfold Obligations.MatchingNeighboursFormTheGathering
  intro d f j hforming hgood hsetups hgot hup hjob
  rw [tryFormed_eq hforming (matchedUp_of_got hsetups hgot) hgood hup hjob, work_settle, lnk_settle, lnk_inGathering]
  refine ⟨rfl, rfl, fun x hx => ?_, rfl⟩
  simpa using (List.mem_filter.mp hx).2

end Sys2Proof.Machine
end

section
/-! PROOFS. What a flit does as it is received, and what the open group's tag adds to a port, and the statement on flit commands (R214, R215,
R218, R226). -/

namespace Sys2Proof.Machine

namespace Dev

variable {d : Dev} {p : Nat} {b : Bytes}

/-! ### Acknowledgements that leave -/

variable (d p) in
theorem sendAcks_sentOn : SentOn p d (d.sendAcks p) := by
  unfold sendAcks
  dsimp only
  split
  · exact .refl p d
  · exact (SentOn.each (fun d cr => flitOut_sentOn d p 0 cr _ _ []) _ d).trans (.onLink List.prefix_rfl)

variable (d p) in
theorem inOrder_sentOn : SentOn p d (d.inOrder p) := by
  unfold inOrder
  dsimp only
  split
  · exact (SentOn.onLink List.prefix_rfl).trans (sendAcks_sentOn _ p)
  · exact .onLink List.prefix_rfl

/-! ### A flit that is received -/

/-- A HEAD that carries neither credit nor acknowledgement changes nothing (R214). -/
theorem headIn_plain (hcr : flitCr b = 0) (hak : flitAk b = 0) : d.headIn p b = d := by
  simp only [headIn, hcr, hak]

/-- What such a flit carries is delivered to a port that has a joined cord. -/
theorem takeFlit_plain (hcr : flitCr b = 0) (hak : flitAk b = 0) (hjoined : d.joinedMask p ≠ 0) (payload : Bytes) :
    d.takeFlit p b payload = d.deliver p (flitKind b) payload := by
  simp only [takeFlit, headIn_plain hcr hak, hjoined, if_false]

/-- A reserved KIND carries nothing (R214). -/
theorem deliver_reserved {kind : Nat} (hkind : 3 < kind) (payload : Bytes) : d.deliver p kind payload = d := by
  have h1 : kind ≠ 1 := by omega
  have h2 : kind ≠ 2 := by omega
  have h3 : kind ≠ 3 := by omega
  simp [deliver, h1, h2, h3]

/-- The station with a flit's corrected symbols counted (R215). -/
def countedCorr (d : Dev) (p n : Nat) : Dev := d.onPort p fun x => { x with corr := satAdd x.corr n }

theorem port_countedCorr (d : Dev) (p n : Nat) : (d.countedCorr p n).port p = { d.port p with corr := satAdd (d.port p).corr n } :=
  port_onPort_self d p _

section

variable (hjoined : d.joinedMask p ≠ 0)
include hjoined

theorem flitIn_uncorrectable : d.flitIn p .uncorrectable = d.sendNak p := if_neg hjoined

theorem joinedMask_countedCorr (n : Nat) : (d.countedCorr p n).joinedMask p ≠ 0 := by
  rw [joinedMask, port_countedCorr]
  exact hjoined

theorem joinedMask_inOrder : (d.inOrder p).joinedMask p ≠ 0 := by rwa [(inOrder_sentOn d p).joinedMask]

variable (hcrc : crc32c (b.take 252) = BitVec.ofNat 32 (u32 b 252))
include hcrc

/-- A flit whose check holds is taken by its KIND, and by what the port waits for (R214, R215). -/
theorem flitIn_good (n : Nat) : d.flitIn p (.decoded n b) =
    let x := d.countedCorr p n
    if flitKind b = 0 then x.headIn p b
    else if flitKind b = 5 then
      let y := x.headIn p b
      if y.joinedMask p = 0 then y else y.markerIn p (u16 b 3)
    else if (x.port p).ll.naked then x
    else if (x.port p).ll.skip > 0 then x.onLink p fun y => { y with skip := y.skip - 1 }
    else x.flitNext p b := by
  unfold flitIn
  rw [if_neg hjoined]
  dsimp only
  rw [if_neg (by simp [hcrc])]
  rfl

/-- A numbered flit that is next in order takes effect by its KIND. -/
theorem flitIn_numbered (n : Nat) (hidle : flitKind b ≠ 0) (hmarker : flitKind b ≠ 5) (hnaked : (d.port p).ll.naked = false)
    (hskip : (d.port p).ll.skip = 0) : d.flitIn p (.decoded n b) = (d.countedCorr p n).flitNext p b := by
  have hll : ((d.countedCorr p n).port p).ll = (d.port p).ll := by rw [port_countedCorr]
  simp [flitIn_good hjoined hcrc, hidle, hmarker, hll, hnaked, hskip]

/-- A replay marker sets what is passed over. -/
theorem flitIn_marker (n : Nat) (hcr : flitCr b = 0) (hak : flitAk b = 0) (hkind : flitKind b = 5) :
    d.flitIn p (.decoded n b) = (d.countedCorr p n).markerIn p (u16 b 3) := by
  simp [flitIn_good hjoined hcrc, hkind, headIn_plain hcr hak, joinedMask_countedCorr hjoined]

end

section

variable (hcr : flitCr b = 0) (hak : flitAk b = 0) (hjoined : d.joinedMask p ≠ 0)
include hcr hak hjoined

/-- A channel's flit is counted and delivered while the port does not encrypt (R226). -/
theorem flitNext_channel (hkind : flitKind b = 1 ∨ flitKind b = 2) (hplain : (d.port p).keys.rxKey = none) :
    d.flitNext p b = (d.inOrder p).deliver p (flitKind b) (sub b 3 249) := by
  rw [← takeFlit_plain hcr hak (joinedMask_inOrder hjoined)]
  obtain hkind | hkind := hkind <;> simp [flitNext, hkind, hplain]

/-- So is a link control flit while no group is held. -/
theorem flitNext_control (hkind : flitKind b = 3) (hheld : (d.port p).keys.rxHeld = []) :
    d.flitNext p b = (d.inOrder p).deliver p 3 (sub b 3 249) := by
  rw [← hkind, ← takeFlit_plain hcr hak (joinedMask_inOrder hjoined)]
  simp [flitNext, hkind, hheld]

/-- One of a reserved KIND is only counted. -/
theorem flitNext_reserved (hkind : flitKind b = 6 ∨ flitKind b = 7) : d.flitNext p b = d.inOrder p := by
  have hdrop : (d.inOrder p).takeFlit p b [] = d.inOrder p := by
    rw [takeFlit_plain hcr hak (joinedMask_inOrder hjoined), deliver_reserved (by omega)]
  obtain hkind | hkind := hkind <;> simp [flitNext, hkind, hdrop]

end

theorem flitNext_tag (hkind : flitKind b = 4) : d.flitNext p b = d.tagIn p b := by simp only [flitNext, hkind]

/-! ### The tag of the open group -/

/-- With room for it the tag of the open group is sent as a numbered flit, and no group is open (R226). -/
theorem closeGroup_eq {key : Bytes} (hkey : (d.port p).keys.txKey = some key) (hopen : (d.port p).keys.txOpen ≠ [])
    (hroom : (d.port p).ll.replay.length < replayRoom) : ∃ tag, d.closeGroup p =
      (d.numbered p 4 tag).onPort p fun y => { y with keys := y.keys.groupClosed (d.port p).keys } := by
  have hgo : ((d.port p).keys.txOpen.isEmpty || decide ((d.port p).ll.replay.length ≥ replayRoom)) = false := by
    simp [hopen, hroom]
  unfold closeGroup
  simp only [hkey, hgo, Bool.false_eq_true, if_false]
  exact ⟨_, rfl⟩

end Dev

open Dev

/-- Settles O32: each command on a port with a joined cord is its operation, and a HEAD without credit or acknowledgement adds nothing to it. -/
theorem flitCommandsComplete : Obligations.FlitCommandsComplete := by
  unfold Obligations.FlitCommandsComplete
  intro s port hp hjoined
  refine ⟨?uncorrectable, ?decoded, ?nak, ?ack, ?close, ?tag⟩
  case uncorrectable => exact becomes_of_live rfl hp (flitIn_uncorrectable hjoined)
  case decoded =>
    intro n b hcrc hcr hak hnaked hskip d
    have hcounted := joinedMask_countedCorr hjoined n
    have hport := port_countedCorr s.dev port.val n
    have hnumbered {t : Dev} (hidle : flitKind b ≠ 0) (hmarker : flitKind b ≠ 5)
        (ht : (s.dev.countedCorr port.val n).flitNext port.val b = t) : Becomes (.flitReceive port (.decoded n b)) s t :=
      becomes_of_live rfl hp ((flitIn_numbered hjoined hcrc n hidle hmarker hnaked hskip).trans ht)
    refine ⟨fun hkind hplain => ?_, fun hkind hheld => ?_, fun hkind => ?_, fun hkind => ?_⟩
    · exact hnumbered (by omega) (by omega) (flitNext_channel hcr hak hcounted hkind (by rwa [hport]))
    · exact hnumbered (by omega) (by omega) (flitNext_control hcr hak hcounted hkind (by rwa [hport]))
    · exact becomes_of_live rfl hp (flitIn_marker hjoined hcrc n hcr hak hkind)
    · exact hnumbered (by omega) (by omega) (flitNext_reserved hcr hak hcounted hkind)
  case nak =>
    intro number
    exact becomes_of_live rfl hp (if_neg hjoined)
  case ack => exact becomes_of_live rfl hp (if_neg hjoined)
  case close =>
    intro k hkey hopen hroom
    obtain ⟨tag, hclose⟩ := closeGroup_eq hkey hopen hroom
    obtain ⟨line, hport⟩ := port_numbered s.dev port.val 4 tag
    refine ⟨_, becomes_of_live rfl hp hclose, ?_⟩
    rw [port_onPort_self, hport]
    exact ⟨LinkKeys.txOpen_groupClosed _ _, rfl, List.length_append⟩
  case tag =>
    intro b key hkind hcrc hcr hak hnaked hskip hkey
    refine becomes_of_live rfl hp ((if_neg (by simp [hjoined, hkind])).trans ?_)
    exact (flitIn_numbered hjoined hcrc 0 (by omega) (by omega) hnaked hskip).trans (flitNext_tag hkind)

end Sys2Proof.Machine
end

section
/-! PROOFS. The operations of cords and ports under the conditions under which they take effect, and the statement on their commands (R219 to
R222, R224, R230). -/

namespace Sys2Proof.Machine

/-- A bit above a field does not meet the field. -/
theorem fld_or_two_pow (v : Word) {hi : Nat} (h : hi < 31) : fld (v ||| 0x80000000) hi 0 = fld v hi 0 := by
  have hbit : (2 ^ 31 : Nat) % 2 ^ (hi + 1) = 0 := Nat.mod_eq_zero_of_dvd (Nat.pow_dvd_pow 2 (by omega))
  have hor : (v ||| 0x80000000).toNat = v.toNat ||| 2 ^ 31 := BitVec.toNat_or v _
  rw [fld, fld, bitsOf, bitsOf, hor, pow_zero, Nat.div_one, Nat.div_one, Nat.sub_zero, Nat.or_mod_two_pow, hbit, Nat.or_zero]

theorem flag_or_two_pow (v : Word) : flag (v ||| 0x80000000) 31 = true := by
  have hor : (v ||| 0x80000000).toNat = v.toNat ||| 2 ^ 31 := BitVec.toNat_or v _
  rw [flag, hor, bitOf_or_two_pow_self]

namespace Dev

variable {d : Dev} {p k : Nat}

/-! ### The plan -/

/-- A write of the physical function that reaches its register is made. -/
theorem written_fn0 {ofs : Nat} (f : Dev → Dev) (hreach : d.reaches (.fn 0) ofs = true) (hopen : d.sealedOff ofs = false) :
    d.written (.fn 0) ofs f = f d := by
  simp [written, unheard, hreach, hopen]

/-- A logged change by the physical function, with room for its entry, is made behind it (R365, R367). -/
theorem logged_fn0 {ofs : Nat} (hup : d.boot.restarting = false) (hroom : d.colRoom 1 = true) (ctx cls obj old new detail : Nat)
    (make : Dev → Dev) : d.logged (.fn 0) ofs ctx cls obj old new detail make = make (d.log (originCode (.fn 0)) ctx cls obj old new detail) := by
  unfold logged
  rw [hup, hroom]
  rfl

/-- APPLY at the module's own position stores the plan and puts it in force (R230). -/
theorem planWrite_apply {v : Word} (happly : flag v 31 = true) (hpos : fld v 1 0 = d.pins.modulePos) (hup : d.boot.restarting = false)
    (hroom : d.colRoom 1 = true) {ps : List Word} (hps : ps = (List.range 6).map fun p => (d.port p).plan) :
    ∃ x : Dev, d.planWrite (.fn 0) v = x.applyPlan (word (fld v 11 0)) ps ∧ x.flash.plan = some (word (fld v 11 0) :: ps) ∧ x.lnk = d.lnk := by
  obtain ⟨x, hrec, hmade⟩ : ∃ x, RecordsOnly d x ∧ ∀ make,
      d.loggedReg (.fn 0) 0x70000 d.lnk.self.toNat (word (fld v 11 0)).toNat make = make x :=
    ⟨_, log_recordsOnly d _ _ _ _ _ _ _, logged_fn0 hup hroom _ _ _ _ _ _⟩
  have hplans : ((List.range 6).map fun p => (x.port p).plan) = ps := by simp only [hps, port, hrec.lnk]
  refine ⟨{ x with flash := { x.flash with plan := some (word (fld v 11 0) :: ps) } }, ?_, rfl, hrec.lnk⟩
  unfold planWrite
  rw [if_neg (by simp [hpos])]
  refine (hmade _).trans ?_
  rw [happly, ← hplans]
  rfl

/-! ### Training -/

/-- A module of 4 host lanes at 128 Gb/s is driven to ModuleReady (R224). -/
theorem ready_manageModule : (((d.manageModule p k 4 128).port p).modules.get {} k).ready = true := by
  rw [manageModule, port_onPort_self, Table.get_set_self]
  rfl

section

variable {lanes gbps : Nat} (hmask : bitOf (fld (d.planOf p) 11 0) k = true) (hup : (d.port p).st ≠ .down)
include hmask hup

/-- A cord without an optical module leaves DETECT at once (R219). -/
theorem cordAdvance_electrical (hcord : (d.cord p k).st = .detect) (hkind : d.optical p lanes = false) :
    d.cordAdvance p k lanes gbps = d.onCord p k fun x => { x with st := .equalise } := by
  simp [cordAdvance, hmask, hup, hcord, hkind]

/-- An optical one leaves it once the finisher has driven its module to ready (R224). -/
theorem cordAdvance_optical (hcord : (d.cord p k).st = .detect) (hkind : d.optical p 4 = true) (hwork : d.boot.restarting = false) :
    d.cordAdvance p k 4 128 = (d.manageModule p k 4 128).onCord p k fun x => { x with st := .equalise } := by
  simp [cordAdvance, hmask, hup, hcord, hkind, hwork, ready_manageModule]

/-- Between DETECT and JOIN a cord goes on from each state of its training to the next (R219). -/
theorem cordAdvance_trains {x y : CordSt} (hcord : (d.cord p k).st = x)
    (hnext : (x, y) ∈ [(.equalise, .align), (.align, .verify), (CordSt.verify, CordSt.join)]) :
    d.cordAdvance p k lanes gbps = d.onCord p k fun c => { c with st := y } := by
  simp only [List.mem_cons, Prod.mk.injEq, List.not_mem_nil, or_false] at hnext
  obtain ⟨rfl, rfl⟩ | ⟨rfl, rfl⟩ | ⟨rfl, rfl⟩ := hnext <;> simp [cordAdvance, hmask, hup, hcord]

/-- A cord that joins is named in a CORD_SET, effective from the next flit, and the verdict is looked at again (R219, R220, R227). -/
theorem cordAdvance_join (hcord : (d.cord p k).st = .join) : d.cordAdvance p k lanes gbps =
    ((d.joinCord p k).sendCordSet p ((d.joinCord p k).port p).ll.tx).applyVerdict p := by
  simp [cordAdvance, hmask, hup, hcord]

end

theorem cordLate_equalise (hcord : (d.cord p k).st = .equalise) : d.cordLate p k =
    d.onCord p k fun y => if y.backoff > 1 then { y with st := .dropped, dropAt := d.now } else { y with st := .detect } := by
  simp [cordLate, hcord]

/-! ### Loss -/

/-- A joined cord that is dropped is out, the port asks for the first flit it lacks, and it names the cords left (R220). -/
theorem dropCord_joined (hcord : (d.cord p k).st = .joined) : d.dropCord p k =
    (((d.cordOut p k).rewind p).sendNak p).sendCordSet p (((d.cordOut p k).rewind p).port p).ll.rx := by
  simp [dropCord, hcord]

theorem retrain_dropped (hcord : (d.cord p k).st = .dropped) : d.retrain p k =
    (d.reach ((d.cord p k).dropAt + 1000000000 * (d.cord p k).backoff)).onCord p k fun y =>
      { y with st := .detect, backoff := min 64 (2 * y.backoff) } := by
  simp [retrain, hcord]

/-- The station with a module's flag noted: the finisher has read it and its lane status at the module's position (R224). -/
def flagNoted (d : Dev) (p k : Nat) : Dev :=
  ((d.given (!d.boot.restarting) fun d => (d.emit (.twoWire p k 0 8 none)).emit (.twoWire p k 0x11 128 none)).onPort p fun x => { x with
    modSel := k, modIntN := false
    modules := x.modules.modify {} k fun m => { m with flagged := true, laneStatus := Config.freeNat d.free % 256 } }).tookFree

theorem cord_flagNoted : (d.flagNoted p k).cord p k = d.cord p k := by
  unfold flagNoted
  cases d.boot.restarting <;> exact congrArg (fun x : Port => x.cords.get {} k) (port_onPort_self _ p _)

/-- A module that flags has its cord dropped where the port may have modules (R224). -/
theorem moduleFlag_eq (hkind : d.portClass p = 2 ∨ d.lnk.planValid = false) :
    d.moduleFlag p k = (d.flagNoted p k).dropCord p k := if_pos (by simpa using hkind)

/-! ### CORD_SET and CORD_POWER -/

/-- The joined cords of a port that a set does not name, and those that wait to join and are named (R220). -/
def leftBy (d : Dev) (p m : Nat) : List Nat := (List.range 12).filter fun k => (d.cord p k).st == .joined && !bitOf m k
def joinedBy (d : Dev) (p m : Nat) : List Nat := (List.range 12).filter fun k => (d.cord p k).st == .join && bitOf m k

/-- A CORD_SET that names every joined cord, and one that waits, joins it (R220). -/
theorem cordSetIn_joins {msg : Bytes} (hleft : d.leftBy p (u16 msg 1 % 4096) = []) (hjoins : d.joinedBy p (u16 msg 1 % 4096) = [k]) :
    d.cordSetIn p msg = (d.joinCord p k).applyVerdict p := by
  unfold leftBy at hleft
  unfold joinedBy at hjoins
  simp [cordSetIn, hleft, hjoins]

/-- A CORD_SET that leaves one joined cord out, with none that waits to join, has the flits from its number on sent again on the others. -/
theorem cordSetIn_leaves {msg : Bytes} (hleft : d.leftBy p (u16 msg 1 % 4096) = [k])
    (hnone : ((List.range 12).filter fun k => (d.cord p k).st == .join) = []) :
    d.cordSetIn p msg = ((d.cordOut p k).resend p (u16 msg 3)).applyVerdict p := by
  have hjoins : d.joinedBy p (u16 msg 1 % 4096) = [] := by
    rw [joinedBy, List.filter_eq_nil_iff]
    intro m hm
    have hm := List.filter_eq_nil_iff.mp hnone m hm
    simp [Bool.eq_false_iff.mpr hm]
  unfold leftBy at hleft
  unfold joinedBy at hjoins
  simp [cordSetIn, hleft, hjoins]

/-- The joined cords that a mask names, turned off or on (R221). -/
def powerCords (d : Dev) (p m : Nat) (off : Bool) : Dev :=
  d.each ((List.range 12).filter fun k => bitOf m k && (d.cord p k).st == .joined) fun d k => d.onCord p k fun x => { x with off := off }

section

variable {msg : Bytes} {m low : Nat} (hm : m = u16 msg 1 % 4096) (hlow : low = lowBit (d.joinedMask p))
include hm hlow

/-- A request to turn cords off is agreed to while nothing is queued and the lowest cord stays on (R221). -/
theorem cordPowerIn_agrees (hkind : u8 msg 3 = 0) (hidle : d.portBusy p = false) (hkeeps : m &&& low = 0) :
    d.cordPowerIn p msg = (d.powerCords p m true).linkOut p (cordPowerBytes m 2) := by
  subst hm hlow
  simp [cordPowerIn, hkind, hidle, hkeeps, powerCords]

theorem cordPowerIn_refuses (hkind : u8 msg 3 = 0) (hno : d.portBusy p = true ∨ m &&& low ≠ 0) :
    d.cordPowerIn p msg = d.linkOut p (cordPowerBytes m 3) := by
  subst hm hlow
  have hno : (d.portBusy p || decide (u16 msg 1 % 4096 &&& lowBit (d.joinedMask p) ≠ 0)) = true := by simpa using hno
  simp only [cordPowerIn, hkind, hno, if_true]

/-- Cords that the far end has agreed to turn off go off. -/
theorem cordPowerIn_agreed (hkind : u8 msg 3 = 2) (hidle : d.portBusy p = false) (hkeeps : m &&& low = 0) :
    d.cordPowerIn p msg = d.powerCords p m true := by
  subst hm hlow
  simp [cordPowerIn, hkind, hidle, hkeeps, powerCords]

omit hlow

theorem cordPowerIn_wakes (hkind : u8 msg 3 = 1) :
    d.cordPowerIn p msg = (d.powerCords p m false).linkOut p (cordPowerBytes m 4) := by
  subst hm
  simp [cordPowerIn, hkind, powerCords]

theorem cordPowerIn_woken (hkind : u8 msg 3 = 4) : d.cordPowerIn p msg = d.powerCords p m false := by
  subst hm
  simp [cordPowerIn, hkind, powerCords]

end

/-! ### Loss of a port -/

theorem stoppingIn_stops {msg : Bytes} (hjoined : d.joinedMask p ≠ 0) (htype : u8 msg 0 = 7) :
    d.stoppingIn p msg = d.lostPort p (msg.getD 1 St.linkLost) := if_neg (by simp [hjoined, htype])

/-- A port without a cord for 10 ms is lost (R222). -/
theorem portLoses_noCord {t0 : Nat} (hsince : (d.port p).noCordAt = some t0) (hnone : d.joinedMask p = 0) :
    d.portLoses p = (d.reach (t0 + 10000000)).lostPort p St.linkLost := by
  simp only [portLoses, hsince, hnone, if_true]

end Dev

open Dev

/-- Settles O30: each command on a powered station is its operation, whose equation is used. -/
theorem cordCommandsComplete : Obligations.CordCommandsComplete := by
  unfold Obligations.CordCommandsComplete
  intro s port cord hp
  refine ⟨?plan, ?advance, ?late, ?loss, ?retrain, ?joins, ?leaves, ?power, ?wake, ?stopping, ?lost⟩
  case plan =>
    intro v hreach hopen hpos hup hroom
    have hself : fld (v ||| 0x80000000) 11 0 = fld v 11 0 := fld_or_two_pow v (by decide)
    have hown : fld (v ||| 0x80000000) 1 0 = s.dev.pins.modulePos := (fld_or_two_pow v (by decide)).trans hpos
    obtain ⟨x, hplan, hflash, hlnk⟩ := planWrite_apply (flag_or_two_pow v) hown hup hroom rfl
    rw [hself] at hplan hflash
    exact ⟨x, becomes_of_live rfl hp ((written_fn0 _ hreach hopen).trans hplan), hflash, hlnk⟩
  case advance =>
    intro lanes gbps hmask hup go
    refine ⟨?_, ?_, ?_, ?_, ?_, ?_⟩
    · exact fun hcord hkind => becomes_of_live rfl hp (cordAdvance_electrical hmask hup hcord hkind)
    · rintro hcord hkind hwork rfl rfl
      exact becomes_of_live rfl hp (cordAdvance_optical hmask hup hcord hkind hwork)
    · exact fun hcord => becomes_of_live rfl hp (cordAdvance_trains hmask hup hcord (by decide))
    · exact fun hcord => becomes_of_live rfl hp (cordAdvance_trains hmask hup hcord (by decide))
    · exact fun hcord => becomes_of_live rfl hp (cordAdvance_trains hmask hup hcord (by decide))
    · rintro hcord d rfl
      exact becomes_of_live rfl hp (cordAdvance_join hmask hup hcord)
  case late => exact fun hcord => becomes_of_live rfl hp (cordLate_equalise hcord)
  case loss =>
    intro hcord
    refine ⟨?_, ?_⟩
    · rintro d rfl
      exact becomes_of_live rfl hp (dropCord_joined hcord)
    · rintro hkind x d hx rfl
      have hflag : s.dev.moduleFlag port.val cord.val = x.dropCord port.val cord.val := (moduleFlag_eq hkind).trans (by rw [hx]; rfl)
      have hflagged : (x.cord port.val cord.val).st = .joined := by
        rw [hx]
        exact (congrArg Cord.st cord_flagNoted).trans hcord
      exact becomes_of_live rfl hp (hflag.trans (dropCord_joined hflagged))
  case retrain => exact fun hcord => becomes_of_live rfl hp (retrain_dropped hcord)
  case joins => exact fun msg hleft hjoins => becomes_of_live rfl hp (cordSetIn_joins hleft hjoins)
  case leaves => exact fun msg hleft hnone => becomes_of_live rfl hp (cordSetIn_leaves hleft hnone)
  case power =>
    intro msg m low set
    exact ⟨fun hkind hidle hkeeps => becomes_of_live rfl hp (cordPowerIn_agrees rfl rfl hkind hidle hkeeps),
      fun hkind hno => becomes_of_live rfl hp (cordPowerIn_refuses rfl rfl hkind hno),
      fun hkind => becomes_of_live rfl hp (cordPowerIn_wakes rfl hkind),
      fun hkind hidle hkeeps => becomes_of_live rfl hp (cordPowerIn_agreed rfl rfl hkind hidle hkeeps),
      fun hkind => becomes_of_live rfl hp (cordPowerIn_woken rfl hkind)⟩
  case wake => exact fun hoff => becomes_of_live rfl hp (if_neg hoff)
  case stopping => exact fun msg hjoined htype => becomes_of_live rfl hp (stoppingIn_stops hjoined htype)
  case lost => exact fun t0 hsince hnone => becomes_of_live rfl hp (portLoses_noCord hsince hnone)

end Sys2Proof.Machine
end

section
/-! PROOFS. The operations of discovery, of link keys, of detours and of the timestamp under the conditions under which they take effect, and
the statement on their commands (R228, R231, R235, R241, R356, R357, R370). -/

namespace Sys2Proof.Machine

namespace Dev

variable {d : Dev} {p : Nat} {msg : Bytes}

/-! ### Discovery -/

/-- A HELLO on a port with a joined cord is noted, and the verdict is looked at again (R231). -/
theorem helloIn_eq (htype : u8 msg 0 = 1) (hjoined : d.joinedMask p ≠ 0) : d.helloIn p msg =
    (d.onPort p fun x => { x with hello := some msg, heard := u16 msg 2 % 4096, helloAt := some d.now }).applyVerdict p :=
  if_neg (by simp [htype, hjoined])

theorem port_portChange (f : Dev → Dev) (q : Nat) : (d.portChange p f).port q = (f d).port q := by
  unfold portChange
  dsimp only
  split
  · rw [port, (cause_recordsOnly (f d) cLink).lnk]
    rfl
  · rfl

/-- A port that becomes ABSENT at a moment: its STATE, its CAUSE and the link cause (R231, R246). -/
def absentAt (d : Dev) (p t : Nat) : Dev :=
  ((d.reach t).portChange p fun d => d.onPort p fun y => { y with st := .absent, cause := 0 }).cause cLink

theorem port_absentAt (t : Nat) : (d.absentAt p t).port p = { d.port p with st := .absent, cause := 0 } := by
  rw [absentAt, port, (cause_recordsOnly _ cLink).lnk]
  exact (port_portChange _ p).trans (port_onPort_self (d.reach t) p _)

theorem flag_absentAt (t : Nat) : flag (d.absentAt p t).err.irqStatus cLink = true := flag_cause _ (by decide)

/-- A used port that trains without a cord and hears no HELLO is ABSENT once its time has passed (R231). -/
theorem absent_noCord {t0 : Nat} (hused : d.portUsed p = true) (hhello : (d.port p).hello = none) (hup : d.boot.restarting = false)
    (hjoined : d.joinedMask p = 0) (hat : (d.port p).trainAt = some t0) (hst : (d.port p).st = .training) :
    d.absent p = d.absentAt p (t0 + if d.portClass p = 2 then 10000000000 else 2000000000) := by
  simp only [absent, hused, hhello, hup, hjoined, hat, hst, Bool.not_true, Option.isSome_none, Bool.or_self, Bool.false_eq_true, if_false,
    if_true, beq_self_eq_true]
  rfl

/-! ### Link keys -/

/-- A certificate's fragment is kept, and with others missing nothing more is done (R356). -/
theorem certIn_fragment (henc : d.portEnc p = true) (hi : u16 msg 2 < u16 msg 4) (hlen : u16 msg 6 ≤ 240)
    (hhello : (d.port p).hello.isSome = true) {x : Dev} (hx : x = d.onPort p fun x => { x with keys := { x.keys with
      frags := x.keys.frags.set [] (u16 msg 2) (sub msg 8 (u16 msg 6)) } })
    (hmissing : ((List.range (u16 msg 4)).all fun j => !((x.port p).keys.frags.get [] j).isEmpty) = false) : d.certIn p msg = x := by
  have hgood : (!d.portEnc p || decide (u16 msg 2 ≥ u16 msg 4) || decide (u16 msg 6 > 240) || (d.port p).hello.isNone) = false := by
    simp [henc, hi, hlen, hhello]
  unfold certIn
  dsimp only
  rw [hgood, ← hx, hmissing]
  rfl

/-- Keys of the first epoch are in force in both directions (R356). -/
structure FirstKeys (k : LinkKeys) : Prop where
  tx : k.txKey.isSome = true
  rx : k.rxKey.isSome = true
  epoch : k.epoch = 1
  rxEpoch : k.rxEpoch = 1

/-- Flits that are sent leave the keys in force while none waits to follow them. -/
theorem FirstKeys.sentOn {t : Dev} (hkeys : FirstKeys (d.port p).keys) (hnext : (d.port p).keys.nextTx = none) (h : SentOn p d t) :
    FirstKeys (t.port p).keys := by
  have hsame := h.keys hnext
  have htx : (t.port p).keys.txKey = (d.port p).keys.txKey := (congrArg LinkKeys.txKey hsame :)
  have hrx : (t.port p).keys.rxKey = (d.port p).keys.rxKey := (congrArg LinkKeys.rxKey hsame :)
  have hepoch : (t.port p).keys.epoch = (d.port p).keys.epoch := (congrArg LinkKeys.epoch hsame :)
  have hrxEpoch : (t.port p).keys.rxEpoch = (d.port p).keys.rxEpoch := (congrArg LinkKeys.rxEpoch hsame :)
  exact ⟨htx ▸ hkeys.tx, hrx ▸ hkeys.rx, hepoch.trans hkeys.epoch, hrxEpoch.trans hkeys.rxEpoch⟩

/-- A verdict on a port that is not ACTIVE and has its keys leaves them in force. -/
theorem keys_applyVerdict (hst : (d.port p).st ≠ .active) (hkeyed : d.keyed p = true) :
    ((d.applyVerdict p).port p).keys = (d.port p).keys := by
  unfold applyVerdict
  split
  · rfl
  · have hdown : ((d.port p).st == .active && (d.verdict p).2.1 != .active) = false := by simp [hst]
    dsimp only
    rw [hdown, if_neg Bool.false_ne_true]
    generalize hx : d.portChange p (fun d' => d'.onPort p fun x => { x with
      st := (d.verdict p).2.1, cause := (d.verdict p).2.2, said := (d.verdict p).1, enc := d'.portEnc p }) = x
    have hkeys : (x.port p).keys = (d.port p).keys := by
      rw [← hx, port_portChange, port_onPort_self]
    have hstill : x.keyed p = true := by rwa [keyed, hkeys]
    rw [hstill]
    simpa using hkeys

/-- The station with its own SHARE sent, where it has not been (R356). -/
def shareAnswered (d : Dev) (p : Nat) : Dev := if (d.port p).keys.ephNo.isNone then d.sendShare p else d

/-- The station with a fresh ephemeral key taken for a port. -/
def ephemeralTaken (d : Dev) (p : Nat) : Dev := d.tookFree.onPort p fun x => { x with keys := { x.keys with ephNo := some d.free } }

theorem port_ephemeralTaken (d : Dev) (p : Nat) :
    (d.ephemeralTaken p).port p = { d.port p with keys := { (d.port p).keys with ephNo := some d.free } } := port_onPort_self d.tookFree p _

theorem sendShare_sentOn (d : Dev) (p : Nat) : SentOn p (d.ephemeralTaken p) (d.sendShare p) := linkOut_sentOn _ p _

theorem st_shareAnswered : ((d.shareAnswered p).port p).st = (d.port p).st := by
  unfold shareAnswered
  split
  · rw [(sendShare_sentOn d p).st, port_ephemeralTaken]
  · rfl

theorem nextTx_shareAnswered (hnext : (d.port p).keys.nextTx = none) : ((d.shareAnswered p).port p).keys.nextTx = none := by
  unfold shareAnswered
  split
  · have hwaits : ((d.ephemeralTaken p).port p).keys.nextTx = none := by rw [port_ephemeralTaken, hnext]
    exact (sendShare_sentOn d p).nextTx hwaits
  · exact hnext

section

variable {key : Bytes} (hpeer : (d.port p).keys.peerKey = some key) (hepoch : (d.port p).keys.epoch = 0) (hfirst : u32 msg 2 = 1)
include hpeer

/-- A SHARE whose signature does not verify fails the agreement (R356, R357). -/
theorem shareIn_unsigned (hbad : Config.ecdsaVerify key (sha256 (msg.take 70 ++ leBytes 8 d.fuses.serial)) (sub msg 70 64) = false) :
    d.shareIn p msg = d.keysFail p := by
  simp only [shareIn, hpeer, hbad, Bool.not_false, Bool.or_true, if_true]

include hepoch hfirst

/-- A SHARE of the first epoch that verifies puts keys in force at once, and SWITCH says so (R356). -/
theorem shareIn_first (hgood : Config.ecdsaVerify key (sha256 (msg.take 70 ++ leBytes 8 d.fuses.serial)) (sub msg 70 64) = true) :
    ∃ tx rx, d.shareIn p msg = (((d.shareAnswered p).onPort p fun x => { x with keys := { x.keys with
      epoch := 1, rxEpoch := 1, txKey := some tx, rxKey := some rx, txGroup := 0, rxGroup := 0, ephNo := none, agreedAt := d.now } }).linkOut
        p (ofNats [5, 3] ++ leBytes 4 1 ++ leBytes 8 0)).applyVerdict p := by
  simp only [shareIn, hpeer, hepoch, hfirst, hgood, Nat.zero_add, ne_eq, not_true, decide_false, Bool.not_true, Bool.or_self,
    Bool.false_eq_true, if_false, if_true]
  exact ⟨_, _, rfl⟩

/-- A port that is not ACTIVE has the keys of the first epoch by it, in both directions. -/
theorem firstKeys_shareIn (hgood : Config.ecdsaVerify key (sha256 (msg.take 70 ++ leBytes 8 d.fuses.serial)) (sub msg 70 64) = true)
    (hnext : (d.port p).keys.nextTx = none) (hst : (d.port p).st ≠ .active) : FirstKeys ((d.shareIn p msg).port p).keys := by
  obtain ⟨tx, rx, hshare⟩ := shareIn_first hpeer hepoch hfirst hgood
  generalize hx : (d.shareAnswered p).onPort p (fun x => { x with keys := { x.keys with
      epoch := 1, rxEpoch := 1, txKey := some tx, rxKey := some rx, txGroup := 0, rxGroup := 0, ephNo := none, agreedAt := d.now } }) = x
    at hshare
  have hkeys : FirstKeys (x.port p).keys := by
    rw [← hx, port_onPort_self]
    exact ⟨rfl, rfl, rfl, rfl⟩
  have hxnext : (x.port p).keys.nextTx = none := by
    rw [← hx, port_onPort_self]
    exact nextTx_shareAnswered hnext
  have hxst : (x.port p).st ≠ .active := by
    rw [← hx, port_onPort_self]
    exact st_shareAnswered.trans_ne hst
  have hsent := linkOut_sentOn x p (ofNats [5, 3] ++ leBytes 4 1 ++ leBytes 8 0)
  have hsaid := hkeys.sentOn hxnext hsent
  rw [hshare, keys_applyVerdict (hsent.st.trans_ne hxst) (by rw [keyed, hsaid.tx, hsaid.rx]; rfl)]
  exact hsaid

end

/-- SWITCH of the epoch that follows names the group of the receive key's change (R357). -/
theorem switchIn_eq (hepoch : u32 msg 2 = (d.port p).keys.rxEpoch + 1) : d.switchIn p msg =
    d.onPort p fun x => { x with keys := rxSwitch { x.keys with rxSwitchAt := some (u64 msg 6) } } := if_neg (not_not.mpr hepoch)

/-! ### Detours -/

/-- A set-up that names no further station is answered: accepted by its target in its slice (R235). -/
theorem transitDo_target (hup : d.portUp p = true) (htype : u8 msg 0 = 8) (hkind : u8 msg 1 = 1) (hlast : u8 msg 8 = 0) :
    d.transitDo p msg = d.linkOut p (transitBytes
      (if u16 msg 6 = d.station && u16 msg 4 = fld d.lnk.slice 11 0 then 2 else 3) (u16 msg 2) (u16 msg 4) (u16 msg 6) []) := by
  simp [transitDo, hup, htype, hkind, hlast]

/-- A set-up that goes on by a port that carries packets takes an entry, and is passed on with the stations left (R235). -/
theorem transitDo_passes (hup : d.portUp p = true) (htype : u8 msg 0 = 8) (hkind : u8 msg 1 = 1) (hmore : 0 < u8 msg 8)
    (hslice : u16 msg 4 = fld d.lnk.slice 11 0) (hroom : d.lnk.transits.length < 8) (hout : u8 msg 9 < 6)
    (houtUp : d.portUp (u8 msg 9) = true) : ∃ rest, d.transitDo p msg =
      ({ d with lnk := { d.lnk with
        transits := d.lnk.transits ++ [(⟨u16 msg 2, u16 msg 4, u16 msg 6, p, u8 msg 9⟩ : TransitEnt)] } }).linkOut (u8 msg 9)
          (transitBytes 1 (u16 msg 2) (u16 msg 4) (u16 msg 6) rest) := by
  obtain ⟨n, hn⟩ : ∃ n, u8 msg 8 = n + 1 := ⟨u8 msg 8 - 1, by omega⟩
  have hgo : (decide (u16 msg 4 ≠ fld d.lnk.slice 11 0) || decide (d.lnk.transits.length ≥ 8) || decide (u8 msg 9 ≥ 6) ||
      !d.portUp (u8 msg 9)) = false := by
    simp [hslice, hroom, hout, houtUp]
  unfold transitDo
  simp only [hup, htype, hkind, hn, List.range_succ_eq_map, List.map_cons, hgo, Nat.add_zero]
  exact ⟨_, rfl⟩

/-! ### The timestamp -/

/-- A station that roots no rack takes what an exchange finds, and judges it by the 4 ns of a rack (R241). -/
theorem timeSync_member (hport : p = d.clk.upstream) (hup : d.portUp p = true) (hroot : d.rackRoot = false) (t1 t2 t3 t4 : Nat) :
    d.timeSync p t1 t2 t3 t4 = d.exchanged p (d.exchangeOffset p t1 t2 t3 t4) := by
  rw [timeSync_upstream d hport hup]
  dsimp only
  rw [rackRoot_exchanged, hroot]
  rfl

theorem exchangedClk_member (hroot : d.rackRoot = false) {off : Int} : d.exchangedClk off = { d.clk with
    offsetPs := max (-32767) (min 32767 off), aligned := decide (-4000 ≤ off ∧ off ≤ 4000), set := true
    slewPs := if d.clk.set then off else 0 } := by
  rw [exchangedClk, hroot]
  rfl

/-- TIME_STEER on the upstream port, within ±100 ppm, is taken and passed on (R241). -/
theorem steerIn_eq {ppm : Int} {at_ : Nat} (hport : d.clk.upstream = p) (hup : d.portUp p = true) (hlow : -100 ≤ ppm) (hhigh : ppm ≤ 100) :
    d.steerIn p ppm at_ = ({ d with clk := { d.clk with steer := some (ppm, at_) } }).sendSteer ppm at_ :=
  if_neg (by simp [hport, hup, hlow, hhigh])

end Dev

open Dev

/-- Settles O31: each command on a powered station is its operation, whose equation is used. -/
theorem discoveryTransitAndTimeCommandsComplete : Obligations.DiscoveryTransitAndTimeCommandsComplete := by
  unfold Obligations.DiscoveryTransitAndTimeCommandsComplete
  intro s port hp
  refine ⟨fun msg => ⟨?hello, ?heard, ?silent, ?absent, ?cert, ?share, ?switch, ?renewal, ?retry⟩, ?transitWaits, ?transitEnds, ?transitPasses,
    ?timeRoot, ?timeAsks, ?timeAnswers, ?timeTakes, ?steer, ?steerApply⟩
  case hello => exact fun hjoined => becomes_of_live rfl hp (if_neg hjoined)
  case heard => exact fun htype hjoined => becomes_of_live rfl hp (helloIn_eq htype hjoined)
  case silent =>
    intro t0 hat hst
    exact becomes_of_live rfl hp (by simp only [hat, hst, beq_self_eq_true, if_true])
  case absent =>
    intro t0 hused hhello hup hjoined hat hst
    exact ⟨_, becomes_of_live rfl hp (absent_noCord hused hhello hup hjoined hat hst), congrArg Port.st (port_absentAt _),
      congrArg Port.cause (port_absentAt _), flag_absentAt _⟩
  case cert =>
    intro henc hi hlen hhello d1 hmissing
    exact becomes_of_live rfl hp (certIn_fragment henc hi hlen hhello rfl hmissing)
  case share =>
    intro key hpeer hepoch hnext hst hfirst
    refine ⟨_, becomes_of_live rfl hp rfl, ?_⟩
    split
    · next hgood =>
      obtain ⟨htx, hrx, he, hrxe⟩ := firstKeys_shareIn hpeer hepoch hfirst hgood hnext hst
      exact ⟨htx, hrx, he, hrxe⟩
    · next hbad => exact shareIn_unsigned hpeer (Bool.eq_false_iff.mpr hbad)
  case switch => exact fun hepoch => becomes_of_live rfl hp (switchIn_eq hepoch)
  case renewal =>
    intro k hkey heph hnext hgood hlower
    have hmay : (k.txKey.isSome && k.ephNo.isNone && k.nextTx.isNone && !k.failed &&
        decide (s.dev.fuses.serial < s.dev.helloSerial port.val)) = true := by
      simp [hkey, heph, hnext, hgood, hlower]
    exact becomes_of_live rfl hp (if_pos hmay)
  case retry =>
    intro hfailed
    exact becomes_of_live rfl hp (by simp only [hfailed, Bool.not_true, Bool.false_eq_true, if_false])
  case transitWaits => exact fun msg hdown => becomes_of_live rfl hp (if_pos hdown)
  case transitEnds =>
    intro msg hwork hup htype hkind hlast
    exact becomes_of_live rfl hp ((if_neg (by simp [hwork])).trans (transitDo_target hup htype hkind hlast))
  case transitPasses =>
    intro msg hwork hup htype hkind hmore hslice hroom hout houtUp
    obtain ⟨rest, hpass⟩ := transitDo_passes hup htype hkind hmore hslice hroom hout houtUp
    exact ⟨_, becomes_of_live rfl hp ((if_neg (by simp [hwork])).trans hpass), (linkOut_sentOn _ _ _).transits⟩
  case timeRoot => exact fun hplan hroot => becomes_of_live rfl hp (if_pos (by simp [hplan, hroot]))
  case timeAsks =>
    intro hstation hport hup
    exact becomes_of_live rfl hp ((if_neg (by simp [hstation])).trans (if_pos (by simp [hport, hup])))
  case timeAnswers =>
    intro t1 t2 t3 t4 hother hup
    exact becomes_of_live rfl hp ((timeSync_other _ hother _ _ _ _).trans (if_pos hup))
  case timeTakes =>
    intro t1 t2 t3 t4 hport hup hroot
    obtain ⟨ts, hclk, hts⟩ := clk_exchanged s.dev port.val (s.dev.exchangeOffset port.val t1 t2 t3 t4)
    have htake := timeSync_member hport hup hroot t1 t2 t3 t4
    refine ⟨_, becomes_of_live rfl hp htake, ?_, ?_, ?_, fun hset => ⟨?_, ?_⟩⟩
    · rw [hclk, exchangedClk_member hroot]
    · rw [hclk, exchangedClk_member hroot]
      rfl
    · rw [hclk, exchangedClk_member hroot]
      exact decide_eq_true_iff
    · rw [hclk, exchangedClk_member hroot, hset]
      rfl
    · rw [now, hclk]
      exact hts hset
  case steer => exact fun ppm at_ hport hup hlow hhigh => becomes_of_live rfl hp (steerIn_eq hport hup hlow hhigh)
  case steerApply =>
    intro ppm at_ hsteer
    have hreach : min at_ (2 ^ 64 - 1) ≤ (s.dev.reach at_).now := by
      rw [now_reach]
      omega
    exact ⟨{ s with dev := { s.dev.reach at_ with clk := { (s.dev.reach at_).clk with ppm := ppm, steer := none } } },
      becomes_of_live rfl hp (by simp only [hsteer]), rfl, rfl, hreach⟩

end Sys2Proof.Machine
end

section
/-! PROOFS. The canonical form of the station's memories (R247): one rule for each operation, in the order of the model, that it takes no
memory out of it. This part: changes in general, and the shared operations. -/

namespace Sys2Proof.Machine

set_option Elab.async false

/-- Every memory of the station is in its canonical form. The rules below are named after the operations they are about, so that a proof
reads as the operation's own definition does. -/
structure Canonical (d : Dev) : Prop where
  wf : Memory.wf d = true

namespace Canonical

open Dev

variable {d t : Dev}

/-! ### Changes that leave the memories alone -/

/-- Only the memories count. -/
theorem same (h : Canonical d) (hm : t.mem = d.mem := by rfl) (hc : t.cmem = d.cmem := by rfl) (hk : t.cores = d.cores := by rfl) :
    Canonical t := ⟨Memory.wf_of_same h.wf hm hc hk⟩

/-- Of the tiers only the four tables count. -/
theorem tables (h : Canonical d) (hg : t.mem.gddr = d.mem.gddr := by rfl) (hgm : t.mem.gddrMarks = d.mem.gddrMarks := by rfl)
    (hc : t.mem.cxl = d.mem.cxl := by rfl) (hcm : t.mem.cxlMarks = d.mem.cxlMarks := by rfl) (hcmem : t.cmem = d.cmem := by rfl)
    (hk : t.cores = d.cores := by rfl) : Canonical t := by
  constructor
  rw [Memory.wf, hg, hgm, hc, hcm, hcmem, hk]
  exact h.wf

theorem stores (h : Canonical d) (hs : SameStores d t) : Canonical t := ⟨hs.wf h.wf⟩
theorem recorded (h : Canonical d) (hr : RecordsOnly d t) : Canonical t := h.same hr.mem hr.cmem hr.cores
theorem posted (h : Canonical d) (hr : RecordsPosted d t) : Canonical t :=
  h.same (congrArg Dev.mem hr.station :) (congrArg Dev.cmem hr.station :) (congrArg Dev.cores hr.station :)

/-! ### Branches and repetitions -/

theorem ite {c : Prop} [Decidable c] {a b : Dev} (ha : Canonical a) (hb : Canonical b) : Canonical (if c then a else b) := by
  split
  · exact ha
  · exact hb

theorem given (h : Canonical d) {f : Dev → Dev} (hf : ∀ {d}, Canonical d → Canonical (f d)) {b : Bool} : Canonical (d.given b f) :=
  ite (hf h) h
theorem live (h : Canonical d) {f : Dev → Dev} (hf : ∀ {d}, Canonical d → Canonical (f d)) : Canonical (d.live f) := ite (hf h) h

/-- A fold whose steps keep the form of the station that they carry keeps it. -/
theorem foldl {α β : Type} {part : β → Dev} {f : β → α → β} {l : List α} {b : β} (h : Canonical (part b))
    (hf : ∀ {b a}, Canonical (part b) → Canonical (part (f b a))) : Canonical (part (l.foldl f b)) := by
  induction l generalizing b with
  | nil => exact h
  | cons a l ih => exact ih (hf h)

section
variable {α β γ : Type} {l : List α}

theorem foldl_fst {f : Dev × β → α → Dev × β} {x : β} (h : Canonical d) (hf : ∀ {b a}, Canonical b.1 → Canonical (f b a).1) :
    Canonical (l.foldl f (d, x)).1 := foldl (part := Prod.fst) h hf

theorem foldl_snd {f : β × Dev → α → β × Dev} {x : β} (h : Canonical d) (hf : ∀ {b a}, Canonical b.2 → Canonical (f b a).2) :
    Canonical (l.foldl f (x, d)).2 := foldl (part := Prod.snd) h hf

theorem foldl_snd_snd {f : β × γ × Dev → α → β × γ × Dev} {x : β} {y : γ} (h : Canonical d)
    (hf : ∀ {b a}, Canonical b.2.2 → Canonical (f b a).2.2) : Canonical (l.foldl f (x, y, d)).2.2 :=
  foldl (part := fun x : β × γ × Dev => x.2.2) h hf

end

theorem each {α : Type} {l : List α} {f : Dev → α → Dev} (h : Canonical d) (hf : ∀ {d a}, Canonical d → Canonical (f d a)) :
    Canonical (d.each l f) := foldl (part := id) h hf

theorem eachWrite {α : Type} {l : List α} {f : Dev → α → Option Status × Dev} (h : Canonical d)
    (hf : ∀ {d a}, Canonical d → Canonical (f d a).2) : Canonical (d.eachWrite l f).2 := foldl (part := Prod.snd) h hf

/-! ### Changes of one part of the station -/

section
variable (h : Canonical d)
include h

theorem onCtx {c : Nat} {f : Ctx → Ctx} : Canonical (d.onCtx c f) := h.same
theorem onRing {c r : Nat} {f : Ring → Ring} : Canonical (d.onRing c r f) := h.same
theorem onRegs {c : Nat} {f : CtxRegs → CtxRegs} : Canonical (d.onRegs c f) := h.same
theorem onPort {p : Nat} {f : Port → Port} : Canonical (d.onPort p f) := h.same
theorem onErr {f : ErrRegs → ErrRegs} : Canonical (d.onErr f) := h.same
theorem onWork {f : Work → Work} : Canonical (d.onWork f) := h.same
theorem onPwr {f : Pwr → Pwr} : Canonical (d.onPwr f) := h.same
theorem onCirc {f : Circ → Circ} : Canonical (d.onCirc f) := h.same
theorem emit {o : Out} : Canonical (d.emit o) := h.same
theorem tookFree : Canonical d.tookFree := h.same
theorem freeBytes {n : Nat} : Canonical (d.freeBytes n).2 := h.same

/-- A change of the tiers' bookkeeping. -/
theorem onMem {f : Mem → Mem} (hg : (f d.mem).gddr = d.mem.gddr := by rfl) (hgm : (f d.mem).gddrMarks = d.mem.gddrMarks := by rfl)
    (hc : (f d.mem).cxl = d.mem.cxl := by rfl) (hcm : (f d.mem).cxlMarks = d.mem.cxlMarks := by rfl) : Canonical (d.onMem f) :=
  h.tables hg hgm hc hcm

/-- A change of a core that leaves its buffer alone. -/
theorem onCore {c : Nat} {f : Core → Core} (hb : (f (d.core c)).buf = (d.core c).buf := by rfl) : Canonical (d.onCore c f) := by
  refine ⟨Memory.wf_onCore d c f h.wf ?_⟩
  rw [hb]
  exact Memory.wf_core d c h.wf

/-! ### The operations on memories -/

theorem errMem {k c ch i va : Nat} : Canonical (d.errMem k c ch i va) := ⟨Memory.wf_errMem _ _ _ _ _ _ h.wf⟩
theorem bufPut {c o : Nat} {b : Bytes} {m : Option Status} : Canonical (d.bufPut c o b m) := ⟨Memory.wf_bufPut _ _ _ _ _ h.wf⟩
theorem putSector {c va : Nat} {b : Bytes} {m : Option Status} : Canonical (d.putSector c va b m) := ⟨Memory.wf_putSector _ _ _ _ _ h.wf⟩
theorem rawPut {c va : Nat} {b : Bytes} {m : Option Status} : Canonical (d.rawPut c va b m) := ⟨Memory.wf_rawPut _ _ _ _ _ h.wf⟩
theorem slotPut {c va : Nat} {b : Bytes} {m : Option Status} : Canonical (d.slotPut c va b m).2 := ⟨Memory.wf_slotPut _ _ _ _ _ h.wf⟩
theorem memPut {c va : Nat} {b : Bytes} {m : Option Status} : Canonical (d.memPut c va b m).2 := ⟨Memory.wf_memPut _ _ _ _ _ h.wf⟩
theorem memGet {c va n : Nat} : Canonical (d.memGet c va n).2.2 := ⟨Memory.wf_memGet _ _ _ _ h.wf⟩
theorem clearFrame {cxl : Bool} {f : Nat} : Canonical (d.clearFrame cxl f) := ⟨Memory.wf_clearFrame _ _ _ h.wf⟩
theorem cmemPut {a : Nat} {b : Bytes} {m : Option Status} : Canonical (d.cmemPut a b m) := ⟨Memory.wf_cmemPut _ _ _ _ h.wf⟩
theorem dropLists {k : Nat} : Canonical (d.dropLists k) := ⟨dropLists_wf _ _ h.wf⟩
theorem clearBuffers : Canonical d.clearBuffers := ⟨Memory.wf_clearBuffers _ h.wf⟩
theorem clearCmem : Canonical d.clearCmem := ⟨Memory.wf_clearCmem _ h.wf⟩
theorem unmapPage {c page : Nat} : Canonical (d.unmapPage c page) := ⟨Memory.wf_unmapPage _ _ _ h.wf⟩
theorem mapPages {c page : Nat} {cxl write : Bool} {ed : Option Nat} {l : List Nat} : Canonical (d.mapPages c page cxl write ed l) :=
  ⟨Memory.wf_mapPages _ _ _ _ _ _ _ h.wf⟩
theorem moveFrame {f g : Nat} : Canonical (d.moveFrame f g) := ⟨Memory.wf_moveFrame _ _ _ h.wf⟩
theorem foundOne {f : Found} : Canonical (d.foundOne f) := ⟨Memory.wf_foundOne _ _ h.wf⟩
theorem memMark {va n : Nat} {st : Status} : Canonical (d.memMark va n st) := ⟨Memory.wf_memMark _ _ _ _ h.wf⟩
theorem spaceMark {c entry space cm : Nat} {a : Int} {n : Nat} {st : Status} : Canonical (d.spaceMark c entry space cm a n st) :=
  ⟨Memory.wf_spaceMark _ _ _ _ _ _ _ _ h.wf⟩

/-! ### What leaves by a port, and what is recorded -/

theorem flitOut {p k cr ak n : Nat} {b : Bytes} : Canonical (d.flitOut p k cr ak n b) := h.stores (flitOut_same _ _ _ _ _ _ _)
theorem sendFlit {p k : Nat} {b : Bytes} : Canonical (d.sendFlit p k b) := h.stores (sendFlit_same _ _ _ _)
theorem closeGroup {p : Nat} : Canonical (d.closeGroup p) := h.stores (closeGroup_same _ _)
theorem numbered {p k : Nat} {b : Bytes} : Canonical (d.numbered p k b) := h.stores (numbered_same _ _ _ _)
theorem flush {p : Nat} : Canonical (d.flush p) := h.stores (flush_same _ _)
theorem linkOut {p : Nat} {b : Bytes} : Canonical (d.linkOut p b) := h.stores (linkOut_same _ _ _)
theorem wakeCords {p : Nat} : Canonical (d.wakeCords p) := h.stores (wakeCords_same _ _)
theorem channelGo {p : Nat} {circ : Bool} : Canonical (d.channelGo p circ) := h.stores (channelGo_same _ _ _)
theorem packetOn {src p : Nat} {b : Bytes} : Canonical (d.packetOn src p b) := h.stores (packetOn_same _ _ _ _)
theorem cross {x : Crossing} : Canonical (d.cross x) := h.stores (cross_same _ _)
theorem spineGo {n : Nat} : Canonical (spineGo n d) := h.stores (spineGo_same _ _)
theorem packetPass {src p : Nat} {b : Bytes} : Canonical (d.packetPass src p b) := h.stores (packetPass_same _ _ _ _)
theorem sliceDrop {cls port slice src : Nat} : Canonical (d.sliceDrop cls port slice src) := h.stores (sliceDrop_same _ _ _ _ _)
theorem sendBoardBy {port : Option Nat} {m cls tag : Nat} {b : Bytes} : Canonical (d.sendBoardBy port m cls tag b).2 :=
  h.stores (sendBoardBy_same _ _ _ _ _ _)
theorem boardOut {core : Option Nat} {entry m cls : Nat} {store : Bool} {a len : Nat} {sync : Option SyncReq} {b : Bytes} :
    Canonical (d.boardOut core entry m cls store a len sync b).2 := ⟨Memory.wf_boardOut _ _ _ _ _ _ _ _ _ _ h.wf⟩
theorem msix {c v : Nat} : Canonical (d.msix c v) := h.stores (msix_same _ _ _)
theorem cause {k : Nat} : Canonical (d.cause k) := h.stores (cause_mem _ _)
theorem colLevel {n : Nat} : Canonical (d.colLevel n) := h.recorded (colLevel_recordsOnly _ _)
theorem colPutMain {b : Bytes} : Canonical (d.colPutMain b) := h.recorded (colPutMain_recordsOnly _ _)
theorem colPutReserved {b : Bytes} : Canonical (d.colPutReserved b) := h.recorded (colPutReserved_recordsOnly _ _)
theorem colCheckpoint : Canonical d.colCheckpoint := h.recorded (colCheckpoint_recordsOnly _)
theorem colDue : Canonical d.colDue := h.recorded (colDue_recordsOnly _)
theorem log {origin ctx cls obj old new detail : Nat} : Canonical (d.log origin ctx cls obj old new detail) :=
  h.recorded (log_recordsOnly _ _ _ _ _ _ _ _)
theorem logOwed {origin ctx cls obj old new detail : Nat} : Canonical (d.logOwed origin ctx cls obj old new detail) :=
  h.recorded (logOwed_recordsOnly _ _ _ _ _ _ _ _)
theorem flushSafety : Canonical d.flushSafety := h.recorded (flushSafety_recordsOnly _)
theorem colDelivered {key : Nat} : Canonical (d.colDelivered key) := h.recorded (colDelivered_recordsOnly _ _)
theorem ringModerate {c r : Nat} {irq : Bool} : Canonical (d.ringModerate c r irq) := h.posted (ringModerate_posted _ _ _ _)
theorem ringWrite {c r : Nat} {x : HeldRec} : Canonical (d.ringWrite c r x) := h.posted (ringWrite_posted _ _ _ _)
theorem flushRing {c r n : Nat} : Canonical (flushRing c r n d) := h.posted (flushRing_posted _ _ _ _)
theorem busyCheck {c : Nat} : Canonical (d.busyCheck c) := h.posted (busyCheck_posted _ _)
theorem postRecord {c r : Nat} {desc : Bytes} {st : Status} {result vmin vmax info drain : Nat} {item run : Option Nat} :
    Canonical (d.postRecord c r desc st result vmin vmax info drain item run) := h.posted (postRecord_posted _ _ _ _ _ _ _ _ _ _ _ _)

end

/-! ### The shared operations -/

theorem onLink (h : Canonical d) {p : Nat} {f : LinkLayer → LinkLayer} : Canonical (d.onLink p f) := h.onPort

theorem flitsGo (h : Canonical d) {p n : Nat} : Canonical (d.flitsGo p n) := by
  induction n generalizing d p with
  | zero => exact h
  | succ n ih =>
    unfold Dev.flitsGo
    dsimp only
    split
    · exact h
    · split
      · exact h
      · exact .ite h (ih h.onLink.sendFlit)

theorem setTs (h : Canonical d) {t : Nat} : Canonical (d.setTs t) := h.same
theorem reach (h : Canonical d) {t : Nat} : Canonical (d.reach t) := h.setTs
theorem tick (h : Canonical d) : Canonical d.tick := .ite h (h.same.setTs.given fun h => h.tookFree)
theorem onFn (h : Canonical d) {c : Nat} {f : PcieFn → PcieFn} : Canonical (d.onFn c f) := h.same
theorem msixPending (h : Canonical d) {c : Nat} : Canonical (d.msixPending c) := h.each fun h => .ite h.onFn.emit h

theorem pcieWrite (h : Canonical d) {c ofs : Nat} {v : Word} :
    Canonical (d.pcieWrite c ofs v) :=
  .ite h.onFn.msixPending (.ite h.onFn.msixPending (.ite h.onFn.msixPending h))

theorem portChange (h : Canonical d) {p : Nat} {f : Dev → Dev} (hf : ∀ {d}, Canonical d → Canonical (f d)) :
    Canonical (d.portChange p f) :=
  .ite (hf h).cause (hf h)

theorem say (h : Canonical d) {c : Carrier} {type : Nat} {b : Bytes} : Canonical (d.say c type b) := h.given fun h => h.emit
theorem saySealed (h : Canonical d) {s : Session} {type : Nat} {b : Bytes} : Canonical (d.saySealed s type b) := h.same.say

theorem answer (h : Canonical d) {c : Carrier} {session : Option Nat} {type : Nat} {b : Bytes} : Canonical (d.answer c session type b) := by
  unfold Dev.answer
  split
  · split
    · exact h.saySealed
    · exact h.say
  · exact h.say

theorem mgmtReply (h : Canonical d) {m : Mctp} {st : Status} {l : List Word} : Canonical (d.mgmtReply m st l) := h.answer

theorem platformEvent (h : Canonical d) {sensor state : Nat} : Canonical (d.platformEvent sensor state) := by
  unfold Dev.platformEvent
  split
  · exact .ite h h.emit
  · exact h

theorem colStamp (h : Canonical d) {body : Bytes} : Canonical (d.colStamp body).1 := h.same
theorem owe (h : Canonical d) {body : Bytes} : Canonical (d.owe body) := h.same
theorem colReserve (h : Canonical d) {n : Nat} : Canonical (d.colReserve n) := h.same
theorem colRelease (h : Canonical d) {n : Nat} : Canonical (d.colRelease n) := h.same

theorem logNext (h : Canonical d) {origin ctx cls obj old new detail : Nat} :
    Canonical (d.logNext origin ctx cls obj old new detail) :=
  h.colRelease.log

theorem logRefused (h : Canonical d) : Canonical d.logRefused := h.same.cause

theorem logSafety (h : Canonical d) {origin ctx cls obj old new detail : Nat} :
    Canonical (d.logSafety origin ctx cls obj old new detail) :=
  .ite (.ite h.same h) h.colPutReserved.colDue

theorem paySafety (h : Canonical d) {n : Nat} : Canonical (d.paySafety n) := by
  induction n generalizing d with
  | zero => exact h
  | succ n ih =>
    unfold Dev.paySafety
    split
    · exact h
    · exact .ite h (ih h.same.colPutReserved.colDue)

theorem payOwed (h : Canonical d) {n : Nat} : Canonical (d.payOwed n) := by
  induction n generalizing d with
  | zero => exact h
  | succ n ih =>
    unfold Dev.payOwed
    split
    · exact h
    · exact .ite h (ih h.same.colPutMain.colDue)

theorem refuse (h : Canonical d) {org : Origin} {ofs : Nat} {st : Status} : Canonical (d.refuse org ofs st) := by
  unfold Dev.refuse
  extract_lets glb d1 d2
  have h1 : Canonical d1 := .ite h h.same
  have h2 : Canonical d2 := by
    dsimp only [d2]
    split
    · exact h1.onRegs
    · exact h1
  split
  · exact h2.mgmtReply
  · exact h2

theorem accepted (h : Canonical d) {org : Origin} : Canonical (d.accepted org) := by
  unfold Dev.accepted
  split
  · exact h.mgmtReply
  · exact h

theorem logged (h : Canonical d) {org : Origin} {ofs ctx cls obj old new detail : Nat} {make : Dev → Dev}
    (hmake : ∀ {d}, Canonical d → Canonical (make d)) :
    Canonical (d.logged org ofs ctx cls obj old new detail make) :=
  .ite h.refuse (.ite h.logRefused.refuse (hmake h.log).accepted)

theorem loggedAll (h : Canonical d) {org : Origin} {ofs n : Nat} {make : Dev → Dev} (hmake : ∀ {d}, Canonical d → Canonical (make d)) :
    Canonical (d.loggedAll org ofs n make) :=
  .ite h.refuse (.ite h.logRefused.refuse (hmake h.colReserve).accepted)

theorem loggedReg (h : Canonical d) {org : Origin} {ofs old new : Nat} {make : Dev → Dev}
    (hmake : ∀ {d}, Canonical d → Canonical (make d)) :
    Canonical (d.loggedReg org ofs old new make) :=
  h.logged hmake

/-! ### Items and completion records -/

theorem onJob (h : Canonical d) {no : Nat} {f : Job → Job} : Canonical (d.onJob no f) := h.onWork
theorem colFree (h : Canonical d) {seqs : List Nat} : Canonical (d.colFree seqs) := h.same.flushSafety
theorem ringSignal (h : Canonical d) {c r : Nat} : Canonical (d.ringSignal c r) := h.onRing.msix
theorem drainRing (h : Canonical d) {c r : Nat} : Canonical (d.drainRing c r) := h.flushRing
theorem drainRings (h : Canonical d) : Canonical d.drainRings := h.each fun h => h.drainRing.busyCheck

theorem settle (h : Canonical d) {j : Job} {st : Status} {result drain : Nat} :
    Canonical (d.settle j st result drain) :=
  h.colRelease.onWork.postRecord

theorem finishRuns (h : Canonical d) : Canonical d.finishRuns := h.each fun h => .ite h h.settle
theorem failJob (h : Canonical d) {j : Job} {st : Status} : Canonical (d.failJob j st) := h.settle.finishRuns

theorem failEntries (h : Canonical d) {es : List Nat} {st : Status} : Canonical (d.failEntries es st) := by
  unfold Dev.failEntries
  refine h.each fun h => ?_
  split
  · exact h.failJob
  · exact h

theorem failOwners (h : Canonical d) {st : Status} : Canonical (d.failOwners st) := h.failEntries

theorem flagEntries (h : Canonical d) {es : List Nat} : Canonical (d.flagEntries es) := by
  unfold Dev.flagEntries
  refine h.each fun h => ?_
  split
  · exact h.onJob
  · exact h

/-! ### Keep-warm -/

theorem onKeep (h : Canonical d) {c : Nat} {arrays : List Nat} {rows : Nat → Nat} {f : Nat → KeepWarm → KeepWarm} :
    Canonical (d.onKeep c arrays rows f) :=
  h.onCore

theorem keepBlock (h : Canonical d) {c mask gap len : Nat} {runs : List Nat} : Canonical (d.keepBlock c mask gap len runs) := h.onKeep

theorem keepDown (h : Canonical d) {c : Nat} {due : KeepWarm → Bool} {slots : KeepWarm → Nat} : Canonical (d.keepDown c due slots) := by
  unfold Dev.keepDown
  dsimp only
  split
  · exact h
  · exact h.reach.onKeep

theorem keepTimeout (h : Canonical d) {c slots : Nat} : Canonical (d.keepTimeout c slots) := h.keepDown
theorem keepStep (h : Canonical d) {c : Nat} : Canonical (d.keepStep c) := h.keepDown
theorem keepCore (h : Canonical d) {c : Nat} : Canonical (d.keepCore c) := h.onKeep
theorem keepCount (h : Canonical d) : Canonical d.keepCount := h.each fun h => h.keepCore
theorem keepStandOff (h : Canonical d) {c : Nat} : Canonical (d.keepStandOff c) := .ite h.onKeep h

/-! ### Packets, staging and the spine -/

theorem packetsGo (h : Canonical d) {p : Nat} {circ : Bool} {n : Nat} : Canonical (d.packetsGo p circ n) := by
  induction n generalizing d p circ with
  | zero => exact h
  | succ n ih =>
    unfold Dev.packetsGo
    dsimp only
    split
    · exact h
    · exact .ite h (ih (Canonical.ite h.emit h).onLink)

theorem touchPeak (h : Canonical d) : Canonical d.touchPeak := h.onCirc
theorem crossed (h : Canonical d) {x : Crossing} : Canonical (d.crossed x) := h.onCirc.each fun h => h.packetOn
theorem spine (h : Canonical d) : Canonical d.spine := h.spineGo

theorem spread (h : Canonical d) {src : Nat} {b : Bytes} {copies : List (Nat × Bytes)} {both : Bool} :
    Canonical (d.spread src b copies both) :=
  .ite (h.each fun h => h.packetOn) (h.each fun h => h.packetOn).cross

theorem packetOut (h : Canonical d) {p : Nat} {b : Bytes} : Canonical (d.packetOut p b) := h.packetOn

theorem sendTo (h : Canonical d) {src axis : Nat} {plus : Bool} {cls tag : Nat} {b : Bytes} :
    Canonical (d.sendTo src axis plus cls tag b) := by
  unfold Dev.sendTo
  split
  · exact .ite h.packetPass h
  · exact h

/-! ### Endings of runs, and memory errors -/

theorem sendBoard (h : Canonical d) {m cls tag : Nat} {b : Bytes} : Canonical (d.sendBoard m cls tag b).2 := h.sendBoardBy
theorem launchControl (h : Canonical d) {src got1 : Nat} {b : Bytes} : Canonical (d.launchControl src got1 b) := h.each fun h => h.sendTo
theorem idleCores (h : Canonical d) : Canonical d.idleCores := h.each fun h => h.onCore

theorem stopCores (h : Canonical d) {runNo : Nat} : Canonical (d.stopCores runNo) := by
  unfold Dev.stopCores
  extract_lets drop d1
  have h1 : Canonical d1 := h.idleCores
  clear_value d1
  exact h1.same

theorem keepSpan (h : Canonical d) : Canonical d.keepSpan := h.onPwr

theorem stopRun (h : Canonical d) {st : Status} : Canonical (d.stopRun st) := by
  unfold Dev.stopRun
  split
  · exact h
  · exact (h.keepSpan.keepCount.onWork.stopCores.onJob.each fun h => h.failJob).finishRuns

theorem endRun (h : Canonical d) {st : Status} : Canonical (d.endRun st) := by
  unfold Dev.endRun
  split
  · exact h
  · exact h.launchControl.stopRun

theorem abortEnded (h : Canonical d) {no : Nat} {st : Status} : Canonical (d.abortEnded no st) := by
  unfold Dev.abortEnded
  split
  · exact h
  · exact (h.onJob.each fun h => h.failJob).finishRuns

theorem failAllItems (h : Canonical d) {st : Status} : Canonical (d.failAllItems st) := h.each fun h => h.failJob
theorem foundAll (h : Canonical d) {l : List Found} : Canonical (d.foundAll l) := h.each fun h => h.foundOne

/-! ### Sync words -/

theorem onWord (h : Canonical d) {w : Nat} {f : SyncWord → SyncWord} : Canonical (d.onWord w f) := h.same
theorem feRelease (h : Canonical d) {c no : Nat} : Canonical (d.feRelease c no) := h.onCore

theorem syncDone (h : Canonical d) {r : SyncReq} : Canonical (d.syncDone r).1 := by
  unfold Dev.syncDone
  split
  · exact h.feRelease
  · exact h.sendBoard
  · exact h

theorem syncFailed (h : Canonical d) {r : SyncReq} {st : Status} : Canonical (d.syncFailed r st).1 := by
  unfold Dev.syncFailed
  split
  · exact h.sendBoard
  · exact h
  · exact h.syncDone.failOwners

theorem syncAt (h : Canonical d) {w : Nat} {r : SyncReq} : Canonical (d.syncAt w r).1 := by
  unfold Dev.syncAt
  dsimp only
  split
  · exact h.errMem
  · split
    · exact h.onWord
    · split
      · exact h.onWord
      · exact h.same

theorem syncCross (h : Canonical d) {w : Nat} {r : SyncReq} : Canonical (d.syncCross w r) := h.same

theorem syncRun (h : Canonical d) {n : Nat} {l : List (Nat × SyncReq)} : Canonical (syncRun n l d) := by
  induction n generalizing d l with
  | zero =>
    unfold Dev.syncRun
    exact h
  | succ n ih =>
    cases l with
    | nil => exact h
    | cons x l =>
      unfold Dev.syncRun
      extract_lets x step a b
      have hstep : ∀ {a y}, Canonical y.1 → Canonical (step a y).1 := by
        intro a y hy
        dsimp only [step]
        split
        · exact hy
        · split
          · exact hy
          · exact hy.syncCross
      have ha : Canonical a.1 := foldl_fst h.syncAt fun h => hstep h.syncDone
      have hb : Canonical b.1 := foldl_fst ha fun h => hstep h.syncFailed
      exact ih hb

theorem syncArrive (h : Canonical d) {w : Nat} {r : SyncReq} : Canonical (d.syncArrive w r) := h.syncRun
theorem syncIssue (h : Canonical d) {leaf w : Nat} {r : SyncReq} : Canonical (d.syncIssue leaf w r) := .ite h.syncArrive h.syncCross

theorem signal (h : Canonical d) {c v : Nat} : Canonical (d.signal c v) := by
  unfold Dev.signal
  split
  · exact h.syncIssue
  · exact h

theorem arrivalSignal (h : Canonical d) {v : Nat} : Canonical (d.arrivalSignal v) := by
  unfold Dev.arrivalSignal
  split
  · exact h.syncArrive
  · exact h

theorem syncBad (h : Canonical d) {w : Nat} : Canonical (d.syncBad w) := by
  unfold Dev.syncBad
  dsimp only
  refine h.onWord.errMem.same.each fun h => ?_
  split
  · exact h.syncFailed
  · exact h.syncFailed.syncIssue

theorem found (h : Canonical d) {l : List Found} : Canonical (d.found l) := by
  unfold Dev.found
  refine h.foundAll.each fun h => ?_
  split
  · exact h.syncBad
  · exact h

theorem syncClearRange (h : Canonical d) {c : Nat} : Canonical (d.syncClearRange c) := h.same.each fun h => h.syncFailed

theorem spineArrive (h : Canonical d) {leaf : Nat} : Canonical (d.spineArrive leaf) := by
  unfold Dev.spineArrive
  split
  · exact h
  · exact h.same.syncArrive

theorem boardSync (h : Canonical d) {m tag c v : Nat} {op : SyncOp} {ge : Bool} {imm : Dword} :
    Canonical (d.boardSync m tag c v op ge imm) := by
  unfold Dev.boardSync
  dsimp only
  split
  · split
    · exact h.syncArrive
    · exact h.syncFailed
  · exact h.sendBoard

theorem represent (h : Canonical d) {leaf : Nat} : Canonical (d.represent leaf) := by
  unfold Dev.represent
  split
  · exact h
  · exact h.same.syncArrive

theorem stallRecord (h : Canonical d) {kind unit core ctx object : Nat} :
    Canonical (d.stallRecord kind unit core ctx object) :=
  h.onErr.cause

end Canonical

end Sys2Proof.Machine
end

section
/-! PROOFS. The canonical form of the memories (R247): the operations of a core and of its units. -/

namespace Sys2Proof.Machine

set_option Elab.async false

namespace Canonical

open Dev

variable {d t : Dev}

/-! ### Operands -/

theorem errCmem (h : Canonical d) {row : Nat} {mov : Bool} : Canonical (d.errCmem row mov) := .ite h.onErr.cause.errMem h.onErr.cause
theorem cmemWake (h : Canonical d) {a n : Nat} : Canonical (d.cmemWake a n) := .ite h h.onPwr

theorem cmemGet (h : Canonical d) {a n : Nat} : Canonical (d.cmemGet a n).2 := by
  unfold Dev.cmemGet
  dsimp only
  split
  · dsimp only
    exact h.cmemWake.errCmem
  · exact h.cmemWake

theorem rangeFault (h : Canonical d) {a : Int} : Canonical (d.rangeFault a) := h.errMem

theorem spaceGet (h : Canonical d) {c : Nat} {got : List Piece} {space cm : Nat} {a : Int} {n : Nat} :
    Canonical (d.spaceGet c got space cm a n).2 := by
  unfold Dev.spaceGet
  dsimp only
  split
  · exact h.rangeFault
  · split
    · split
      · exact h
      · exact h.rangeFault
    · split
      · split
        · exact h
        · exact h.rangeFault
      · exact h.rangeFault
    · split
      · exact h.cmemGet
      · exact h.rangeFault
    · split
      · exact h.rangeFault
      · split
        · exact h.memGet
        · split <;> exact h
    · split
      · exact h.memGet
      · exact h.rangeFault

theorem boardStoreOut (h : Canonical d) {c entry m a : Nat} {b : Bytes} {mk : Option Status} :
    Canonical (d.boardStoreOut c entry m a b mk).2 :=
  h.boardOut

theorem spacePut (h : Canonical d) {c entry space cm : Nat} {a : Int} {b : Bytes} {m : Option Status} :
    Canonical (d.spacePut c entry space cm a b m).2 := by
  unfold Dev.spacePut
  dsimp only
  split
  · exact h.rangeFault
  · split
    · split
      · exact h.bufPut
      · exact h.rangeFault
    · split
      · split
        · exact h.bufPut
        · exact h.rangeFault
      · exact h.rangeFault
    · split
      · exact h.cmemPut
      · exact h.rangeFault
    · split
      · exact h.rangeFault
      · split
        · exact h.memPut
        · exact h.boardStoreOut
    · split
      · exact h.memPut
      · exact h.rangeFault

theorem getRow (h : Canonical d) {c : Nat} {got : List Piece} {x : Desc} {r : Nat} : Canonical (d.getRow c got x r).2 := by
  unfold Dev.getRow
  dsimp only
  split
  · exact .ite h.rangeFault h
  · split
    · split
      · exact h.spaceGet
      · exact h.spaceGet.spaceGet
    · split
      · exact h.spaceGet
      · exact h.spaceGet.spaceGet

theorem getRows (h : Canonical d) {c : Nat} {got : List Piece} {x : Desc} {n k : Nat} : Canonical (d.getRows c got x n k).2 := by
  induction k generalizing d c got x n with
  | zero => exact h
  | succ k ih =>
    unfold Dev.getRows
    exact ih h.getRow

theorem putRow (h : Canonical d) {c entry : Nat} {x : Desc} {r : Nat} {row : Row} : Canonical (d.putRow c entry x r row).2 := by
  unfold Dev.putRow
  dsimp only
  split
  · exact h.spacePut.spacePut
  · exact h.spacePut

theorem putRows (h : Canonical d) {c entry : Nat} {x : Desc} {n : Nat} {l : List Row} : Canonical (d.putRows c entry x n l).2 := by
  induction l generalizing d c entry x n with
  | nil => exact h
  | cons a l ih =>
    unfold Dev.putRows
    exact ih h.putRow

theorem convParams (h : Canonical d) {c : Nat} {got : List Piece} {i n : Nat} : Canonical (d.convParams c got i n).2.2 := by
  unfold Dev.convParams
  split
  · exact h
  · exact h.spaceGet

theorem cutLists (h : Canonical d) {p : Nat × Nat} {a n : Nat} : Canonical (d.cutLists p a n) := h.same

theorem noteLists (h : Canonical d) {c : Nat} {x : Desc} {nq k code : Nat} : Canonical (d.noteLists c x nq k code) := by
  unfold Dev.noteLists
  refine h.each fun {d j} h => ?_
  extract_lets a d1
  have h1 : Canonical d1 := h.cutLists
  exact h1.same

theorem carryLists (h : Canonical d) {src dst : Nat × Nat} {a b n : Nat} : Canonical (d.carryLists src dst a b n) := by
  unfold Dev.carryLists
  extract_lets new d1
  have h1 : Canonical d1 := h.cutLists
  exact h1.same

theorem moveLists (h : Canonical d) {c : Nat} {ds dd : Desc} : Canonical (d.moveLists c ds dd) := by
  unfold Dev.moveLists
  split
  · exact h
  · refine h.each fun h => ?_
    split
    · exact h
    · exact h.carryLists

/-! ### The numeric flag and the output conversion -/

theorem flagTile (h : Canonical d) {c : Nat} {cvt : Bool} {array row col : Nat} {isNan : Bool} {seq pc : Nat} :
    Canonical (d.flagTile c cvt array row col isNan seq pc) :=
  (Canonical.ite h h.same).cause

theorem flagFold (h : Canonical d) {c cause record slot layer block : Nat} :
    Canonical (d.flagFold c cause record slot layer block) :=
  (Canonical.ite h h.same).cause

/-! ### Folded blocks -/

theorem setSlot (h : Canonical d) {c slot : Nat} {t : Tile} : Canonical (d.setSlot c slot t) := h.onCore

theorem loadTile (h : Canonical d) {c : Nat} {j : LdwJob} : Canonical (d.loadTile c j) := by
  unfold Dev.loadTile
  dsimp only
  split
  · split
    · exact h.onCore.flagFold.setSlot
    · exact h.onCore.setSlot
    · exact h.onCore.setSlot
  · split
    · split
      · exact h.rangeFault.setSlot
      · split <;> exact h.setSlot
    · split
      · exact h.rangeFault.setSlot
      · split <;> exact h.setSlot

/-! ### The matrix arrays -/

theorem blockRow (h : Canonical d) {c : Nat} {j : MxmJob} {i r kv : Nat} : Canonical (d.blockRow c j i r kv).2.2 := by
  unfold Dev.blockRow
  extract_lets a base eb groups x d0 exps z
  have h0 : Canonical d0 := .ite h h.spaceGet
  exact foldl_snd_snd h0 fun h => h.spaceGet

theorem accRow (h : Canonical d) {c : Nat} {j : MxmJob} {array row : Nat} {vals : List (Word × Word)} {m : Option Status} :
    Canonical (d.accRow c j array row vals m) :=
  h.onCore

theorem streamRow (h : Canonical d) {c : Nat} {j : MxmJob} {t : Tile} {cols : List (List FVal)} {kv i array r : Nat} :
    Canonical (d.streamRow c j t cols kv i array r).2 :=
  h.blockRow.accRow

theorem failRows (h : Canonical d) {j : MxmJob} {st : Status} : Canonical (d.failRows j st) := h.failEntries

theorem streamBlock (h : Canonical d) {c : Nat} {j : MxmJob} {t : Tile} : Canonical (d.streamBlock c j t) := by
  unfold Dev.streamBlock
  extract_lets of8 kv nv cols sel z d1
  have hz : Canonical z.2 := foldl_snd h fun h => foldl_snd h fun h => h.streamRow (t := t)
  have h1 : Canonical d1 := hz.onCore
  split
  · exact h1
  · exact h1.onCore.failRows

theorem drainRow (h : Canonical d) {c : Nat} {j : MxmJob} {i array r : Nat} : Canonical (d.drainRow c j i array r).2 := by
  unfold Dev.drainRow
  extract_lets nv x key accs mk ps cr m g w1 y w2 ix z w3 row tileRow d1
  have h1 : Canonical w1.2 := h.convParams.spacePut
  have h2 : Canonical w2.2 := by
    dsimp only [w2]
    split
    · exact h1
    · exact h1.spacePut
  have h3 : Canonical w3.2 := by
    dsimp only [w3]
    split
    · exact h2.spacePut
    · exact h2
  have h4 : Canonical d1 := by
    dsimp only [d1]
    split
    · exact h3.failEntries
    · exact h3
  exact .ite h4.flagEntries h4

theorem captureTile (h : Canonical d) {c : Nat} {j : MxmJob} {flags : List (Nat × Nat × Nat × Bool)} :
    Canonical (d.captureTile c j flags) := by
  unfold Dev.captureTile
  split
  · exact h
  · exact h.flagTile

theorem putArrays (h : Canonical d) {c : Nat} {q : List QEnt} : Canonical (d.putArrays c q) := h.onCore

theorem loadShadow (h : Canonical d) {c mask : Nat} {oblong of8 : Bool} {t : Tile} :
    Canonical (d.loadShadow c mask oblong of8 t) :=
  h.onCore

theorem loadBegin (h : Canonical d) {c : Nat} : Canonical (d.loadBegin c) := by
  unfold Dev.loadBegin
  split
  · exact h
  · split
    · exact h.putArrays.failRows
    · exact h.putArrays.loadShadow

theorem askPieces (h : Canonical d) {c entry : Nat} {l : List (Nat × Nat × Nat)} : Canonical (d.askPieces c entry l).2 := by
  unfold Dev.askPieces
  refine foldl_snd h fun h => ?_
  dsimp only
  split <;> exact h.boardOut

theorem activateTiles (h : Canonical d) {c : Nat} {j : MxmJob} {gap : Nat} {runs : List Nat} :
    Canonical (d.activateTiles c j gap runs) :=
  h.keepBlock.onCore

theorem streamGo (h : Canonical d) {c gap : Nat} {bubbles : List Nat} {before : List QEnt} {e : QEnt} {rest : List QEnt} :
    Canonical (d.streamGo c gap bubbles before e rest) :=
  h.activateTiles.putArrays.streamBlock

theorem streamBegin (h : Canonical d) {c gap : Nat} {bubbles : List Nat} : Canonical (d.streamBegin c gap bubbles) := by
  unfold Dev.streamBegin
  split
  · exact h
  · exact .ite h (.ite h.askPieces.putArrays h.streamGo)

theorem drainNext (h : Canonical d) {c array : Nat} : Canonical (d.drainNext c array) := by
  unfold Dev.drainNext
  split
  · exact h
  · exact .ite h.drainRow.onCore.captureTile h.drainRow.onCore

theorem fscFail (h : Canonical d) {c : Nat} {record : Bytes} {st : Status} : Canonical (d.fscFail c record st) := by
  unfold Dev.fscFail
  split
  · exact h.failEntries
  · exact h.failOwners

/-! ### The compare engines -/

theorem topkQueries (h : Canonical d) {c : Nat} {got : List Piece} {dq : Desc} {nq : Nat} :
    Canonical (d.topkQueries c got dq nq).2 :=
  h.getRows

theorem tableWake (h : Canonical d) {t : CmemTable} : Canonical (d.tableWake t) := h.cmemWake

/-- A change of CMEM's counters. -/
theorem cmemCount (h : Canonical d) {pass repass : Dword} :
    Canonical { d with cmem := { d.cmem with pass := pass, repass := repass } } := ⟨h.wf⟩

theorem topkCmemLists (h : Canonical d) {c : Nat} {got : List Piece} {mode k nq : Nat} {mx : Bool} {dq dt : Desc} :
    Canonical (d.topkCmemLists c got mode k nq mx dq dt).2 := by
  unfold Dev.topkCmemLists
  split
  · exact h
  · extract_lets q0 qs hs res passes rounds q cmem d1 d2
    have hq : Canonical qs.2 := h.topkQueries.tableWake
    have h1 : Canonical d1 := hq.cmemCount
    have h2 : Canonical d2 := hq.cmemCount
    split
    · dsimp only
      exact h1.errCmem
    · exact h1
    · exact h2

theorem markSlip (h : Canonical d) : Canonical d.markSlip := by
  unfold Dev.markSlip
  split
  · exact h
  · exact h.onWork

theorem topkScanLists (h : Canonical d) {c : Nat} {got : List Piece} {mode k nq : Nat} {mx : Bool} {dq dt : Desc} :
    Canonical (d.topkScanLists c got mode k nq mx dq dt).2 := by
  unfold Dev.topkScanLists
  dsimp only
  split
  · exact h
  · split
    · exact h
    · split
      · exact h.memGet
      · split <;> exact (h.topkQueries.onPwr.given fun h => h.markSlip).memGet

theorem mergeInput (h : Canonical d) {c : Nat} {got : List Piece} {mode nq : Nat} {x : Desc} {pre : Option Status} :
    Canonical (d.mergeInput c got mode nq x pre).2 := by
  unfold Dev.mergeInput
  dsimp only
  split
  · exact (Canonical.ite h h.rangeFault).getRows
  · exact foldl_snd h fun h => h.spaceGet

theorem topkMergeLists (h : Canonical d) {c : Nat} {got : List Piece} {mode k nq : Nat} {mx : Bool} {dq dt : Desc}
    {preQ preT : Option Status} :
    Canonical (d.topkMergeLists c got mode k nq mx dq dt preQ preT).2 :=
  h.mergeInput.mergeInput

theorem putLists (h : Canonical d) {c entry k : Nat} {dl : Desc} {ls : List OutList} : Canonical (d.putLists c entry k dl ls).2 := by
  unfold Dev.putLists
  refine foldl_snd h fun h => ?_
  dsimp only
  split
  · exact h.spacePut
  · exact h.spacePut.spacePut

theorem topkDo (h : Canonical d) {c entry : Nat} {got : List Piece} {w : Nat} {dq dt dl : Desc} {preQ : Option Status} {write : Bool} :
    Canonical (d.topkDo c entry got w dq dt dl preQ write).2 := by
  unfold Dev.topkDo
  extract_lets mode k nq mx r dm p
  have hr : Canonical r.2 := by
    dsimp only [r]
    split
    · split
      · exact h
      · exact h.topkCmemLists
    · split
      · exact h
      · exact h.topkScanLists
    · exact h.topkMergeLists
  have hp : Canonical p.2 := hr.noteLists.putLists
  split
  · exact hr
  · dsimp only
    split
    · exact hp.failOwners
    · exact hp

/-! ### The activation channel and the board -/

theorem ackOut (h : Canonical d) {dest tag kind : Nat} {st : Status} : Canonical (d.ackOut dest tag kind st) := by
  unfold Dev.ackOut
  split
  · exact h.sendBoard
  · dsimp only
    split
    · exact h.packetOut
    · exact h

theorem sliceEnds (h : Canonical d) {b : Bytes} : Canonical (d.sliceEnds b) := by
  unfold Dev.sliceEnds
  split
  · exact .ite h.endRun h
  · exact h

theorem refusePacket (h : Canonical d) {port : Nat} {h' : Head} :
    Canonical (d.refusePacket port h') :=
  (Canonical.ite h.sliceDrop.sliceEnds h.sliceDrop).ackOut

theorem forward (h : Canonical d) {port route : Nat} {h' : Head} {b : Bytes} : Canonical (d.forward port route h' b) := by
  unfold Dev.forward
  split
  · split
    · exact h.packetPass
    · exact .ite h h.ackOut
  · exact .ite h.packetPass h

theorem receive (h : Canonical d) {port : Nat} {b : Bytes} : Canonical (d.receive port b).1 := by
  unfold Dev.receive
  split
  · exact h
  · extract_lets x d1
    have h1 : Canonical d1 := h.onLink
    split
    · split
      · exact h1.refusePacket
      · split
        · exact h1.spread
        · exact h1.packetPass
    · split
      · exact h1.refusePacket
      · split
        · split
          · exact h1
          · exact h1.forward
          · exact h1.refusePacket
        · exact h1

/-- What a received packet leaves, as the operations of arriving packets take it apart. -/
theorem received (h : Canonical d) {port : Nat} {b : Bytes} {x : Option Head} (e : d.receive port b = (t, x)) : Canonical t := by
  simpa only [e] using h.receive (port := port) (b := b)

theorem onEntry (h : Canonical d) {c no : Nat} {f : QEnt → QEnt} : Canonical (d.onEntry c no f) := h.onCore

theorem failTransfer (h : Canonical d) {sent : Bool} {tag : Nat} {st : Status} : Canonical (d.failTransfer sent tag st) := by
  unfold Dev.failTransfer
  split
  · exact (h.each fun h => h.failJob).onWork
  · exact h.failOwners

theorem fscSent (h : Canonical d) {c no : Nat} {st : Option Status} : Canonical (d.fscSent c no st) := by
  unfold Dev.fscSent
  split
  · exact h
  · dsimp only
    refine Canonical.onCore ?_
    split
    · exact h.fscFail
    · exact h

theorem sendEnds (h : Canonical d) {c no : Nat} {st : Option Status} : Canonical (d.sendEnds c no st) := h.onEntry.fscSent

theorem sendAck (h : Canonical d) {src tag : Nat} {ack : AckKind} : Canonical (d.sendAck src tag ack) := by
  unfold Dev.sendAck
  split
  · exact h
  · extract_lets st s' d1 d2
    have h1 : Canonical d1 := h.onCirc
    have h2 : Canonical d2 := by
      dsimp only [d2]
      split
      · exact h1.failOwners
      · exact h1.failOwners
      · exact h1.failOwners
      · exact h1.failOwners
      · split
        · exact h1.failTransfer
        · exact h1
      · exact h1
    exact .ite h2.sendEnds h2

theorem winFails (h : Canonical d) {write : Bool} {m n : Nat} {st : Status} {poison : Bool} :
    Canonical (d.winFails write m n st poison) :=
  .ite h.same (.ite h.same.emit h.same.emit)

theorem boardEnd (h : Canonical d) {b : BoardOut} {data : Bytes} {st : Option Status} {poison : Bool} :
    Canonical (d.boardEnd b data st poison) := by
  unfold Dev.boardEnd
  extract_lets d1
  have h1 : Canonical d1 := h.onCirc
  split
  · extract_lets x
    have hx : Canonical x.1 := by
      dsimp only [x]
      split
      · exact h1.syncDone
      · exact h1.syncFailed
    split
    · exact hx
    · exact hx.syncIssue
  · split
    · split
      · exact .ite h1 h1.emit
      · exact h1.winFails
    · split
      · split
        · exact h1
        · exact h1.failOwners
      · exact h1.onEntry

theorem boardAnswer (h : Canonical d) {src tag : Nat} {data : Bytes} {ack : AckKind} : Canonical (d.boardAnswer src tag data ack) := by
  unfold Dev.boardAnswer
  split
  · exact h
  · dsimp only
    refine Canonical.boardEnd ?_
    split
    · exact .ite h.errMem h
    · exact h

theorem ackTransfer (h : Canonical d) {t : Transfer} {kind : Nat} : Canonical (d.ackTransfer t kind) := .ite h.sendAck h.ackOut
theorem recvMarked (h : Canonical d) {c entry : Nat} {x : Desc} {st : Status} : Canonical (d.recvMarked c entry x st) := h.spaceMark

theorem recvLists (h : Canonical d) {c entry : Nat} {x : Desc} {st : Status} :
    Canonical (d.recvLists c entry x st) :=
  h.each fun h => h.spacePut

theorem recvDamaged (h : Canonical d) {c entry : Nat} {x : Desc} {st : Status} :
    Canonical (d.recvDamaged c entry x st) :=
  .ite h.recvLists h.recvMarked

theorem reinit (h : Canonical d) {e : Nat} : Canonical (d.reinit e) := h.memPut
theorem mapFirsts (h : Canonical d) {b : Bytes} : Canonical (d.mapFirsts b) := .ite h (h.each fun h => .ite h.reinit h)

theorem loopBack (h : Canonical d) {b : Bytes} {m : Option Status} : Canonical (d.loopBack b m) := by
  unfold Dev.loopBack
  split
  · exact h
  · dsimp only
    refine h.onWork.each fun h => ?_
    split
    · exact h
    · split
      · exact h.failJob
      · exact .ite h.onJob h

theorem recvWrite (h : Canonical d) {c entry : Nat} {x : Desc} {ts : List Transfer} : Canonical (d.recvWrite c entry x ts) := by
  unfold Dev.recvWrite
  extract_lets t m fits w
  split
  · exact h.recvMarked.failTransfer
  · have hw : Canonical w.2 := by
      dsimp only [w]
      split
      · exact foldl_snd h fun h => foldl_snd h fun h => h.spacePut
      · exact h.spacePut
    split
    · exact hw.failTransfer
    · exact .ite hw.loopBack.mapFirsts (.ite hw.noteLists hw)

theorem recvTry (h : Canonical d) {c : Nat} {e : QEnt} : Canonical (d.recvTry c e) := by
  unfold Dev.recvTry
  dsimp only
  split
  · exact h.onCirc.recvDamaged.failTransfer.onEntry
  · split
    · exact .ite h.onCirc.recvDamaged.failTransfer.onEntry h
    · exact h.onCirc.recvWrite.ackTransfer.onEntry

theorem transferIn (h : Canonical d) {t : Transfer} : Canonical (d.transferIn t) := by
  unfold Dev.transferIn
  dsimp only
  split
  · refine Canonical.recvTry ?_
    split
    · exact .ite h.onCirc.touchPeak.arrivalSignal h.onCirc.touchPeak
    · exact h.onCirc.touchPeak
  · split
    · exact .ite h.onCirc.touchPeak.arrivalSignal h.onCirc.touchPeak
    · exact h.onCirc.touchPeak

theorem forwardCopy (h : Canonical d) {port : Nat} {h' : Head} {b : Bytes} : Canonical (d.forwardCopy port h' b) := by
  unfold Dev.forwardCopy
  split
  · exact h
  · split
    · exact .ite h.packetPass h
    · exact h

theorem discarded (h : Canonical d) {x : Head} (e : d.discarded x = some t) : Canonical t := by
  unfold Dev.discarded at e
  split at e
  · cases e
  · dsimp only at e
    split at e
    · cases e
    · cases e
      exact h.onCirc

theorem transferPacket (h : Canonical d) {port cls : Nat} {b : Bytes} : Canonical (d.transferPacket port cls b) := by
  unfold Dev.transferPacket
  split
  · next e => exact h.received e
  · next e =>
    have h1 := h.received e
    split
    · exact h1
    · dsimp only
      split
      · next e => exact h1.forwardCopy.discarded e
      · exact h1.forwardCopy.transferIn

theorem startExpire (h : Canonical d) {src : Nat} : Canonical (d.startExpire src) := by
  unfold Dev.startExpire
  split
  · exact .ite h h.reach.launchControl.onWork
  · exact h

theorem lagExpire (h : Canonical d) {src tag : Nat} : Canonical (d.lagExpire src tag) := by
  unfold Dev.lagExpire
  dsimp only
  split
  · exact h.startExpire
  · split
    · exact h
    · split
      · exact h.reach.onCirc.ackTransfer.recvTry
      · exact h.reach.onCirc.ackTransfer

theorem loseParts (h : Canonical d) {p : Nat} : Canonical (d.loseParts p) := h.each fun h => .ite h.onCirc h

theorem recvLoses (h : Canonical d) {used : Bool} {p : Nat} {r : Nat × QEnt} :
    Canonical (d.recvLoses used p r) :=
  .ite (.ite h.recvDamaged.onCirc.onEntry h.recvDamaged.onCirc.onEntry.failTransfer) h

theorem recvsLose (h : Canonical d) {p : Nat} {used : Bool} : Canonical (d.recvsLose p used) := (h.each fun h => h.recvLoses).loseParts

theorem sendBodies (h : Canonical d) {c : Nat} {got : List Piece} {w : Nat} {x : Desc} : Canonical (d.sendBodies c got w x).2 := by
  unfold Dev.sendBodies
  split
  · extract_lets k nq known code per
    exact foldl_snd (h.given fun h => h.tookFree) fun h =>
      foldl_snd_snd h fun h => h.spaceGet
  · exact h.spaceGet

theorem sendDo (h : Canonical d) {c entry : Nat} {got : List Piece} {w lagDefault : Nat} {x : Desc} :
    Canonical (d.sendDo c entry got w lagDefault x).2 := by
  unfold Dev.sendDo
  dsimp only
  split
  · exact (Canonical.ite h.sliceDrop h).failTransfer
  · split
    · exact h.sendBodies
    · exact h.sendBodies.onCirc.each fun h => h.each fun h => .ite h.transferIn h.packetOut

theorem boardReply (h : Canonical d) {src tag cls : Nat} {b : Bytes} : Canonical (d.boardReply src tag cls b) := h.sendBoard

theorem boardSyncIn (h : Canonical d) {h' : Head} : Canonical (d.boardSyncIn h') := by
  unfold Dev.boardSyncIn
  split
  · exact h.boardSync
  · exact h

theorem boardStoreIn (h : Canonical d) {port : Nat} {b : Bytes} : Canonical (d.boardStoreIn port b) := by
  unfold Dev.boardStoreIn
  split
  · next e => exact h.received e
  · next e =>
    have h1 := h.received e
    split
    · exact h1
    · split
      · exact h1.forwardCopy.transferIn
      · split
        · exact h1.boardSyncIn
        · extract_lets c m x
          have hx : Canonical x.2 := h1.memPut
          split
          · exact h1.boardReply
          · split
            · exact (Canonical.ite h1 hx).boardReply
            · exact hx.boardReply

theorem boardLoadIn (h : Canonical d) {port : Nat} {b : Bytes} : Canonical (d.boardLoadIn port b) := by
  unfold Dev.boardLoadIn
  split
  · next e => exact h.received e
  · next e =>
    have h1 := h.received e
    dsimp only
    split
    · exact h1
    · split
      · exact h1.boardReply
      · split
        · exact .ite h1.memGet.boardReply h1.boardReply
        · exact h1.memGet.boardReply

theorem boardResponseIn (h : Canonical d) {port : Nat} {b : Bytes} : Canonical (d.boardResponseIn port b) := by
  unfold Dev.boardResponseIn
  split
  · next e => exact h.received e
  · next e => exact .ite (h.received e).boardAnswer (h.received e)

theorem ackArrive (h : Canonical d) {port : Nat} {b : Bytes} : Canonical (d.ackArrive port b) := by
  unfold Dev.ackArrive
  split
  · next e => exact h.received e
  · next e => exact .ite (h.received e) (.ite (h.received e).boardAnswer (h.received e).sendAck)

/-! ### Interlocks -/

theorem putQueue (h : Canonical d) {c : Nat} {u : CoreUnit} {l : List QEnt} : Canonical (d.putQueue c u l) := h.onCore

/-! ### The vector unit -/

theorem vecDo (h : Canonical d) {c entry : Nat} {got : List Piece} {op : Nat} {imm : Word} {bcast slot : Bool} {da db dd : Desc} :
    Canonical (d.vecDo c entry got op imm bcast slot da db dd).2 := by
  unfold Dev.vecDo
  extract_lets ra rb rd d1 m rows w
  have hb : Canonical rb.2 := by
    dsimp only [rb]
    split
    · exact h.getRows.getRows
    · exact h.getRows
  have h1 : Canonical d1 := by
    dsimp only [d1, rd]
    split
    · exact hb.getRows
    · exact hb
  have hw : Canonical w.2 := by
    dsimp only [w]
    split
    · exact h1
    · exact h1.putRows
  dsimp only
  split
  · exact hw.failOwners
  · exact hw

theorem cvtDo (h : Canonical d) {c entry pc : Nat} {got : List Piece} {piece param : Nat} {slot : Bool} {ds dd : Desc} :
    Canonical (d.cvtDo c entry pc got piece param slot ds dd).2 := by
  unfold Dev.cvtDo
  extract_lets rs ps m cv w d1
  have hw : Canonical w.2 := by
    dsimp only [w]
    split
    · exact h.getRows.convParams
    · exact h.getRows.convParams.putRows
  have h1 : Canonical d1 := by
    dsimp only [d1]
    split
    · exact hw.flagTile.flagEntries
    · exact hw
  dsimp only
  split
  · exact h1.failOwners
  · exact h1

theorem movDo (h : Canonical d) {c entry : Nat} {got : List Piece} {trans skew oblong slot : Bool} {blocks m : Nat} {ds dd : Desc} :
    Canonical (d.movDo c entry got trans skew oblong slot blocks m ds dd).2 := by
  unfold Dev.movDo
  extract_lets rs f mk rows cols word n eb w lists
  have hr : Canonical rs.2 := h.getRows
  have hw : Canonical w.2 := by
    dsimp only [w]
    split
    · exact hr
    · split
      · exact hr.putRows
      · refine foldl_snd hr fun h => ?_
        extract_lets
        split
        · exact h.spacePut.spacePut
        · exact h.spacePut
  have hl : Canonical lists := hw.given fun h => h.moveLists
  clear_value lists
  dsimp only
  split
  · exact hl.failOwners
  · exact hl

/-! ### Fused stage commands -/

theorem accDamage (h : Canonical d) {c : Nat} {j : MxmJob} {st : Status} : Canonical (d.accDamage c j st) := h.onCore

theorem drainAll (h : Canonical d) {c : Nat} {j : MxmJob} : Canonical (d.drainAll c j) := by
  unfold Dev.drainAll
  extract_lets sel z
  have hz : Canonical z.2 := foldl_snd h fun h => foldl_snd h fun h => h.drainRow
  exact hz.captureTile

theorem stageArrays (h : Canonical d) {c : Nat} {j : MxmJob} {staging : Nat} {slot : Bool} {gap : Nat} {bubbles : List Nat}
    {pre : Option Status} : Canonical (d.stageArrays c j staging slot gap bubbles pre).2 := by
  unfold Dev.stageArrays
  extract_lets tile
  split
  · exact h.accDamage.failRows
  · exact h
  · extract_lets d1 mk
    have h1 : Canonical d1 := h.loadShadow.activateTiles.streamBlock
    clear_value mk
    split
    · exact h1
    · split
      · split
        · exact h1.failRows
        · exact h1
      · exact h1.drainAll

theorem stageDo (h : Canonical d) {c : Nat} {f : FscRun} {got : List Piece} {s : FscStage} {i gap : Nat} {bubbles : List Nat}
    {pre : Option Status} : Canonical (d.stageDo c f got s i gap bubbles pre).2 := by
  unfold Dev.stageDo
  extract_lets w slot
  split
  · dsimp only
    split
    · exact h.setSlot
    · exact h.loadTile
  · exact h.stageArrays
  · exact h.stageArrays
  · exact h.topkDo
  · exact h.fscFail
  · exact h.movDo
  · exact h.movDo
  · exact h.vecDo
  · exact h.cvtDo
  · exact h

theorem onFsc (h : Canonical d) {c run : Nat} {g : FscRun → FscRun} : Canonical (d.onFsc c run g) := h.onCore

theorem stageEnds (h : Canonical d) {c run j : Nat} {s : FscStage} {i : Nat} {damage : Option Status} :
    Canonical (d.stageEnds c run j s i damage) :=
  h.onFsc

theorem stageSend (h : Canonical d) {c run j : Nat} {f : FscRun} {got : List Piece} {s : FscStage} {i lag : Nat} :
    Canonical (d.stageSend c run j f got s i lag) :=
  .ite h.sendDo.stageEnds h.sendDo.onFsc

theorem stageGo (h : Canonical d) {c run j : Nat} {f : FscRun} {got : List Piece} {lag gap : Nat} {bubbles : List Nat} :
    Canonical (d.stageGo c run j f got lag gap bubbles) :=
  .ite h.stageSend h.stageDo.stageEnds

theorem stageArrives (h : Canonical d) {c run : Nat} {f : FscRun} {s : FscStage} :
    Canonical (d.stageArrives c run f s) :=
  .ite h h.onFsc.same

theorem stageIteration (h : Canonical d) {c run j gap : Nat} {bubbles : List Nat} : Canonical (d.stageIteration c run j gap bubbles) := by
  unfold Dev.stageIteration
  split
  · exact h
  · exact .ite h (.ite h (.ite h.askPieces.onEntry (.ite h.stageArrives h.stageArrives.stageGo)))

/-! ### The sequencer and the unit queues -/

theorem doneOf (h : Canonical d) {c w : Nat} : Canonical (d.doneOf c w) := .ite h.signal h
theorem onSeq (h : Canonical d) {c : Nat} {f : Seq → Seq} : Canonical (d.onSeq c f) := h.onCore
theorem stamped (h : Canonical d) {c : Nat} : Canonical (d.stamped c) := h.onSeq

theorem beginEntry (h : Canonical d) {c : Nat} {e : QEnt} :
    Canonical (d.beginEntry c e) :=
  .ite h.loadTile (.ite h.vecDo (.ite h.cvtDo (.ite h.movDo (.ite h.topkDo
    (.ite h.onCore (.ite (.ite h.sendDo.onEntry h.sendDo) (.ite h.recvTry h)))))))

theorem entryGo (h : Canonical d) {c : Nat} {e : QEnt} : Canonical (d.entryGo c e) := .ite h (.ite h.askPieces.onEntry h.onEntry.beginEntry)
theorem topkArrives (h : Canonical d) {c : Nat} {e : QEnt} : Canonical (d.topkArrives c e) := .ite h h.onEntry.same

theorem startNext (h : Canonical d) {c : Nat} {u : CoreUnit} : Canonical (d.startNext c u) := by
  unfold Dev.startNext
  dsimp only
  split
  · exact h
  · exact .ite h (.ite (.ite h.topkArrives h.topkArrives.entryGo) (.ite h (.ite (.ite h h.onEntry) (.ite h h.entryGo))))

theorem startAll (h : Canonical d) {c : Nat} {u : CoreUnit} {n : Nat} : Canonical (d.startAll c u n) := by
  induction n generalizing d c u with
  | zero => exact h
  | succ n ih =>
    unfold Dev.startAll
    exact ih h.startNext

theorem barCheck (h : Canonical d) : Canonical d.barCheck := by
  unfold Dev.barCheck
  dsimp only
  refine (h.each fun h => h.onSeq).each fun h => ?_
  split
  · exact h
  · exact .ite h.onSeq.doneOf h

theorem coresGo (h : Canonical d) : Canonical d.coresGo := (h.each fun h => h.startAll).barCheck

theorem enqueue (h : Canonical d) {c : Nat} {u : CoreUnit} {w : Nat} : Canonical (d.enqueue c u w) := by
  unfold Dev.enqueue
  extract_lets d1
  have h1 : Canonical d1 := h.putQueue.onSeq
  clear_value d1
  exact h1.same

theorem issue (h : Canonical d) {c : Nat} {u : CoreUnit} {w : Nat} : Canonical (d.issue c u w) := .ite h h.enqueue.coresGo

theorem issueIf (h : Canonical d) {c : Nat} {u : CoreUnit} {test : Nat → Bool} : Canonical (d.issueIf c u test) := by
  unfold Dev.issueIf
  split
  · exact .ite h.issue h
  · exact h

theorem doIf (h : Canonical d) {c opc : Nat} {f : Seq → Seq} : Canonical (d.doIf c opc f) := by
  unfold Dev.doIf
  split
  · exact .ite h.onSeq.stamped.doneOf h
  · exact h

theorem barHere (h : Canonical d) {c w : Nat} : Canonical (d.barHere c w) := h.onSeq.each fun h => h.onSeq

theorem barIssue (h : Canonical d) {c : Nat} : Canonical (d.barIssue c) := by
  unfold Dev.barIssue
  split
  · exact .ite h.barHere.coresGo h
  · exact h

theorem feTokens (h : Canonical d) {c w : Nat} : Canonical (d.feTokens c w) := by
  unfold Dev.feTokens
  extract_lets no d1 d2
  have h1 : Canonical d1 := h.each fun h => h.putQueue
  have h2 : Canonical d2 := h1.onSeq
  clear_value d2
  exact h2.same

theorem feFails (h : Canonical d) {r : SyncReq} {st : Status} : Canonical (d.feFails r st) := by
  unfold Dev.feFails
  dsimp only
  split
  · exact h.syncFailed
  · exact h.syncFailed.syncIssue

theorem feSend (h : Canonical d) {c w entry : Nat} {r : SyncReq} : Canonical (d.feSend c w entry r) := by
  unfold Dev.feSend
  split
  · dsimp only
    split
    · exact h.boardOut
    · exact h.boardOut.feFails
  · split
    · exact h.syncIssue
    · exact h.feFails

theorem feIssue (h : Canonical d) {c : Nat} {op : SyncOp} : Canonical (d.feIssue c op) := by
  unfold Dev.feIssue
  split
  · exact h
  · exact .ite h (.ite h h.feTokens.feSend.coresGo)

theorem leaveQueue (h : Canonical d) {c : Nat} {u : CoreUnit} {e : QEnt} {t : List QEnt} :
    Canonical (d.leaveQueue c u e t) :=
  h.putQueue.onCore

theorem complete (h : Canonical d) {c : Nat} {u : CoreUnit} : Canonical (d.complete c u) := by
  unfold Dev.complete
  split
  · exact h
  · exact .ite h.leaveQueue.stamped.doneOf.coresGo h

end Canonical

end Sys2Proof.Machine
end

section
/-! PROOFS. The canonical form of the memories (R247): the operations of runs, power, circulation and bindings. -/

namespace Sys2Proof.Machine

set_option Elab.async false

namespace Canonical

open Dev

variable {d t : Dev}

/-! ### What a core holds -/

theorem reload (h : Canonical d) {c lc : Nat} : Canonical (d.reload c lc) := h.onCore
theorem coreOff (h : Canonical d) {c : Nat} : Canonical (d.coreOff c) := h.onCore

theorem applyMap (h : Canonical d) {fold : Nat} : Canonical (d.applyMap fold) := by
  unfold Dev.applyMap
  dsimp only
  refine h.onPwr.onWork.each fun h => ?_
  split
  · exact .ite h.reload.onCore h
  · exact .ite h.coreOff h

theorem coresOff (h : Canonical d) : Canonical d.coresOff := h.each fun h => h.onCore
theorem clearSync (h : Canonical d) : Canonical d.clearSync := h.same
theorem deactivate (h : Canonical d) : Canonical d.deactivate := h.onWork.onCirc
theorem releaseOut (h : Canonical d) {port : Nat} {b : Bytes} : Canonical (d.releaseOut port b) := .ite h.same h.linkOut

theorem releaseSetups (h : Canonical d) {g : Gathering} {nbrs : List Nbr} :
    Canonical (d.releaseSetups g nbrs) :=
  h.each fun h => h.releaseOut

theorem releaseGath (h : Canonical d) : Canonical d.releaseGath := by
  unfold Dev.releaseGath
  split
  · exact h
  · exact h.releaseSetups.onWork

/-! ### The power controller -/

theorem logPower (h : Canonical d) {origin obj old new detail : Nat} :
    Canonical (d.logPower origin obj old new detail) :=
  .ite h.logSafety h.log

theorem setFold (h : Canonical d) {f own : Nat} : Canonical (d.setFold f own) := by
  unfold Dev.setFold
  extract_lets old by_ d1 d2 pc d3
  have h1 : Canonical d1 := h.applyMap
  have h2 : Canonical d2 := h1.onPwr
  have h3 : Canonical d3 := h2.same
  exact .ite h1 h3.logPower

theorem decideFold (h : Canonical d) {p : Nat} : Canonical (d.decideFold p).1 := h.onPwr.setFold

theorem startPoint (h : Canonical d) {o : Nat} : Canonical (d.startPoint o) := by
  unfold Dev.startPoint
  extract_lets d0
  have h0 : Canonical d0 := by
    dsimp only [d0]
    split
    · exact h.given fun h => h.colRelease
    · exact h
  exact .ite h0.onPwr (.ite h0.onPwr (h0.given fun h => h.colReserve).onPwr)

theorem unitsOff (h : Canonical d) {p : Nat} : Canonical (d.unitsOff p) := .ite h.onPwr (h.onPwr.each fun h => .ite h.linkOut h)
theorem dropRuns (h : Canonical d) : Canonical d.dropRuns := h.each fun h => h.settle
theorem leaveFold (h : Canonical d) : Canonical d.leaveFold := h.endRun.failAllItems.finishRuns.dropRuns.releaseGath.deactivate

theorem boundaryDecisions (h : Canonical d) {p : Nat} :
    Canonical (d.boundaryDecisions p) :=
  .ite h.leaveFold h.decideFold.startPoint.unitsOff.same

theorem startCores (h : Canonical d) : Canonical d.startCores := by
  unfold Dev.startCores
  split
  · exact h
  · exact (h.onWork.each fun h => h.onSeq).coresGo

theorem startOrWait (h : Canonical d) : Canonical d.startOrWait := .ite h.onWork h.startCores

theorem oppDone (h : Canonical d) {c : OppChange} : Canonical (d.oppDone c) := by
  unfold Dev.oppDone
  extract_lets raising d1 pc d2 d3
  have h1 : Canonical d1 := (h.given fun h => h.colRelease).onPwr
  have h2 : Canonical d2 := h1.same
  have h3 : Canonical d3 := h2.logPower
  exact .ite h3.startCores h3

theorem oppDrop (h : Canonical d) : Canonical d.oppDrop := .ite h.colRelease.onPwr.startCores h.colRelease.onPwr

theorem droop (h : Canonical d) {c lvl : Nat} : Canonical (d.droop c lvl) := by
  unfold Dev.droop
  split
  · exact h
  · extract_lets was others d1 pc d2
    have h1 : Canonical d1 := h.onPwr
    have h2 : Canonical d2 := .ite h1.same h1
    split
    · split
      · next o _ _ =>
        have h3 : Canonical (d2.onPwr fun p => { p with opp := some { o with waiting := false, paused := true, pauses := o.pauses + 1 }
          }) :=
          h2.onPwr
        exact h3.same
      · exact h2
    · exact h2

theorem limiterStep (h : Canonical d) : Canonical d.limiterStep := by
  unfold Dev.limiterStep
  exact (Canonical.ite h.same h).onPwr

theorem learnFrom (h : Canonical d) {s : Span} {inW : Nat} {rails : List RailSample} : Canonical (d.learnFrom s inW rails) := by
  unfold Dev.learnFrom
  exact h.onPwr

theorem learn (h : Canonical d) {inW : Nat} {rails : List RailSample} : Canonical (d.learn inW rails) := by
  unfold Dev.learn
  dsimp only
  refine Canonical.onPwr ?_
  split
  · exact h.learnFrom
  · exact h

theorem learnDur (h : Canonical d) {p ns : Nat} : Canonical (d.learnDur p ns) := by
  unfold Dev.learnDur
  exact h.onPwr

theorem thermAlert (h : Canonical d) : Canonical d.thermAlert := .ite h h.same.emit
theorem readHeat (h : Canonical d) {l : List Nat} : Canonical (d.readHeat l) := h.same.thermAlert
theorem dropStaging (h : Canonical d) : Canonical d.dropStaging := h.onCirc.each fun h => h.onLink
theorem cordsOff (h : Canonical d) : Canonical d.cordsOff := h.each fun h => h.onPort

theorem stopStation (h : Canonical d) {cause obj : Nat} {st : Status} : Canonical (d.stopStation cause obj st) := by
  unfold Dev.stopStation
  split
  · exact h
  · extract_lets d1 d2 d3 d4 d5 d6 d7 d8 d9
    have h1 : Canonical d1 := h.each fun h => h.linkOut
    have h3 : Canonical d3 := h1.stopRun.failAllItems.finishRuns.dropRuns
    have h4 : Canonical d4 := by
      dsimp only [d4]
      split
      · split
        · exact h3.settle.onWork
        · exact h3.onWork
      · exact h3
    have h6 : Canonical d6 := h4.releaseGath.deactivate.onCirc.coresOff.clearBuffers.clearCmem.clearSync.dropStaging.cordsOff
    have h7 : Canonical d7 := h6.given fun h => h.colRelease
    have h9 : Canonical d9 := h7.onPwr.onWork.logSafety
    exact (Canonical.ite h9 h9.cause).thermAlert.platformEvent

theorem beginMemory (h : Canonical d) : Canonical d.beginMemory := h.same.each fun h => (h.portChange fun h => h.onPort).emit

theorem resumeStation (h : Canonical d) : Canonical d.resumeStation := by
  unfold Dev.resumeStation
  exact .ite (h.onPwr.thermAlert.each fun h => h.wakeCords).beginMemory (h.onPwr.thermAlert.each fun h => h.wakeCords)

theorem accountBoost (h : Canonical d) {ms spent : Nat} : Canonical (d.accountBoost ms spent) := h.same

theorem judgeBoost (h : Canonical d) : Canonical d.judgeBoost := by
  unfold Dev.judgeBoost
  exact h.onPwr

theorem resumeBoost (h : Canonical d) : Canonical d.resumeBoost := h.accountBoost.onPwr.judgeBoost

theorem applySyncPlan (h : Canonical d) : Canonical d.applySyncPlan := by
  unfold Dev.applySyncPlan
  dsimp only
  refine h.each fun h => ?_
  split
  · exact .ite h.syncArrive h.syncArrive
  · exact h

theorem enterIdle (h : Canonical d) {s : Idle} : Canonical (d.enterIdle s) := by
  unfold Dev.enterIdle
  dsimp only
  split
  · exact h.onPwr.each fun h => h.onCore
  · exact (h.onPwr.each fun h => h.onCore).clearBuffers.clearCmem.clearSync.dropStaging.cordsOff
  · exact h.onPwr

theorem wake (h : Canonical d) : Canonical d.wake := by
  unfold Dev.wake
  extract_lets d1
  have h1 : Canonical d1 := h.onPwr.given fun h => h.each fun h => h.wakeCords
  split
  · exact (h1.each fun h => h.reload).applySyncPlan
  · exact h1

theorem awake (h : Canonical d) : Canonical d.awake := .ite h h.wake
theorem rouse (h : Canonical d) : Canonical d.rouse := .ite h h.reach.wake
theorem rouseAt (h : Canonical d) {p : Nat} : Canonical (d.rouseAt p) := h.given fun h => h.rouse

/-! ### Circulation -/

theorem stageSig (h : Canonical d) {b : Bytes} {port : Nat} {inWindow : Bool} : Canonical (d.stageSig b port inWindow) := h.onCirc.touchPeak

theorem admitAhead (h : Canonical d) {origin n : Nat} : Canonical (d.admitAhead origin n) := by
  induction n generalizing d origin with
  | zero => exact h
  | succ n ih =>
    unfold Dev.admitAhead
    dsimp only
    split
    · exact h
    · exact ih h.onCirc

theorem dropRepeats (h : Canonical d) {origin : Nat} : Canonical (d.dropRepeats origin) := by
  unfold Dev.dropRepeats
  exact h.onCirc

theorem passSig (h : Canonical d) {port : Nat} {b : Bytes} : Canonical (d.passSig port b) := h.spread
theorem obtainSig (h : Canonical d) {port : Nat} {b : Bytes} : Canonical (d.obtainSig port b) := h.onCirc.stageSig.admitAhead.dropRepeats

theorem takeSig (h : Canonical d) {port : Nat} {b : Bytes} : Canonical (d.takeSig port b) := by
  unfold Dev.takeSig
  split
  · exact h.onCirc
  · exact h.obtainSig
  · exact h.stageSig

theorem sigArrive (h : Canonical d) {port : Nat} {packet : Bytes} : Canonical (d.sigArrive port packet) := by
  unfold Dev.sigArrive
  split
  · next e => exact h.received e
  · next e => exact .ite (h.received e) (.ite (h.received e).endRun (h.received e).passSig.takeSig)

theorem placeCore (h : Canonical d) {b : Bytes} {lc : Nat} {wrote : Bool} (e : d.placeCore b lc = some (wrote, t)) : Canonical t := by
  unfold Dev.placeCore at e
  dsimp only at e
  split at e
  · cases e
    exact h
  · split at e
    · split at e
      · cases e
      · cases e
        exact h.bufPut
    · cases e

theorem countPlace (h : Canonical d) {step lc : Nat} : Canonical (d.countPlace step lc) := by
  unfold Dev.countPlace
  split
  · split
    · exact h.syncArrive
    · exact h
  · exact h.onCirc

theorem placeSig (h : Canonical d) {b : Bytes} : Canonical (d.placeSig b).2 := by
  unfold Dev.placeSig
  refine foldl_snd h fun h => ?_
  split
  · exact h
  · next e => exact .ite (h.placeCore e).countPlace (h.placeCore e)

theorem leaveStaging (h : Canonical d) {s : HeldSig} : Canonical (d.leaveStaging s) := by
  unfold Dev.leaveStaging
  exact h.onCirc

theorem placeNext (h : Canonical d) : Canonical d.placeNext := by
  unfold Dev.placeNext
  split
  · exact h
  · exact (Canonical.ite h.placeSig.leaveStaging.onCirc h.placeSig.leaveStaging.endRun).spine.coresGo

theorem enterStep (h : Canonical d) {step : Nat} {foldChanged : Bool} : Canonical (d.enterStep step foldChanged) := by
  unfold Dev.enterStep
  extract_lets mine x d1 d2
  have hx : Canonical x.2 := by
    dsimp only [x]
    split
    · exact foldl_snd h.onCirc fun h => h.placeSig
    · exact h
  have h1 : Canonical d1 := by
    refine hx.each fun h => ?_
    split
    · exact h.syncArrive
    · exact h
  have h2 : Canonical d2 := h1.onCirc
  exact .ite h2 h2.endRun

theorem redoStep (h : Canonical d) {step : Nat} : Canonical (d.redoStep step) := by
  unfold Dev.redoStep
  extract_lets mine d1 x
  have h1 : Canonical d1 := by
    refine h.each fun h => ?_
    split
    · exact h.syncArrive
    · exact h
  have hx : Canonical x.2 := foldl_snd h1 fun h => h.placeSig
  exact .ite hx hx.endRun

theorem packedTile (h : Canonical d) {e : Bytes} {t : Nat} : Canonical (d.packedTile e t).2.2 := by
  unfold Dev.packedTile
  dsimp only
  exact foldl_snd_snd h fun h => h.memGet.memGet

theorem buildTiles (h : Canonical d) {e : Bytes} : Canonical (d.buildTiles e).2 := by
  unfold Dev.buildTiles
  dsimp only
  split
  · dsimp only
    refine foldl_snd_snd h fun h => ?_
    dsimp only
    exact h.packedTile
  · dsimp only
    exact h.memGet

theorem sendSig (h : Canonical d) {b : Bytes} : Canonical (d.sendSig b) := h.obtainSig.spread

theorem noteSlip (h : Canonical d) {e : Bytes} {late : Nat} :
    Canonical (d.noteSlip e late) :=
  .ite h (Canonical.ite h.onCirc h.onCirc.onErr).markSlip

theorem takeEntry (h : Canonical d) {r : Run} {e : Bytes} : Canonical (d.takeEntry r e) := by
  unfold Dev.takeEntry
  exact h.reach.onCirc.noteSlip

theorem takeNumber (h : Canonical d) : Canonical d.takeNumber := h.onCirc
theorem built (h : Canonical d) {leaf : Nat} {cxl : Bool} {b : Bytes} : Canonical (d.built leaf cxl b) := .ite h.onCirc.touchPeak h.sendSig

theorem inject (h : Canonical d) : Canonical d.inject := by
  unfold Dev.inject
  split
  · dsimp only
    split
    · exact h
    · split
      · exact h.awake.takeEntry.endRun
      · split
        · exact h.awake.takeEntry.buildTiles.endRun
        · exact .ite h.awake.takeEntry.buildTiles.endRun h.awake.takeEntry.buildTiles.takeNumber.built
  · exact h

theorem buildDone (h : Canonical d) {leaf : Nat} : Canonical (d.buildDone leaf) := by
  unfold Dev.buildDone
  split
  · exact h
  · exact .ite h h.onCirc.sendSig

/-! ### Runs and items -/

theorem beginRun (h : Canonical d) {j : Job} {no t0 : Nat} :
    Canonical (d.beginRun j no t0) :=
  .ite h.keepCount.onWork.onCirc.boundaryDecisions.endRun h.keepCount.onWork.onCirc.boundaryDecisions

theorem tryRun (h : Canonical d) : Canonical d.tryRun := by
  unfold Dev.tryRun
  split
  · exact h
  · split
    · exact h
    · split
      · exact h
      · dsimp only
        split
        · exact h
        · split
          · exact (h.onWork.onJob.each fun h => h.failJob).finishRuns
          · split
            · exact h.launchControl.beginRun
            · split
              · exact h.beginRun
              · exact h

theorem runStart (h : Canonical d) : Canonical d.runStart := by
  unfold Dev.runStart
  split
  · exact h
  · split
    · exact h
    · dsimp only
      split
      · exact h.reach.awake.enterStep
      · exact h.reach.awake.enterStep.onWork.startOrWait

theorem runEnd (h : Canonical d) {r : Run} : Canonical (d.runEnd r) := (h.onWork.onCirc.each fun h => h.onSeq).finishRuns

theorem nextStep (h : Canonical d) {r : Run} {p it : Nat} {bases : List Nat} : Canonical (d.nextStep r p it bases) := by
  unfold Dev.nextStep
  dsimp only
  split
  · exact .ite h.boundaryDecisions h.boundaryDecisions.enterStep
  · exact (Canonical.ite h.boundaryDecisions h.boundaryDecisions.enterStep).onWork.startOrWait

theorem boundary (h : Canonical d) : Canonical d.boundary := by
  unfold Dev.boundary
  split
  · exact h
  · exact .ite h.keepSpan.keepCount.learnDur.runEnd h.keepSpan.keepCount.learnDur.nextStep

theorem controlIn (h : Canonical d) {port : Nat} {packet : Bytes} : Canonical (d.controlIn port packet).1 := by
  unfold Dev.controlIn
  split
  · next e => exact h.received e
  · next e =>
    have h1 := h.received e
    extract_lets b
    split
    · exact h1
    · split
      · exact h1
      · extract_lets x d2
        have h2 : Canonical d2 := .ite h1.sendTo h1
        exact h2.launchControl

theorem controlled (h : Canonical d) {port : Nat} {packet : Bytes} {x : Option Bytes} (e : d.controlIn port packet = (t, x)) :
    Canonical t := by
  simpa only [e] using h.controlIn (port := port) (packet := packet)

theorem controlStart (h : Canonical d) {port : Nat} {packet : Bytes} : Canonical (d.controlStart port packet) := by
  unfold Dev.controlStart
  split
  · next e => exact .ite (h.controlled e) (h.controlled e).onWork.touchPeak.tryRun
  · next e => exact h.controlled e

theorem controlAbort (h : Canonical d) {port : Nat} {packet : Bytes} : Canonical (d.controlAbort port packet) := by
  unfold Dev.controlAbort
  split
  · next e =>
    have h1 := h.controlled e
    split
    · exact h1
    · extract_lets no st
      split
      · exact .ite h1.stopRun (.ite h1.onWork h1.abortEnded)
      · exact .ite h1.onWork.tryRun h1.abortEnded
      · exact h1
  · next e => exact h.controlled e

theorem itemInput (h : Canonical d) {c : Nat} {input : HostRead} : Canonical (d.itemInput c input) := by
  unfold Dev.itemInput
  split
  · exact h
  · dsimp only
    split
    · exact h.emit.failJob
    · split
      · exact h.emit.memPut.failJob
      · exact h.emit.memPut.onJob.tryRun

theorem resultCopy (h : Canonical d) : Canonical d.resultCopy := by
  unfold Dev.resultCopy
  split
  · exact h
  · split
    · exact h
    · dsimp only
      split
      · exact h.memGet.failJob
      · exact h.memGet.emit.settle.finishRuns

/-! ### Bindings -/

theorem logJob (h : Canonical d) {j : Job} {n : Nat} {act : Dev → Dev} (hact : ∀ {d}, Canonical d → Canonical (act d)) :
    Canonical (d.logJob j n act) :=
  .ite h (.ite h.logRefused.settle (hact h))

theorem logDesc (h : Canonical d) {j : Job} {old new : Nat} : Canonical (d.logDesc j old new) := h.log
theorem bindRefused (h : Canonical d) {c : Nat} {x : Nat × Nat × Nat} : Canonical (d.bindRefused c x) := h.onRegs

theorem putConstants (h : Canonical d) {c : Nat} {l : List (Nat × Bytes)} :
    Canonical (d.putConstants c l).2 :=
  h.eachWrite fun h => h.slotPut

theorem forgetLearned (h : Canonical d) {c id : Nat} : Canonical (d.forgetLearned c id) := h.onPwr

theorem storeBinding (h : Canonical d) {j : Job} {b : Bytes} {g : Option (Nat × Nat)} :
    Canonical (d.storeBinding j b g).2 :=
  h.slotPut.putConstants

theorem keepBinding (h : Canonical d) {j : Job} {b : Bytes} {g : Option (Nat × Nat)} :
    Canonical (d.keepBinding j b g) :=
  h.logDesc.onCtx.forgetLearned

theorem bindLoad (h : Canonical d) {j : Job} {resp : HostRead} : Canonical (d.bindLoad j resp) := by
  unfold Dev.bindLoad
  extract_lets c n dev id isActive
  split
  · exact h.settle
  · refine h.logJob fun h => ?_
    dsimp only
    have h1 := h.emit (o := .hostRead (u64 j.bytes 16) n)
    split
    · exact h1.settle
    · split
      · exact h1.bindRefused.settle
      · split
        · exact h1.errMem.settle
        · split
          · exact h1.storeBinding.settle
          · exact h1.storeBinding.keepBinding.settle

theorem leaveBinding (h : Canonical d) : Canonical d.leaveBinding := h.endRun.dropRuns.deactivate

theorem activate (h : Canonical d) {c id : Nat} {k : Kept} {fold : Nat} :
    Canonical (d.activate c id k fold) :=
  ((Canonical.ite h.onWork.onRegs h.onWork.onRegs.clearBuffers.clearCmem).onWork.setFold.each fun h => h.reload).applySyncPlan

theorem switchTo (h : Canonical d) {j : Job} {k : Kept} {fold : Nat} : Canonical (d.switchTo j k fold) := h.logDesc.onCtx.activate

theorem bindSwitch (h : Canonical d) {j : Job} : Canonical (d.bindSwitch j) := by
  unfold Dev.bindSwitch
  refine h.logJob fun h => ?_
  dsimp only
  split
  · exact h.leaveBinding.settle
  · split
    · exact h.leaveBinding.settle
    · split
      · exact h.leaveBinding.bindRefused.settle
      · split
        · exact h.leaveBinding.errMem.settle
        · split
          · exact h.leaveBinding.putConstants.settle
          · exact h.leaveBinding.putConstants.switchTo.settle

end Canonical

end Sys2Proof.Machine
end

section
/-! PROOFS. The canonical form of the memories (R247): the operations of host rings, editions, pages and contexts. -/

namespace Sys2Proof.Machine

set_option Elab.async false

namespace Canonical

open Dev

variable {d t : Dev}

/-! ### Host rings -/

theorem ringCapture (h : Canonical d) {c r cause : Nat} : Canonical (d.ringCapture c r cause) := h.onRegs
theorem ringError (h : Canonical d) {c r cause : Nat} : Canonical (d.ringError c r cause) := h.onRing.ringCapture.msix.cause
theorem sqTail (h : Canonical d) {c r : Nat} {v : Word} : Canonical (d.sqTail c r v) := .ite h.ringError (.ite h.ringError h.onRing)

theorem cqHead (h : Canonical d) {c r : Nat} {v : Word} :
    Canonical (d.cqHead c r v) :=
  .ite h.ringError h.onRing.drainRing.busyCheck.finishRuns

theorem doorbell (h : Canonical d) {fn : CtxId} {offset size : Nat} {v : Dword} : Canonical (d.doorbell fn offset size v) := by
  unfold Dev.doorbell
  split
  · exact h
  · dsimp only
    split
    · exact h.rouse
    · exact .ite h.rouse.sqTail (.ite h.rouse.cqHead h.rouse.ringCapture)

theorem fetch (h : Canonical d) {c r : Nat} {resp : HostRead} : Canonical (d.fetch c r resp) := by
  unfold Dev.fetch
  split
  · exact h
  · dsimp only
    split
    · exact h.emit.ringError
    · exact h.emit.onCtx.onRing

theorem takeHead (h : Canonical d) {c r : Nat} : Canonical (d.takeHead c r) := h.onCtx.onRing
theorem addJob (h : Canonical d) {c r : Nat} {f : Fetched} {entry run mb : Option Nat} : Canonical (d.addJob c r f entry run mb) := h.onWork
theorem replaceOpens (h : Canonical d) {c : Nat} : Canonical (d.replaceOpens c) := h.onWork

theorem accept (h : Canonical d) {c r : Nat} {f : Fetched} : Canonical (d.accept c r f) := by
  unfold Dev.accept
  extract_lets d1 b op refused unread d2
  have h1 : Canonical d1 := h.takeHead
  have h2 : Canonical d2 := .ite h1 h1.replaceOpens
  have hrefused : Canonical (refused d2) := h2.postRecord
  have hunread : Canonical (unread d2) := h2.postRecord
  split
  · exact hunread
  · split
    · split
      · exact hrefused
      · split
        · exact h2
        · exact .ite hrefused h2.addJob
    · split
      · exact h2.addJob.onWork.tryRun
      · exact h2.addJob

theorem acceptNext (h : Canonical d) {c : Nat} : Canonical (d.acceptNext c) := by
  unfold Dev.acceptNext
  split
  · exact h
  · split
    · exact h.accept
    · exact h

theorem takeItems (h : Canonical d) {c m max run n : Nat} : Canonical (d.takeItems c m max run n) := by
  induction n generalizing d c m max run with
  | zero => exact h
  | succ n ih =>
    unfold Dev.takeItems
    split
    · exact h
    · split
      · exact ih (.ite h.takeHead.postRecord h.takeHead.addJob)
      · exact h

theorem passVersions (h : Canonical d) {m : Nat} : Canonical (d.passVersions m) := by
  unfold Dev.passVersions
  exact h.onWork

theorem passStart (h : Canonical d) {m : Nat} : Canonical (d.passStart m) := by
  unfold Dev.passStart
  split
  · exact .ite h.takeItems.passVersions h
  · exact h

theorem rejoin (h : Canonical d) {no c : Nat} : Canonical (d.rejoin no c) := by
  unfold Dev.rejoin
  exact h.onWork

theorem abortJob (h : Canonical d) {no : Nat} : Canonical (d.abortJob no) := by
  unfold Dev.abortJob
  split
  · exact h
  · split
    · exact h.failJob
    · split
      · split
        · exact h.settle.rejoin
        · exact h.endRun
        · split
          · exact h.launchControl.abortEnded
          · exact h
      · exact .ite h.settle.onCtx (.ite h.settle h)

theorem abortFetched (h : Canonical d) {c r : Nat} {f : Fetched} : Canonical (d.abortFetched c r f) := h.onRing.postRecord

theorem abortScope (h : Canonical d) {c scope r tag : Nat} : Canonical (d.abortScope c scope r tag).2 := by
  unfold Dev.abortScope
  extract_lets all hit nos jobs d1 d2
  have h1 : Canonical d1 := h.each fun h => h.abortJob
  have h2 : Canonical d2 := h1.each fun h => h.each fun h => h.abortFetched
  exact .ite h2.endRun h2

theorem abortRing (h : Canonical d) {c r : Nat} : Canonical (d.abortRing c r) := by
  unfold Dev.abortRing
  split
  · exact h
  · exact h.onRing.abortScope.postRecord

theorem abortReg (h : Canonical d) {c : Nat} {v : Word} : Canonical (d.abortReg c v) := .ite h.onRegs.abortScope h.onRegs

theorem moderationTime (h : Canonical d) {c r : Nat} : Canonical (d.moderationTime c r) := by
  unfold Dev.moderationTime
  dsimp only
  split
  · exact .ite h h.reach.ringSignal
  · exact h

/-! ### Editions -/

theorem editionErr (h : Canonical d) {cause ctx layer : Nat} {st : Status} {block : Nat} :
    Canonical (d.editionErr cause ctx layer st block) :=
  .ite h h.onErr.cause

theorem onEdition (h : Canonical d) {c id : Nat} {f : Edition → Edition} : Canonical (d.onEdition c id f) := h.onCtx

theorem endDamaged (h : Canonical d) {c id : Nat} : Canonical (d.endDamaged c id) := by
  unfold Dev.endDamaged
  split
  · exact .ite h.endRun h
  · exact h

theorem markDamaged (h : Canonical d) {c id : Nat} {st : Status} {bad : Shard → Bool} :
    Canonical (d.markDamaged c id st bad) :=
  h.onEdition.logSafety.endDamaged

theorem unmapEdition (h : Canonical d) {c id : Nat} : Canonical (d.unmapEdition c id) := h.each fun h => h.unmapPage
theorem dropEdition (h : Canonical d) {c id : Nat} : Canonical (d.dropEdition c id) := h.unmapEdition.onCtx

theorem mapRanges (h : Canonical d) {c : Nat} {ed : Option Nat} {write : Bool} {l : List PageRange} :
    Canonical (d.mapRanges c ed write l) :=
  h.each fun h => h.mapPages

theorem putShard (h : Canonical d) {c : Nat} {l : Layer} {f : Fetch} :
    Canonical (d.putShard c l f).2 :=
  (h.eachWrite fun h => h.slotPut).eachWrite fun h => h.slotPut

theorem readManifest (h : Canonical d) {at_ : Nat} {m : HostRead} : Canonical (d.readManifest at_ m) := by
  unfold Dev.readManifest
  extract_lets d1
  have h1 : Canonical d1 := h.emit
  split
  · exact h1.given fun h => h.emit
  · exact h1

theorem readUnits (h : Canonical d) {at_ : Nat} {s : Shard} : Canonical (d.readUnits at_ s) := h.emit

theorem loadShards (h : Canonical d) {c : Nat} {m image : Bytes} {at_ ed : Nat} {ls : List Layer} {l : List Shard} :
    Canonical (d.loadShards c m image at_ ed ls l).2 := by
  induction l generalizing d c m image at_ ed ls with
  | nil => exact h
  | cons a l ih =>
    unfold Dev.loadShards
    dsimp only
    split
    · exact h.readUnits
    · split
      · exact h.readUnits
      · split
        · exact h.readUnits.putShard
        · split
          · exact h.readUnits.putShard
          · exact ih h.readUnits.putShard

theorem loadFails (h : Canonical d) {j : Job} {ed layer : Nat} {st : Status} {block : Nat} :
    Canonical (d.loadFails j ed layer st block) :=
  h.dropEdition.editionErr.settle

theorem spend (h : Canonical d) {no n : Nat} : Canonical (d.spend no n) := h.colRelease.onJob
theorem reserve (h : Canonical d) {no n : Nat} : Canonical (d.reserve no n) := h.colReserve.onJob

theorem adoptAll (h : Canonical d) {no c : Nat} {es : List Bytes} : Canonical (d.adoptAll no c es) := by
  unfold Dev.adoptAll
  refine h.each fun h => ?_
  split
  · exact h
  · exact h.spend.onCtx.log

theorem loadDone (h : Canonical d) {j : Job} {ed : Nat} {adopt : List Bytes} :
    Canonical (d.loadDone j ed adopt) :=
  .ite h.loadFails h.spend.logDesc.adoptAll.onEdition.onCtx.settle

theorem beginLoad (h : Canonical d) {j : Job} {m : Bytes} {ls : List Layer} {pages : List PageRange} :
    Canonical (d.beginLoad j m ls pages) :=
  h.mapRanges.onCtx

theorem awaitPass (h : Canonical d) {j : Job} {ed : Nat} {adopt : List Bytes} : Canonical (d.awaitPass j ed adopt) := h.onJob.onWork

theorem loadImage (h : Canonical d) {j : Job} {m : Bytes} {ls : List Layer} {pages : List PageRange} {image : HostRead} :
    Canonical (d.loadImage j m ls pages image) := by
  unfold Dev.loadImage
  dsimp only
  split
  · exact h.readManifest.beginLoad.loadFails
  · split
    · exact h.readManifest.beginLoad.loadShards.loadFails
    · exact .ite h.readManifest.beginLoad.loadShards.awaitPass h.readManifest.beginLoad.loadShards.loadDone

theorem loadRefused (h : Canonical d) {j : Job} {m : HostRead} : Canonical (d.loadRefused j m) := h.readManifest.editionErr.settle

theorem loadPlaced (h : Canonical d) {j : Job} {m : Bytes} {image : HostRead} :
    Canonical (d.loadPlaced j m image) :=
  .ite h.loadRefused (.ite h h.loadImage)

theorem editionLoad (h : Canonical d) {j : Job} {manifest image : HostRead} : Canonical (d.editionLoad j manifest image) := by
  unfold Dev.editionLoad
  split
  · exact h.logJob fun h => h.loadRefused
  · exact .ite (h.logJob fun h => h.loadRefused) (h.logJob fun h => h.reserve.loadPlaced)

theorem passBegin (h : Canonical d) {c : Nat} : Canonical (d.passBegin c) := by
  unfold Dev.passBegin
  split
  · exact h
  · split
    · exact h
    · exact h.onWork

theorem putSlot (h : Canonical d) {c a : Nat} {body : Bytes} : Canonical (d.putSlot c a body).2 := h.freeBytes.slotPut

theorem foldBlocks (h : Canonical d) {c : Nat} {l : Layer} {p : Nat × Nat × Word × Bool} {n blk : Nat} {k : PassCount} :
    Canonical (d.foldBlocks c l p n blk k).2 := by
  induction n generalizing d blk k with
  | zero =>
    unfold Dev.foldBlocks
    exact h
  | succ n ih =>
    rw [Dev.foldBlocks]
    split
    · dsimp only
      exact h.memGet
    · dsimp only
      split
      · dsimp only
        exact h.memGet.slotPut.putSlot
      · dsimp only
        exact ih h.memGet.slotPut.putSlot

theorem foldShards (h : Canonical d) {c ed : Nat} {p : Nat × Nat × Word × Bool} {l : List (Layer × Shard)} {m : List PassCount} :
    Canonical (d.foldShards c ed p l m).2 := by
  induction l generalizing d c ed p m with
  | nil => exact h
  | cons a l ih =>
    unfold Dev.foldShards
    dsimp only
    split
    · exact h.foldBlocks
    · split
      · exact h.foldBlocks
      · exact ih h.foldBlocks

theorem loadPassEnd (h : Canonical d) {j : Job} {p : PassJob} {e : Edition} {q : Nat × Nat × Word × Bool} :
    Canonical (d.loadPassEnd j p e q) := by
  unfold Dev.loadPassEnd
  dsimp only
  split
  · exact h.foldShards.loadFails
  · exact h.foldShards.emit.loadDone

theorem editionUnload (h : Canonical d) {j : Job} :
    Canonical (d.editionUnload j) :=
  .ite h.settle (h.logJob fun h => h.logDesc.dropEdition.settle)

theorem installAll (h : Canonical d) {j : Job} {l : List Bytes} {n : Nat} : Canonical (d.installAll j l n).2.2 := by
  induction l generalizing d j n with
  | nil => exact h
  | cons a l ih =>
    unfold Dev.installAll
    split
    · exact h
    · exact ih h.spend.logDesc.onCtx

theorem digestInstall (h : Canonical d) {j : Job} {resp : HostRead} : Canonical (d.digestInstall j resp) := by
  unfold Dev.digestInstall
  dsimp only
  split
  · exact h.settle
  · refine h.logJob fun h => ?_
    split
    · exact h.reserve.emit.settle
    · exact h.reserve.emit.installAll.settle

theorem digestRemove (h : Canonical d) {j : Job} : Canonical (d.digestRemove j) := .ite h.settle (h.logJob fun h => h.logDesc.onCtx.settle)

theorem serviceForm (h : Canonical d) {c : Nat} {l : Layer} {n k : Nat} : Canonical (d.serviceForm c l n k).2.2 := by
  induction n generalizing d c l k with
  | zero => exact h
  | succ n ih =>
    unfold Dev.serviceForm
    exact ih h.memGet.memGet

theorem scrubShard (h : Canonical d) {c : Nat} {e : Edition} {l0 : Layer} {s : Shard} : Canonical (d.scrubShard c e l0 s) := by
  unfold Dev.scrubShard
  dsimp only
  split
  · exact h
  · split
    · exact h
    · exact .ite h.serviceForm h.serviceForm.editionErr.markDamaged

theorem scrubSweep (h : Canonical d) {c : Nat} : Canonical (d.scrubSweep c) := by
  unfold Dev.scrubSweep
  split
  · exact h
  · exact h.reach.onCtx.each fun h => h.each fun h => h.scrubShard

/-! ### Replacing weights in use -/

theorem setStaged (h : Canonical d) {c id layer : Nat} {x : Option Staged} : Canonical (d.setStaged c id layer x) := h.onCtx
theorem dropCommitted (h : Canonical d) {c id layer : Nat} : Canonical (d.dropCommitted c id layer) := h.onCtx

theorem sealShard (h : Canonical d) {c : Nat} {key : Bytes} {l : Layer} {path : Nat} {req : Bytes} {n k : Nat} :
    Canonical (d.sealShard c key l path req n k).2.2 := by
  induction n generalizing d c key l path req k with
  | zero => exact h
  | succ n ih =>
    unfold Dev.sealShard
    exact ih h.memGet.memGet

theorem stageShards (h : Canonical d) {c : Nat} {m : Bytes} {ed : Nat} {l : Layer} {path : Nat} {ls : List Dev.Units} {n : Nat} :
    Canonical (d.stageShards c m ed l path ls n).2 := by
  induction ls generalizing d c m ed l path n with
  | nil => exact h
  | cons a ls ih =>
    unfold Dev.stageShards
    dsimp only
    split
    · exact h
    · split
      · exact h.memPut
      · split
        · exact h.memPut
        · exact ih h.memPut

theorem hostUnits (h : Canonical d) {m : Bytes} {at_ : Nat} {img : Bytes} {own : List Shard} :
    Canonical (d.hostUnits m at_ img own).2 :=
  h.each fun h => h.readUnits

theorem peerUnits (h : Canonical d) {j : Job} {layer : Nat} {self : Option Layer} {l : List Shard} {m : Bytes} :
    Canonical (d.peerUnits j layer self l m).2 := by
  induction l generalizing d j layer self m with
  | nil => exact h
  | cons a l ih =>
    unfold Dev.peerUnits
    dsimp only
    refine ih ?_
    refine Canonical.emit ?_
    refine Canonical.tookFree ?_
    split
    · exact h.sealShard
    · exact h

theorem stageFetch (h : Canonical d) {j : Job} {m : Bytes} {e : Edition} {n : Layer} {img : Bytes} :
    Canonical (d.stageFetch j m e n img).2 := by
  unfold Dev.stageFetch
  extract_lets own self u
  have hu : Canonical u.2 := by
    dsimp only [u]
    split
    · exact h.peerUnits
    · exact h.hostUnits
  split
  · exact hu
  · exact hu.stageShards

theorem kettleStage (h : Canonical d) {j : Job} {manifest image : HostRead} : Canonical (d.kettleStage j manifest image) := by
  unfold Dev.kettleStage
  dsimp only
  split
  · exact h.readManifest.editionErr.settle
  · exact h.readManifest.editionErr.settle
  · split
    · exact h.readManifest.editionErr.settle
    · split
      · exact h.readManifest.setStaged.editionErr.settle
      · split
        · exact h.readManifest.setStaged.stageFetch.editionErr.settle
        · exact h.readManifest.setStaged.stageFetch.setStaged.settle

theorem closing (h : Canonical d) {j : Job} {n : Nat} : Canonical (d.closing j n) := .ite h.settle (h.logJob fun h => h.reserve.onJob.onCtx)

theorem barrierShuts (h : Canonical d) {c : Nat} : Canonical (d.barrierShuts c) := by
  unfold Dev.barrierShuts
  split
  · exact h
  · exact .ite h (.ite h.onCtx.spend.logDesc.settle h.onCtx.spend.logDesc.onJob)

theorem copyRecords (h : Canonical d) {c : Nat} {l : Layer} {n k i : Nat} : Canonical (d.copyRecords c l n k i).2 := by
  induction n generalizing d c l k i with
  | zero => exact h
  | succ n ih =>
    unfold Dev.copyRecords
    exact ih h.memGet.memGet.slotPut.slotPut

theorem copySource (h : Canonical d) {c : Nat} {l : Layer} {n k i : Nat} : Canonical (d.copySource c l n k i).2 := by
  induction n generalizing d c l k i with
  | zero => exact h
  | succ n ih =>
    unfold Dev.copySource
    exact ih h.memGet.slotPut

theorem commitFails (h : Canonical d) {j : Job} {st : Status} {block : Nat} {bad : Shard → Bool} :
    Canonical (d.commitFails j st block bad) :=
  h.markDamaged.editionErr.settle

theorem commitDone (h : Canonical d) {j : Job} {s : Staged} {adopt : List Bytes} :
    Canonical (d.commitDone j s adopt) :=
  .ite h.editionErr.settle (.ite h.adoptAll.onEdition.setStaged.onCtx.settle h.adoptAll.onEdition.setStaged.onCtx.onJob)

theorem sourceForm (h : Canonical d) {c : Nat} {l : Layer} {n k : Nat} : Canonical (d.sourceForm c l n k).2.2 := by
  induction n generalizing d c l k with
  | zero => exact h
  | succ n ih =>
    unfold Dev.sourceForm
    exact ih h.memGet

theorem commitOnce (h : Canonical d) {c : Nat} {packed : Bool} {l : Layer} {s : Shard} : Canonical (commitOnce c packed l s d).2 := by
  unfold Dev.commitOnce
  extract_lets w r
  have hw : Canonical w.2 := by
    dsimp only [w]
    split
    · exact h.copyRecords
    · exact h.copySource
  have hr : Canonical r.2.2 := by
    dsimp only [r]
    split
    · exact hw.serviceForm
    · exact hw.sourceForm
  split
  · exact hr
  · split
    · exact hr
    · exact hr

theorem commitShards (h : Canonical d) {c : Nat} {packed : Bool} {l : Layer} {m : List Shard} :
    Canonical (d.commitShards c packed l m).2 := by
  induction m generalizing d c packed l with
  | nil => exact h
  | cons a m ih =>
    unfold Dev.commitShards
    dsimp only
    split
    · exact ih h.commitOnce
    · split
      · exact ih h.commitOnce.commitOnce
      · exact h.commitOnce.commitOnce

theorem commitAgain (h : Canonical d) {c ed : Nat} {q : Nat × Nat × Word × Bool} {l : Layer} {s : Shard} :
    Canonical (d.commitAgain c ed q l s).2 := by
  unfold Dev.commitAgain
  dsimp only
  split
  · exact h.commitOnce
  · exact h.commitOnce.foldShards

theorem commitFolds (h : Canonical d) {c ed : Nat} {q : Nat × Nat × Word × Bool} {l : Layer} {ss : List Shard} :
    Canonical (commitFolds c ed q l ss d).2 := by
  induction ss generalizing d with
  | nil => exact h
  | cons s ss ih =>
    unfold Dev.commitFolds
    extract_lets a b
    have ha : Canonical a.2 := h.foldShards
    have hb : Canonical b.2 := by
      dsimp only [b]
      split
      · exact ha
      · exact ha.commitAgain
    split
    · exact hb
    · exact ih hb

theorem commitGo (h : Canonical d) {j : Job} {s : Staged} : Canonical (d.commitGo j s) := by
  unfold Dev.commitGo
  dsimp only
  split
  · exact h.logDesc.commitShards.commitFails
  · exact .ite h.logDesc.commitShards.onJob.onWork h.logDesc.commitShards.commitDone

theorem commitRefused (h : Canonical d) {j : Job} : Canonical (d.commitRefused j) := h.editionErr.settle

theorem commitStart (h : Canonical d) {j : Job} : Canonical (d.commitStart j) := by
  unfold Dev.commitStart
  split
  · exact h.commitRefused
  · exact h.logJob fun h => h.reserve.onJob

theorem commitPassEnd (h : Canonical d) {j : Job} {p : PassJob} {q : Nat × Nat × Word × Bool} : Canonical (d.commitPassEnd j p q) := by
  unfold Dev.commitPassEnd
  split
  · dsimp only
    split
    · exact h.commitFolds.commitFails
    · exact h.commitFolds.commitDone
  · exact h.commitRefused

theorem passFinish (h : Canonical d) {c : Nat} : Canonical (d.passFinish c) := by
  unfold Dev.passFinish
  split
  · exact h
  · split
    · exact h
    · dsimp only
      split
      · refine Canonical.tryRun ?_
        split
        · exact h.onWork.commitPassEnd
        · split
          · exact h.onWork.loadPassEnd
          · exact h.onWork.settle
      · exact h.onWork.tryRun

theorem release (h : Canonical d) {c : Nat} : Canonical (d.release c) := .ite h h.onCtx.onCirc.onWork.tryRun

theorem openLayer (h : Canonical d) {j : Job} : Canonical (d.openLayer j) := by
  unfold Dev.openLayer
  dsimp only
  split
  · exact h
  · split
    · exact h.spend.log.onEdition.dropCommitted
    · exact h.spend.log.onEdition

theorem kettleOpens (h : Canonical d) {j : Job} :
    Canonical (d.kettleOpens j) :=
  .ite h.settle (h.logJob fun h => h.openLayer.settle.release)

theorem replaceCommit (h : Canonical d) {j : Job} : Canonical (d.replaceCommit j) := by
  unfold Dev.replaceCommit
  split
  · exact h.commitRefused
  · split
    · exact h.onJob
    · split
      · exact h.commitRefused
      · exact h.spend.commitGo

theorem replacesOpen (h : Canonical d) {c : Nat} {l : List Job} :
    Canonical (d.replacesOpen c l) :=
  (h.each fun h => h.openLayer.settle).release

theorem replaceGo (h : Canonical d) {c : Nat} : Canonical (d.replaceGo c) := by
  unfold Dev.replaceGo
  dsimp only
  split
  · exact h.closing
  · split
    · exact .ite h h.replaceCommit
    · exact .ite h h.replacesOpen

/-! ### Access by origin -/

theorem written (h : Canonical d) {org : Origin} {ofs : Nat} {f : Dev → Dev} (hf : ∀ {d}, Canonical d → Canonical (f d)) :
    Canonical (d.written org ofs f) :=
  .ite (.ite (h.given fun h => h.rouse).refuse (h.given fun h => h.rouse))
    (.ite (h.given fun h => h.rouse).accepted (.ite (h.given fun h => h.rouse).refuse (hf (h.given fun h => h.rouse))))

theorem pfOnly (h : Canonical d) {org : Origin} {ofs : Nat} {f : Dev → Dev} (hf : ∀ {d}, Canonical d → Canonical (f d)) :
    Canonical (d.pfOnly org ofs f) :=
  h.written fun h => .ite (hf h) h.refuse

/-! ### Pages, frames and the CXL tier -/

theorem mapNow (h : Canonical d) {j : Job} : Canonical (d.mapNow j) := h.logDesc.mapPages.settle

theorem mapDesc (h : Canonical d) {j : Job} : Canonical (d.mapDesc j) := by
  unfold Dev.mapDesc
  exact .ite h.settle (h.logJob fun h => .ite h.mapNow h.reserve.onJob)

theorem mapReady (h : Canonical d) : Canonical d.mapReady := by
  unfold Dev.mapReady
  split
  · exact h
  · exact .ite h (.ite h.settle h.spend.mapNow)

theorem unmapDesc (h : Canonical d) {j : Job} : Canonical (d.unmapDesc j) := by
  unfold Dev.unmapDesc
  exact .ite h.settle (h.logJob fun h => (h.logDesc.each fun h => h.unmapPage).settle)

theorem copyDesc (h : Canonical d) {j : Job} {data : HostRead} : Canonical (d.copyDesc j data) := by
  unfold Dev.copyDesc
  dsimp only
  split
  · exact h.settle
  · split
    · split
      · exact h.emit.memPut.settle
      · exact h.emit.freeBytes.memPut.settle
    · split
      · exact h.memGet.emit.settle
      · split
        · exact h.memGet.settle
        · exact h.memGet.freeBytes.emit.settle

theorem retireFrame (h : Canonical d) {f : Nat} : Canonical (d.retireFrame f) := h.tables
theorem retireLater (h : Canonical d) {f : Nat} : Canonical (d.retireLater f) := h.onMem

theorem retire (h : Canonical d) {f : Nat} : Canonical (d.retire f) := by
  unfold Dev.retire
  split
  · exact h
  · split
    · exact h.retireLater
    · split
      · exact h.log.retireFrame
      · split
        · exact h.retireLater
        · exact h.log.moveFrame.retireFrame

theorem cxlResets (h : Canonical d) {mask : Nat} {logIt : Bool} :
    Canonical (d.cxlResets mask logIt) :=
  (Canonical.ite h.onMem.log h.onMem).each fun h => h.markDamaged

theorem cxlWant (h : Canonical d) {mask : Nat} : Canonical (d.cxlWant mask) := .ite h.cxlResets h.onMem
theorem cxlDueGo (h : Canonical d) : Canonical d.cxlDueGo := .ite h h.cxlWant

theorem cxlLost (h : Canonical d) {mask : Nat} : Canonical (d.cxlLost mask) := by
  unfold Dev.cxlLost
  exact h.cxlWant.onMem

theorem cxlTimedOut (h : Canonical d) {dev c va : Nat} {write : Bool} : Canonical (d.cxlTimedOut dev c va write) := by
  unfold Dev.cxlTimedOut
  split
  · extract_lets l d1 d2 ts d3
    have h1 : Canonical d1 := h.errMem
    have h2 : Canonical d2 := by
      cases write
      · exact h1.onMem
      · exact h1.onMem
    have h3 : Canonical d3 := h2.onMem
    exact .ite h3.cxlLost h3
  · exact h

theorem cxlEnum (h : Canonical d) : Canonical d.cxlEnum := h.onMem

theorem cxlCfgWrite (h : Canonical d) {org : Origin} {v : Word} :
    Canonical (d.cxlCfgWrite org v) :=
  .ite h.refuse (h.loggedReg fun h => .ite h.onMem.cxlEnum h.onMem)

theorem cxlReady (h : Canonical d) {dev cap : Nat} :
    Canonical (d.cxlReady dev cap) :=
  .ite h.cxlDueGo (.ite h.cxlDueGo.onMem (.ite h.cxlDueGo h.cxlDueGo.onMem))

/-! ### Contexts -/

theorem ctxWrite (h : Canonical d) {org : Origin} {c o : Nat} {f : Dev → Dev} (hf : ∀ {d}, Canonical d → Canonical (f d)) :
    Canonical (d.ctxWrite org c o f) := by
  unfold Dev.ctxWrite
  dsimp only
  refine h.written fun h => ?_
  split
  · exact .ite (hf h) h
  · exact h.refuse

theorem eraseKey (h : Canonical d) {c : Nat} {reserved : Bool} : Canonical (d.eraseKey c reserved) := by
  unfold Dev.eraseKey
  split
  · exact h
  · exact (Canonical.ite h.logNext h.logOwed).onCtx

theorem closeContext (h : Canonical d) {c : Nat} {reserved : Bool} :
    Canonical (d.closeContext c reserved) :=
  ((Canonical.ite h.dropRuns.deactivate h).each fun h => h.unmapPage).syncClearRange.onCtx.eraseKey

theorem disable (h : Canonical d) {c : Nat} {reserved : Bool} :
    Canonical (d.disable c reserved) :=
  h.onRegs.abortScope.closeContext.busyCheck

theorem enableWrite (h : Canonical d) {org : Origin} {c : Nat} :
    Canonical (d.enableWrite org c) :=
  .ite h.refuse (h.loggedReg fun h => h.onRegs)

theorem disableWrite (h : Canonical d) {org : Origin} {c : Nat} : Canonical (d.disableWrite org c) := by
  unfold Dev.disableWrite
  exact h.loggedAll fun h => h.logNext.disable

theorem ringCfgWrite (h : Canonical d) {org : Origin} {c r : Nat} {v : Word} :
    Canonical (d.ringCfgWrite org c r v) :=
  .ite h.refuse (h.loggedReg fun h => h.onRing)

theorem dropJobs (h : Canonical d) {c : Nat} : Canonical (d.dropJobs c) := by
  unfold Dev.dropJobs
  dsimp only
  refine Canonical.tryRun ?_
  refine Canonical.onWork ?_
  refine Canonical.colRelease ?_
  split
  · exact .ite h.releaseSetups.onWork h
  · exact h

theorem flr (h : Canonical d) {c : Nat} : Canonical (d.flr c) := by
  unfold Dev.flr
  extract_lets rings d1 d2
  have h2 : Canonical d2 := h.onCtx.disable.dropJobs
  clear_value d2
  exact h2.same.onCtx

theorem onGlb (h : Canonical d) {f : Glb → Glb} : Canonical (d.onGlb f) := h.same
theorem flrAll (h : Canonical d) : Canonical d.flrAll := h.each fun h => h.flr
theorem linkReset (h : Canonical d) : Canonical d.linkReset := h.flrAll.onGlb

theorem enableReg (h : Canonical d) {org : Origin} {c : Nat} {v : Word} :
    Canonical (d.enableReg org c v) :=
  .ite h.refuse (h.ctxWrite fun h => .ite h.enableWrite h.disableWrite)

end Canonical

end Sys2Proof.Machine
end

section
/-! PROOFS. The canonical form of the memories (R247): the operations of ports, gatherings, faults and security. -/

namespace Sys2Proof.Machine

set_option Elab.async false

namespace Canonical

open Dev

variable {d t : Dev}

/-! ### Ports and cords -/

theorem onCord (h : Canonical d) {p k : Nat} {f : Cord → Cord} : Canonical (d.onCord p k f) := h.onPort
theorem sendCordSet (h : Canonical d) {p at_ : Nat} : Canonical (d.sendCordSet p at_) := h.linkOut
theorem sendNak (h : Canonical d) {p : Nat} : Canonical (d.sendNak p) := h.onLink.flitOut
theorem rewind (h : Canonical d) {p : Nat} : Canonical (d.rewind p) := h.onPort
theorem sendCerts (h : Canonical d) {p : Nat} : Canonical (d.sendCerts p) := h.each fun h => h.linkOut
theorem sendShare (h : Canonical d) {p : Nat} : Canonical (d.sendShare p) := h.tookFree.onPort.linkOut

theorem portFails (h : Canonical d) {p : Nat} {st : Status} : Canonical (d.portFails p st) := by
  unfold Dev.portFails
  extract_lets used d1 d2 d3
  have h1 : Canonical d1 := h.recvsLose.given fun h => h.endRun
  have h2 : Canonical d2 := h1.each fun h => h.onCirc.sendEnds.failTransfer
  have h3 : Canonical d3 := h2.each fun h => h.boardEnd
  exact h3.onPort.spine

theorem lostPort (h : Canonical d) {p : Nat} {st : Status} : Canonical (d.lostPort p st) := (h.portChange fun h => h.portFails.onPort).cause

theorem applyVerdict (h : Canonical d) {p : Nat} : Canonical (d.applyVerdict p) := by
  unfold Dev.applyVerdict
  split
  · exact h
  · extract_lets v d1 d2
    have h1 : Canonical d1 := .ite h.portFails h
    have h2 : Canonical d2 := h1.portChange fun h => h.onPort
    exact .ite h2.sendCerts h2

theorem keysFail (h : Canonical d) {p : Nat} : Canonical (d.keysFail p) := .ite h.onPort h.onPort.applyVerdict
theorem joinCord (h : Canonical d) {p k : Nat} : Canonical (d.joinCord p k) := h.portChange fun h => h.onCord.onPort

theorem manageModule (h : Canonical d) {p k lanes gbps : Nat} :
    Canonical (d.manageModule p k lanes gbps) :=
  (h.each fun h => h.emit).same.onPort

theorem cordAdvance (h : Canonical d) {p k lanes gbps : Nat} : Canonical (d.cordAdvance p k lanes gbps) := by
  unfold Dev.cordAdvance
  split
  · exact h
  · split
    · exact .ite (.ite h.manageModule h) (Canonical.ite h.manageModule h).onCord
    · exact h.onCord
    · exact h.onCord
    · exact h.onCord
    · exact h.joinCord.sendCordSet.applyVerdict
    · exact h
    · exact h

theorem cordLate (h : Canonical d) {p k : Nat} : Canonical (d.cordLate p k) := .ite h.onCord h

theorem cordOut (h : Canonical d) {p k : Nat} :
    Canonical (d.cordOut p k) :=
  h.portChange fun h => .ite h.onCord.onPort.wakeCords h.onCord.onPort

theorem dropCord (h : Canonical d) {p k : Nat} : Canonical (d.dropCord p k) := .ite h h.cordOut.rewind.sendNak.sendCordSet
theorem retrain (h : Canonical d) {p k : Nat} : Canonical (d.retrain p k) := .ite h h.reach.onCord
theorem resend (h : Canonical d) {p no : Nat} : Canonical (d.resend p no) := h.onPort.flitOut.each fun h => h.flitOut

theorem cordSetIn (h : Canonical d) {p : Nat} {msg : Bytes} : Canonical (d.cordSetIn p msg) := by
  unfold Dev.cordSetIn
  extract_lets m out d1
  have h1 : Canonical d1 := (h.each fun h => h.cordOut).given fun h => h.resend
  exact (h1.each fun h => h.joinCord).applyVerdict

theorem cordPowerIn (h : Canonical d) {p : Nat} {msg : Bytes} : Canonical (d.cordPowerIn p msg) := by
  unfold Dev.cordPowerIn
  dsimp only
  split
  · exact .ite h.linkOut (h.each fun h => h.onCord).linkOut
  · exact (h.each fun h => h.onCord).linkOut
  · exact .ite h (.ite (h.each fun h => h.onCord).wakeCords (h.each fun h => h.onCord))
  · exact h.each fun h => h.onCord
  · exact h

theorem stoppingIn (h : Canonical d) {p : Nat} {msg : Bytes} : Canonical (d.stoppingIn p msg) := .ite h h.lostPort

theorem portLoses (h : Canonical d) {p : Nat} : Canonical (d.portLoses p) := by
  unfold Dev.portLoses
  dsimp only
  split
  · exact .ite h.reach.lostPort h
  · exact .ite h.lostPort h

theorem helloIn (h : Canonical d) {p : Nat} {msg : Bytes} : Canonical (d.helloIn p msg) := .ite h h.onPort.applyVerdict

theorem absent (h : Canonical d) {p : Nat} : Canonical (d.absent p) := by
  unfold Dev.absent
  dsimp only
  split
  · exact h
  · split
    · split
      · exact .ite (h.reach.portChange fun h => h.onPort).cause h
      · exact h
    · split
      · exact .ite (h.reach.portChange fun h => h.onPort).cause h
      · exact h

theorem certIn (h : Canonical d) {p : Nat} {msg : Bytes} : Canonical (d.certIn p msg) := by
  unfold Dev.certIn
  dsimp only
  split
  · exact h
  · split
    · exact h.onPort
    · split
      · exact h.onPort.keysFail
      · exact .ite h.onPort.keysFail (.ite h.onPort.onPort.sendShare h.onPort.onPort)

theorem shareIn (h : Canonical d) {p : Nat} {msg : Bytes} : Canonical (d.shareIn p msg) := by
  unfold Dev.shareIn
  dsimp only
  split
  · exact h
  · exact .ite h.keysFail (.ite (Canonical.ite h.sendShare h).onPort.linkOut.applyVerdict (Canonical.ite h.sendShare h).onPort.linkOut)

theorem switchIn (h : Canonical d) {p : Nat} {msg : Bytes} : Canonical (d.switchIn p msg) := .ite h h.onPort

theorem agreeAgain (h : Canonical d) {p : Nat} : Canonical (d.agreeAgain p) := by
  unfold Dev.agreeAgain
  split
  · exact h.onPort.given fun h => h.sendShare
  · exact h.onPort.applyVerdict

theorem keyIn (h : Canonical d) {p : Nat} {msg : Bytes} : Canonical (d.keyIn p msg) := by
  unfold Dev.keyIn
  split
  · exact h.certIn
  · exact h.shareIn
  · exact h.switchIn
  · exact h

theorem moduleFlag (h : Canonical d) {p k : Nat} : Canonical (d.moduleFlag p k) := by
  unfold Dev.moduleFlag
  split
  · exact (h.given fun h => h.emit.emit).onPort.tookFree.dropCord
  · exact h

/-! ### The plan and gatherings -/

theorem planPort (h : Canonical d) {p : Nat} {e : Word} :
    Canonical (d.planPort p e) :=
  .ite (h.portChange fun h => h.onPort.onPort).lostPort (h.portChange fun h => h.onPort.onPort).applyVerdict

theorem applyPlan (h : Canonical d) {self : Word} {ps : List Word} : Canonical (d.applyPlan self ps) := h.same.each fun h => h.planPort

theorem planWrite (h : Canonical d) {org : Origin} {v : Word} :
    Canonical (d.planWrite org v) :=
  .ite h.refuse (h.loggedReg fun h => .ite h.same.applyPlan h.same)

theorem reapplyPlan (h : Canonical d) : Canonical d.reapplyPlan := by
  unfold Dev.reapplyPlan
  split
  · exact .ite h.log.applyPlan h
  · exact h

theorem findNbrs (h : Canonical d) {g : Gathering} {l : List (Nat × Bool)} : Canonical (d.findNbrs g l).2 := by
  induction l generalizing d g with
  | nil => exact h
  | cons a l ih =>
    unfold Dev.findNbrs
    dsimp only
    split
    · split
      · exact h
      · exact ih h
    · split
      · exact h
      · split
        · exact h.tookFree
        · split
          · exact h.tookFree
          · split
            · exact ih h.tookFree.linkOut
            · exact (ih h.tookFree.linkOut).releaseSetups

theorem sendFormation (h : Canonical d) {g : Gathering} {hash : Bytes} {n : Nbr} : Canonical (d.sendFormation g hash n) := h.packetOut

theorem formEnds (h : Canonical d) {f : Forming} : Canonical (d.formEnds f) := by
  unfold Dev.formEnds
  dsimp only
  split
  · exact h.releaseSetups.onWork.settle
  · exact h.releaseSetups.onWork

theorem formFails (h : Canonical d) {f : Forming} : Canonical (d.formFails f) := .ite h.onWork h.formEnds

theorem formLapses (h : Canonical d) : Canonical d.formLapses := by
  unfold Dev.formLapses
  split
  · exact .ite h.formEnds h
  · exact h

theorem tryFormed (h : Canonical d) : Canonical d.tryFormed := by
  unfold Dev.tryFormed
  split
  · exact h
  · split
    · exact h
    · split
      · exact h
      · extract_lets d1
        have h1 : Canonical d1 := h.spend.logDesc.onWork
        exact h1.same.settle

theorem formGot (h : Canonical d) {src gath : Nat} {hash : Bytes} : Canonical (d.formGot src gath hash) := by
  unfold Dev.formGot
  split
  · exact .ite h h.onWork
  · exact .ite h (.ite h.formFails h.onWork.tryFormed)

theorem beginForming (h : Canonical d) {j : Job} {g : Gathering} {hash : Bytes} :
    Canonical (d.beginForming j g hash) :=
  (h.reserve.onJob.onWork.each fun h => h.sendFormation).onWork.each fun h => h.formGot

theorem gatherForm (h : Canonical d) {j : Job} {record : HostRead} : Canonical (d.gatherForm j record) := by
  unfold Dev.gatherForm
  extract_lets n refused
  have hrefused : ∀ {d st}, Canonical d → Canonical (refused d st) := fun h => h.settle
  split
  · exact hrefused h
  · refine h.logJob fun {d} h => ?_
    extract_lets d1
    have h1 : Canonical d1 := h.emit
    split
    · exact hrefused h1
    · dsimp only
      split
      · exact hrefused h1
      · split
        · exact hrefused h1.findNbrs
        · exact h1.findNbrs.beginForming

theorem formationIn (h : Canonical d) {port : Nat} {b : Bytes} : Canonical (d.formationIn port b) := by
  unfold Dev.formationIn
  split
  · next e => exact h.received e
  · next e => exact .ite (h.received e) (h.received e).formGot

theorem gatherRelease (h : Canonical d) {j : Job} : Canonical (d.gatherRelease j) := by
  unfold Dev.gatherRelease
  split
  · exact h.settle
  · exact .ite h.settle (h.logJob fun h => h.logDesc.leaveBinding.releaseGath.settle)

theorem transitDo (h : Canonical d) {port : Nat} {msg : Bytes} : Canonical (d.transitDo port msg) := by
  unfold Dev.transitDo
  dsimp only
  split
  · exact h
  · split
    · split
      · exact h.linkOut
      · exact .ite h.linkOut h.same.linkOut
    · split
      · exact h.same.linkOut
      · exact h
    · split
      · exact (Canonical.ite h.same h).linkOut
      · split
        · exact h
        · exact .ite h (.ite h.formFails (h.onWork.each fun h => h.sendFormation).tryFormed)

theorem transitIn (h : Canonical d) {port : Nat} {msg : Bytes} : Canonical (d.transitIn port msg) := .ite h.same h.transitDo
theorem transitsGo (h : Canonical d) : Canonical d.transitsGo := (h.same.each fun h => h.linkOut).formLapses.each fun h => h.transitDo
theorem sendSteer (h : Canonical d) {ppm : Int} {at_ : Nat} : Canonical (d.sendSteer ppm at_) := h.each fun h => h.linkOut
theorem timeReply (h : Canonical d) {p t1 t2 : Nat} : Canonical (d.timeReply p t1 t2) := .ite h.linkOut h

theorem timeSync (h : Canonical d) {p t1 t2 t3 t4 : Nat} : Canonical (d.timeSync p t1 t2 t3 t4) := by
  unfold Dev.timeSync
  extract_lets off bound clk d1 d2 lnk d3 ppm d4 at_
  have h1 : Canonical d1 := h.same
  have h2 : Canonical d2 := .ite h1 h1.setTs
  have h3 : Canonical d3 := h2.same
  have h4 : Canonical d4 := h3.tookFree
  exact .ite h.timeReply (.ite h (.ite h3 h4.tookFree.same.sendSteer))

theorem steerIn (h : Canonical d) {p : Nat} {ppm : Int} {at_ : Nat} : Canonical (d.steerIn p ppm at_) := .ite h h.same.sendSteer

/-! ### The link layer -/

theorem packetIn (h : Canonical d) {p : Nat} {b : Bytes} : Canonical (d.packetIn p b) := by
  unfold Dev.packetIn
  dsimp only
  split
  · exact h.rouseAt.sigArrive
  · exact h.rouseAt.transferPacket.coresGo
  · exact h.rouseAt.transferPacket.coresGo
  · exact .ite h.rouseAt.controlStart h.rouseAt.controlAbort
  · exact h.rouseAt.boardStoreIn.coresGo
  · exact h.rouseAt.boardLoadIn
  · exact h.rouseAt.boardResponseIn.coresGo
  · exact h.rouseAt.ackArrive.coresGo
  · exact h.rouseAt.formationIn
  · exact h.rouseAt.receive

theorem timeIn (h : Canonical d) {p : Nat} {msg : Bytes} : Canonical (d.timeIn p msg) := .ite h.timeReply (.ite h.timeSync h)

theorem controlMsg (h : Canonical d) {p : Nat} {msg : Bytes} : Canonical (d.controlMsg p msg) := by
  unfold Dev.controlMsg
  split
  · exact h.helloIn
  · exact h.cordSetIn
  · exact h.timeIn
  · exact h.steerIn
  · exact h.keyIn
  · exact h.cordPowerIn
  · exact h.stoppingIn
  · exact h.transitIn
  · exact h

theorem deliver (h : Canonical d) {p kind : Nat} {payload : Bytes} :
    Canonical (d.deliver p kind payload) :=
  .ite h.controlMsg (.ite (h.onLink.each fun h => h.packetIn) h)

theorem sendAcks (h : Canonical d) {p : Nat} : Canonical (d.sendAcks p) := .ite h (h.each fun h => h.flitOut).onLink
theorem ackIn (h : Canonical d) {p no : Nat} : Canonical (d.ackIn p no) := h.onLink.flush
theorem nakIn (h : Canonical d) {p no : Nat} : Canonical (d.nakIn p no) := .ite h.lostPort h.onLink.resend
theorem creditIn (h : Canonical d) {p : Nat} {circ esc : Bool} : Canonical (d.creditIn p circ esc) := h.onLink.channelGo.spine

theorem headIn (h : Canonical d) {p : Nat} {b : Bytes} : Canonical (d.headIn p b) := by
  unfold Dev.headIn
  extract_lets d1
  have h1 : Canonical d1 := by
    dsimp only [d1]
    split
    · exact h.creditIn
    · exact h.creditIn
    · exact h.creditIn
    · exact h.creditIn
    · exact h
  split
  · exact h1.ackIn
  · exact h1.nakIn
  · exact h1

theorem inOrder (h : Canonical d) {p : Nat} : Canonical (d.inOrder p) := .ite h.onLink.sendAcks h.onLink
theorem takeFlit (h : Canonical d) {p : Nat} {b payload : Bytes} : Canonical (d.takeFlit p b payload) := .ite h.headIn h.headIn.deliver
theorem holdFlit (h : Canonical d) {p : Nat} {b : Bytes} : Canonical (d.holdFlit p b) := h.onPort.inOrder

theorem deliverHeld (h : Canonical d) {p : Nat} {l : List Bytes} {m : Bytes} : Canonical (d.deliverHeld p l m) := by
  induction l generalizing d p m with
  | nil => exact h
  | cons a l ih =>
    unfold Dev.deliverHeld
    exact .ite h (.ite (ih h.takeFlit) (ih h.takeFlit))

theorem tagIn (h : Canonical d) {p : Nat} {b : Bytes} : Canonical (d.tagIn p b) := by
  unfold Dev.tagIn
  dsimp only
  split
  · exact h.inOrder.takeFlit
  · split
    · exact .ite h.onPort.inOrder.deliverHeld h.onPort.inOrder.deliverHeld.headIn
    · exact .ite h.lostPort h.onPort.rewind.sendNak

theorem flitNext (h : Canonical d) {p : Nat} {b : Bytes} : Canonical (d.flitNext p b) := by
  unfold Dev.flitNext
  dsimp only
  split
  · exact h.tagIn
  · exact .ite h.inOrder.takeFlit h.holdFlit
  · exact .ite h.holdFlit h.inOrder.takeFlit
  · exact .ite h.holdFlit h.inOrder.takeFlit
  · exact h.inOrder.takeFlit

theorem markerIn (h : Canonical d) {p n : Nat} : Canonical (d.markerIn p n) := .ite h.sendNak h.onLink

theorem flitIn (h : Canonical d) {p : Nat} {f : FlitIn} : Canonical (d.flitIn p f) := by
  unfold Dev.flitIn
  split
  · exact h
  · split
    · exact h.sendNak
    · exact .ite h.onPort.sendNak (.ite h.onPort.headIn (.ite (.ite h.onPort.headIn h.onPort.headIn.markerIn)
        (.ite h.onPort (.ite h.onPort.onLink h.onPort.flitNext))))

/-! ### Faults and the watchdog -/

theorem spineAll (h : Canonical d) : Canonical d.spineAll := (h.each fun h => h.spineArrive).each fun h => h.spineArrive
theorem withdraw (h : Canonical d) {cores : List Nat} : Canonical (d.withdraw cores) := h.same

theorem skipRest (h : Canonical d) {c n : Nat} : Canonical (d.skipRest c n) := by
  induction n generalizing d c with
  | zero => exact h.onSeq
  | succ n ih =>
    unfold Dev.skipRest
    exact .ite h (ih (.ite h.onSeq.signal h.onSeq))

theorem abandon (h : Canonical d) {c : Nat} : Canonical (d.abandon c) := by
  unfold Dev.abandon
  dsimp only
  refine Canonical.skipRest ?_
  split
  · exact .ite ((h.each fun h => h.putQueue).each fun h => .ite h.signal h).onSeq.signal
      ((h.each fun h => h.putQueue).each fun h => .ite h.signal h).onSeq
  · exact (h.each fun h => h.putQueue).each fun h => .ite h.signal h

theorem coreStops (h : Canonical d) {c : Nat} : Canonical (d.coreStops c) := by
  unfold Dev.coreStops
  exact h.withdraw.onCore.onCirc

theorem abandonPhase (h : Canonical d) : Canonical d.abandonPhase := by
  unfold Dev.abandonPhase
  dsimp only
  refine Canonical.coresGo ?_
  refine Canonical.failOwners ?_
  refine Canonical.each ?_ (fun h => h.abandon)
  refine h.withdraw.each fun h => ?_
  split
  · exact h.syncDone
  · exact h.syncDone.syncIssue

theorem decideAgain (h : Canonical d) {r : Run} :
    Canonical (d.decideAgain r) :=
  .ite h.keepCount.boundaryDecisions (.ite (.ite h.keepCount.boundaryDecisions.redoStep h.keepCount.boundaryDecisions)
    (Canonical.ite h.keepCount.boundaryDecisions.redoStep h.keepCount.boundaryDecisions).startOrWait)

theorem parkCore (h : Canonical d) {c kind : Nat} : Canonical (d.parkCore c kind) := h.onErr.cause.same.logOwed.coreStops

theorem afterParking (h : Canonical d) {c : Nat} : Canonical (d.afterParking c) := by
  unfold Dev.afterParking
  split
  · exact h
  · exact .ite h (.ite h.decideAgain h.abandonPhase)

theorem coreFault (h : Canonical d) {c kind : Nat} : Canonical (d.coreFault c kind) := .ite h h.spineAll.parkCore.afterParking
theorem retestWrite (h : Canonical d) {org : Origin} {v : Word} : Canonical (d.retestWrite org v) := h.pfOnly fun h => h.onErr.accepted

theorem retestEnd (h : Canonical d) {c : Nat} {passed : Bool} :
    Canonical (d.retestEnd c passed) :=
  .ite h (.ite (.ite h.log.same.onErr h) h.onErr)

theorem internalError (h : Canonical d) {leaf unit : Nat} :
    Canonical (d.internalError leaf unit) :=
  .ite h.onErr.cause.emit h.onErr.cause.emit.stopStation.onPwr

theorem leafTested (h : Canonical d) {passed : Bool} : Canonical (d.leafTested passed) := .ite h (.ite h.onPwr h.resumeStation.onErr)

theorem stallFound (h : Canonical d) {index : Nat} : Canonical (d.stallFound index) := by
  unfold Dev.stallFound
  dsimp only
  split
  · exact h
  · exact .ite h h.reach.onErr.stallRecord

/-! ### The colophon -/

theorem colSend (h : Canonical d) {seqs : List Nat} : Canonical (d.colSend seqs).2 := by
  unfold Dev.colSend
  split
  · exact h
  · exact h.same

theorem drainDesc (h : Canonical d) {j : Job} : Canonical (d.drainDesc j) := by
  unfold Dev.drainDesc
  extract_lets n x k
  have hk : Canonical k.2 := h.colSend
  exact .ite h.settle (hk.given fun h => h.emit).settle

theorem checkpointDue (h : Canonical d) : Canonical d.checkpointDue := .ite h h.reach.colCheckpoint

/-! ### Security -/

theorem onSec (h : Canonical d) {f : Sec → Sec} : Canonical (d.onSec f) := h.same
theorem serve (h : Canonical d) {f : Dev → Dev} (hf : ∀ {d}, Canonical d → Canonical (f d)) : Canonical (d.serve f) := .ite (hf h.rouse) h

theorem serveOn (h : Canonical d) {c : Carrier} {f : Dev → Dev} (hf : ∀ {d}, Canonical d → Canonical (f d)) :
    Canonical (d.serveOn c f) :=
  .ite (h.serve hf) h

theorem saySigned (h : Canonical d) {c : Carrier} {session : Option Nat} {b : Bytes} :
    Canonical (d.saySigned c session b) :=
  h.tookFree.answer

theorem keyExchange (h : Canonical d) {c : Carrier} : Canonical (d.keyExchange c) := .ite h.say h.onSec.tookFree.saySigned

theorem spdmAnswer (h : Canonical d) {m : SpdmMsg} : Canonical (d.spdmAnswer m) := by
  unfold Dev.spdmAnswer
  dsimp only
  split
  · exact h.answer
  · exact h.answer
  · exact h.answer
  · exact h.answer
  · exact h.answer
  · exact .ite h.answer h.saySigned
  · split
    · exact h.saySigned
    · exact h.answer
  · exact h.keyExchange
  · exact h.answer
  · exact h.answer.onSec

theorem spdmServe (h : Canonical d) {m : SpdmMsg} : Canonical (d.spdmServe m) := by
  unfold Dev.spdmServe
  split
  · exact h.answer
  · exact h.spdmAnswer

theorem spdm (h : Canonical d) {m : SpdmMsg} : Canonical (d.spdm m) := .ite h.say (h.serveOn fun h => h.spdmServe)

theorem loggedSec (h : Canonical d) {origin ctx code old new detail : Nat} {make : Dev → Dev}
    (hmake : ∀ {d}, Canonical d → Canonical (make d)) :
    Canonical (d.loggedSec origin ctx code old new detail make).2 := by
  unfold Dev.loggedSec
  split
  · exact h
  · split
    · exact h.logRefused
    · exact hmake h.log

theorem newKey (h : Canonical d) {c : Nat} {key : Bytes} : Canonical (d.newKey c key).2 := by
  unfold Dev.newKey
  split
  · exact h
  · exact h.loggedSec fun h => h.onCtx

theorem setKey (h : Canonical d) {session c : Nat} {key : Bytes} : Canonical (d.setKey session c key) := by
  unfold Dev.setKey
  split
  · exact h.serveOn fun h => h.newKey.saySealed
  · exact h

theorem ideState (h : Canonical d) {on secure : Bool} : Canonical (d.ideState on secure) := h.same.drainRings.finishRuns

theorem ideDo (h : Canonical d) {req : IdeReq} : Canonical (d.ideDo req).2 := by
  unfold Dev.ideDo
  split
  · exact h.loggedSec fun h => h.onSec
  · split
    · exact h
    · exact h.loggedSec fun h => h.onSec.ideState
  · exact h.ideState
  · split
    · exact h.ideState
    · exact h

theorem ide (h : Canonical d) {session : Nat} {req : IdeReq} : Canonical (d.ide session req) := by
  unfold Dev.ide
  split
  · exact .ite (h.serveOn fun h => h.ideDo.saySealed) h
  · exact h

theorem newChallenge (h : Canonical d) : Canonical d.newChallenge := h.same.tookFree
theorem dropContexts (h : Canonical d) : Canonical d.dropContexts := h.each fun h => h.disable
theorem dropLinkKeys (h : Canonical d) : Canonical d.dropLinkKeys := h.each fun h => h.onPort.applyVerdict
theorem openAll (h : Canonical d) : Canonical d.openAll := h.dropContexts.dropLinkKeys.onSec

theorem tryToken (h : Canonical d) {org : Origin} {t : Bytes} : Canonical (d.tryToken org t) := by
  unfold Dev.tryToken
  split
  · exact (Canonical.ite h.logRefused h).newChallenge.onSec
  · exact (Canonical.ite h.colReserve.logNext.onSec.openAll h.colReserve.logNext.onSec).newChallenge

theorem tokenWord (h : Canonical d) {org : Origin} {w : Word} : Canonical (d.tokenWord org w) := by
  unfold Dev.tokenWord
  dsimp only
  split
  · exact h.written fun h => h.refuse
  · exact h.written fun h => .ite h.accepted (Canonical.ite h.onSec h.onSec.tryToken).accepted
  · exact .ite h.refuse (.ite h.accepted (Canonical.ite h.onSec h.onSec.tryToken).accepted)

theorem anchorWrite (h : Canonical d) {org : Origin} {c : Nat} {v : Word} : Canonical (d.anchorWrite org c v) := by
  unfold Dev.anchorWrite
  exact h.written fun h => .ite (.ite h.refuse (h.logged fun h => h.onRegs.onCtx))
    (.ite (h.logged fun h => h.onRegs.onCtx) h.onRegs.accepted)

end Canonical

end Sys2Proof.Machine
end

section
/-! PROOFS. The canonical form of the memories (R247): the operations of startup, the mailbox and the registers. -/

namespace Sys2Proof.Machine

set_option Elab.async false

namespace Canonical

open Dev

variable {d t : Dev}

/-! ### Startup and restart -/

theorem onBoot (h : Canonical d) {f : Boot → Boot} : Canonical (d.onBoot f) := h.same
theorem advanceSvn (h : Canonical d) {image : Bytes} : Canonical (d.advanceSvn image) := .ite h.log.same h
theorem runImage (h : Canonical d) {image : Bytes} {recovered : Bool} : Canonical (d.runImage image recovered) := h.advanceSvn.onSec.onBoot
theorem withoutPower {s : Supply} {pins : Pins} : Canonical (d.withoutPower s pins) := same (d := Dev.reset) ⟨Memory.wf_reset⟩
theorem powerUpEntry (h : Canonical d) : Canonical d.powerUpEntry := h.same.colPutMain

theorem handOver (h : Canonical d) {image : Bytes} {recovered : Bool} : Canonical (d.handOver image recovered) := by
  unfold Dev.handOver
  extract_lets clean ak d1
  have h1 : Canonical d1 := h.reach.runImage.onBoot
  clear_value d1
  exact h1.same.resumeBoost

theorem startFirmware (h : Canonical d) {image : Bytes} {recovered : Bool} :
    Canonical (d.startFirmware image recovered) :=
  .ite h.handOver.beginMemory h.handOver.onPwr.onBoot.thermAlert

theorem enterRecovery (h : Canonical d) {st : Status} : Canonical (d.enterRecovery st) := by
  unfold Dev.enterRecovery
  extract_lets d1
  have h1 : Canonical d1 := h.onBoot
  exact h1.same

theorem coldBoot (h : Canonical d) {readOk : Bool} : Canonical (d.coldBoot readOk) := by
  unfold Dev.coldBoot
  dsimp only
  split
  · exact h.onBoot.reach.powerUpEntry.startFirmware
  · exact h.onBoot.reach.powerUpEntry.enterRecovery.onBoot

theorem powerOn {pos : Nat} {readOk : Bool} : Canonical (d.powerOn pos readOk) := by
  unfold Dev.powerOn
  extract_lets pins d1 d2
  have h1 : Canonical d1 := newChallenge withoutPower
  have h2 : Canonical d2 := h1.onBoot
  exact .ite h2.coldBoot h2.onBoot

theorem planOnce (h : Canonical d) : Canonical d.planOnce := .ite h h.reach.reapplyPlan.onBoot
theorem memoryTrained (h : Canonical d) {ok : Bool} : Canonical (d.memoryTrained ok) := .ite h (.ite h.reach.onBoot.planOnce h.reach.onBoot)
theorem ready (h : Canonical d) : Canonical d.ready := .ite h h.planOnce.reach.onBoot

theorem restartBegin (h : Canonical d) : Canonical d.restartBegin := by
  unfold Dev.restartBegin
  extract_lets d1
  have h1 : Canonical d1 := h.onBoot
  exact h1.same

theorem restartEnd (h : Canonical d) {image : Bytes} {recovered : Bool} :
    Canonical (d.restartEnd image recovered) :=
  (h.runImage.onBoot.logOwed.flushSafety.each fun h => h.applyVerdict).transitsGo.tryFormed.drainRings.finishRuns.resumeBoost.cxlDueGo

theorem restartRead (h : Canonical d) {readOk : Bool} : Canonical (d.restartRead readOk) := by
  unfold Dev.restartRead
  split
  · exact h
  · split
    · exact h.restartEnd
    · exact h.enterRecovery.onBoot

theorem bootRecovered (h : Canonical d) {image : Bytes} : Canonical (d.bootRecovered image) := .ite h.restartEnd h.startFirmware

/-! ### The mailbox and management -/

theorem onMbx (h : Canonical d) {f : Mbx → Mbx} : Canonical (d.onMbx f) := h.same

theorem mbxEnd (h : Canonical d) {st : Status} {l : List Word} : Canonical (d.mbxEnd st l) := by
  unfold Dev.mbxEnd
  dsimp only
  split
  · exact h.onMbx.mgmtReply
  · exact h.onMbx.onMbx

theorem mbxRuns (h : Canonical d) {r : MbxRun} {l : List Word} : Canonical (d.mbxRuns r l) := by
  unfold Dev.mbxRuns
  dsimp only
  split
  · exact h.onMbx.mgmtReply
  · exact h.onMbx

theorem fwFeed (h : Canonical d) {got : Bytes} {ws : List Word} : Canonical (d.fwFeed got ws) := .ite h.onBoot.mbxEnd h.mbxRuns

theorem takeIn (h : Canonical d) : Canonical d.takeIn.2 := by
  unfold Dev.takeIn
  dsimp only
  exact h.onMbx

theorem flashImage (h : Canonical d) {image : Bytes} {ok : Bool} : Canonical (d.flashImage image ok) := .ite h.same h.same.onSec

theorem fwEnd (h : Canonical d) {ok : Bool} : Canonical (d.fwEnd ok) := by
  unfold Dev.fwEnd
  split
  · exact h.mbxEnd
  · dsimp only
    split
    · exact h.onBoot.mbxEnd
    · exact .ite h.onBoot.flashImage.mbxEnd.bootRecovered h.onBoot.flashImage.mbxEnd

theorem logFill (h : Canonical d) {n k : Nat} : Canonical (d.logFill n k) := by
  induction n generalizing d k with
  | zero => exact h.mbxRuns
  | succ n ih =>
    unfold Dev.logFill
    split
    · exact h.mbxEnd
    · exact .ite h.mbxEnd (.ite h.mbxRuns (ih h.onMbx))

theorem logRead (h : Canonical d) {arg : Nat} : Canonical (d.logRead arg) := .ite h.colFree.cxlDueGo.mbxEnd h.logFill

theorem dumpOn (h : Canonical d) {rest : Bytes} :
    Canonical (d.dumpOn rest) :=
  .ite (.ite h.mbxEnd h.mbxRuns) (.ite h.onMbx.mbxEnd h.onMbx.mbxRuns)

theorem mbxPop (h : Canonical d) : Canonical d.mbxPop.2 := by
  unfold Dev.mbxPop
  split
  · exact h
  · dsimp only
    split
    · split
      · exact .ite h.onMbx.colFree.cxlDueGo h.onMbx.colFree.cxlDueGo.logFill
      · exact .ite h.onMbx h.onMbx.logFill
    · split
      · exact .ite h.onMbx.colFree.cxlDueGo h.onMbx.colFree.cxlDueGo.dumpOn
      · exact .ite h.onMbx h.onMbx.dumpOn
    · split
      · exact h.onMbx.colFree.cxlDueGo
      · exact h.onMbx

theorem mbxPush (h : Canonical d) {w : Word} : Canonical (d.mbxPush w) := by
  unfold Dev.mbxPush
  split
  · exact h
  · dsimp only
    split
    · exact .ite h.onMbx h.onMbx.takeIn.fwFeed
    · exact h.onMbx

theorem refresh (h : Canonical d) : Canonical d.refresh := .ite h (h.same.each fun h => .ite h h.platformEvent)

theorem shutdownBegin (h : Canonical d) {abort : Bool} :
    Canonical (d.shutdownBegin abort) :=
  .ite (h.onBoot.onMbx.each fun h => h.abortScope) h.onBoot.onMbx

theorem shutdownEnd (h : Canonical d) :
    Canonical d.shutdownEnd :=
  .ite h (h.each fun h => h.linkOut).colCheckpoint.same.enterIdle.onBoot.mbxEnd

theorem mbxDo (h : Canonical d) {code arg : Nat} {ws : List Word} {flashOk : Bool} : Canonical (d.mbxDo code arg ws flashOk) := by
  unfold Dev.mbxDo
  split
  · exact h.mbxEnd
  · split
    · exact h.fwFeed
    · exact .ite h.mbxEnd h.onBoot.fwFeed
  · exact h.fwEnd
  · exact h.mbxEnd.restartBegin
  · exact h.mbxEnd.restartBegin
  · exact h.logRead
  · split
    · exact h.dumpOn
    · split
      · exact h.mbxEnd
      · exact h.dumpOn
  · exact h.mbxEnd
  · exact h.shutdownBegin

theorem mbxGo (h : Canonical d) {code arg : Nat} {flashOk : Bool} :
    Canonical (d.mbxGo code arg flashOk) :=
  .ite h (.ite h.onMbx.mbxEnd.onMbx (.ite h.onMbx.takeIn.mbxDo h.onMbx.mbxDo))

theorem mbxMctp (h : Canonical d) {via : Mctp} {code arg : Nat} {ws : List Word} {flashOk : Bool} :
    Canonical (d.mbxMctp via code arg ws flashOk) :=
  .ite (h.given fun h => h.rouse) (.ite (h.given fun h => h.rouse).mgmtReply (h.given fun h => h.rouse).onMbx.mbxDo)

theorem mbxVia (h : Canonical d) {via : MbxVia} {code arg : Nat} {flashOk : Bool} : Canonical (d.mbxVia via code arg flashOk) := by
  unfold Dev.mbxVia
  split
  · exact .ite h.mbxGo h
  · exact h.mbxMctp

theorem freeFlash (h : Canonical d) : Canonical d.freeFlash.2 := h.tookFree
theorem pldmSay (h : Canonical d) {code : Nat} {b : Bytes} : Canonical (d.pldmSay code b) := h.emit
theorem pldmAsk (h : Canonical d) : Canonical d.pldmAsk := h.pldmSay
theorem pldmBegin (h : Canonical d) : Canonical d.pldmBegin := h.serve fun h => .ite h.pldmSay h.onBoot.pldmSay.pldmAsk

theorem pldmApply (h : Canonical d) {image : Bytes} : Canonical (d.pldmApply image) := by
  unfold Dev.pldmApply
  split
  · exact h.onBoot.pldmSay
  · exact h.freeFlash.pldmSay.flashImage.pldmSay.onBoot

theorem pldmData (h : Canonical d) {offset : Nat} {data : Bytes} :
    Canonical (d.pldmData offset data) :=
  h.serve fun h => .ite h (.ite h.pldmApply (.ite h.pldmApply h.onBoot.pldmAsk))

theorem pldmActivate (h : Canonical d) : Canonical d.pldmActivate := h.serve fun h => .ite h h.pldmSay.restartBegin
theorem setEid (h : Canonical d) {m : Medium} {eid : Byte} : Canonical (d.setEid m eid) := h.serveOn fun h => h.same.say

/-! ### Register reads -/

theorem popStall (h : Canonical d) : Canonical d.popStall.2 := by
  unfold Dev.popStall
  split
  · exact h
  · dsimp only
    exact h.onErr

theorem latchHigh (h : Canonical d) {org : Origin} {ofs : Nat} : Canonical (d.latchHigh org ofs) := h.same

theorem readBar0 (h : Canonical d) {org : Origin} {ofs : Nat} {wide : Bool} : Canonical (d.readBar0 org ofs wide).2 := by
  unfold Dev.readBar0
  split
  · exact h
  · split
    · exact h
    · split
      · exact h.mbxPop
      · split
        · exact h.popStall
        · split
          · exact h.latchHigh
          · split <;> exact h

theorem readOut (h : Canonical d) {org : Origin} {ofs : Nat} {wide : Bool} :
    Canonical (d.readOut org ofs wide) :=
  .ite h.emit (.ite h.emit h.readBar0.emit)

/-! ### Register writes -/

theorem ignored (h : Canonical d) {org : Origin} {ofs : Nat} : Canonical (d.ignored org ofs) := h.written fun h => h.accepted

theorem plainWrite (h : Canonical d) {org : Origin} {ofs : Nat} {f : Dev → Dev} (hf : ∀ {d}, Canonical d → Canonical (f d)) :
    Canonical (d.plainWrite org ofs f) :=
  h.written fun h => (hf h).accepted

theorem clearWrite (h : Canonical d) {org : Origin} {ofs : Nat} {v : Word} {f : Dev → Dev} (hf : ∀ {d}, Canonical d → Canonical (f d)) :
    Canonical (d.clearWrite org ofs v f) :=
  h.plainWrite fun h => .ite (hf h) h

theorem putLogged (h : Canonical d) {org : Origin} {ofs : Nat} {old new : Word} {put : Word → Dev → Dev}
    (hput : ∀ {a0 d}, Canonical d → Canonical (put a0 d)) :
    Canonical (d.putLogged org ofs old new put) :=
  h.loggedReg hput

theorem loggedWrite (h : Canonical d) {org : Origin} {ofs : Nat} {old new : Word} {put : Word → Dev → Dev}
    (hput : ∀ {a0 d}, Canonical d → Canonical (put a0 d)) :
    Canonical (d.loggedWrite org ofs old new put) :=
  h.written fun h => h.putLogged hput

theorem loggedPf (h : Canonical d) {org : Origin} {ofs : Nat} {old new : Word} {put : Word → Dev → Dev}
    (hput : ∀ {a0 d}, Canonical d → Canonical (put a0 d)) :
    Canonical (d.loggedPf org ofs old new put) :=
  h.pfOnly fun h => h.putLogged hput

theorem resetOne (h : Canonical d) {b : Nat} : Canonical (d.resetOne b) := .ite (h.each fun h => h.disable) (.ite h.cxlResets h.lostPort)

theorem globReset (h : Canonical d) {org : Origin} {v : Word} :
    Canonical (d.globReset org v) :=
  h.pfOnly fun h => .ite h.accepted (h.loggedAll fun h => h.each fun h => h.logNext.resetOne)

theorem writeGlb (h : Canonical d) {org : Origin} {o : Nat} {v : Word} : Canonical (d.writeGlb org o v) := by
  unfold Dev.writeGlb
  split
  · exact h.globReset
  · exact h.clearWrite fun h => h.same
  · exact h.clearWrite fun h => h.same
  · split
    · exact h.loggedWrite fun h => h.same
    · exact h.ignored

theorem mbxCmdWrite (h : Canonical d) {v : Word} : Canonical (d.mbxCmdWrite v) := .ite h.onMbx (.ite h.freeFlash.mbxGo h.mbxGo)

theorem writeMbx (h : Canonical d) {org : Origin} {ofs : Nat} {v : Word} : Canonical (d.writeMbx org ofs v) := by
  unfold Dev.writeMbx
  split
  · exact h.pfOnly fun h => h.mbxCmdWrite.accepted
  · exact h.pfOnly fun h => h.mbxPush.accepted
  · exact h.ignored

theorem writeCol (h : Canonical d) {org : Origin} {ofs : Nat} {v : Word} : Canonical (d.writeCol org ofs v) := by
  unfold Dev.writeCol
  split
  · exact h.loggedPf fun h => h.same
  · exact h.plainWrite fun h => h.same
  · exact h.ignored

theorem onPr (h : Canonical d) {f : PwrRegs → PwrRegs} : Canonical (d.onPr f) := h.same

theorem stopWrite (h : Canonical d) {org : Origin} {v : Word} :
    Canonical (d.stopWrite org v) :=
  h.pfOnly fun h => .ite h.accepted (.ite h.resumeStation.accepted h.refuse)

theorem writePwr (h : Canonical d) {org : Origin} {ofs : Nat} {v : Word} : Canonical (d.writePwr org ofs v) := by
  unfold Dev.writePwr
  split
  · exact h.loggedPf fun h => h.onPr
  · exact h.loggedPf fun h => h.onPr
  · exact h.loggedPf fun h => h.onPr
  · exact h.loggedPf fun h => h.onPr.thermAlert
  · exact h.stopWrite
  · exact h.loggedWrite fun h => h.onPr
  · exact h.ignored

theorem writeErr (h : Canonical d) {org : Origin} {ofs : Nat} {v : Word} : Canonical (d.writeErr org ofs v) := by
  unfold Dev.writeErr
  dsimp only
  split
  · exact h.plainWrite fun h => h.onErr
  · exact h.plainWrite fun h => h.onErr
  · exact h.plainWrite fun h => h.onErr
  · exact h.clearWrite fun h => h.onErr
  · exact h.retestWrite
  · exact h.clearWrite fun h => h.onErr
  · exact h.clearWrite fun h => h.onErr
  · exact h.clearWrite fun h => h.onErr
  · exact h.clearWrite fun h => h.onErr
  · exact h.clearWrite fun h => h.onErr
  · exact h.clearWrite fun h => h.onErr
  · exact h.clearWrite fun h => h.onErr
  · exact h.plainWrite fun h => h.onErr
  · split
    · exact h.clearWrite fun h => h.same
    · exact h.clearWrite fun h => h.same
    · exact h.ignored

theorem writeMem (h : Canonical d) {org : Origin} {ofs : Nat} {v : Word} : Canonical (d.writeMem org ofs v) := by
  unfold Dev.writeMem
  split
  · exact h.pfOnly fun h => .ite h.refuse (h.putLogged fun h => h.onMem)
  · exact h.written fun h => h.cxlCfgWrite
  · exact h.loggedWrite fun h => h.onMem
  · exact h.loggedWrite fun h => h.same
  · exact h.ignored

theorem onLnk (h : Canonical d) {f : Lnk → Lnk} : Canonical (d.onLnk f) := h.same

theorem peakReset (h : Canonical d) {org : Origin} {leaf : Nat} {v : Word} :
    Canonical (d.peakReset org leaf v) :=
  h.plainWrite fun h => .ite h.onCirc h

theorem boardOpenWrite (h : Canonical d) {org : Origin} {hi : Bool} {v : Word} :
    Canonical (d.boardOpenWrite org hi v) :=
  h.loggedWrite fun h => h.onLnk

theorem writeLnk (h : Canonical d) {org : Origin} {ofs : Nat} {v : Word} : Canonical (d.writeLnk org ofs v) := by
  unfold Dev.writeLnk
  split
  · exact h.written fun h => h.planWrite
  · exact h.written fun h => .ite h.refuse (h.putLogged fun h => h.onLnk)
  · exact h.boardOpenWrite
  · exact h.boardOpenWrite
  · exact h.peakReset
  · exact h.peakReset
  · split
    · exact h.loggedWrite fun h => h.onPort
    · exact h.loggedWrite fun h => h.onPort
    · exact h.ignored

theorem writeRte (h : Canonical d) {org : Origin} {n : Nat} {v : Word} : Canonical (d.writeRte org n v) := h.loggedPf fun h => h.onLnk
theorem onSync (h : Canonical d) {f : Sync → Sync} : Canonical (d.onSync f) := h.same
theorem handRefused (h : Canonical d) {org : Origin} {st : Status} : Canonical (d.handRefused org st) := h.onSync.refuse
theorem handGo (h : Canonical d) {org : Origin} {clear : Bool} : Canonical (d.handGo org clear) := h.log.onSync.syncArrive.coresGo.accepted

theorem handSet (h : Canonical d) {org : Origin} {v : Word} :
    Canonical (d.handSet org v) :=
  h.written fun h => .ite h.handRefused (.ite h.onSync.accepted (.ite h.handRefused (.ite h.logRefused.handRefused h.handGo)))

theorem writeDbg (h : Canonical d) {org : Origin} {ofs : Nat} {v : Word} : Canonical (d.writeDbg org ofs v) := by
  unfold Dev.writeDbg
  split
  · exact h.plainWrite fun h => h.onSync
  · exact h.plainWrite fun h => h.onSync
  · exact h.plainWrite fun h => h.onSync
  · exact h.handSet
  · exact .ite h.tokenWord h.accepted
  · exact h.ignored

theorem ctxLogged (h : Canonical d) {org : Origin} {c o : Nat} {old new : Word} {put : CtxRegs → CtxRegs} :
    Canonical (d.ctxLogged org c o old new put) :=
  h.loggedWrite fun h => h.onRegs

theorem rangeWrite (h : Canonical d) {org : Origin} {c o : Nat} {base count old new : Word} {put : CtxRegs → CtxRegs} :
    Canonical (d.rangeWrite org c o base count old new put) :=
  h.pfOnly fun h => .ite h.refuse (h.putLogged fun h => h.onRegs)

theorem baseWrite (h : Canonical d) {org : Origin} {c r k : Nat} {v : Word} : Canonical (d.baseWrite org c r k v) := by
  unfold Dev.baseWrite
  exact h.ctxWrite fun h => .ite h.refuse (h.putLogged fun h => h.onRing)

theorem writeRing (h : Canonical d) {org : Origin} {c r k : Nat} {v : Word} : Canonical (d.writeRing org c r k v) := by
  unfold Dev.writeRing
  split
  · exact h.ctxWrite fun h => h.ringCfgWrite
  · exact h.ctxWrite fun h => h.putLogged fun h => h.onRing
  · exact .ite h.baseWrite h.ignored

theorem writeCtx (h : Canonical d) {org : Origin} {c o : Nat} {v : Word} : Canonical (d.writeCtx org c o v) := by
  unfold Dev.writeCtx
  dsimp only
  split
  · exact h.enableReg
  · exact h.ctxLogged
  · exact h.ctxLogged
  · exact h.ctxLogged
  · exact h.ctxLogged
  · exact h.ctxLogged
  · exact h.rangeWrite
  · exact h.rangeWrite
  · exact h.ctxWrite fun h => (Canonical.ite h.onRegs h).accepted
  · exact h.ctxWrite fun h => h.abortReg.accepted
  · exact h.clearWrite fun h => h.onRegs
  · exact h.anchorWrite
  · split
    · exact h.plainWrite fun h => h.onRegs
    · exact .ite h.writeRing h.ignored

theorem writeReg (h : Canonical d) {org : Origin} {ofs : Nat} {v : Word} : Canonical (d.writeReg org ofs v) := by
  unfold Dev.writeReg
  split
  · exact h.writeCtx
  · split
    · exact h.writeGlb
    · exact h.writeMbx
    · exact h.writeCol
    · exact h.writePwr
    · exact h.writeErr
    · exact h.writeMem
    · exact h.writeMem
    · exact h.writeMem
    · exact h.writeLnk
    · exact h.writeDbg
    · split
      · exact h.writeRte
      · exact h.ignored

theorem badWrite (h : Canonical d) {org : Origin} {ofs : Nat} : Canonical (d.badWrite org ofs) := h.written fun h => h.refuse

theorem writeWide (h : Canonical d) {org : Origin} {ofs : Nat} {v : Dword} :
    Canonical (d.writeWide org ofs v) :=
  .ite h.badWrite (.ite (h.written fun h => h.logRefused.refuse) h.colReserve.writeReg.colRelease.writeReg)

theorem standardWrite (h : Canonical d) {org : Origin} {ofs : Nat} {v : Word} : Canonical (d.standardWrite org ofs v) := by
  unfold Dev.standardWrite
  split
  · exact .ite h.pcieWrite.drainRings.finishRuns h
  · exact h

theorem debugWrite (h : Canonical d) {mem : DebugMem} {a : Nat} {b : Bytes} : Canonical (d.debugWrite mem a b) := by
  obtain ⟨hg, hgm, hc, hcm, hb, hm, hbad, hk⟩ := (Memory.wf_iff d).1 h.wf
  unfold Dev.debugWrite
  split
  · next c =>
    obtain ⟨hbytes, hmarks⟩ := Memory.wf_core d c.val h.wf
    exact ⟨Memory.wf_onCore d _ _ h.wf ⟨Table.wf_setRange _ _ _ _ hbytes, hmarks⟩⟩
  · exact ⟨Memory.wf_onMem d _ h.wf ⟨Table.wf_setRange _ _ _ _ hg, hgm, hc, hcm⟩⟩
  · exact ⟨Memory.wf_onMem d _ h.wf ⟨hg, hgm, Table.wf_setRange _ _ _ _ hc, hcm⟩⟩
  · exact ⟨(Memory.wf_iff _).2 ⟨hg, hgm, hc, hcm, Table.wf_setRange _ _ _ _ hb, hm, hbad, hk⟩⟩
  · exact h.onSync

theorem jtagDo (h : Canonical d) {x : JtagReq} : Canonical (d.jtagDo x) := by
  unfold Dev.jtagDo
  split
  · exact h.emit
  · exact h.emit
  · exact .ite h.readBar0.emit h.emit
  · exact .ite h.writeReg.emit h.emit
  · exact .ite h.emit.tookFree h.emit
  · exact .ite h.emit.tookFree h.emit
  · exact .ite h.emit h.emit
  · exact .ite h.debugWrite.emit h.emit

theorem winLocal (h : Canonical d) {n c va : Nat} {acc : WinAccess} : Canonical (d.winLocal n c va acc) := by
  unfold Dev.winLocal
  dsimp only
  split
  · exact h.winFails
  · split
    · split
      · exact h.memPut.winFails
      · exact h.memPut
    · split
      · exact h.memGet.winFails
      · exact h.memGet.emit

theorem window (h : Canonical d) {offset : Nat} {acc : WinAccess} : Canonical (d.window offset acc) := by
  unfold Dev.window
  split
  · exact h
  · dsimp only
    split
    · exact h.winFails
    · split
      · exact h.winLocal
      · split
        · exact h.boardOut
        · exact h.boardOut.winFails

end Canonical

end Sys2Proof.Machine
end

section
/-! PROOFS. The canonical form of the memories (R247): the rows of the table, and the statement that memory keeps its one form. -/

namespace Sys2Proof.Machine

set_option Elab.async false

namespace Canonical

open Dev


/-- A row that takes no memory out of its canonical form. -/
def Kept (f : State → Answer) : Prop := ∀ s t, Canonical s.dev → f s = .next t → Canonical t.dev

theorem kept {f : Dev → Dev} (hf : ∀ {d}, Canonical d → Canonical (f d)) : Kept fun s => s.on f := by
  intro s t h e
  cases e
  exact hf h

theorem execNop {core : CoreId} : Kept (execNop core) := kept fun h => h.live fun h => h.doIf
theorem execHalt {core : CoreId} : Kept (execHalt core) := kept fun h => h.live fun h => h.doIf
theorem execPhase {core : CoreId} : Kept (execPhase core) := kept fun h => h.live fun h => (h.given fun h => h.keepStandOff).doIf
theorem execBar {core : CoreId} : Kept (execBar core) := kept fun h => h.live fun h => h.barIssue
theorem execMxm {core : CoreId} : Kept (execMxm core) := kept fun h => h.live fun h => h.issueIf
theorem execDist {core : CoreId} : Kept (execDist core) := kept fun h => h.live fun h => h.issueIf
theorem execLdw {core : CoreId} {found : List Found} : Kept (execLdw core found) := kept fun h => h.live fun h => h.found.issueIf
theorem execVec {core : CoreId} {found : List Found} : Kept (execVec core found) := kept fun h => h.live fun h => h.found.issueIf
theorem execCvt {core : CoreId} {found : List Found} : Kept (execCvt core found) := kept fun h => h.live fun h => h.found.issueIf
theorem execMov {core : CoreId} {found : List Found} : Kept (execMov core found) := kept fun h => h.live fun h => h.found.issueIf
theorem execFsc {core : CoreId} : Kept (execFsc core) := kept fun h => h.live fun h => h.issueIf

theorem execFusedStageIteration {core : CoreId} {run : Fin 4} {stage : Fin 8} {gap : Nat} {bubbles : List Nat} {found : List Found} :
    Kept (execFusedStageIteration core run stage gap bubbles found) :=
    kept fun h => h.live fun h => h.found.stageIteration.coresGo

theorem execTopkCmem {core : CoreId} {found : List Found} : Kept (execTopkCmem core found) := kept fun h => h.live fun h => h.found.issueIf
theorem execTopkScan {core : CoreId} {found : List Found} : Kept (execTopkScan core found) := kept fun h => h.live fun h => h.found.issueIf

theorem execTopkMerge {core : CoreId} {found : List Found} : Kept (execTopkMerge core found) :=
    kept fun h => h.live fun h => h.found.issueIf

theorem execSend {core : CoreId} {found : List Found} : Kept (execSend core found) := kept fun h => h.live fun h => h.found.issueIf
theorem execRecv {core : CoreId} : Kept (execRecv core) := kept fun h => h.live fun h => h.issueIf
theorem execWriteFill {core : CoreId} : Kept (execWriteFill core) := kept fun h => h.live fun h => h.feIssue
theorem execReadEmpty {core : CoreId} : Kept (execReadEmpty core) := kept fun h => h.live fun h => h.feIssue
theorem execReadPeek {core : CoreId} : Kept (execReadPeek core) := kept fun h => h.live fun h => h.feIssue
theorem execFetchAddFull {core : CoreId} : Kept (execFetchAddFull core) := kept fun h => h.live fun h => h.feIssue
theorem execClear {core : CoreId} : Kept (execClear core) := kept fun h => h.live fun h => h.feIssue
theorem execWriteForce {core : CoreId} : Kept (execWriteForce core) := kept fun h => h.live fun h => h.feIssue

theorem execHeldOpRepresent {leaf : LeafId} {found : List Found} : Kept (execHeldOpRepresent leaf found) :=
    kept fun h => h.live fun h => h.found.represent.coresGo

theorem execInstructionComplete {core : CoreId} {unit : CoreUnit} {found : List Found} : Kept (execInstructionComplete core unit found) :=
    kept fun h => h.live fun h => h.found.complete

theorem execMxmLoadBegin {core : CoreId} : Kept (execMxmLoadBegin core) := kept fun h => h.live fun h => h.loadBegin.coresGo

theorem execBlockStreamBegin {core : CoreId} {gap : Nat} {bubbles : List Nat} {found : List Found} :
    Kept (execBlockStreamBegin core gap bubbles found) :=
    kept fun h => h.live fun h => h.found.streamBegin

theorem execRowDrain {core : CoreId} {array : Fin 4} : Kept (execRowDrain core array) := kept fun h => h.live fun h => h.drainNext

theorem execKeepwarmTimeout {core : CoreId} {slots : Nat} : Kept (execKeepwarmTimeout core slots) :=
    kept fun h => h.live fun h => h.keepTimeout

theorem execKeepwarmStepDown {core : CoreId} : Kept (execKeepwarmStepDown core) := kept fun h => h.live fun h => h.keepStep
theorem execLagExpiry {src : BitVec 12} {tag : Half} : Kept (execLagExpiry src tag) := kept fun h => h.live fun h => h.lagExpire.coresGo

theorem execOppSwitchWindow : Kept execOppSwitchWindow := by
  refine kept fun h => h.live fun h => ?_
  split
  · exact .ite h (.ite h.oppDrop h.reach.oppDone)
  · exact h

theorem execOppWindowResume {pausedNs : Nat} : Kept (execOppWindowResume pausedNs) := by
  refine kept fun h => h.live fun h => ?_
  split
  · exact .ite h.onPwr h
  · exact h

theorem execOppChangeAbandon : Kept execOppChangeAbandon := by
  refine kept fun h => h.live fun h => ?_
  split
  · exact .ite h.reach.oppDrop h
  · exact h

theorem execDroopCrossing {core : CoreId} {level : Fin 4} : Kept (execDroopCrossing core level) := kept fun h => h.live fun h => h.droop
theorem execStretchDecay {core : CoreId} : Kept (execStretchDecay core) := kept fun h => h.live fun h => h.onPwr

theorem execPowerSample {inMv10 inMa10 inW : Nat} {rails : List RailSample} : Kept (execPowerSample inMv10 inMa10 inW rails) := by
  refine kept fun {d} h => h.live fun {d0} h => ?_
  dsimp only
  refine given (learn ?_) fun h => h.limiterStep
  exact (h.reach (t := d0.pwr.sampleAt + 50000)).same

theorem execThermalSample {readings : List Nat} : Kept (execThermalSample readings) := kept fun h => h.live fun h => h.readHeat

theorem execThermalStep : Kept execThermalStep := by
  refine kept fun {d} h => h.live fun {d} h => ?_
  dsimp only
  refine .ite h (thermAlert (logSafety ?_))
  split
  · next t _ => exact (h.reach (t := t + 1000000000)).same
  · exact h.same

theorem execThermalStepUndo : Kept execThermalStepUndo := by
  refine kept fun {d} h => h.live fun {d} h => ?_
  dsimp only
  split
  · next t _ => exact .ite h (thermAlert (log (same (h.reach (t := t + 10000000000)))))
  · exact h

theorem execThermalStop : Kept execThermalStop := by
  refine kept fun h => h.live fun h => ?_
  split
  · exact h.stopStation
  · split
    · exact .ite h.reach.stopStation h
    · exact h

theorem execBoostAccounting : Kept execBoostAccounting := kept fun h => h.live fun h => .ite h.onPwr h.accountBoost.judgeBoost
theorem execBoostFlashUpdate : Kept execBoostFlashUpdate := kept fun h => h.live fun h => .ite h h.same
theorem execCoolantFaultLow : Kept execCoolantFaultLow := kept fun h => .ite h h.same
theorem execCoolantFaultHigh : Kept execCoolantFaultHigh := kept fun h => .ite h h.same

theorem execCoolantStop : Kept execCoolantStop := by
  refine kept fun h => h.live fun h => ?_
  split
  · exact .ite h.reach.stopStation h
  · exact h

theorem execIdleEntry : Kept execIdleEntry := kept fun h => h.live fun h => .ite h h.enterIdle
theorem execIdleWake : Kept execIdleWake := kept fun h => h.live fun h => h.awake
theorem execUnannouncedWake : Kept execUnannouncedWake := kept fun h => h.live fun h => h.rouse

theorem execSignatureArrival {port : PortId} {packet : Bytes} : Kept (execSignatureArrival port packet) :=
    kept fun h => h.live fun h => h.rouseAt.sigArrive

theorem execActivationMessage {port : PortId} {packet : Bytes} : Kept (execActivationMessage port packet) :=
    kept fun h => h.live fun h => h.rouseAt.transferPacket.coresGo

theorem execShortlistPacket {port : PortId} {packet : Bytes} : Kept (execShortlistPacket port packet) :=
    kept fun h => h.live fun h => h.rouseAt.transferPacket.coresGo

theorem execBoardStore {port : PortId} {packet : Bytes} : Kept (execBoardStore port packet) :=
    kept fun h => h.live fun h => h.rouseAt.boardStoreIn.coresGo

theorem execBoardLoadRequest {port : PortId} {packet : Bytes} : Kept (execBoardLoadRequest port packet) :=
    kept fun h => h.live fun h => h.rouseAt.boardLoadIn

theorem execBoardLoadResponse {port : PortId} {packet : Bytes} : Kept (execBoardLoadResponse port packet) :=
    kept fun h => h.live fun h => h.rouseAt.boardResponseIn.coresGo

theorem execAcknowledgement {port : PortId} {packet : Bytes} : Kept (execAcknowledgement port packet) :=
    kept fun h => h.live fun h => h.rouseAt.ackArrive.coresGo

theorem execSyncOpArrival {arrival : SyncArrival} {found : List Found} : Kept (execSyncOpArrival arrival found) := by
  refine kept fun h => h.live fun h => ?_
  split
  · exact h.found.spineArrive.coresGo
  · exact h.rouseAt.found.boardStoreIn.coresGo

theorem execSignaturePlacement : Kept execSignaturePlacement := kept fun h => h.live fun h => h.placeNext
theorem execInjectionBegin {found : List Found} : Kept (execInjectionBegin found) := kept fun h => h.live fun h => h.found.inject
theorem execSignatureBuildDone {leaf : LeafId} : Kept (execSignatureBuildDone leaf) := kept fun h => h.live fun h => h.buildDone
theorem execPhaseBoundary : Kept execPhaseBoundary := kept fun h => h.live fun h => h.given fun h => h.boundary
theorem execRunStart : Kept execRunStart := kept fun h => h.live fun h => h.runStart

theorem execRun {ctx : CtxId} : Kept (execRun ctx) := by
  refine kept fun h => h.live fun h => ?_
  split
  · exact .ite h.tryRun h
  · exact h

theorem execControlStart {port : PortId} {packet : Bytes} : Kept (execControlStart port packet) :=
    kept fun h => h.live fun h => h.rouseAt.controlStart

theorem execControlAbort {port : PortId} {packet : Bytes} : Kept (execControlAbort port packet) :=
    kept fun h => h.live fun h => h.rouseAt.controlAbort

theorem execItem {ctx : CtxId} {input : HostRead} : Kept (execItem ctx input) := kept fun h => h.live fun h => h.itemInput
theorem execItemResultCopy {found : List Found} : Kept (execItemResultCopy found) := kept fun h => h.live fun h => h.found.resultCopy

theorem execBindLoad {ctx : CtxId} {container : HostRead} : Kept (execBindLoad ctx container) := by
  refine kept fun h => h.live fun h => ?_
  split
  · exact .ite h.bindLoad h
  · exact h

theorem execBindSwitch {ctx : CtxId} : Kept (execBindSwitch ctx) := by
  refine kept fun h => h.live fun h => ?_
  split
  · exact .ite h.bindSwitch h
  · exact h

theorem execSqTailDoorbell {fn : CtxId} {offset size : Nat} {value : Dword} : Kept (execSqTailDoorbell fn offset size value) :=
    kept fun h => h.live fun h => h.doorbell

theorem execCqHeadDoorbell {fn : CtxId} {offset size : Nat} {value : Dword} : Kept (execCqHeadDoorbell fn offset size value) :=
    kept fun h => h.live fun h => h.doorbell

theorem execDescriptorFetch {ctx : CtxId} {ring : RingId} {resp : HostRead} : Kept (execDescriptorFetch ctx ring resp) :=
    kept fun h => h.live fun h => h.fetch

theorem execDescriptorAccept {ctx : CtxId} : Kept (execDescriptorAccept ctx) := kept fun h => h.live fun h => h.acceptNext
theorem execAbort {ctx : CtxId} {ring : RingId} : Kept (execAbort ctx ring) := kept fun h => h.live fun h => h.abortRing

theorem execIrqModerationTimeout {ctx : CtxId} {ring : RingId} : Kept (execIrqModerationTimeout ctx ring) :=
    kept fun h => h.live fun h => h.moderationTime

theorem execPassStart {mb : Fin 8} : Kept (execPassStart mb) := kept fun h => h.live fun h => h.passStart

theorem execEditionLoad {ctx : CtxId} {manifest image : HostRead} : Kept (execEditionLoad ctx manifest image) := by
  refine kept fun h => h.live fun h => ?_
  split
  · exact .ite h.editionLoad h
  · exact h

theorem execEditionUnload {ctx : CtxId} : Kept (execEditionUnload ctx) := by
  refine kept fun h => h.live fun h => ?_
  split
  · exact .ite h.editionUnload h
  · exact h

theorem execDigestInstall {ctx : CtxId} {entries : HostRead} : Kept (execDigestInstall ctx entries) := by
  refine kept fun h => h.live fun h => ?_
  split
  · exact h.digestInstall
  · exact h

theorem execDigestRemove {ctx : CtxId} : Kept (execDigestRemove ctx) := by
  refine kept fun h => h.live fun h => ?_
  split
  · exact h.digestRemove
  · exact h

theorem execBindPassStart {ctx : CtxId} : Kept (execBindPassStart ctx) := kept fun h => h.live fun h => .ite h.passBegin h

theorem execScrubSweepStart {ctx : CtxId} {found : List Found} : Kept (execScrubSweepStart ctx found) :=
    kept fun h => h.live fun h => .ite (h.given fun h => h.awake).found.scrubSweep (h.given fun h => h.awake)

theorem execBindPassEnd {ctx : CtxId} : Kept (execBindPassEnd ctx) := kept fun h => h.live fun h => .ite h.passFinish h

theorem execStage {ctx : CtxId} {manifest image : HostRead} : Kept (execStage ctx manifest image) := by
  refine kept fun h => h.live fun h => ?_
  split
  · exact .ite h.kettleStage h
  · exact h

theorem execClose {ctx : CtxId} : Kept (execClose ctx) := by
  refine kept fun h => h.live fun h => ?_
  split
  · exact h.closing
  · exact h

theorem execBarrierClosed {ctx : CtxId} : Kept (execBarrierClosed ctx) := kept fun h => h.live fun h => h.barrierShuts

theorem execCommit {ctx : CtxId} : Kept (execCommit ctx) := by
  refine kept fun h => h.live fun h => ?_
  split
  · exact .ite h.commitStart h
  · exact h

theorem execCommitWrite {ctx : CtxId} : Kept (execCommitWrite ctx) := by
  refine kept fun h => h.live fun h => ?_
  split
  · split
    · exact h
    · split
      · exact h.spend.commitGo
      · exact h.commitRefused
  · exact h

theorem execKettleOpen {ctx : CtxId} : Kept (execKettleOpen ctx) := by
  refine kept fun h => h.live fun h => ?_
  split
  · exact h.kettleOpens
  · exact h

theorem execReplace {ctx : CtxId} : Kept (execReplace ctx) := kept fun h => h.live fun h => .ite h.replaceGo h

theorem execMap {ctx : CtxId} : Kept (execMap ctx) := by
  refine kept fun h => h.live fun h => ?_
  split
  · exact .ite h.mapDesc h
  · exact h

theorem execMapFramesReady : Kept execMapFramesReady := kept fun h => h.live fun h => .ite h.mapReady h

theorem execUnmap {ctx : CtxId} : Kept (execUnmap ctx) := by
  refine kept fun h => h.live fun h => ?_
  split
  · exact .ite h.unmapDesc h
  · exact h

theorem execFrameClear {cxl : Bool} {frame : Nat} : Kept (execFrameClear cxl frame) := kept fun h => h.live fun h => .ite h.clearFrame h

theorem execCopy {ctx : CtxId} {data : HostRead} {found : List Found} : Kept (execCopy ctx data found) := by
  refine kept fun h => h.live fun h => ?_
  split
  · exact .ite h.found.copyDesc h
  · exact h

theorem execPatrol {frame : Nat} {found : List Found} : Kept (execPatrol frame found) := kept fun h => h.live fun h => .ite h.found h
theorem execFrameRetirement {frame : Nat} : Kept (execFrameRetirement frame) := kept fun h => h.live fun h => .ite h.retire h

theorem execCxlTimeout {device : Fin 4} {ctx : CtxId} {va : Nat} {write : Bool} : Kept (execCxlTimeout device ctx va write) :=
    kept fun h => h.live fun h => h.cxlTimedOut

theorem execCxlLinkDown {device : Fin 4} : Kept (execCxlLinkDown device) := kept fun h => h.live fun h => .ite h.cxlLost h

theorem execCxlEnumerate {org : Origin} {value : Word} : Kept (execCxlEnumerate org value) :=
    kept fun h => h.live fun h => h.written fun h => h.cxlCfgWrite

theorem execCxlReadyTimeout : Kept execCxlReadyTimeout := kept fun h => h.live fun h => h.onMem

theorem execCxlEventRecord {device : Fin 4} {record : Bytes} : Kept (execCxlEventRecord device record) :=
    kept fun h => h.live fun h => .ite h h.log

theorem execCxlMediaReady {device : Fin 4} {capacityMib : Nat} : Kept (execCxlMediaReady device capacityMib) :=
    kept fun h => h.live fun h => h.cxlReady

theorem execContextEnable {org : Origin} {ctx : CtxId} {value : Word} : Kept (execContextEnable org ctx value) :=
    kept fun h => h.live fun h => h.enableReg

theorem execContextDisable {org : Origin} {ctx : CtxId} {value : Word} : Kept (execContextDisable org ctx value) :=
    kept fun h => h.live fun h => h.enableReg

theorem execRingPairEnable {org : Origin} {ctx : CtxId} {ring : RingId} {value : Word} : Kept (execRingPairEnable org ctx ring value) :=
    kept fun h => h.live fun h => h.ctxWrite fun h => h.ringCfgWrite

theorem execRingPairDisable {org : Origin} {ctx : CtxId} {ring : RingId} {value : Word} : Kept (execRingPairDisable org ctx ring value) :=
    kept fun h => h.live fun h => h.ctxWrite fun h => h.ringCfgWrite

theorem execCtxAbort {org : Origin} {ctx : CtxId} {value : Word} : Kept (execCtxAbort org ctx value) :=
    kept fun h => h.live fun h => h.ctxWrite fun h => h.abortReg.accepted

theorem execFunctionLevelReset {fn : CtxId} : Kept (execFunctionLevelReset fn) := kept fun h => h.live fun h => h.flr

theorem execPerstN {level : Bool} : Kept (execPerstN level) :=
    kept fun h => .ite (h.same.live fun h => h.drainRings.finishRuns) (.ite (h.same.live fun h => h.linkReset) h.same)

theorem execHotReset : Kept execHotReset := kept fun h => h.live fun h => h.linkReset

theorem execCordStateAdvance {port : PortId} {cord : CordId} {lanes gbps : Nat} : Kept (execCordStateAdvance port cord lanes gbps) :=
    kept fun h => h.live fun h => h.cordAdvance

theorem execCordTrainingTimeout {port : PortId} {cord : CordId} : Kept (execCordTrainingTimeout port cord) :=
    kept fun h => h.live fun h => h.cordLate

theorem execCordDrop {port : PortId} {cord : CordId} : Kept (execCordDrop port cord) := kept fun h => h.live fun h => h.dropCord
theorem execCordRetrain {port : PortId} {cord : CordId} : Kept (execCordRetrain port cord) := kept fun h => h.live fun h => h.retrain
theorem execCordSet {port : PortId} {msg : Bytes} : Kept (execCordSet port msg) := kept fun h => h.live fun h => h.cordSetIn
theorem execCordPower {port : PortId} {msg : Bytes} : Kept (execCordPower port msg) := kept fun h => h.live fun h => h.cordPowerIn
theorem execCordWake {port : PortId} : Kept (execCordWake port) := kept fun h => h.live fun h => h.wakeCords
theorem execStopping {port : PortId} {msg : Bytes} : Kept (execStopping port msg) := kept fun h => h.live fun h => h.stoppingIn
theorem execPortLost {port : PortId} : Kept (execPortLost port) := kept fun h => h.live fun h => h.portLoses
theorem execHelloSend {port : PortId} : Kept (execHelloSend port) := kept fun h => h.live fun h => .ite h h.linkOut
theorem execHelloReceive {port : PortId} {msg : Bytes} : Kept (execHelloReceive port msg) := kept fun h => h.live fun h => h.helloIn

theorem execHelloTimeout {port : PortId} : Kept (execHelloTimeout port) := by
  refine kept fun h => h.live fun h => ?_
  split
  · exact .ite h.reach.lostPort h
  · exact h

theorem execPortAbsent {port : PortId} : Kept (execPortAbsent port) := kept fun h => h.live fun h => h.absent
theorem execModuleFlag {port : PortId} {cord : CordId} : Kept (execModuleFlag port cord) := kept fun h => h.live fun h => h.moduleFlag
theorem execKeyCert {port : PortId} {msg : Bytes} : Kept (execKeyCert port msg) := kept fun h => h.live fun h => h.certIn
theorem execKeyShare {port : PortId} {msg : Bytes} : Kept (execKeyShare port msg) := kept fun h => h.live fun h => h.shareIn
theorem execKeySwitch {port : PortId} {msg : Bytes} : Kept (execKeySwitch port msg) := kept fun h => h.live fun h => h.switchIn
theorem execKeyEpochRenewal {port : PortId} : Kept (execKeyEpochRenewal port) := kept fun h => h.live fun h => .ite h.sendShare h
theorem execKeyAgreementRetry {port : PortId} : Kept (execKeyAgreementRetry port) := kept fun h => h.live fun h => .ite h h.reach.agreeAgain

theorem execPlanApply {org : Origin} {value : Word} : Kept (execPlanApply org value) :=
    kept fun h => h.live fun h => h.written fun h => h.planWrite

theorem execGatherForm {ctx : CtxId} {record : HostRead} : Kept (execGatherForm ctx record) := by
  refine kept fun h => h.live fun h => ?_
  split
  · exact h.gatherForm
  · exact h

theorem execFormationMessage {port : PortId} {packet : Bytes} : Kept (execFormationMessage port packet) :=
    kept fun h => h.live fun h => h.rouseAt.formationIn

theorem execGatherFormTimeout : Kept execGatherFormTimeout := by
  refine kept fun h => h.live fun h => ?_
  split
  · exact .ite h.reach h.reach.formFails
  · exact h

theorem execGatherRelease {ctx : CtxId} : Kept (execGatherRelease ctx) := by
  refine kept fun h => h.live fun h => ?_
  split
  · exact .ite h.gatherRelease h
  · exact h

theorem execTransit {port : PortId} {msg : Bytes} : Kept (execTransit port msg) := kept fun h => h.live fun h => h.transitIn
theorem execTimeSyncExchange : Kept execTimeSyncExchange := kept fun h => h.live fun h => .ite h.same (.ite h.linkOut h)
theorem execTimeSync {port : PortId} {t1 t2 t3 t4 : Nat} : Kept (execTimeSync port t1 t2 t3 t4) := kept fun h => h.live fun h => h.timeSync
theorem execTimeSteer {port : PortId} {ppm : Int} {at_ : Nat} : Kept (execTimeSteer port ppm at_) := kept fun h => h.live fun h => h.steerIn

theorem execTimeSteerApply : Kept execTimeSteerApply := by
  refine kept fun {d} h => h.live fun {d} h => ?_
  split
  · next at_ _ => exact (h.reach (t := at_)).same
  · exact h

theorem execFlitReceive {port : PortId} {flit : FlitIn} : Kept (execFlitReceive port flit) := kept fun h => h.live fun h => h.flitIn
theorem execNakReceive {port : PortId} {number : Half} : Kept (execNakReceive port number) := kept fun h => h.live fun h => .ite h h.nakIn
theorem execAckTimer {port : PortId} : Kept (execAckTimer port) := kept fun h => h.live fun h => .ite h h.sendAcks
theorem execTagGroupClose {port : PortId} : Kept (execTagGroupClose port) := kept fun h => h.live fun h => h.closeGroup
theorem execTagFlit {port : PortId} {flit : Bytes} : Kept (execTagFlit port flit) := kept fun h => h.live fun h => .ite h h.flitIn
theorem execCoreFault {core : CoreId} {kind : Fin 8} : Kept (execCoreFault core kind) := kept fun h => h.live fun h => h.coreFault

theorem execCoreRetestRequest {org : Origin} {value : Word} : Kept (execCoreRetestRequest org value) :=
    kept fun h => h.live fun h => h.retestWrite

theorem execCoreRetest {core : CoreId} {passed : Bool} : Kept (execCoreRetest core passed) := kept fun h => h.live fun h => h.retestEnd

theorem execInternalFault {leaf : LeafId} {unit : Byte} : Kept (execInternalFault leaf unit) :=
    kept fun h => h.live fun h => h.internalError

theorem execLeafTestEnd {passed : Bool} : Kept (execLeafTestEnd passed) := kept fun h => h.live fun h => h.leafTested
theorem execStallDetected {index : Nat} : Kept (execStallDetected index) := kept fun h => h.live fun h => h.stallFound

theorem execColophonDrain {ctx : CtxId} : Kept (execColophonDrain ctx) := by
  refine kept fun h => h.live fun h => ?_
  split
  · exact .ite h.drainDesc.cxlDueGo h
  · exact h

theorem execCheckpoint : Kept execCheckpoint := kept fun h => h.live fun h => h.checkpointDue
theorem execSpdmRequest {msg : SpdmMsg} : Kept (execSpdmRequest msg) := kept fun h => h.live fun h => h.spdm

theorem execSetContextKey {session : Nat} {ctx : CtxId} {key : Bytes} : Kept (execSetContextKey session ctx key) :=
    kept fun h => h.live fun h => h.setKey

theorem execIdeKm {session : Nat} {req : IdeReq} : Kept (execIdeKm session req) := kept fun h => h.live fun h => h.ide
theorem execIdeNotSecure : Kept execIdeNotSecure := kept fun h => h.live fun h => .ite h.same h
theorem execUnlockTokenWord {org : Origin} {word : Word} : Kept (execUnlockTokenWord org word) := kept fun h => h.live fun h => h.tokenWord

theorem execUnlockLockoutExpiry : Kept execUnlockLockoutExpiry :=
  kept fun h => h.live fun {d} h => .ite (h.reach (t := d.sec.lockedAt + 60000000000)).same h

theorem execAnchorCommit {org : Origin} {ctx : CtxId} {value : Word} : Kept (execAnchorCommit org ctx value) :=
    kept fun h => h.live fun h => h.anchorWrite

theorem execAnchorRemove {org : Origin} {ctx : CtxId} {value : Word} : Kept (execAnchorRemove org ctx value) :=
    kept fun h => h.live fun h => h.anchorWrite

theorem execPowerUp {modulePos : BitVec 2} {flashReadOk : Bool} : Kept (execPowerUp modulePos flashReadOk) :=
  kept fun h => .ite powerOn h

theorem execGddr7Trained {ok : Bool} : Kept (execGddr7Trained ok) := kept fun h => h.live fun h => h.memoryTrained
theorem execStationReady : Kept execStationReady := kept fun h => h.live fun h => h.ready
theorem execSupplyCollapse : Kept execSupplyCollapse := kept fun _ => withoutPower
theorem execModuleRemoval : Kept execModuleRemoval := kept fun _ => withoutPower
theorem execHotswapOpen : Kept execHotswapOpen := kept fun h => .ite withoutPower h

theorem execHotswapClose {modulePos : BitVec 2} {flashReadOk : Bool} : Kept (execHotswapClose modulePos flashReadOk) :=
  kept fun h => .ite powerOn h

theorem execRefclkLoss : Kept execRefclkLoss := kept fun h => h.same

theorem execReferenceClockReturn : Kept execReferenceClockReturn := by
  refine kept fun {d} h => ?_
  dsimp only
  refine h.same.live fun h => ?_
  split
  · exact h.coldBoot
  · exact h

theorem execFinisherRestartDone {flashReadOk : Bool} : Kept (execFinisherRestartDone flashReadOk) :=
    kept fun h => h.live fun h => h.restartRead

theorem execFinisherWatchdog {dump : Bytes} : Kept (execFinisherWatchdog dump) :=
    kept fun h => h.live fun h => .ite h (Canonical.ite h.onBoot h).restartBegin

theorem execInfo {via : MbxVia} {arg : Half} : Kept (execInfo via arg) := kept fun h => h.live fun h => h.mbxVia
theorem execFwBegin {via : MbxVia} {arg : Half} : Kept (execFwBegin via arg) := kept fun h => h.live fun h => h.mbxVia
theorem execFwEnd {via : MbxVia} {arg : Half} {flashOk : Bool} : Kept (execFwEnd via arg flashOk) := kept fun h => h.live fun h => h.mbxVia
theorem execFwActivate {via : MbxVia} {arg : Half} : Kept (execFwActivate via arg) := kept fun h => h.live fun h => h.mbxVia
theorem execRestart {via : MbxVia} {arg : Half} : Kept (execRestart via arg) := kept fun h => h.live fun h => h.mbxVia
theorem execLogRead {via : MbxVia} {arg : Half} : Kept (execLogRead via arg) := kept fun h => h.live fun h => h.mbxVia
theorem execDumpRead {via : MbxVia} {arg : Half} : Kept (execDumpRead via arg) := kept fun h => h.live fun h => h.mbxVia
theorem execTelemetry {via : MbxVia} {arg : Half} : Kept (execTelemetry via arg) := kept fun h => h.live fun h => h.mbxVia
theorem execShutdown {via : MbxVia} {arg : Half} : Kept (execShutdown via arg) := kept fun h => h.live fun h => h.mbxVia
theorem execShutdownFinish : Kept execShutdownFinish := kept fun h => h.live fun h => h.shutdownEnd

theorem execMctpMailbox {via : Mctp} {cmd : Byte} {arg : Half} {words : List Word} : Kept (execMctpMailbox via cmd arg words) :=
    kept fun h => h.live fun h => .ite h.freeFlash.mbxMctp h.mbxMctp

theorem execMbxDataWrite {org : Origin} {word : Word} : Kept (execMbxDataWrite org word) :=
    kept fun h => h.live fun h => h.pfOnly fun h => h.mbxPush.accepted

theorem execMbxDataRead {org : Origin} : Kept (execMbxDataRead org) := kept fun h => h.live fun h => .ite h.mbxPop.emit h.emit
theorem execSetEndpointId {medium : Medium} {eid : Byte} : Kept (execSetEndpointId medium eid) := kept fun h => h.live fun h => h.setEid
theorem execRequestUpdate : Kept execRequestUpdate := kept fun h => h.live fun h => h.pldmBegin

theorem execRequestFirmwareData {offset : Nat} {data : Bytes} : Kept (execRequestFirmwareData offset data) :=
    kept fun h => h.live fun h => h.pldmData

theorem execActivateFirmware : Kept execActivateFirmware := kept fun h => h.live fun h => h.pldmActivate

theorem execSetEventReceiver {medium : Medium} {eid : Byte} : Kept (execSetEventReceiver medium eid) :=
    kept fun h => h.live fun h => h.serveOn fun h => h.same.say

theorem execSensorRefresh : Kept execSensorRefresh := kept fun h => h.live fun h => h.refresh

theorem execLoReadLatch {org : Origin} {offset : Nat} {wide : Bool} : Kept (execLoReadLatch org offset wide) :=
    kept fun h => h.live fun h => h.readOut

theorem execHiReadLatched {org : Origin} {offset : Nat} : Kept (execHiReadLatched org offset) := kept fun h => h.live fun h => h.readOut
theorem execStallListRead {org : Origin} : Kept (execStallListRead org) := kept fun h => h.live fun h => h.readOut
theorem execRegRead {req : MgmtRead} : Kept (execRegRead req) := kept fun h => h.live fun h => .ite h h.rouse.readBar0.mgmtReply
theorem execResetContexts {org : Origin} {value : Word} : Kept (execResetContexts org value) := kept fun h => h.live fun h => h.globReset
theorem execResetCxl {org : Origin} {value : Word} : Kept (execResetCxl org value) := kept fun h => h.live fun h => h.globReset
theorem execResetPorts {org : Origin} {value : Word} : Kept (execResetPorts org value) := kept fun h => h.live fun h => h.globReset
theorem execPwrStopResume {org : Origin} {value : Word} : Kept (execPwrStopResume org value) := kept fun h => h.live fun h => h.stopWrite
theorem execDbgSyncSetForce {org : Origin} {value : Word} : Kept (execDbgSyncSetForce org value) := kept fun h => h.live fun h => h.handSet
theorem execDbgSyncSetClear {org : Origin} {value : Word} : Kept (execDbgSyncSetClear org value) := kept fun h => h.live fun h => h.handSet

theorem execLnkStagePeakReset {org : Origin} {leaf : LeafId} {value : Word} : Kept (execLnkStagePeakReset org leaf value) :=
    kept fun h => h.live fun h => h.peakReset

theorem execBar0BadAccess {org : Origin} {write : Bool} {offset size : Nat} : Kept (execBar0BadAccess org write offset size) :=
    kept fun h => h.live fun h => .ite h (.ite h.badWrite h.emit)

theorem execRegisterWrite {org : Origin} {offset : Nat} {wide : Bool} {value : Dword} : Kept (execRegisterWrite org offset wide value) :=
    kept fun h => h.live fun h => .ite h.standardWrite (.ite h.writeWide h.writeReg)

theorem execRegWrite {via : Mctp} {offset : Nat} {value : Word} : Kept (execRegWrite via offset value) :=
    kept fun h => h.live fun h => h.writeReg

theorem execJtagInstruction {req : JtagReq} : Kept (execJtagInstruction req) := kept fun h => h.live fun h => h.jtagDo

theorem execBoardWindowAccess {offset : Nat} {acc : WinAccess} : Kept (execBoardWindowAccess offset acc) :=
    kept fun h => h.live fun h => h.window

theorem exec (c : Instr) : Kept (exec c) := by
  cases c with
  | nop => exact execNop
  | halt => exact execHalt
  | phase => exact execPhase
  | bar => exact execBar
  | mxm => exact execMxm
  | dist => exact execDist
  | ldw => exact execLdw
  | vec => exact execVec
  | cvt => exact execCvt
  | mov => exact execMov
  | fsc => exact execFsc
  | fusedStageIteration => exact execFusedStageIteration
  | topkCmem => exact execTopkCmem
  | topkScan => exact execTopkScan
  | topkMerge => exact execTopkMerge
  | send => exact execSend
  | recv => exact execRecv
  | writeFill => exact execWriteFill
  | readEmpty => exact execReadEmpty
  | readPeek => exact execReadPeek
  | fetchAddFull => exact execFetchAddFull
  | clear => exact execClear
  | writeForce => exact execWriteForce
  | syncOpArrival => exact execSyncOpArrival
  | heldOpRepresent => exact execHeldOpRepresent
  | instructionComplete => exact execInstructionComplete
  | mxmLoadBegin => exact execMxmLoadBegin
  | blockStreamBegin => exact execBlockStreamBegin
  | rowDrain => exact execRowDrain
  | keepwarmTimeout => exact execKeepwarmTimeout
  | keepwarmStepDown => exact execKeepwarmStepDown
  | phaseBoundary => exact execPhaseBoundary
  | runStart => exact execRunStart
  | oppSwitchWindow => exact execOppSwitchWindow
  | oppWindowResume => exact execOppWindowResume
  | oppChangeAbandon => exact execOppChangeAbandon
  | droopCrossing => exact execDroopCrossing
  | stretchDecay => exact execStretchDecay
  | powerSample => exact execPowerSample
  | thermalSample => exact execThermalSample
  | thermalStep => exact execThermalStep
  | thermalStepUndo => exact execThermalStepUndo
  | thermalStop => exact execThermalStop
  | boostAccounting => exact execBoostAccounting
  | boostFlashUpdate => exact execBoostFlashUpdate
  | coolantFaultLow => exact execCoolantFaultLow
  | coolantStop => exact execCoolantStop
  | pwrStopResume => exact execPwrStopResume
  | idleEntry => exact execIdleEntry
  | idleWake => exact execIdleWake
  | unannouncedWake => exact execUnannouncedWake
  | sqTailDoorbell => exact execSqTailDoorbell
  | cqHeadDoorbell => exact execCqHeadDoorbell
  | descriptorFetch => exact execDescriptorFetch
  | descriptorAccept => exact execDescriptorAccept
  | item => exact execItem
  | run => exact execRun
  | abort => exact execAbort
  | bindLoad => exact execBindLoad
  | bindSwitch => exact execBindSwitch
  | gatherForm => exact execGatherForm
  | formationMessage => exact execFormationMessage
  | gatherFormTimeout => exact execGatherFormTimeout
  | gatherRelease => exact execGatherRelease
  | editionLoad => exact execEditionLoad
  | editionUnload => exact execEditionUnload
  | digestInstall => exact execDigestInstall
  | digestRemove => exact execDigestRemove
  | bindPassStart => exact execBindPassStart
  | bindPassEnd => exact execBindPassEnd
  | stage => exact execStage
  | close => exact execClose
  | barrierClosed => exact execBarrierClosed
  | commit => exact execCommit
  | commitWrite => exact execCommitWrite
  | kettleOpen => exact execKettleOpen
  | replace => exact execReplace
  | map => exact execMap
  | mapFramesReady => exact execMapFramesReady
  | unmap => exact execUnmap
  | frameClear => exact execFrameClear
  | copy => exact execCopy
  | colophonDrain => exact execColophonDrain
  | itemResultCopy => exact execItemResultCopy
  | irqModerationTimeout => exact execIrqModerationTimeout
  | contextEnable => exact execContextEnable
  | contextDisable => exact execContextDisable
  | ringPairEnable => exact execRingPairEnable
  | ringPairDisable => exact execRingPairDisable
  | ctxAbort => exact execCtxAbort
  | functionLevelReset => exact execFunctionLevelReset
  | perstN => exact execPerstN
  | hotReset => exact execHotReset
  | info => exact execInfo
  | fwBegin => exact execFwBegin
  | fwEnd => exact execFwEnd
  | fwActivate => exact execFwActivate
  | restart => exact execRestart
  | logRead => exact execLogRead
  | dumpRead => exact execDumpRead
  | telemetry => exact execTelemetry
  | shutdown => exact execShutdown
  | shutdownFinish => exact execShutdownFinish
  | mbxDataWrite => exact execMbxDataWrite
  | mbxDataRead => exact execMbxDataRead
  | finisherRestartDone => exact execFinisherRestartDone
  | finisherWatchdog => exact execFinisherWatchdog
  | regRead => exact execRegRead
  | regWrite => exact execRegWrite
  | mctpMailbox => exact execMctpMailbox
  | setEndpointId => exact execSetEndpointId
  | requestFirmwareData => exact execRequestFirmwareData
  | activateFirmware => exact execActivateFirmware
  | setEventReceiver => exact execSetEventReceiver
  | sensorRefresh => exact execSensorRefresh
  | spdmRequest => exact execSpdmRequest
  | setContextKey => exact execSetContextKey
  | ideKm => exact execIdeKm
  | ideNotSecure => exact execIdeNotSecure
  | unlockTokenWord => exact execUnlockTokenWord
  | unlockLockoutExpiry => exact execUnlockLockoutExpiry
  | jtagInstruction => exact execJtagInstruction
  | anchorCommit => exact execAnchorCommit
  | anchorRemove => exact execAnchorRemove
  | planApply => exact execPlanApply
  | cordStateAdvance => exact execCordStateAdvance
  | cordTrainingTimeout => exact execCordTrainingTimeout
  | cordDrop => exact execCordDrop
  | cordRetrain => exact execCordRetrain
  | cordSet => exact execCordSet
  | cordPower => exact execCordPower
  | cordWake => exact execCordWake
  | stopping => exact execStopping
  | portLost => exact execPortLost
  | helloSend => exact execHelloSend
  | helloReceive => exact execHelloReceive
  | helloTimeout => exact execHelloTimeout
  | portAbsent => exact execPortAbsent
  | moduleFlag => exact execModuleFlag
  | keyCert => exact execKeyCert
  | keyShare => exact execKeyShare
  | keySwitch => exact execKeySwitch
  | keyEpochRenewal => exact execKeyEpochRenewal
  | keyAgreementRetry => exact execKeyAgreementRetry
  | tagGroupClose => exact execTagGroupClose
  | tagFlit => exact execTagFlit
  | transit => exact execTransit
  | timeSyncExchange => exact execTimeSyncExchange
  | timeSync => exact execTimeSync
  | timeSteer => exact execTimeSteer
  | timeSteerApply => exact execTimeSteerApply
  | flitReceive => exact execFlitReceive
  | nakReceive => exact execNakReceive
  | ackTimer => exact execAckTimer
  | signatureArrival => exact execSignatureArrival
  | signaturePlacement => exact execSignaturePlacement
  | injectionBegin => exact execInjectionBegin
  | signatureBuildDone => exact execSignatureBuildDone
  | activationMessage => exact execActivationMessage
  | shortlistPacket => exact execShortlistPacket
  | boardStore => exact execBoardStore
  | boardLoadRequest => exact execBoardLoadRequest
  | boardLoadResponse => exact execBoardLoadResponse
  | acknowledgement => exact execAcknowledgement
  | lagExpiry => exact execLagExpiry
  | controlStart => exact execControlStart
  | controlAbort => exact execControlAbort
  | passStart => exact execPassStart
  | scrubSweepStart => exact execScrubSweepStart
  | patrol => exact execPatrol
  | frameRetirement => exact execFrameRetirement
  | cxlTimeout => exact execCxlTimeout
  | cxlLinkDown => exact execCxlLinkDown
  | cxlEnumerate => exact execCxlEnumerate
  | cxlReadyTimeout => exact execCxlReadyTimeout
  | cxlEventRecord device record => exact execCxlEventRecord (device := device) (record := record)
  | stallDetected => exact execStallDetected
  | stallListRead => exact execStallListRead
  | checkpoint => exact execCheckpoint
  | coreFault => exact execCoreFault
  | coreRetestRequest => exact execCoreRetestRequest
  | coreRetest => exact execCoreRetest
  | internalFault => exact execInternalFault
  | leafTestEnd => exact execLeafTestEnd
  | powerUp => exact execPowerUp
  | gddr7Trained => exact execGddr7Trained
  | stationReady => exact execStationReady
  | supplyCollapse => exact execSupplyCollapse
  | moduleRemoval => exact execModuleRemoval
  | hotswapOpen => exact execHotswapOpen
  | hotswapClose => exact execHotswapClose
  | refclkLoss => exact execRefclkLoss
  | resetContexts => exact execResetContexts
  | resetCxl => exact execResetCxl
  | resetPorts => exact execResetPorts
  | dbgSyncSetForce => exact execDbgSyncSetForce
  | dbgSyncSetClear => exact execDbgSyncSetClear
  | lnkStagePeakReset => exact execLnkStagePeakReset
  | loReadLatch => exact execLoReadLatch
  | hiReadLatched => exact execHiReadLatched
  | bar0BadAccess => exact execBar0BadAccess
  | boardWindowAccess => exact execBoardWindowAccess
  | registerWrite => exact execRegisterWrite
  | coolantFaultHigh => exact execCoolantFaultHigh
  | referenceClockReturn => exact execReferenceClockReturn
  | requestUpdate => exact execRequestUpdate
  | cxlMediaReady => exact execCxlMediaReady

theorem step : Kept step := by
  intro s t h e
  rw [Machine.step] at e
  split at e
  · cases e
    exact h.tick
  · next c rest _ => exact exec c { s with pending := rest } t h e

end Canonical

/-- Settles O56: every operation keeps the canonical form, so every row does, and so does every step. -/
theorem memoryKeepsItsOneForm : Obligations.MemoryKeepsItsOneForm := by
  intro s t hs e
  exact (Canonical.step s t ⟨hs⟩ e).wf

end Sys2Proof.Machine
end

section
/-! PROOFS. The scan of a sync word's queue (R264, R265): what the first waiter that can complete is, what a scan of the queue leaves and
what it completes, and the statement about an operation with its scan. -/

namespace Sys2Proof.Machine

/-! ### The first waiter that can complete -/

/-- Where none is found, every waiter must wait. -/
theorem not_ready_of_firstReady_none {v : Dword} {f : Bool} {q : List SyncReq} (h : firstReady v f q = none) :
    ∀ r ∈ q, r.ready v f = false := by
  induction q with
  | nil => simp
  | cons r rs ih =>
    rw [firstReady] at h
    split at h
    · cases h
    · next hr => exact List.forall_mem_cons.2 ⟨by simpa using hr, ih (Option.map_eq_none_iff.1 h)⟩

/-- One that is found stands in the queue between the two parts, and can complete. -/
theorem firstReady_some {v : Dword} {f : Bool} {q a b : List SyncReq} {r : SyncReq} (h : firstReady v f q = some (a, r, b)) :
    q = a ++ r :: b ∧ r.ready v f = true := by
  induction q generalizing a with
  | nil => cases h
  | cons x xs ih =>
    rw [firstReady] at h
    split at h
    · next hr =>
      cases h
      exact ⟨rfl, hr⟩
    · obtain ⟨⟨a', r', b'⟩, hx, e⟩ := Option.map_eq_some_iff.1 h
      cases e
      obtain ⟨rfl, hr⟩ := ih hx
      exact ⟨rfl, hr⟩

/-! ### The scan -/

/-- The state of a word after operations took effect on it, one after another. -/
def opsEffect (ops : List SyncReq) (x : Dword × Bool) : Option (Dword × Bool) :=
  ops.foldlM (fun (x : Dword × Bool) q => syncEffect q.op q.ge q.imm x.1 x.2) x

/-- What a scan leaves of a queue, and the waiters it completes. -/
structure Scanned (v : Dword) (f : Bool) (q : List SyncReq) (z : Dword × Bool × List SyncReq × List SyncReq) : Prop where
  left : z.2.2.1.Sublist q
  parts : (z.2.2.2 ++ z.2.2.1).Perm q
  run : opsEffect z.2.2.2 (v, f) = some (z.1, z.2.1)

/-- A scan that completes nothing. -/
theorem Scanned.refl (v : Dword) (f : Bool) (q : List SyncReq) : Scanned v f q (v, f, q, []) :=
  ⟨List.Sublist.refl q, List.Perm.refl q, rfl⟩

/-- A waiter that completes, and the scan of the queue without it. -/
theorem Scanned.cons {v v' : Dword} {f f' : Bool} {a b : List SyncReq} {r : SyncReq} {z : Dword × Bool × List SyncReq × List SyncReq}
    (he : syncEffect r.op r.ge r.imm v f = some (v', f')) (h : Scanned v' f' (a ++ b) z) :
    Scanned v f (a ++ r :: b) (z.1, z.2.1, z.2.2.1, r :: z.2.2.2) where
  left := h.left.trans ((List.sublist_cons_self r b).append_left a)
  parts := (h.parts.cons r).trans List.perm_middle.symm
  run := by
    rw [opsEffect, List.foldlM_cons, he]
    exact h.run

theorem syncScan_scanned (n : Nat) (v : Dword) (f : Bool) (q : List SyncReq) : Scanned v f q (syncScan n v f q) := by
  induction n generalizing v f q with
  | zero => exact .refl v f q
  | succ n ih =>
    rw [syncScan]
    split
    · exact .refl v f q
    · next a r b hq =>
      obtain ⟨rfl, -⟩ := firstReady_some hq
      split
      · exact .refl ..
      · next v' f' he => exact (ih v' f' (a ++ b)).cons he

/-- A scan with a turn for every waiter ends at a queue in which none can complete. -/
theorem syncScan_left_not_ready (n : Nat) (v : Dword) (f : Bool) (q : List SyncReq) (hn : q.length ≤ n) :
    ∀ x ∈ (syncScan n v f q).2.2.1, x.ready (syncScan n v f q).1 (syncScan n v f q).2.1 = false := by
  induction n generalizing v f q with
  | zero =>
    obtain rfl := List.length_eq_zero_iff.1 (Nat.le_zero.1 hn)
    simp [syncScan]
  | succ n ih =>
    rw [syncScan]
    split
    · next hq => exact not_ready_of_firstReady_none hq
    · next a r b hq =>
      obtain ⟨rfl, hr⟩ := firstReady_some hq
      split
      · next he => simp [SyncReq.ready, he] at hr
      · exact ih _ _ _ (by simp at hn ⊢; omega)

/-! ### An operation and its scan -/

theorem SyncWord.perform_eq_some {w t : SyncWord} {r : SyncReq} {done : List SyncReq} (h : w.perform r = some (t, done)) :
    ∃ v f, syncEffect r.op r.ge r.imm w.val w.full = some (v, f) ∧
      t = { w with val := (syncScan w.q.length v f w.q).1, full := (syncScan w.q.length v f w.q).2.1, bad := false,
                   q := (syncScan w.q.length v f w.q).2.2.1 } ∧
      done = r :: (syncScan w.q.length v f w.q).2.2.2 := by
  rw [SyncWord.perform] at h
  split at h
  · cases h
  · next v f he =>
    cases h
    exact ⟨v, f, he, rfl, rfl⟩

/-- Settles O50: the operation takes effect, and the scan has a turn for every waiter. -/
theorem aScanLeavesOnlyWaitersThatMustWait : Obligations.AScanLeavesOnlyWaitersThatMustWait := by
  intro w t r done h
  obtain ⟨v, f, he, rfl, rfl⟩ := SyncWord.perform_eq_some h
  obtain ⟨hleft, hparts, hrun⟩ := syncScan_scanned w.q.length v f w.q
  refine ⟨rfl, rfl, syncScan_left_not_ready _ v f w.q le_rfl, hleft, hparts, ?_⟩
  rw [List.foldlM_cons, he]
  exact hrun

end Sys2Proof.Machine
end

section
/-! PROOFS. Pages, frames and copies (R249, R250, R253, R255, R293): what each operation of the descriptors and of retirement does where its
conditions hold, and the statement that the memory commands complete. -/

namespace Sys2Proof.Machine

namespace Dev

variable (d : Dev)

/-- A MAP of a free range, for which the tier has frames, is logged: it is done where they are clear, and else it waits for them. -/
theorem mapDesc_eq {j : Job} (hr : rangeOk j = true) (ht : u8 j.bytes 28 ≤ 1)
    (hf : d.rangesFree j.ctx [(mapFirst j, mapCount j, mapCxl j)] = true) (hn : mapCount j ≤ d.freeCount (mapCxl j))
    (hb : d.boot.restarting = false) (hc : d.colRoom 1 = true) :
    d.mapDesc j = if d.framesReady (mapCxl j) (mapCount j + d.promised (mapCxl j)) then d.mapNow j
      else (d.reserve j.no 1).onJob j.no fun x => { x with phase := .begun } := by
  simp [mapDesc, hr, ht, hf, hn, logJob_eq _ hb hc]

/-- The oldest MAP that waits is done when its frames are there and its range is still free. -/
theorem mapReady_eq {j : Job} (hj : (d.work.jobs.find? fun j => j.op = Op.map && j.phase == .begun) = some j)
    (hb : d.boot.restarting = false) (hr : d.framesReady (mapCxl j) (mapCount j) = true)
    (hf : d.rangesFree j.ctx [(mapFirst j, mapCount j, mapCxl j)] = true) : d.mapReady = (d.spend j.no 1).mapNow j := by
  rw [mapReady, hj]
  simp [hb, hr, hf]

/-- An UNMAP of mapped pages that no kept binding holds is logged and done. -/
theorem unmapDesc_eq {j : Job} {ps : List Nat} (hps : ps = (List.range (mapCount j)).map (· + mapFirst j)) (hr : rangeOk j = true)
    (hall : (ps.all fun p => ((d.ctx j.ctx).pages.get none p).isSome && !d.keptPage j.ctx p) = true)
    (hb : d.boot.restarting = false) (hc : d.colRoom 1 = true) :
    d.unmapDesc j = ((d.logDesc j 0 0).each ps fun d p => d.unmapPage j.ctx p).settle j St.ok 0 0 := by
  subst hps
  rw [unmapDesc, hr, hall]
  exact (if_neg Bool.false_ne_true).trans (logJob_eq _ hb hc)

/-- A COPY from the host whose write is performed. -/
theorem copyDesc_in {j : Job} {b : Bytes} {x : Dev} (hn : u64 j.bytes 40 ≠ 0) (hdir : u8 j.bytes 16 = 0)
    (hput : (d.emit (.hostRead (u64 j.bytes 24) (u64 j.bytes 40))).memPut j.ctx (u64 j.bytes 32) (padTo b (u64 j.bytes 40)) none =
      (none, x)) : d.copyDesc j (some b) = x.settle j St.ok 0 0 := by
  simp [copyDesc, hn, hdir, hput]

/-- A COPY to the host whose read meets no fault. -/
theorem copyDesc_out {j : Job} {data : HostRead} {b : Bytes} {d1 : Dev} (hn : u64 j.bytes 40 ≠ 0) (hdir : u8 j.bytes 16 = 1)
    (hget : d.memGet j.ctx (u64 j.bytes 32) (u64 j.bytes 40) = (b, none, d1)) :
    d.copyDesc j data = (d1.emit (.hostWrite (u64 j.bytes 24) b)).settle j St.ok 0 0 := by
  simp [copyDesc, hn, hdir, hget]

section Retirement

variable {d} {f : Nat} (hdue : d.retireDue f = true ∨ f ∈ d.mem.retirePending) (hnot : f ∉ d.flash.retired)
  (hb : d.boot.restarting = false) (hc : d.colRoom 1 = true) (hl : d.flash.retired.length < 1024)
include hdue hnot hb hc hl

/-- A frame that is due, while its retirement can be logged. -/
theorem retire_eq : d.retire f = if !d.mem.gddrUsed.contains f then (d.log 5 255 4 1 f f 0).retireFrame f
    else match d.freeFrames false 1 with
      | [] => d.retireLater f
      | g :: _ => ((d.log 5 255 4 1 f g 0).moveFrame f g).retireFrame f := by
  have hdue : (d.retireDue f || d.mem.retirePending.contains f) = true := by simpa using hdue
  have hnot : d.flash.retired.contains f = false := by simpa using hnot
  rw [retire, hdue, hnot, hb, hc, decide_eq_false hl.not_ge]
  rfl

/-- A frame in no use is retired as it stands. -/
theorem retire_unused (hu : f ∉ d.mem.gddrUsed) : d.retire f = (d.log 5 255 4 1 f f 0).retireFrame f := by
  simp [retire_eq hdue hnot hb hc hl, hu]

/-- A frame in use moves to a free frame and is retired. -/
theorem retire_used {g : Nat} {l : List Nat} (hu : f ∈ d.mem.gddrUsed) (hg : d.freeFrames false 1 = g :: l) :
    d.retire f = ((d.log 5 255 4 1 f g 0).moveFrame f g).retireFrame f := by
  simp [retire_eq hdue hnot hb hc hl, hu, hg]

end Retirement

end Dev

/-- Settles O22: each row runs its operation where the memory runs, and the operation's conditions hold. -/
theorem memoryCommandsComplete : Obligations.MemoryCommandsComplete := by
  intro s ctx j fs hp hm
  refine ⟨?map, ?ready, ?unmap, ?clear, ?copy, ?patrol, ?retire⟩
  case map =>
    intro hj hr ht hf hn hb hc
    have hmap := s.dev.mapDesc_eq hr ht hf hn hb hc
    constructor
    · intro hready
      exact becomes_of_live rfl hp (by simp only [hj, hm, hmap, hready, if_true])
    · intro hready
      exact becomes_of_live rfl hp (by simp [hj, hm, hmap, hready])
  case ready =>
    intro hj hb hr hf
    exact becomes_of_live rfl hp (by simp only [hm, if_true, s.dev.mapReady_eq hj hb hr hf])
  case unmap =>
    intro hj hr ps hall hb hc
    exact becomes_of_live rfl hp (by simp only [hj, hm, if_true, s.dev.unmapDesc_eq rfl hr hall hb hc]; rfl)
  case clear =>
    intro frame
    constructor
    · intro hmem
      exact becomes_of_live rfl hp (by simp [hm, hmem])
    · intro hmem
      exact becomes_of_live rfl hp (by simp [hm, hmem])
  case copy =>
    intro hj hopen hn d hd
    subst hd
    constructor
    · intro b x hdir hput
      exact becomes_of_live rfl hp (by simp [hj, hm, hopen, Dev.copyDesc_in _ hn hdir hput])
    · intro data b d1 hdir hget
      exact becomes_of_live rfl hp (by simp [hj, hm, hopen, Dev.copyDesc_out _ hn hdir hget])
  case patrol =>
    intro frame
    exact becomes_of_live rfl hp (if_pos hm)
  case retire =>
    intro frame hdue hnot hb hc hl
    constructor
    · intro hu
      exact becomes_of_live rfl hp (by simp only [hm, if_true, Dev.retire_unused hdue hnot hb hc hl hu])
    · intro g l hu hg
      exact becomes_of_live rfl hp (by simp only [hm, if_true, Dev.retire_used hdue hnot hb hc hl hu hg])

end Sys2Proof.Machine
end

section
/-! PROOFS. The CXL tier (R261 to R263, R375): what a time-out, an enumeration and a device that becomes ready make of the tier, and the
statement that the CXL commands complete. -/

namespace Sys2Proof.Machine

namespace Dev

variable {d : Dev}

/-! ### A memory event -/

/-- A capture with VALID. -/
theorem flag_word_valid {x : Nat} (hx : x < 2 ^ 31) : flag (word (2 ^ 31 + x)) 31 = true := by
  rw [flag, word, BitVec.toNat_ofNat, bitOf_eq_testBit, Nat.testBit_mod_two_pow, Nat.testBit_two_pow_add_eq, Nat.testBit_lt_two_pow hx]
  rfl

/-- A memory event takes ERR_MEM where it holds none, with VALID, and raises its cause. -/
theorem errMem_eq (d : Dev) (k c ch i va : Nat) : ∃ (w : Word) (a : BitVec 64), flag w 31 = true ∧
    d.errMem k c ch i va = (if flag d.err.mem 31 then d else d.onErr fun e => { e with mem := w, memAddr := a }).cause cMemory := by
  refine ⟨_, _, ?_, rfl⟩
  rw [Nat.add_assoc, Nat.add_assoc, Nat.add_assoc]
  exact flag_word_valid (by omega)

/-- A memory event is in ERR_MEM, or one before it is, and its cause is raised; the tiers and the time stay. -/
theorem errMem_captured (d : Dev) (k c ch i va : Nat) :
    let t := d.errMem k c ch i va
    t.mem = d.mem ∧ t.now = d.now ∧ flag t.err.mem 31 = true ∧ flag t.err.irqStatus cMemory = true := by
  obtain ⟨w, a, hw, heq⟩ := errMem_eq d k c ch i va
  obtain ⟨x, hx, hmem, hclk, hflag⟩ : ∃ x : Dev, d.errMem k c ch i va = x.cause cMemory ∧ x.mem = d.mem ∧ x.clk = d.clk ∧
      flag x.err.mem 31 = true := by
    refine ⟨_, heq, ?_⟩
    split
    · next h => exact ⟨rfl, rfl, h⟩
    · exact ⟨rfl, rfl, hw⟩
  have hrec := cause_recordsOnly x cMemory
  have herr : (x.cause cMemory).err.mem = x.err.mem := (congrArg ErrRegs.mem hrec.err :)
  have htime : (x.cause cMemory).clk = x.clk := (congrArg Dev.clk hrec.station :)
  rw [hx]
  exact ⟨hrec.mem.trans hmem, congrArg Clk.ts (htime.trans hclk), herr ▸ hflag, flag_cause x (by decide)⟩

/-! ### Operations of the tier -/

/-- A read that runs out of time, the 15th in the last second at most: the sector's next reader meets it. -/
theorem cxlTimedOut_read {dev c va a : Nat} {x : Dev} (hx : x = d.errMem 4 c 31 0 va) (hphys : d.physOf c va = some (true, a))
    (hfew : (d.mem.cxlTimeouts.get [] dev).length < 15) :
    d.cxlTimedOut dev c va false = x.onMem fun m => { m with
      cxlLateRead := m.cxlLateRead ++ [a / 64]
      cxlTimeouts := m.cxlTimeouts.set [] dev (((x.mem.cxlTimeouts.get [] dev).filter fun t => t + 1000000000 > x.now) ++ [x.now]) } := by
  obtain ⟨hmem, -⟩ := errMem_captured d 4 c 31 0 va
  rw [← hx] at hmem
  have hlen := List.length_filter_le (fun t => decide (t + 1000000000 > x.now)) (x.mem.cxlTimeouts.get [] dev)
  rw [cxlTimedOut, hphys, ← hx]
  refine if_neg ?_
  rw [List.length_append]
  change ¬((x.mem.cxlTimeouts.get [] dev).filter fun t => decide (t + 1000000000 > x.now)).length + 1 ≥ 16
  rw [hmem] at hlen ⊢
  omega

/-- A write of CXL_CFG with APPLY, by the physical function while no frame of the tier is mapped, sets its fields and enumerates
the port. -/
theorem cxlCfgWrite_enumerates {v : Word} (hv : flag v 8 = true) (hfree : d.cxlMapped = false) (hup : d.boot.restarting = false)
    (hroom : d.colRoom 1 = true) :
    ∃ x : Dev, x.mem = d.mem ∧ d.cxlCfgWrite (.fn 0) v = (x.onMem fun m => { m with cxlCfg := cxlCfgOf d.mem.cxlCfg v }).cxlEnum := by
  refine ⟨_, (log_recordsOnly d (originCode (.fn 0)) 255 0 0x40000 d.mem.cxlCfg.toNat (cxlCfgOf d.mem.cxlCfg v).toNat 0).mem, ?_⟩
  rw [cxlCfgWrite, hfree, Bool.and_false, if_neg Bool.false_ne_true]
  refine (logged_fn0 hup hroom _ _ _ _ _ _ _).trans ?_
  exact if_pos hv

section Ready

variable {dev cap : Nat} (hdue : d.mem.cxlDue = 0)
  (hdev : dev < (match fld d.mem.cxlLayout 1 0 with | 1 => 2 | 2 => 4 | _ => 1))
include hdue hdev

/-- A device of the port whose link comes up with media ready, while no reset is due. -/
theorem cxlReady_eq : d.cxlReady dev cap =
    if bitOf d.mem.cxlEnum dev then d.onMem fun m => { m with cxlUp := m.cxlUp ||| 2 ^ dev }
    else if d.mem.cxlShut || d.cxlMapped then d
    else d.onMem fun m => { m with
      cxlUp := m.cxlUp ||| 2 ^ dev, cxlEnum := m.cxlEnum ||| 2 ^ dev, cxlCap := m.cxlCap.set 0 dev cap } := by
  have hnone : bitOf d.mem.cxlDue dev = false := by simp [hdue, bitOf_eq_testBit]
  rw [cxlReady, cxlDueGo, if_pos hdue, hnone, Bool.or_false]
  exact if_neg fun h => Nat.not_lt.2 (of_decide_eq_true h) hdev

/-- It answers from then on: it is of the layout, or it joins while the 2 s run and no frame of the tier is in use (R375). -/
theorem cxlReady_up (hfree : d.cxlMapped = false) (hopen : d.mem.cxlShut = false) : bitOf (d.cxlReady dev cap).mem.cxlUp dev = true := by
  rw [cxlReady_eq hdue hdev, hfree, hopen]
  split <;> exact bitOf_or_two_pow_self _ _

theorem cxlReady_joins (hfree : d.cxlMapped = false) (hopen : d.mem.cxlShut = false) (henum : bitOf d.mem.cxlEnum dev = false) :
    bitOf (d.cxlReady dev cap).mem.cxlEnum dev = true ∧ (d.cxlReady dev cap).mem.cxlCap.get 0 dev = cap := by
  rw [cxlReady_eq hdue hdev, hfree, hopen, henum]
  exact ⟨bitOf_or_two_pow_self _ _, Table.get_set_self _ _ _ _⟩

end Ready

end Dev

open Dev

/-- Settles O23: each row runs its operation, and the operation's rule says what it leaves. -/
theorem cxlCommandsComplete : Obligations.CxlCommandsComplete := by
  intro s dev hp
  refine ⟨?timeout, ?down, ?enumerate, becomes_of_live rfl hp rfl, ?ready, ?record⟩
  case timeout =>
    intro ctx va a hphys hfew
    obtain ⟨hmem, hnow, hvalid, hcause⟩ := errMem_captured s.dev 4 ctx.val 31 0 va
    refine ⟨_, becomes_of_live rfl hp (cxlTimedOut_read rfl hphys hfew), ?late, (congrArg Mem.cxlMarks hmem :), ?time,
      (congrArg Mem.cxl hmem :), hvalid, hcause⟩
    case late => exact List.mem_append_right _ (List.mem_singleton_self _)
    case time =>
      refine (congrArg (s.dev.now ∈ ·) (Table.get_set_self ..)).mpr ?_
      exact List.mem_append_right _ (List.mem_singleton.2 hnow.symm)
  case down =>
    intro hup
    exact becomes_of_live rfl hp (if_pos hup)
  case enumerate =>
    intro v hreach hopen hfree hup hroom
    have hv : flag (v ||| 0x100) 8 = true := by
      rw [flag, BitVec.toNat_or]
      exact bitOf_or_two_pow_self _ 8
    obtain ⟨x, hmem, hwrite⟩ := cxlCfgWrite_enumerates hv hfree hup hroom
    exact ⟨_, becomes_of_live rfl hp ((written_fn0 _ hreach hopen).trans hwrite), rfl, rfl, rfl, (congrArg Mem.cxl hmem :)⟩
  case ready =>
    intro cap hdue hdev hfree hopen
    exact ⟨_, becomes_of_live rfl hp rfl, cxlReady_up hdue hdev hfree hopen, cxlReady_joins hdue hdev hfree hopen⟩
  case record =>
    intro r hup hroom
    exact becomes_of_live rfl hp (if_neg (by simp [hup, hroom]))

end Sys2Proof.Machine
end

section
/-! PROOFS. Writes of a context's space (R250, R262): how the sectors of a range lie in it and in a page, what a write changes at most
and where its bytes land, and the statement that writes go where the pages say. -/

namespace Sys2Proof.Machine

namespace Dev

variable {d t u : Dev} {c va n : Nat}

/-! ### The sectors of a range -/

/-- Parts that make up a range one after another, none of them empty or across the end of a sector. -/
def Parts (va n : Nat) : List (Nat × Nat) → Prop
  | [] => n = 0
  | s :: l => s.1 = va ∧ 0 < s.2 ∧ s.2 ≤ n ∧ va % 64 + s.2 ≤ 64 ∧ Parts (va + s.2) (n - s.2) l

theorem sectors_parts (va n k : Nat) (hk : n = 0 ∨ n + va % 64 ≤ 64 * k) : Parts va n (sectors va n k) := by
  induction k generalizing va n with
  | zero => exact (by omega : n = 0)
  | succ k ih =>
    rw [sectors]
    split
    · next hn => exact hn
    · have hlen : min n (64 - va % 64) = n ∨ min n (64 - va % 64) = 64 - va % 64 := by omega
      exact ⟨rfl, by omega, by omega, by omega, ih _ _ (by omega)⟩

theorem sectorsOf_parts (va n : Nat) : Parts va n (sectorsOf va n) := sectors_parts va n _ (by omega)

/-- Every address of the range lies in a part. -/
theorem Parts.exists_part {l : List (Nat × Nat)} (h : Parts va n l) {i : Nat} (hi : i < n) :
    ∃ s ∈ l, ∃ k < s.2, va + i = s.1 + k ∧ s.1 % 64 + k < 64 := by
  induction l generalizing va n i with
  | nil => exact absurd hi (by simp [show n = 0 from h])
  | cons s l ih =>
    obtain ⟨rfl, -, -, hs, hl⟩ := h
    by_cases hin : i < s.2
    · exact ⟨s, List.mem_cons_self, i, hin, rfl, by omega⟩
    · obtain ⟨x, hx, k, hk, heq, hsec⟩ := ih hl (i := i - s.2) (by omega)
      exact ⟨x, List.mem_cons_of_mem s hx, k, hk, by omega, hsec⟩

/-- A part begins within the range. -/
theorem Parts.start {l : List (Nat × Nat)} (h : Parts va n l) {s : Nat × Nat} (hs : s ∈ l) : ∃ i < n, s.1 = va + i := by
  induction l generalizing va n with
  | nil => cases hs
  | cons x l ih =>
    obtain ⟨rfl, hpos, hle, -, hl⟩ := h
    rcases List.mem_cons.1 hs with rfl | hs
    · exact ⟨0, by omega, rfl⟩
    · obtain ⟨i, hi, heq⟩ := ih hl hs
      exact ⟨x.2 + i, by omega, by omega⟩

/-! ### Pages and places -/

/-- The addresses of a sector lie in one page. -/
theorem page_of_sector {k : Nat} (h : va % 64 + k < 64) :
    (va + k) / pageBytes = va / pageBytes ∧ (va + k) % pageBytes = va % pageBytes + k := by
  unfold pageBytes
  omega

theorem pageAt_add (d : Dev) (c : Nat) {va k : Nat} (h : va % 64 + k < 64) : d.pageAt c (va + k) = d.pageAt c va := by
  rw [pageAt, pageAt, (page_of_sector h).1]

/-- The places of a sector's addresses follow one another. -/
theorem physOf_add (d : Dev) (c : Nat) {va k : Nat} (h : va % 64 + k < 64) :
    d.physOf c (va + k) = (d.physOf c va).map fun p => (p.1, p.2 + k) := by
  rw [physOf, physOf, pageAt_add d c h, (page_of_sector h).2, Option.map_map]
  simp only [Function.comp_def, Nat.add_assoc]

theorem physOf_congr (h : t.ctxs = d.ctxs) (c va : Nat) : t.physOf c va = d.physOf c va := by
  rw [physOf, physOf, pageAt, pageAt, ctx, ctx, h]

/-- A write meets no bad page exactly where each of its addresses is mapped by a page with WRITE. -/
theorem badPage_eq_none_iff :
    d.badPage c va n true = none ↔ ∀ i < n, ∃ p, d.pageAt c (va + i) = some p ∧ p.write = true := by
  have hgood : ∀ a, (match d.pageAt c a with | none => true | some p => true && !p.write) = false ↔
      ∃ p, d.pageAt c a = some p ∧ p.write = true := by
    intro a
    cases d.pageAt c a <;> simp
  have hparts := sectorsOf_parts va n
  rw [badPage, Option.map_eq_none_iff, List.find?_eq_none]
  constructor
  · intro h i hi
    obtain ⟨s, hs, k, -, heq, hsec⟩ := hparts.exists_part hi
    rw [heq, pageAt_add d c hsec]
    exact (hgood s.1).1 (Bool.eq_false_iff.2 (h s hs))
  · intro h s hs
    obtain ⟨i, hi, heq⟩ := hparts.start hs
    refine Bool.eq_false_iff.1 ((hgood s.1).2 ?_)
    rw [heq]
    exact h i hi

/-! ### What a write changes at most -/

/-- A change of no more than the bytes of a context's range, with what signals, free values and the tiers' bookkeeping. -/
structure PutsWithin (d t : Dev) (c va n : Nat) : Prop where
  ctxs : t.ctxs = d.ctxs
  cores : t.cores = d.cores
  cmem : t.cmem = d.cmem
  sync : t.sync = d.sync
  work : t.work = d.work
  circ : t.circ = d.circ
  elsewhere : ∀ p, (∀ i < n, d.physOf c (va + i) ≠ some p) → t.tierByte p = d.tierByte p

/-- A change of the first part of a range, then one of the rest. -/
theorem PutsWithin.trans {m : Nat} (h : PutsWithin d t c va n) (k : PutsWithin t u c (va + n) m) : PutsWithin d u c va (n + m) where
  ctxs := k.ctxs.trans h.ctxs
  cores := k.cores.trans h.cores
  cmem := k.cmem.trans h.cmem
  sync := k.sync.trans h.sync
  work := k.work.trans h.work
  circ := k.circ.trans h.circ
  elsewhere p hp := by
    refine (k.elsewhere p fun i hi => ?_).trans (h.elsewhere p fun i hi => hp i (by omega))
    rw [physOf_congr h.ctxs, Nat.add_assoc]
    exact hp (n + i) (by omega)

/-- A change that leaves the bytes of both tiers. -/
theorem PutsWithin.of_same (c va : Nat) (h : SameStores d t) (hcirc : t.circ = d.circ) : PutsWithin d t c va 0 := by
  obtain ⟨hmem, hcmem, hcores, hctxs, hwork, hsync⟩ := h
  exact ⟨hctxs, hcores, hcmem, hsync, hwork, hcirc, fun p _ => by rw [tierByte, tierByte, hmem]⟩

theorem errMem_within (d : Dev) (k c ch i va : Nat) (a : Nat) : PutsWithin d (d.errMem k c ch i va) c a 0 := by
  refine .of_same c a (errMem_mem d k c ch i va) ?_
  obtain ⟨w, x, -, heq⟩ := errMem_eq d k c ch i va
  rw [heq]
  refine (congrArg Dev.circ (cause_recordsOnly _ cMemory).station :).trans ?_
  split <;> rfl

theorem putSector_within (d : Dev) (c va : Nat) {b : Bytes} {n : Nat} (m : Option Status) (hb : b.length ≤ n) (hn : va % 64 + n ≤ 64) :
    PutsWithin d (d.putSector c va b m) c va n := by
  obtain ⟨hctxs, hcores, hcmem, hsync, hwork, hcirc⟩ := putSector_keeps d c va b m
  refine ⟨hctxs, hcores, hcmem, hsync, hwork, hcirc, fun p hp => ?_⟩
  cases hq : d.physOf c va with
  | none => rw [putSector, hq]
  | some q =>
    rw [tierByte_putSector d c va b m q.1 q.2 hq p, if_neg]
    rintro ⟨htier, hle, hlt⟩
    refine hp (p.2 - q.2) (by omega) ?_
    rw [physOf_add d c (by omega), hq, Option.map_some, Nat.add_sub_cancel' hle, ← htier]

/-- Changes of the parts of a range, one after another. -/
theorem each_within {f : Dev → Nat × Nat → Dev} (hf : ∀ d s, s.1 % 64 + s.2 ≤ 64 → PutsWithin d (f d s) c s.1 s.2)
    {l : List (Nat × Nat)} (hl : Parts va n l) : PutsWithin d (d.each l f) c va n := by
  induction l generalizing d va n with
  | nil => exact (show n = 0 from hl) ▸ .of_same c va (SameStores.refl d) rfl
  | cons s l ih =>
    obtain ⟨rfl, -, hle, hsec, hl⟩ := hl
    have h := (hf d s hsec).trans (ih (d := f d s) hl)
    rwa [Nat.add_sub_cancel' hle] at h

theorem length_sub_le (b : Bytes) (i n : Nat) : (sub b i n).length ≤ n := List.length_take_le n _

/-- A part written, or lost and left with free values. -/
theorem part_within (lost : Nat × Nat → Bool) (b : Bytes) (m : Option Status) (v : Nat) (d : Dev) (s : Nat × Nat)
    (hs : s.1 % 64 + s.2 ≤ 64) :
    PutsWithin d (if lost s then (d.freeBytes s.2).2.putSector c s.1 (d.freeBytes s.2).1 none
      else d.putSector c s.1 (sub b (s.1 - v) s.2) m) c s.1 s.2 := by
  split
  · obtain ⟨hctxs, hcores, hcmem, hsync, hwork, hcirc, helse⟩ :=
      putSector_within (d.freeBytes s.2).2 c s.1 none (show (d.freeBytes s.2).1.length ≤ s.2 by simp [freeBytes]) hs
    exact ⟨hctxs, hcores, hcmem, hsync, hwork, hcirc, helse⟩
  · exact putSector_within d c s.1 m (length_sub_le b _ _) hs

theorem rawPut_within (d : Dev) (c va : Nat) (b : Bytes) (m : Option Status) : PutsWithin d (d.rawPut c va b m) c va b.length :=
  each_within (part_within (fun _ => false) b m va) (sectorsOf_parts va b.length)

theorem slotPut_within (d : Dev) (c va : Nat) (b : Bytes) (m : Option Status) :
    PutsWithin d (d.slotPut c va b m).2 c va b.length := by
  unfold slotPut
  dsimp only
  split
  · exact rawPut_within d c va b m
  · next a _ l _ =>
    have h := each_within (d := d) (part_within (c := c) (fun s => (d.lateSectors c va b.length).any fun x => x.1 = s.1) b m va)
      (sectorsOf_parts va b.length)
    obtain ⟨hctxs, hcores, hcmem, hsync, hwork, hcirc, helse⟩ := h
    refine PutsWithin.trans (m := 0) ?_ (errMem_within _ 4 c 31 0 a _)
    exact ⟨hctxs, hcores, hcmem, hsync, hwork, hcirc, helse⟩

theorem memPut_within (d : Dev) (c va : Nat) (b : Bytes) (m : Option Status) :
    PutsWithin d (d.memPut c va b m).2 c va b.length := by
  unfold memPut
  split
  · obtain ⟨hctxs, hcores, hcmem, hsync, hwork, hcirc, helse⟩ := errMem_within d 2 c 31 0 ‹Nat› va
    exact ⟨hctxs, hcores, hcmem, hsync, hwork, hcirc, fun p _ => helse p (by simp)⟩
  · exact slotPut_within d c va b m

/-! ### Where the bytes land -/

theorem getD_sub (b : Bytes) {i n k : Nat} (h : k < n) : (sub b i n).getD k 0 = b.getD (i + k) 0 := by
  simp [sub, List.getD_eq_getElem?_getD, h]

/-- After the parts of a range are written, a place holds the byte of the last address that lies there. -/
theorem each_putSector_lands {b : Bytes} {m : Option Status} {v a : Nat} {p : Bool × Nat} {l : List (Nat × Nat)} (hl : Parts va n l)
    (hv : v ≤ va) (hn : va + n = v + b.length) (ha : va ≤ a) (han : a < va + n) (hp : d.physOf c a = some p)
    (hlast : ∀ x, a < x → x < va + n → d.physOf c x ≠ some p) :
    (d.each l fun d s => d.putSector c s.1 (sub b (s.1 - v) s.2) m).tierByte p = b.getD (a - v) 0 := by
  induction l generalizing d va n with
  | nil => exact absurd (show n = 0 from hl) (by omega)
  | cons s l ih =>
    obtain ⟨rfl, -, hle, hsec, hl⟩ := hl
    have hstep := putSector_within d c s.1 m (length_sub_le b (s.1 - v) s.2) hsec
    by_cases hin : a < s.1 + s.2
    · obtain ⟨k, rfl⟩ := Nat.exists_eq_add_of_le ha
      obtain ⟨q, hq, rfl⟩ := Option.map_eq_some_iff.1 ((physOf_add d c (by omega)).symm.trans hp)
      have hlen : (sub b (s.1 - v) s.2).length = s.2 := by simp [sub]; omega
      have hrest := each_within (d := d.putSector c s.1 (sub b (s.1 - v) s.2) m) (part_within (c := c) (fun _ => false) b m v) hl
      refine (hrest.elsewhere _ fun x hx => ?_).trans ?_
      · rw [physOf_congr hstep.ctxs]
        exact hlast _ (by omega) (by omega)
      · rw [tierByte_putSector d c s.1 _ m q.1 q.2 hq, if_pos ⟨rfl, by simp only; omega⟩, Nat.add_sub_cancel_left, getD_sub b (by omega)]
        congr 1
        omega
    · refine ih hl (by omega) (by omega) (by omega) (by omega) ?_ fun x hx hxn => ?_
      · rw [physOf_congr hstep.ctxs, hp]
      · rw [physOf_congr hstep.ctxs]
        exact hlast x hx (by omega)

/-- A write without loss puts its bytes where the pages say. -/
theorem rawPut_lands {b : Bytes} {m : Option Status} {i : Nat} {p : Bool × Nat} (hi : i < b.length) (hp : d.physOf c (va + i) = some p)
    (hlast : ∀ j < b.length, i < j → d.physOf c (va + j) ≠ some p) : (d.rawPut c va b m).tierByte p = b.getD i 0 := by
  have h := each_putSector_lands (m := m) (sectorsOf_parts va b.length) le_rfl rfl (by omega) (by omega) hp fun x hx hxn => by
    obtain ⟨j, rfl⟩ := Nat.exists_eq_add_of_le (show va ≤ x by omega)
    exact hlast j (by omega) (by omega)
  rwa [Nat.add_sub_cancel_left] at h

/-- A write of writable pages is performed. -/
theorem memPut_of_writable {b : Bytes} {m : Option Status} (hw : ∀ i < b.length, ∃ p, d.pageAt c (va + i) = some p ∧ p.write = true) :
    d.memPut c va b m = d.slotPut c va b m := by
  rw [memPut, badPage_eq_none_iff.2 hw]

/-- One that meets a page that is not writable is not performed. -/
theorem memPut_of_not_writable {b : Bytes} {m : Option Status}
    (hw : ∃ i < b.length, ∀ p, d.pageAt c (va + i) = some p → p.write = false) :
    (d.memPut c va b m).1 = some St.notPermitted ∧ (d.memPut c va b m).2.mem = d.mem := by
  obtain ⟨i, hi, hbad⟩ := hw
  rw [memPut]
  split
  · exact ⟨rfl, (errMem_mem ..).1⟩
  · next hnone =>
    obtain ⟨p, hp, hwrite⟩ := badPage_eq_none_iff.1 hnone i hi
    exact absurd hwrite (by simp [hbad p hp])

theorem slotPut_of_answered {b : Bytes} {m : Option Status} (h : d.lateSectors c va b.length = []) :
    d.slotPut c va b m = (none, d.rawPut c va b m) := by
  rw [slotPut, h]

theorem slotPut_status_of_late {b : Bytes} {m : Option Status} (h : d.lateSectors c va b.length ≠ []) :
    (d.slotPut c va b m).1 = some St.cxlTimeout := by
  rw [slotPut]
  split
  · next hnil => exact absurd hnil h
  · rfl

end Dev

open Dev

/-- Settles O51: a write of writable pages is a write of their sectors, and any write changes no more than its range. -/
theorem writesGoWhereThePagesSay : Obligations.WritesGoWhereThePagesSay := by
  intro d c va b m t
  have hwithin := memPut_within d c va b m
  refine ⟨memPut_of_not_writable, fun hw => ⟨fun hlate => ?answered, fun hlate => ?late, hwithin.elsewhere⟩, hwithin.cores, hwithin.cmem,
    hwithin.sync, hwithin.work, hwithin.circ, fun k => by rw [ctx, hwithin.ctxs, ctx]⟩
  case answered =>
    have hput : d.memPut c va b m = (none, d.rawPut c va b m) := (memPut_of_writable hw).trans (slotPut_of_answered hlate)
    refine ⟨congrArg Prod.fst hput, fun i hi hlast p hp => ?_⟩
    rw [show t = d.rawPut c va b m from congrArg Prod.snd hput]
    exact rawPut_lands hi hp (hp ▸ hlast)
  case late =>
    rw [memPut_of_writable hw]
    exact slotPut_status_of_late hlate

end Sys2Proof.Machine
end

section
/-! PROOFS. The operations on host rings under the conditions under which they take effect, and the statement on their commands (R276, R279 to
R283, R295, R297, R326). -/

namespace Sys2Proof.Machine

namespace Dev

variable {d : Dev}

/-! ### Doorbells (R276, R279) -/

section

variable {fn : CtxId} {offset size c o : Nat} {v : Dword} (hopen : d.fnOpen fn.val = true) (hbar : bar2 fn offset = some (c, o))
include hopen hbar

/-- A well-made write of an SQ tail doorbell is a new SQ tail of its pair. -/
theorem doorbell_sqTail (hsq : d.rouse.bellOk c o 0 size v = true) :
    d.doorbell fn offset size v = d.rouse.sqTail c (o / 8) (v.setWidth 32) := by
  simp only [doorbell, hopen, hbar, hsq, Bool.not_true, Bool.false_eq_true, if_false, if_true]

/-- A well-made write of a CQ head doorbell is a new CQ head of its pair. -/
theorem doorbell_cqHead (hsq : d.rouse.bellOk c o 0 size v = false) (hcq : d.rouse.bellOk c o 256 size v = true) :
    d.doorbell fn offset size v = d.rouse.cqHead c ((o - 256) / 8) (v.setWidth 32) := by
  simp only [doorbell, hopen, hbar, hsq, hcq, Bool.not_true, Bool.false_eq_true, if_false, if_true]

end

section

variable {c r : Nat} {v : Word}

/-- An SQ tail that moves forward, past no more descriptors than the ring holds, is taken. -/
theorem sqTail_eq (hforward : (v - (d.ring c r).sqTail).toNat < 2 ^ 31)
    (hfits : (v - (d.ring c r).sqHead).toNat ≤ ringSize (fld (d.ring c r).cfg 4 0)) :
    d.sqTail c r v = d.onRing c r fun x => { x with sqTail := v } :=
  (if_neg hforward.not_ge).trans (if_neg hfits.not_gt)

/-- A CQ head that does not pass the CQ tail is taken, and the records that were held follow into the slots it frees. -/
theorem cqHead_eq (hbehind : ((d.ring c r).cqTail - v).toNat ≤ ((d.ring c r).cqTail - (d.ring c r).cqHead).toNat) :
    d.cqHead c r v = (((d.onRing c r fun x => { x with cqHead := v }).drainRing c r).busyCheck c).finishRuns :=
  if_neg hbehind.not_gt

end

/-! ### Fetch (R280) -/

/-- A pair that may fetch and whose read the host's memory answers has the descriptor in its window, with the context's next number. -/
theorem fetch_answered {c r : Nat} {b : Bytes} (hmay : d.mayFetch c r = true) : d.fetch c r (some b) =
    ((d.emit (.hostRead (d.sqSlot c r (d.ring c r).sqHead.toNat) 64)).onCtx c fun x =>
      { x with fetchNo := (d.ctx c).fetchNo + 1 }).onRing c r fun x =>
        { x with window := x.window ++ [⟨padTo b 64, (d.ctx c).fetchNo⟩], sqHead := x.sqHead + 1 } := by
  rw [fetch, hmay]
  rfl

/-! ### Acceptance (R282, R283) -/

/-- The head whose turn it is, among those that can be accepted, is accepted while nothing keeps the context from it. -/
theorem acceptNext_eq {c r : Nat} {f : Fetched} (hfenced : d.fenced c = false) (habort : d.abortWaits c = false)
    (hup : d.boot.shutDown = false)
    (hturn : ((d.turnOrder c).findSome? fun r => (d.headOf c r).bind fun f => if d.canAccept c f.bytes then some (r, f) else none) =
      some (r, f)) : d.acceptNext c = d.accept c r f := by
  simp only [acceptNext, hfenced, habort, hup, hturn, Bool.or_self, Bool.false_eq_true, if_false]

section

variable {c r : Nat} {f : Fetched}

/-- A malformed descriptor leaves its window with a record of NOT_PERMITTED, and none of its fields but the TAG is read (R285). -/
theorem accept_malformed (hbad : malformed f.bytes = true) : d.accept c r f =
    ((d.takeHead c r).replaceOpens c).postRecord c r (f.bytes.take 4 ++ zeros 4 ++ f.bytes.drop 8) St.notPermitted 0 0 0 0 0 := by
  simp only [accept, hbad, Bool.not_true, Bool.false_and, Bool.false_eq_true, if_false, if_true]

/-- A descriptor that is neither an ITEM, a RUN nor a KETTLE joins the context's order as it is. -/
theorem accept_joins (hgood : malformed f.bytes = false) (hitem : u8 f.bytes 0 ≠ Op.item) (hrun : u8 f.bytes 0 ≠ Op.run)
    (hkettle : u8 f.bytes 0 ≠ Op.kettle) :
    d.accept c r f = ((d.takeHead c r).replaceOpens c).addJob c r f none none none := by
  simp [accept, hgood, hitem, hrun, hkettle]

end

/-! ### ABORT and moderation (R295, R297) -/

/-- The oldest ABORT in a pair's window leaves it, acts on its scope, and its record tells how many descriptors it settled. -/
theorem abortRing_eq {c r : Nat} {f : Fetched} {x : Nat × Dev}
    (hfind : ((d.ring c r).window.find? fun f => u8 f.bytes 0 = Op.abort && !malformed f.bytes) = some f)
    (hx : x = (d.onRing c r fun x => { x with window := x.window.filter fun g => g.no != f.no }).abortScope c (u8 f.bytes 16)
      (u8 f.bytes 17) (u64 f.bytes 24)) :
    d.abortRing c r = x.2.postRecord c r f.bytes St.ok x.1 0 0 0 0 := by
  subst hx
  simp only [abortRing, hfind]

/-- TIME_US after the first record that was not signalled, the pair signals. -/
theorem moderationTime_eq {c r t0 : Nat} (hfirst : (d.ring c r).irqFirst = some t0) (htime : fld (d.ring c r).irqMod 31 16 ≠ 0)
    (hcount : (d.ring c r).irqCount ≠ 0) :
    d.moderationTime c r = (d.reach (t0 + 1000 * fld (d.ring c r).irqMod 31 16)).ringSignal c r := by
  simp [moderationTime, hfirst, htime, hcount]

end Dev

open Dev

/-- Settles O11: each command is one operation on a ring pair, whose equation is used. -/
theorem ringCommandsComplete : Obligations.RingCommandsComplete := by
  unfold Obligations.RingCommandsComplete
  intro s fn ctx ring offset value hp
  refine ⟨?doorbells, ?fetch, ?accept, ?abort, ?moderation⟩
  case doorbells =>
    rintro c o d hopen hbar rfl
    constructor
    · intro hsq g hforward hfits
      exact becomes_of_live rfl hp ((doorbell_sqTail hopen hbar hsq).trans (sqTail_eq hforward hfits))
    · intro hsq hcq g hbehind
      exact becomes_of_live rfl hp ((doorbell_cqHead hopen hbar hsq hcq).trans (cqHead_eq hbehind))
  case fetch =>
    intro b hmay
    exact becomes_of_live rfl hp (fetch_answered hmay)
  case accept =>
    intro r f hfenced habort hup hturn
    have hnext := acceptNext_eq hfenced habort hup hturn
    constructor
    · intro hbad
      exact becomes_of_live rfl hp (hnext.trans (accept_malformed hbad))
    · intro hgood hitem hrun hkettle
      exact becomes_of_live rfl hp (hnext.trans (accept_joins hgood hitem hrun hkettle))
  case abort =>
    intro f hfind
    exact becomes_of_live rfl hp (abortRing_eq hfind rfl)
  case moderation =>
    intro t0 hfirst htime hcount
    exact becomes_of_live rfl hp (moderationTime_eq hfirst htime hcount)

end Sys2Proof.Machine
end

section
/-! PROOFS. The enables of contexts and ring pairs, CTX_ABORT and the resets under the conditions under which they take effect, and the statement
on their commands (R278, R295, R302, R373, R394, R401). -/

namespace Sys2Proof.Machine

namespace RecordsOnly

variable {d t : Dev} (h : RecordsOnly d t)
include h

theorem ctx (c : Nat) : t.ctx c = d.ctx c := by rw [Dev.ctx, Dev.ctx, h.ctxs]
theorem ring (c r : Nat) : t.ring c r = d.ring c r := by rw [Dev.ring, Dev.ring, h.ctx]

end RecordsOnly

namespace Dev

variable {d : Dev}

/-! ### The offsets of a context's page (R404) -/

theorem pageOf_ctxOfs {c o : Nat} (hc : c < 64) (ho : o < 0x1000) : pageOf (ctxOfs c o) = some (c, o) := by
  rw [pageOf, if_pos (by simp only [ctxOfs]; omega), Option.some.injEq, Prod.mk.injEq]
  simp only [ctxOfs]
  omega

theorem ctxOfs_aligned {o : Nat} (c : Nat) (ho : o % 4 = 0) : ctxOfs c o % 4 = 0 := by
  simp only [ctxOfs]
  omega

/-! ### The entry of a logged write (R361, R367) -/

@[simp] theorem msix_col (c v : Nat) : (d.msix c v).col = d.col := by
  unfold msix
  split <;> rfl

/-- Raising a cause writes nothing into the colophon. -/
@[simp] theorem cause_col (b : Nat) : (d.cause b).col = d.col := by
  unfold cause
  dsimp only
  split
  · exact msix_col _ _
  · rfl

@[simp] theorem colLevel_col (n : Nat) : (d.colLevel n).col = d.col := by
  unfold colLevel
  dsimp only
  split
  · exact cause_col _
  · rfl

theorem colPutMain_main_length (b : Bytes) : (d.colPutMain b).col.main.length = d.col.main.length + 1 := by
  unfold colPutMain
  rw [colLevel_col]
  simp [colStamp]

theorem colPutReserved_main (b : Bytes) : (d.colPutReserved b).col.main = d.col.main := by
  unfold colPutReserved
  rw [cause_col]
  rfl

/-- A checkpoint takes no entry out of the main area. -/
theorem main_length_le_colCheckpoint : d.col.main.length ≤ d.colCheckpoint.col.main.length := by
  unfold colCheckpoint
  dsimp only
  split
  · exact le_rfl
  · change _ ≤ (if _ then _ else _ : Dev).col.main.length
    split
    · rw [colPutReserved_main]
    · rw [colPutMain_main_length]
      exact Nat.le_succ _

/-- An entry that is written is in the main area. -/
theorem main_length_lt_log (origin ctx cls obj old new detail : Nat) :
    d.col.main.length < (d.log origin ctx cls obj old new detail).col.main.length := by
  rw [log, ← Nat.succ_le_iff, ← Nat.add_one, ← colPutMain_main_length]
  unfold colDue
  split
  · exact main_length_le_colCheckpoint
  · exact le_rfl

/-- A logged change by a function, with room for its entry, is made behind it (R365, R367). -/
theorem logged_fn (k : CtxId) {ofs : Nat} (hup : d.boot.restarting = false) (hroom : d.colRoom 1 = true)
    (ctx cls obj old new detail : Nat) (make : Dev → Dev) :
    d.logged (.fn k) ofs ctx cls obj old new detail make = make (d.log (originCode (.fn k)) ctx cls obj old new detail) := by
  rw [logged, hup, hroom]
  rfl

/-- A logged register write by a function, with room for its entry, is made on a station that differs by the entry alone. -/
theorem loggedReg_fn (k : CtxId) (ofs old new : Nat) (hup : d.boot.restarting = false) (hroom : d.colRoom 1 = true) :
    ∃ x, RecordsOnly d x ∧ d.col.main.length < x.col.main.length ∧ ∀ make, d.loggedReg (.fn k) ofs old new make = make x :=
  ⟨_, log_recordsOnly d _ _ _ _ _ _ _, main_length_lt_log _ _ _ _ _ _ _, logged_fn k hup hroom _ _ _ _ _ _⟩

/-- A logged change of several entries by a function, with room for them, is made with the entries reserved (R367). -/
theorem loggedAll_fn (k : CtxId) {ofs n : Nat} (hup : d.boot.restarting = false) (hroom : d.colRoom n = true) (make : Dev → Dev) :
    d.loggedAll (.fn k) ofs n make = make (d.colReserve n) := by
  rw [loggedAll, hup, hroom]
  rfl

/-! ### Writes of a context's page (R302, R391) -/

/-- A function that may write the page of a context: it is the context's or the physical one, the page is in service, and the station has not
shut down. -/
structure WritesPage (d : Dev) (k c : CtxId) : Prop where
  powered : d.powered = true
  ready : d.boot.stage = .ready
  inUse : d.boot.mailboxOnly = false
  notShut : d.boot.shutDown = false
  owns : k.val = 0 ∨ k.val = c.val
  fnOpen : d.fnOpen k.val = true

section

variable {k c : CtxId} (h : d.WritesPage k c)
include h

theorem WritesPage.reaches {o : Nat} (ho : o < 0x1000) : d.reaches (.fn k) (ctxOfs c.val o) = true := by
  obtain ⟨hp, hready, huse, -, howns, hopen⟩ := h
  have hserves : d.inService (ctxOfs c.val o) = true := by simp [inService, hp, hready, huse]
  simp only [Dev.reaches, hserves, hopen, pageOf_ctxOfs c.isLt ho, Bool.true_and]
  rcases howns with hpf | hown
  · simp [hpf]
  · simp [hown]

/-- The function's write is made. -/
theorem WritesPage.ctxWrite_eq {o : Nat} (ho : o < 0x1000) (halign : o % 4 = 0) (f : Dev → Dev) :
    d.ctxWrite (.fn k) c.val o f = f d := by
  have hsealed : d.sealedOff (ctxOfs c.val o) = false := by simp [sealedOff, ctxOfs_aligned c.val halign, h.notShut]
  rw [ctxWrite, written_eq (org := .fn k) _ rfl (h.reaches ho) hsealed]
  rcases h.owns with hpf | hown
  · simp only [hpf]
    rfl
  · simp only [hown, decide_true, Bool.or_true, if_true]
    rfl

theorem WritesPage.ringCfg_eq (ring : RingId) (f : Dev → Dev) : d.ctxWrite (.fn k) c.val (ringOfs ring.val 4) f = f d := by
  have hring := ring.isLt
  exact h.ctxWrite_eq (by simp only [ringOfs]; omega) (by simp only [ringOfs]; omega) f

theorem WritesPage.enableReg_eq (v : Word) :
    d.enableReg (.fn k) c.val v = if flag v 0 then d.enableWrite (.fn k) c.val else d.disableWrite (.fn k) c.val := by
  rw [enableReg, h.ready]
  refine (if_neg (by simp)).trans ?_
  exact h.ctxWrite_eq (by decide) rfl _

end

/-! ### The registers written (R278) -/

section

variable {k c : CtxId} {r : Nat} (hup : d.boot.restarting = false)
include hup

/-- ENABLE = 1 of a context whose sync range meets no other's is set behind its entry (R266, R278). -/
theorem enableWrite_eq (hready : d.boot.stage = .ready) (hroom : d.colRoom 1 = true) (hclash : d.rangeClash c.val = false) :
    ∃ x, RecordsOnly d x ∧ d.col.main.length < x.col.main.length ∧
      d.enableWrite (.fn k) c.val = x.onRegs c.val fun r => { r with enable := true } := by
  obtain ⟨x, hrec, hlong, hmade⟩ := loggedReg_fn k (ctxOfs c.val 0) (b2n (d.ctx c.val).regs.enable) 1 hup hroom
  exact ⟨x, hrec, hlong, (if_neg (by simp [hready, hclash])).trans (hmade fun d => d.onRegs c.val fun r => { r with enable := true })⟩

/-- ENABLE = 0 with room for its entry and that of the key's erasure disables the context (R278, R353). -/
theorem disableWrite_eq (hroom : d.colRoom (1 + b2n (d.ctx c.val).key.isSome) = true) : d.disableWrite (.fn k) c.val =
    ((d.colReserve (1 + b2n (d.ctx c.val).key.isSome)).logNext (originCode (.fn k)) c.val 0 (ctxOfs c.val 0)
      (b2n (d.ctx c.val).regs.enable) 0 0).disable c.val true := by
  rw [disableWrite, loggedAll_fn k hup hroom]
  simp only [ctx, colReserve_ctxs]

variable {v : Word} (hroom : d.colRoom 1 = true)
include hroom

/-- EN set on a disabled pair enables it with its indices at 0 (R278). -/
theorem ringCfgWrite_enables (hon : flag v 31 = true) (hoff : flag (d.ring c.val r).cfg 31 = false) :
    ∃ x, RecordsOnly d x ∧ d.col.main.length < x.col.main.length ∧
      d.ringCfgWrite (.fn k) c.val r v = x.onRing c.val r fun x => { x with
        cfg := ringCfgOf (d.ring c.val r).cfg v, sqTail := 0, sqHead := 0, cqTail := 0, cqHead := 0
        stopped := false, window := [], held := [], irqCount := 0, irqFirst := none } := by
  obtain ⟨x, hrec, hlong, hmade⟩ := loggedReg_fn k (ctxOfs c.val (ringOfs r 4)) (d.ring c.val r).cfg.toNat
    (ringCfgOf (d.ring c.val r).cfg v).toNat hup hroom
  refine ⟨x, hrec, hlong, ?_⟩
  simp [ringCfgWrite, hmade, hon, hoff]

/-- EN clear on a pair that has nothing left, with its sizes kept if it was enabled, leaves it disabled and no longer stopped (R278, R281). -/
theorem ringCfgWrite_disables (hoff : flag v 31 = false) (hidle : d.ringIdle c.val r = true)
    (hsizes : flag (d.ring c.val r).cfg 31 = true →
      fld (ringCfgOf (d.ring c.val r).cfg v) 12 8 = fld (d.ring c.val r).cfg 12 8 ∧
      fld (ringCfgOf (d.ring c.val r).cfg v) 4 0 = fld (d.ring c.val r).cfg 4 0) :
    ∃ x, RecordsOnly d x ∧ d.ringCfgWrite (.fn k) c.val r v = x.onRing c.val r fun x =>
      { x with cfg := ringCfgOf (d.ring c.val r).cfg v, stopped := false } := by
  obtain ⟨x, hrec, -, hmade⟩ := loggedReg_fn k (ctxOfs c.val (ringOfs r 4)) (d.ring c.val r).cfg.toNat
    (ringCfgOf (d.ring c.val r).cfg v).toNat hup hroom
  refine ⟨x, hrec, ?_⟩
  rw [ringCfgWrite, if_neg]
  · rw [hmade, hoff]
    rfl
  · cases hon : flag (d.ring c.val r).cfg 31 with
    | false => simp
    | true =>
      obtain ⟨hcq, hsq⟩ := hsizes hon
      simp [hcq, hsq, hidle]

end

end Dev

open Dev

/-! ### PERST_N (R394, R408) -/

section

variable {s : State} (hp : s.dev.powered = true)
include hp

/-- PERST_N does not power the station. -/
theorem live_perstN (level : Bool) (f : Dev → Dev) : ({ s.dev with pins := { s.dev.pins with perstN := level } }).live f =
    f { s.dev with pins := { s.dev.pins with perstN := level } } :=
  live_on _ f hp

/-- The link is reset as the level falls. -/
theorem perstN_falls (hhigh : s.dev.pins.perstN = true) :
    Becomes (.perstN false) s ({ s.dev with pins := { s.dev.pins with perstN := false } }).linkReset := by
  change execPerstN false s = _
  simp only [execPerstN, State.on_eq, hhigh, live_perstN hp, Bool.false_eq_true, if_false, if_true]

/-- As it rises, what waits for the host link goes on. -/
theorem perstN_rises :
    Becomes (.perstN true) s ({ s.dev with pins := { s.dev.pins with perstN := true } }).drainRings.finishRuns := by
  change execPerstN true s = _
  simp only [execPerstN, State.on_eq, live_perstN hp, if_true]

end

/-- Settles O24: each write is one of a function that may write the page, and its register's equation says what it leaves. -/
theorem contextCommandsComplete : Obligations.ContextCommandsComplete := by
  unfold Obligations.ContextCommandsComplete
  intro s ctx hp
  refine ⟨?registers, becomes_of_live rfl hp rfl, becomes_of_live rfl hp rfl, perstN_falls hp, perstN_rises hp⟩
  case registers =>
    intro org ring v hready huse hshut horg hopen
    obtain ⟨k, rfl, howns⟩ : ∃ k : CtxId, org = .fn k ∧ (k.val = 0 ∨ k.val = ctx.val) := by
      rcases horg with rfl | rfl
      · exact ⟨0, rfl, .inl rfl⟩
      · exact ⟨ctx, rfl, .inr rfl⟩
    have hpage : s.dev.WritesPage k ctx := ⟨hp, hready, huse, hshut, howns, hopen k rfl⟩
    refine ⟨becomes_of_live rfl hp (hpage.ctxWrite_eq (by decide) rfl _), fun hup hroom => ⟨?enable, ?disable, ?pairOn, ?pairOff⟩⟩
    case enable =>
      intro hon hclash
      obtain ⟨x, hrec, hlong, heq⟩ := enableWrite_eq (k := k) hup hready hroom hclash
      refine ⟨_, becomes_of_live rfl hp ((hpage.enableReg_eq v).trans ((if_pos hon).trans heq)), hlong, ?_⟩
      rw [← hrec.ctx]
      exact ctx_onCtx_self _ _ _
    case disable =>
      intro hoff n hn
      exact becomes_of_live rfl hp ((hpage.enableReg_eq v).trans ((if_neg (by simp [hoff])).trans (disableWrite_eq hup hn)))
    case pairOn =>
      intro hon hoff
      obtain ⟨x, hrec, hlong, heq⟩ := ringCfgWrite_enables (k := k) hup hroom hon hoff
      refine ⟨_, becomes_of_live rfl hp ((hpage.ringCfg_eq ring _).trans heq), hlong, ?_⟩
      rw [ring_onRing_self, hrec.ring]
    case pairOff =>
      intro hoff hidle hsizes
      obtain ⟨x, hrec, heq⟩ := ringCfgWrite_disables (k := k) hup hroom hoff hidle hsizes
      refine ⟨_, becomes_of_live rfl hp ((hpage.ringCfg_eq ring _).trans heq), ?_⟩
      rw [ring_onRing_self, hrec.ring]

end Sys2Proof.Machine
end

section
/-! PROOFS. What no command can do: move a fuse back (R345, R348), or act on a station without power but by its supply and its pins
(R305, R334, R413); and that the step runs the front command. -/

namespace Sys2Proof.Machine

open Dev

/-! ### The front of the queue -/

/-- Settles O1: the step takes the front command off the queue and runs it. -/
theorem stepRunsTheFrontCommand : Obligations.StepRunsTheFrontCommand := by
  unfold Obligations.StepRunsTheFrontCommand
  exact fun c s => step_cons s c

/-! ### Fuses -/

/-- A row moves no fuse back. -/
def MovesForward (row : State → Answer) : Prop := ∀ s t, row s = .next t → FusesForward s.dev.fuses t.dev.fuses

theorem movesForward_becomes {row : State → Answer}
    (h : ∀ s : State, ∃ d, row s = .next { s with dev := d } ∧ FusesForward s.dev.fuses d.fuses) : MovesForward row := by
  intro s t ht
  obtain ⟨d, hd, hf⟩ := h s
  cases hd.symm.trans ht
  exact hf

/-- A change that moves no fuse back moves none while the station has no power. -/
theorem live_forward {f : Dev → Dev} (h : ∀ d, FusesForward d.fuses (f d).fuses) (d : Dev) : FusesForward d.fuses (d.live f).fuses := by
  unfold live
  split
  · exact h d
  · exact .refl _

theorem movesForward_live {row : State → Answer} {f : Dev → Dev} (hx : ∀ s, row s = s.on fun d => d.live f)
    (h : ∀ d, FusesForward d.fuses (f d).fuses) : MovesForward row := movesForward_becomes fun s => ⟨_, hx s, live_forward h s.dev⟩

theorem movesForward_keeps {row : State → Answer} {f : Dev → Dev} (hx : ∀ s, row s = s.on fun d => d.live f)
    (h : ∀ d, (f d).fuses = d.fuses) : MovesForward row := movesForward_live hx fun d => .of_eq (h d)

/-- A row on the oldest descriptor of an opcode and phase keeps the fuses where its operation does. -/
theorem movesForward_job {row : State → Answer} {job : Dev → Option Job} {act : Dev → Job → Dev}
    (hx : ∀ s, row s = s.on fun d => d.live fun d => match job d with | some j => act d j | none => d)
    (h : ∀ d j, (act d j).fuses = d.fuses) : MovesForward row := by
  refine movesForward_keeps hx fun d => ?_
  split
  · exact h d _
  · rfl

/-- A change made only while the memory runs, or on another condition. -/
theorem ite_keeps_fuses {c : Prop} [Decidable c] {a b d : Dev} (ha : a.fuses = d.fuses) (hb : b.fuses = d.fuses) :
    (if c then a else b).fuses = d.fuses := by
  split
  · exact ha
  · exact hb

theorem ite_forward {c : Prop} [Decidable c] {a b d : Dev} (ha : FusesForward d.fuses a.fuses) (hb : FusesForward d.fuses b.fuses) :
    FusesForward d.fuses (if c then a else b).fuses := by
  split
  · exact ha
  · exact hb

/-- Only what lets an image run advances SVN, and nothing writes another fuse: each row by its operation's rule (R345, R348). -/
theorem exec_movesForward (c : Instr) : MovesForward (exec c) := by
  cases c with
  | nop core => exact movesForward_keeps (fun _ => rfl) fun d => d.doIf_fuses ..
  | halt core => exact movesForward_keeps (fun _ => rfl) fun d => d.doIf_fuses ..
  | phase core =>
    exact movesForward_keeps (fun _ => rfl) fun d => (Dev.doIf_fuses ..).trans (d.given_fuses _ _ (Dev.keepStandOff_fuses ..))
  | bar core => exact movesForward_keeps (fun _ => rfl) fun d => d.barIssue_fuses ..
  | mxm core | dist core | fsc core | recv core => exact movesForward_keeps (fun _ => rfl) fun d => d.issueIf_fuses ..
  | ldw core fs | vec core fs | cvt core fs | mov core fs | topkCmem core fs | topkScan core fs | topkMerge core fs | send core fs =>
    exact movesForward_keeps (fun _ => rfl) fun d => (Dev.issueIf_fuses ..).trans (d.found_fuses ..)
  | fusedStageIteration core run stage gap bubbles fs =>
    exact movesForward_keeps (fun _ => rfl) fun d => (Dev.coresGo_fuses ..).trans ((Dev.stageIteration_fuses ..).trans (d.found_fuses ..))
  | writeFill core | readEmpty core | readPeek core | fetchAddFull core | clear core | writeForce core =>
    exact movesForward_keeps (fun _ => rfl) fun d => d.feIssue_fuses ..
  | syncOpArrival arrival fs =>
    cases arrival with
    | spine leaf =>
      exact movesForward_keeps (fun _ => rfl) fun d => (Dev.coresGo_fuses ..).trans ((Dev.spineArrive_fuses ..).trans (d.found_fuses ..))
    | board port packet =>
      exact movesForward_keeps (fun _ => rfl) fun d =>
        (Dev.coresGo_fuses ..).trans ((Dev.boardStoreIn_fuses ..).trans ((Dev.found_fuses ..).trans (d.rouseAt_fuses ..)))
  | heldOpRepresent leaf fs =>
    exact movesForward_keeps (fun _ => rfl) fun d => (Dev.coresGo_fuses ..).trans ((Dev.represent_fuses ..).trans (d.found_fuses ..))
  | instructionComplete core unit fs =>
    exact movesForward_keeps (fun _ => rfl) fun d => (Dev.complete_fuses ..).trans (d.found_fuses ..)
  | mxmLoadBegin core => exact movesForward_keeps (fun _ => rfl) fun d => (Dev.coresGo_fuses ..).trans (d.loadBegin_fuses ..)
  | blockStreamBegin core gap bubbles fs =>
    exact movesForward_keeps (fun _ => rfl) fun d => (Dev.streamBegin_fuses ..).trans (d.found_fuses ..)
  | rowDrain core array => exact movesForward_keeps (fun _ => rfl) fun d => d.drainNext_fuses ..
  | keepwarmTimeout core slots => exact movesForward_keeps (fun _ => rfl) fun d => d.keepTimeout_fuses ..
  | keepwarmStepDown core => exact movesForward_keeps (fun _ => rfl) fun d => d.keepStep_fuses ..
  | phaseBoundary => exact movesForward_keeps (fun _ => rfl) fun d => d.given_fuses _ _ d.boundary_fuses
  | runStart => exact movesForward_keeps (fun _ => rfl) fun d => d.runStart_fuses
  | oppSwitchWindow =>
    refine movesForward_keeps (fun _ => rfl) fun d => ?_
    split
    · exact ite_keeps_fuses rfl (ite_keeps_fuses d.oppDrop_fuses ((Dev.oppDone_fuses ..).trans (Dev.reach_fuses ..)))
    · rfl
  | oppWindowResume ns =>
    refine movesForward_keeps (fun _ => rfl) fun d => ?_
    split
    · exact ite_keeps_fuses rfl rfl
    · rfl
  | oppChangeAbandon =>
    refine movesForward_keeps (fun _ => rfl) fun d => ?_
    split
    · exact ite_keeps_fuses ((Dev.oppDrop_fuses _).trans (Dev.reach_fuses ..)) rfl
    · rfl
  | droopCrossing core level => exact movesForward_keeps (fun _ => rfl) fun d => d.droop_fuses ..
  | stretchDecay core => exact movesForward_keeps (fun _ => rfl) fun d => d.onPwr_fuses ..
  | powerSample inMv10 inMa10 inW rails =>
    refine movesForward_keeps (fun _ => rfl) fun d => ?_
    exact (Dev.given_fuses _ _ _ (Dev.limiterStep_fuses _)).trans (Dev.learn_fuses ..)
  | thermalSample l => exact movesForward_keeps (fun _ => rfl) fun d => d.readHeat_fuses ..
  | thermalStep =>
    refine movesForward_keeps (fun _ => rfl) fun d => ite_keeps_fuses rfl ?_
    refine (Dev.thermAlert_fuses _).trans ((Dev.logSafety_fuses ..).trans ?_)
    dsimp only
    split <;> rfl
  | thermalStepUndo =>
    refine movesForward_keeps (fun _ => rfl) fun d => ?_
    dsimp only
    split
    · exact ite_keeps_fuses rfl ((Dev.thermAlert_fuses _).trans (Dev.log_fuses ..))
    · rfl
  | thermalStop =>
    refine movesForward_keeps (fun _ => rfl) fun d => ite_keeps_fuses (d.stopStation_fuses ..) ?_
    split
    · exact ite_keeps_fuses (Dev.stopStation_fuses ..) rfl
    · rfl
  | boostAccounting =>
    exact movesForward_keeps (fun _ => rfl) fun d => ite_keeps_fuses rfl ((Dev.judgeBoost_fuses _).trans (d.accountBoost_fuses ..))
  | boostFlashUpdate => exact movesForward_keeps (fun _ => rfl) fun d => ite_keeps_fuses rfl rfl
  | coolantFaultLow | coolantFaultHigh =>
    refine movesForward_becomes fun s => ⟨_, rfl, .of_eq ?_⟩
    exact ite_keeps_fuses rfl rfl
  | coolantStop =>
    refine movesForward_keeps (fun _ => rfl) fun d => ?_
    split
    · exact ite_keeps_fuses (Dev.stopStation_fuses ..) rfl
    · rfl
  | pwrStopResume org v => exact movesForward_keeps (fun _ => rfl) fun d => d.stopWrite_fuses ..
  | idleEntry => exact movesForward_keeps (fun _ => rfl) fun d => ite_keeps_fuses rfl (d.enterIdle_fuses ..)
  | idleWake => exact movesForward_keeps (fun _ => rfl) fun d => d.awake_fuses
  | unannouncedWake => exact movesForward_keeps (fun _ => rfl) fun d => d.rouse_fuses
  | sqTailDoorbell fn o size v | cqHeadDoorbell fn o size v => exact movesForward_keeps (fun _ => rfl) fun d => d.doorbell_fuses ..
  | descriptorFetch ctx ring resp => exact movesForward_keeps (fun _ => rfl) fun d => d.fetch_fuses ..
  | descriptorAccept ctx => exact movesForward_keeps (fun _ => rfl) fun d => d.acceptNext_fuses ..
  | item ctx input => exact movesForward_keeps (fun _ => rfl) fun d => d.itemInput_fuses ..
  | run ctx =>
    refine movesForward_keeps (fun _ => rfl) fun d => ?_
    split
    · exact ite_keeps_fuses d.tryRun_fuses rfl
    · rfl
  | abort ctx ring => exact movesForward_keeps (fun _ => rfl) fun d => d.abortRing_fuses ..
  | bindLoad ctx container => exact movesForward_job (fun _ => rfl) fun d j => ite_keeps_fuses (d.bindLoad_fuses ..) rfl
  | bindSwitch ctx => exact movesForward_job (fun _ => rfl) fun d j => ite_keeps_fuses (d.bindSwitch_fuses ..) rfl
  | gatherForm ctx record => exact movesForward_job (fun _ => rfl) fun d j => d.gatherForm_fuses ..
  | formationMessage port packet =>
    exact movesForward_keeps (fun _ => rfl) fun d => (Dev.formationIn_fuses ..).trans (d.rouseAt_fuses ..)
  | gatherFormTimeout =>
    refine movesForward_keeps (fun _ => rfl) fun d => ?_
    split
    · exact ite_keeps_fuses (Dev.reach_fuses ..) ((Dev.formFails_fuses ..).trans (Dev.reach_fuses ..))
    · rfl
  | gatherRelease ctx => exact movesForward_job (fun _ => rfl) fun d j => ite_keeps_fuses (d.gatherRelease_fuses ..) rfl
  | editionLoad ctx manifest image => exact movesForward_job (fun _ => rfl) fun d j => ite_keeps_fuses (d.editionLoad_fuses ..) rfl
  | editionUnload ctx => exact movesForward_job (fun _ => rfl) fun d j => ite_keeps_fuses (d.editionUnload_fuses ..) rfl
  | digestInstall ctx entries => exact movesForward_job (fun _ => rfl) fun d j => d.digestInstall_fuses ..
  | digestRemove ctx => exact movesForward_job (fun _ => rfl) fun d j => d.digestRemove_fuses ..
  | bindPassStart ctx => exact movesForward_keeps (fun _ => rfl) fun d => ite_keeps_fuses (d.passBegin_fuses ..) rfl
  | bindPassEnd ctx => exact movesForward_keeps (fun _ => rfl) fun d => ite_keeps_fuses (d.passFinish_fuses ..) rfl
  | stage ctx manifest image => exact movesForward_job (fun _ => rfl) fun d j => ite_keeps_fuses (d.kettleStage_fuses ..) rfl
  | close ctx => exact movesForward_job (fun _ => rfl) fun d j => d.closing_fuses ..
  | barrierClosed ctx => exact movesForward_keeps (fun _ => rfl) fun d => d.barrierShuts_fuses ..
  | commit ctx => exact movesForward_job (fun _ => rfl) fun d j => ite_keeps_fuses (d.commitStart_fuses ..) rfl
  | commitWrite ctx =>
    refine movesForward_job (fun _ => rfl) fun d j => ite_keeps_fuses rfl ?_
    split
    · exact (Dev.commitGo_fuses ..).trans (d.spend_fuses ..)
    · exact d.commitRefused_fuses ..
  | kettleOpen ctx => exact movesForward_job (fun _ => rfl) fun d j => d.kettleOpens_fuses ..
  | replace ctx => exact movesForward_keeps (fun _ => rfl) fun d => ite_keeps_fuses (d.replaceGo_fuses ..) rfl
  | map ctx => exact movesForward_job (fun _ => rfl) fun d j => ite_keeps_fuses (d.mapDesc_fuses ..) rfl
  | mapFramesReady => exact movesForward_keeps (fun _ => rfl) fun d => ite_keeps_fuses d.mapReady_fuses rfl
  | unmap ctx => exact movesForward_job (fun _ => rfl) fun d j => ite_keeps_fuses (d.unmapDesc_fuses ..) rfl
  | frameClear cxl frame => exact movesForward_keeps (fun _ => rfl) fun d => ite_keeps_fuses (d.clearFrame_fuses ..) rfl
  | copy ctx data fs =>
    exact movesForward_job (fun _ => rfl) fun d j => ite_keeps_fuses ((Dev.copyDesc_fuses ..).trans (d.found_fuses ..)) rfl
  | colophonDrain ctx =>
    exact movesForward_job (fun _ => rfl) fun d j => ite_keeps_fuses ((Dev.cxlDueGo_fuses _).trans (d.drainDesc_fuses ..)) rfl
  | itemResultCopy fs => exact movesForward_keeps (fun _ => rfl) fun d => (Dev.resultCopy_fuses _).trans (d.found_fuses ..)
  | irqModerationTimeout ctx ring => exact movesForward_keeps (fun _ => rfl) fun d => d.moderationTime_fuses ..
  | contextEnable org ctx v | contextDisable org ctx v => exact movesForward_keeps (fun _ => rfl) fun d => d.enableReg_fuses ..
  | ringPairEnable org ctx ring v | ringPairDisable org ctx ring v =>
    exact movesForward_keeps (fun _ => rfl) fun d => d.ctxWrite_fuses _ _ _ _ fun d => d.ringCfgWrite_fuses ..
  | ctxAbort org ctx v =>
    exact movesForward_keeps (fun _ => rfl) fun d => d.ctxWrite_fuses _ _ _ _ fun d => (Dev.accepted_fuses ..).trans (d.abortReg_fuses ..)
  | functionLevelReset fn => exact movesForward_keeps (fun _ => rfl) fun d => d.flr_fuses ..
  | perstN level =>
    refine movesForward_becomes fun s => ⟨_, rfl, ?_⟩
    refine ite_forward ?_ (ite_forward ?_ (.refl _))
    · exact .of_eq (Dev.live_fuses _ _ ((Dev.finishRuns_fuses _).trans (Dev.drainRings_fuses _)))
    · exact .of_eq (Dev.live_fuses _ _ (Dev.linkReset_fuses _))
  | hotReset => exact movesForward_keeps (fun _ => rfl) fun d => d.linkReset_fuses
  | info via arg | fwBegin via arg | fwActivate via arg | restart via arg | logRead via arg | dumpRead via arg | telemetry via arg
  | shutdown via arg => exact movesForward_live (fun _ => rfl) fun d => d.mbxVia_up ..
  | fwEnd via arg ok => exact movesForward_live (fun _ => rfl) fun d => d.mbxVia_up ..
  | shutdownFinish => exact movesForward_keeps (fun _ => rfl) fun d => d.shutdownEnd_fuses
  | mbxDataWrite org w =>
    exact movesForward_keeps (fun _ => rfl) fun d => d.pfOnly_fuses _ _ _ fun d => (Dev.accepted_fuses ..).trans (d.mbxPush_fuses ..)
  | mbxDataRead org => exact movesForward_keeps (fun _ => rfl) fun d => ite_keeps_fuses d.mbxPop_fuses rfl
  | finisherRestartDone ok => exact movesForward_live (fun _ => rfl) fun d => d.restartRead_up ok
  | finisherWatchdog dump =>
    refine movesForward_keeps (fun _ => rfl) fun d => ite_keeps_fuses rfl ((Dev.restartBegin_fuses _).trans ?_)
    exact ite_keeps_fuses rfl rfl
  | regRead req =>
    exact movesForward_keeps (fun _ => rfl) fun d =>
      ite_keeps_fuses rfl ((Dev.mgmtReply_fuses ..).trans ((Dev.readBar0_fuses ..).trans d.rouse_fuses))
  | regWrite via o v => exact movesForward_live (fun _ => rfl) fun d => d.writeReg_up ..
  | mctpMailbox via cmd arg ws =>
    exact movesForward_live (fun _ => rfl) fun d => ite_forward (.trans (.of_eq (d.freeFlash_fuses)) (Dev.mbxMctp_up ..)) (d.mbxMctp_up ..)
  | setEndpointId m eid => exact movesForward_keeps (fun _ => rfl) fun d => d.setEid_fuses ..
  | requestFirmwareData o data => exact movesForward_keeps (fun _ => rfl) fun d => d.pldmData_fuses ..
  | activateFirmware => exact movesForward_keeps (fun _ => rfl) fun d => d.pldmActivate_fuses
  | requestUpdate => exact movesForward_keeps (fun _ => rfl) fun d => d.pldmBegin_fuses
  | setEventReceiver m eid => exact movesForward_keeps (fun _ => rfl) fun d => d.serveOn_fuses _ _ fun d => Dev.say_fuses ..
  | sensorRefresh => exact movesForward_keeps (fun _ => rfl) fun d => d.refresh_fuses
  | spdmRequest msg => exact movesForward_keeps (fun _ => rfl) fun d => d.spdm_fuses ..
  | setContextKey n ctx key => exact movesForward_keeps (fun _ => rfl) fun d => d.setKey_fuses ..
  | ideKm n req => exact movesForward_keeps (fun _ => rfl) fun d => d.ide_fuses ..
  | ideNotSecure => exact movesForward_keeps (fun _ => rfl) fun d => ite_keeps_fuses rfl rfl
  | unlockTokenWord org w => exact movesForward_keeps (fun _ => rfl) fun d => d.tokenWord_fuses ..
  | unlockLockoutExpiry => exact movesForward_keeps (fun _ => rfl) fun d => ite_keeps_fuses rfl rfl
  | jtagInstruction req => exact movesForward_live (fun _ => rfl) fun d => d.jtagDo_up req
  | anchorCommit org ctx v | anchorRemove org ctx v => exact movesForward_keeps (fun _ => rfl) fun d => d.anchorWrite_fuses ..
  | planApply org v => exact movesForward_keeps (fun _ => rfl) fun d => d.written_fuses _ _ _ fun d => d.planWrite_fuses ..
  | cordStateAdvance port cord lanes gbps => exact movesForward_keeps (fun _ => rfl) fun d => d.cordAdvance_fuses ..
  | cordTrainingTimeout port cord => exact movesForward_keeps (fun _ => rfl) fun d => d.cordLate_fuses ..
  | cordDrop port cord => exact movesForward_keeps (fun _ => rfl) fun d => d.dropCord_fuses ..
  | cordRetrain port cord => exact movesForward_keeps (fun _ => rfl) fun d => d.retrain_fuses ..
  | cordSet port msg => exact movesForward_keeps (fun _ => rfl) fun d => d.cordSetIn_fuses ..
  | cordPower port msg => exact movesForward_keeps (fun _ => rfl) fun d => d.cordPowerIn_fuses ..
  | cordWake port => exact movesForward_keeps (fun _ => rfl) fun d => d.wakeCords_fuses ..
  | stopping port msg => exact movesForward_keeps (fun _ => rfl) fun d => d.stoppingIn_fuses ..
  | portLost port => exact movesForward_keeps (fun _ => rfl) fun d => d.portLoses_fuses ..
  | helloSend port => exact movesForward_keeps (fun _ => rfl) fun d => ite_keeps_fuses rfl (d.linkOut_fuses ..)
  | helloReceive port msg => exact movesForward_keeps (fun _ => rfl) fun d => d.helloIn_fuses ..
  | helloTimeout port =>
    refine movesForward_keeps (fun _ => rfl) fun d => ?_
    split
    · exact ite_keeps_fuses ((Dev.lostPort_fuses ..).trans (d.reach_fuses ..)) rfl
    · rfl
  | portAbsent port => exact movesForward_keeps (fun _ => rfl) fun d => d.absent_fuses ..
  | moduleFlag port cord => exact movesForward_keeps (fun _ => rfl) fun d => d.moduleFlag_fuses ..
  | keyCert port msg => exact movesForward_keeps (fun _ => rfl) fun d => d.certIn_fuses ..
  | keyShare port msg => exact movesForward_keeps (fun _ => rfl) fun d => d.shareIn_fuses ..
  | keySwitch port msg => exact movesForward_keeps (fun _ => rfl) fun d => d.switchIn_fuses ..
  | keyEpochRenewal port => exact movesForward_keeps (fun _ => rfl) fun d => ite_keeps_fuses (d.sendShare_fuses ..) rfl
  | keyAgreementRetry port =>
    exact movesForward_keeps (fun _ => rfl) fun d => ite_keeps_fuses rfl ((Dev.agreeAgain_fuses ..).trans (d.reach_fuses ..))
  | tagGroupClose port => exact movesForward_keeps (fun _ => rfl) fun d => d.closeGroup_fuses ..
  | tagFlit port flit => exact movesForward_keeps (fun _ => rfl) fun d => ite_keeps_fuses rfl (d.flitIn_fuses ..)
  | transit port msg => exact movesForward_keeps (fun _ => rfl) fun d => d.transitIn_fuses ..
  | timeSyncExchange =>
    exact movesForward_keeps (fun _ => rfl) fun d => ite_keeps_fuses rfl (ite_keeps_fuses (d.linkOut_fuses ..) rfl)
  | timeSync port t1 t2 t3 t4 => exact movesForward_keeps (fun _ => rfl) fun d => d.timeSync_fuses ..
  | timeSteer port ppm at_ => exact movesForward_keeps (fun _ => rfl) fun d => d.steerIn_fuses ..
  | timeSteerApply =>
    refine movesForward_keeps (fun _ => rfl) fun d => ?_
    split <;> rfl
  | flitReceive port flit => exact movesForward_keeps (fun _ => rfl) fun d => d.flitIn_fuses ..
  | nakReceive port number => exact movesForward_keeps (fun _ => rfl) fun d => ite_keeps_fuses rfl (d.nakIn_fuses ..)
  | ackTimer port => exact movesForward_keeps (fun _ => rfl) fun d => ite_keeps_fuses rfl (d.sendAcks_fuses ..)
  | signatureArrival port packet => exact movesForward_keeps (fun _ => rfl) fun d => (Dev.sigArrive_fuses ..).trans (d.rouseAt_fuses ..)
  | signaturePlacement => exact movesForward_keeps (fun _ => rfl) fun d => d.placeNext_fuses
  | injectionBegin fs => exact movesForward_keeps (fun _ => rfl) fun d => (Dev.inject_fuses _).trans (d.found_fuses ..)
  | signatureBuildDone leaf => exact movesForward_keeps (fun _ => rfl) fun d => d.buildDone_fuses ..
  | activationMessage port packet | shortlistPacket port packet =>
    exact movesForward_keeps (fun _ => rfl) fun d =>
      (Dev.coresGo_fuses ..).trans ((Dev.transferPacket_fuses ..).trans (d.rouseAt_fuses ..))
  | boardStore port packet =>
    exact movesForward_keeps (fun _ => rfl) fun d => (Dev.coresGo_fuses ..).trans ((Dev.boardStoreIn_fuses ..).trans (d.rouseAt_fuses ..))
  | boardLoadRequest port packet => exact movesForward_keeps (fun _ => rfl) fun d => (Dev.boardLoadIn_fuses ..).trans (d.rouseAt_fuses ..)
  | boardLoadResponse port packet =>
    exact movesForward_keeps (fun _ => rfl) fun d =>
      (Dev.coresGo_fuses ..).trans ((Dev.boardResponseIn_fuses ..).trans (d.rouseAt_fuses ..))
  | acknowledgement port packet =>
    exact movesForward_keeps (fun _ => rfl) fun d => (Dev.coresGo_fuses ..).trans ((Dev.ackArrive_fuses ..).trans (d.rouseAt_fuses ..))
  | lagExpiry src tag => exact movesForward_keeps (fun _ => rfl) fun d => (Dev.coresGo_fuses ..).trans (d.lagExpire_fuses ..)
  | controlStart port packet => exact movesForward_keeps (fun _ => rfl) fun d => (Dev.controlStart_fuses ..).trans (d.rouseAt_fuses ..)
  | controlAbort port packet => exact movesForward_keeps (fun _ => rfl) fun d => (Dev.controlAbort_fuses ..).trans (d.rouseAt_fuses ..)
  | passStart mb => exact movesForward_keeps (fun _ => rfl) fun d => d.passStart_fuses ..
  | scrubSweepStart ctx fs =>
    refine movesForward_keeps (fun _ => rfl) fun d => ?_
    have hawake := d.given_fuses (d.sweepDue ctx.val).isSome _ d.awake_fuses
    exact ite_keeps_fuses ((Dev.scrubSweep_fuses ..).trans ((Dev.found_fuses ..).trans hawake)) hawake
  | patrol frame fs => exact movesForward_keeps (fun _ => rfl) fun d => ite_keeps_fuses (d.found_fuses ..) rfl
  | frameRetirement frame => exact movesForward_keeps (fun _ => rfl) fun d => ite_keeps_fuses (d.retire_fuses ..) rfl
  | cxlTimeout device ctx va write => exact movesForward_keeps (fun _ => rfl) fun d => d.cxlTimedOut_fuses ..
  | cxlLinkDown device => exact movesForward_keeps (fun _ => rfl) fun d => ite_keeps_fuses (d.cxlLost_fuses ..) rfl
  | cxlEnumerate org v => exact movesForward_keeps (fun _ => rfl) fun d => d.written_fuses _ _ _ fun d => d.cxlCfgWrite_fuses ..
  | cxlReadyTimeout => exact movesForward_keeps (fun _ => rfl) fun d => d.onMem_fuses ..
  | cxlEventRecord device record => exact movesForward_keeps (fun _ => rfl) fun d => ite_keeps_fuses rfl (d.log_fuses ..)
  | cxlMediaReady device mib => exact movesForward_keeps (fun _ => rfl) fun d => d.cxlReady_fuses ..
  | stallDetected index => exact movesForward_keeps (fun _ => rfl) fun d => d.stallFound_fuses ..
  | stallListRead org => exact movesForward_keeps (fun _ => rfl) fun d => d.readOut_fuses ..
  | loReadLatch org o wide => exact movesForward_keeps (fun _ => rfl) fun d => d.readOut_fuses ..
  | hiReadLatched org o => exact movesForward_keeps (fun _ => rfl) fun d => d.readOut_fuses ..
  | checkpoint => exact movesForward_keeps (fun _ => rfl) fun d => d.checkpointDue_fuses
  | coreFault core kind => exact movesForward_keeps (fun _ => rfl) fun d => d.coreFault_fuses ..
  | coreRetestRequest org v => exact movesForward_keeps (fun _ => rfl) fun d => d.retestWrite_fuses ..
  | coreRetest core passed => exact movesForward_keeps (fun _ => rfl) fun d => d.retestEnd_fuses ..
  | internalFault leaf unit => exact movesForward_keeps (fun _ => rfl) fun d => d.internalError_fuses ..
  | leafTestEnd passed => exact movesForward_keeps (fun _ => rfl) fun d => d.leafTested_fuses ..
  | powerUp pos ok | hotswapClose pos ok =>
    refine movesForward_becomes fun s => ⟨_, rfl, ?_⟩
    exact ite_forward (Dev.powerOn_up ..) (.refl _)
  | gddr7Trained ok => exact movesForward_keeps (fun _ => rfl) fun d => d.memoryTrained_fuses ..
  | stationReady => exact movesForward_keeps (fun _ => rfl) fun d => d.ready_fuses
  | supplyCollapse | moduleRemoval => exact movesForward_becomes fun s => ⟨_, rfl, .of_eq (Dev.withoutPower_fuses ..)⟩
  | hotswapOpen =>
    refine movesForward_becomes fun s => ⟨_, rfl, .of_eq ?_⟩
    exact ite_keeps_fuses (Dev.withoutPower_fuses ..) rfl
  | refclkLoss =>
    refine movesForward_becomes fun s => ⟨_, rfl, ?_⟩
    exact .refl s.dev.fuses
  | referenceClockReturn =>
    refine movesForward_becomes fun s => ⟨_, rfl, ?_⟩
    refine live_forward (fun d => ?_) { s.dev with pins := { s.dev.pins with refclk := true } }
    split
    · exact d.coldBoot_up _
    · exact .refl _
  | resetContexts org v | resetCxl org v | resetPorts org v => exact movesForward_keeps (fun _ => rfl) fun d => d.globReset_fuses ..
  | dbgSyncSetForce org v | dbgSyncSetClear org v => exact movesForward_keeps (fun _ => rfl) fun d => d.handSet_fuses ..
  | lnkStagePeakReset org leaf v => exact movesForward_keeps (fun _ => rfl) fun d => d.peakReset_fuses ..
  | bar0BadAccess org write o size =>
    exact movesForward_keeps (fun _ => rfl) fun d => ite_keeps_fuses rfl (ite_keeps_fuses (d.badWrite_fuses ..) rfl)
  | boardWindowAccess o acc => exact movesForward_keeps (fun _ => rfl) fun d => d.window_fuses ..
  | registerWrite org o wide v =>
    exact movesForward_live (fun _ => rfl) fun d =>
      ite_forward (.of_eq (d.standardWrite_fuses ..)) (ite_forward (d.writeWide_up ..) (d.writeReg_up ..))

/-- Settles O54: a step is a row, and no row moves a fuse back, or a cycle of the reference, which touches none. -/
theorem fusesOnlyMoveForward : Obligations.FusesOnlyMoveForward := by
  unfold Obligations.FusesOnlyMoveForward
  intro f s t hf hstep
  refine hf.trans ?_
  cases hq : s.pending with
  | nil =>
    rw [step_nil s hq] at hstep
    cases hstep
    exact .of_eq (Dev.tick_fuses _)
  | cons c rest =>
    have hexec : exec c { s with pending := rest } = .next t := by rwa [step, hq] at hstep
    exact exec_movesForward c { s with pending := rest } t hexec

/-! ### Without power -/

/-- A row that acts only on a powered station leaves an unpowered one as it is. -/
theorem becomes_of_unpowered {i : Instr} {s : State} {f : Dev → Dev} (hx : exec i s = s.on fun d => d.live f)
    (hp : s.dev.powered = false) : Becomes i s s.dev := by
  rw [Becomes, hx, State.on_eq, live_off _ _ hp]

/-- A hot-swap controller that is not closed has nothing to open. -/
theorem hotswapOpen_unpowered {s : State} (hp : s.dev.powered = false) : Becomes .hotswapOpen s s.dev := by
  have hoff : (s.dev.supply == .on) = false := hp
  change State.on s _ = _
  simp only [State.on_eq, hoff, Bool.false_eq_true, if_false]

/-- Settles O46: every row but those of the supply and the pins acts only on a powered station. -/
theorem nothingHappensWithoutPower : Obligations.NothingHappensWithoutPower := by
  unfold Obligations.NothingHappensWithoutPower
  intro c s hp
  cases c with
  | powerUp pos ok => exact .inr (.inl ⟨pos, ok, rfl⟩)
  | hotswapClose pos ok => exact .inr (.inr (.inl ⟨pos, ok, rfl⟩))
  | perstN level => simp
  | supplyCollapse | moduleRemoval | refclkLoss | referenceClockReturn | coolantFaultLow | coolantFaultHigh => simp
  | hotswapOpen => exact .inl (hotswapOpen_unpowered hp)
  | _ => exact .inl (becomes_of_unpowered rfl hp)

end Sys2Proof.Machine
end

section
/-! PROOFS. The bytes of an entry of the colophon, what an entry and a refused change leave of the station, and the statements on entries,
logged changes, refusals, drains, the SVN, refused tokens and changes of operating point (R313, R348, R359, R361 to R367, R396, R397). -/

namespace Sys2Proof.Machine

/-! ### Little-endian numbers in strings (R7) -/

@[simp] theorem length_leBytes (n x : Nat) : (leBytes n x).length = n := by
  induction n generalizing x with
  | zero => rfl
  | succ n ih => simp [leBytes, ih]

theorem le_cons (y : Byte) (b : Bytes) (i n : Nat) : le (y :: b) (i + 1) n = le b i n := by
  induction n generalizing i with
  | zero => rfl
  | succ n ih => simp [le, ih, u8]

/-- The number at the front of a string is the one that was written there, in as many bytes. -/
theorem le_leBytes_append (n x : Nat) (b : Bytes) : le (leBytes n x ++ b) 0 n = x % 256 ^ n := by
  induction n generalizing x with
  | zero => simp [le, Nat.mod_one]
  | succ n ih =>
    rw [leBytes, List.cons_append, le, le_cons, ih, pow_succ', Nat.mod_mul]
    simp [u8, byte]

theorem u64_leBytes_append {x : Nat} (hx : x < 2 ^ 64) (b : Bytes) : u64 (leBytes 8 x ++ b) 0 = x := by
  rw [u64, le_leBytes_append, Nat.mod_eq_of_lt (by omega)]

@[simp] theorem length_sha256 (b : Bytes) : (sha256 b).length = 32 := by simp [sha256, beBytes]

@[simp] theorem length_colBody (time origin flags ctx cls obj old new detail : Nat) :
    (Dev.colBody time origin flags ctx cls obj old new detail).length = 40 := by simp [Dev.colBody]

namespace Dev

/-! ### Entries (R362, R364) -/

/-- The entry that a body becomes: SEQ and the chain are put around it. -/
def entryOf (d : Dev) (body : Bytes) : Bytes :=
  (leBytes 8 d.col.seq ++ body) ++ (sha256 (d.col.chain ++ (leBytes 8 d.col.seq ++ body))).take 16

variable (d : Dev)

theorem sub_entryOf {body : Bytes} (h : body.length = 40) : sub (d.entryOf body) 8 40 = body := by
  rw [entryOf, List.append_assoc, sub, List.drop_left' (length_leBytes ..), List.take_left' h]

theorem colPutMain_col (body : Bytes) : (d.colPutMain body).col = { d.col with
    seq := min (d.col.seq + 1) (2 ^ 64 - 1), chain := (sha256 (d.col.chain ++ (leBytes 8 d.col.seq ++ body))).take 16,
    sinceCkpt := d.col.sinceCkpt + 1, main := d.col.main ++ [d.entryOf body] } := colLevel_col _

theorem colPutReserved_col (body : Bytes) : (d.colPutReserved body).col = { d.col with
    seq := min (d.col.seq + 1) (2 ^ 64 - 1), chain := (sha256 (d.col.chain ++ (leBytes 8 d.col.seq ++ body))).take 16,
    sinceCkpt := d.col.sinceCkpt + 1, reserved := d.col.reserved ++ [d.entryOf body], resUsed := true } := cause_col _

theorem msix_flash (c v : Nat) : (d.msix c v).flash = d.flash := by
  unfold msix
  split <;> rfl

theorem cause_flash (b : Nat) : (d.cause b).flash = d.flash := by
  unfold cause
  dsimp only
  split
  · exact msix_flash ..
  · rfl

theorem colPutMain_flash (body : Bytes) : (d.colPutMain body).flash = d.flash := by
  unfold colPutMain colLevel
  dsimp only
  split
  · exact cause_flash ..
  · rfl

end Dev

open Dev

/-- Settles O43: an entry of the main area is its head, its body and the chain. -/
theorem entriesFormAChain : Obligations.EntriesFormAChain := by
  unfold Obligations.EntriesFormAChain
  intro d body hbody hseq
  have hrec := colPutMain_recordsOnly d body
  have hnext : min (d.col.seq + 1) (2 ^ 64 - 1) = d.col.seq + 1 := by omega
  dsimp only
  rw [colPutMain_col, hnext]
  refine ⟨rfl, ?length, ?seq, rfl, rfl, rfl, rfl, hrec.mem, hrec.cores, hrec.ctxs, colPutMain_flash d body⟩
  case length => simp [hbody]
  case seq => rw [List.append_assoc, u64_leBytes_append (by omega)]

/-! ### Replies and refusals (R378, R396, R397) -/

/-- Between the two states of the station only replies left it: beside the outbox only the message numbers of sessions have changed. -/
structure RepliesOnly (d t : Dev) : Prop where
  station : { t with out := d.out, sec := d.sec } = d
  sec : { t.sec with sessions := d.sec.sessions } = d.sec

namespace RepliesOnly

theorem refl (d : Dev) : RepliesOnly d d := ⟨rfl, rfl⟩

theorem trans {d t u : Dev} (h : RepliesOnly d t) (k : RepliesOnly t u) : RepliesOnly d u where
  station := (congrArg (fun x : Dev => { x with out := d.out, sec := d.sec }) k.station).trans h.station
  sec := (congrArg (fun x : Sec => { x with sessions := d.sec.sessions }) k.sec).trans h.sec

section
variable {d t : Dev} (h : RepliesOnly d t)
include h

theorem mem : t.mem = d.mem := (congrArg Dev.mem h.station :)
theorem ctxs : t.ctxs = d.ctxs := (congrArg Dev.ctxs h.station :)
theorem glb : t.glb = d.glb := (congrArg Dev.glb h.station :)
theorem col : t.col = d.col := (congrArg Dev.col h.station :)
theorem boot : t.boot = d.boot := (congrArg Dev.boot h.station :)

end

end RepliesOnly

namespace Dev

variable (d : Dev)

theorem say_repliesOnly (c : Carrier) (type : Nat) (b : Bytes) : RepliesOnly d (d.say c type b) := by
  unfold say given
  split
  · exact ⟨rfl, rfl⟩
  · exact .refl d

theorem sessions_repliesOnly (l : List Session) : RepliesOnly d { d with sec := { d.sec with sessions := l } } := ⟨rfl, rfl⟩

theorem saySealed_repliesOnly (s : Session) (type : Nat) (b : Bytes) : RepliesOnly d (d.saySealed s type b) := by
  unfold saySealed
  exact (sessions_repliesOnly d _).trans (say_repliesOnly _ _ _ _)

theorem answer_repliesOnly (c : Carrier) (session : Option Nat) (type : Nat) (b : Bytes) : RepliesOnly d (d.answer c session type b) := by
  unfold answer
  split
  · split
    · exact saySealed_repliesOnly ..
    · exact say_repliesOnly ..
  · exact say_repliesOnly ..

theorem mgmtReply_repliesOnly (m : Mctp) (st : Status) (l : List Word) : RepliesOnly d (d.mgmtReply m st l) := answer_repliesOnly ..

theorem accepted_repliesOnly (org : Origin) : RepliesOnly d (d.accepted org) := by
  cases org with
  | mgmt m => exact mgmtReply_repliesOnly ..
  | fn c => exact .refl d
  | jtag => exact .refl d

/-- GLB_REFUSE with a refused write, where it holds none (R397). -/
def refuseCaptured (org : Origin) (ofs : Nat) (st : Status) : Glb :=
  if flag d.glb.refuse 31 then d.glb else { d.glb with
    refuse := word (2 ^ 31 + originCode org * 2 ^ 27 + originCtx org * 2 ^ 16 + st.toNat * 2 ^ 8), refuseOfs := word (ofs % 2 ^ 24) }

/-- The station with a refused write captured, before its origin is told (R397). -/
def refusalNoted (org : Origin) (ofs : Nat) (st : Status) : Dev :=
  let d1 := { d with glb := d.refuseCaptured org ofs st }
  match pageOf ofs with
  | some (c, o) => d1.onRegs c fun r => { r with regRefuse := capture r.regRefuse (st.toNat * 2 ^ 16 + o) }
  | none => d1

variable {d} {org : Origin} {ofs : Nat} {st : Status}

theorem refuse_eq : d.refuse org ofs st = match org with
    | .mgmt m => (d.refusalNoted org ofs st).mgmtReply m st []
    | _ => d.refusalNoted org ofs st := by
  unfold refuse refusalNoted refuseCaptured
  split <;> rfl

theorem refuse_direct (h : ∀ m, org ≠ .mgmt m) : d.refuse org ofs st = d.refusalNoted org ofs st := by
  rw [refuse_eq]
  cases org with
  | mgmt m => exact absurd rfl (h m)
  | fn c => rfl
  | jtag => rfl

theorem refuse_repliesOnly : RepliesOnly (d.refusalNoted org ofs st) (d.refuse org ofs st) := by
  rw [refuse_eq]
  cases org with
  | mgmt m => exact mgmtReply_repliesOnly ..
  | fn c => exact .refl _
  | jtag => exact .refl _

/-- Nothing but GLB_REFUSE and the context's own register takes the capture. -/
theorem refusalNoted_frame : { d.refusalNoted org ofs st with glb := d.glb, ctxs := d.ctxs } = d := by
  unfold refusalNoted
  dsimp only
  split <;> rfl

theorem refusalNoted_glb : (d.refusalNoted org ofs st).glb = d.refuseCaptured org ofs st := by
  unfold refusalNoted
  dsimp only
  split <;> rfl

theorem refusalNoted_ctxs (h : pageOf ofs = none) : (d.refusalNoted org ofs st).ctxs = d.ctxs := by simp only [refusalNoted, h]

theorem refusalNoted_page {c o : Nat} (h : pageOf ofs = some (c, o)) : d.refusalNoted org ofs st =
    ({ d with glb := d.refuseCaptured org ofs st }).onRegs c fun r =>
      { r with regRefuse := capture r.regRefuse (st.toNat * 2 ^ 16 + o) } := by simp only [refusalNoted, h]

theorem refuse_glb : (d.refuse org ofs st).glb = d.refuseCaptured org ofs st := refuse_repliesOnly.glb.trans refusalNoted_glb

theorem refuse_col : (d.refuse org ofs st).col = d.col :=
  refuse_repliesOnly.col.trans (congrArg Dev.col refusalNoted_frame :)

theorem ctx_of_ctxs {t : Dev} (h : t.ctxs = d.ctxs) (c : Nat) : t.ctx c = d.ctx c := by rw [ctx, ctx, h]

theorem originCode_lt (org : Origin) : originCode org < 8 := by
  cases org with
  | fn c => simp only [originCode]; split <;> omega
  | mgmt m => simp [originCode]
  | jtag => simp [originCode]

theorem originCtx_lt (org : Origin) : originCtx org < 64 := by
  cases org with
  | fn c => exact c.isLt
  | mgmt m => simp [originCtx]
  | jtag => simp [originCtx]

/-- The fields of a capture in an empty GLB_REFUSE (R397). -/
theorem refuseCaptured_fields (h : flag d.glb.refuse 31 = false) :
    flag (d.refuseCaptured org ofs st).refuse 31 = true ∧ fld (d.refuseCaptured org ofs st).refuse 15 8 = st.toNat ∧
    (d.refuseCaptured org ofs st).refuseOfs.toNat = ofs % 2 ^ 24 ∧
    fld (d.refuseCaptured org ofs st).refuse 30 27 = originCode org ∧ fld (d.refuseCaptured org ofs st).refuse 21 16 = originCtx org := by
  have hcode := originCode_lt org
  have hctx := originCtx_lt org
  have hst : st.toNat < 256 := st.isLt
  have hcap : d.refuseCaptured org ofs st = { d.glb with
      refuse := word (2 ^ 31 + originCode org * 2 ^ 27 + originCtx org * 2 ^ 16 + st.toNat * 2 ^ 8), refuseOfs := word (ofs % 2 ^ 24) } :=
    if_neg (by simp [h])
  rw [hcap]
  simp only [flag, fld, word, BitVec.toNat_ofNat, bitOf, bitsOf, decide_eq_true_eq]
  omega

theorem refuseCaptured_frame :
    { d.refuseCaptured org ofs st with refuse := d.glb.refuse, refuseOfs := d.glb.refuseOfs } = d.glb := by
  unfold refuseCaptured
  split <;> rfl

end Dev

/-- Settles O49: a refusal is a capture, which touches two registers at most, and a reply. -/
theorem refusalsAreCapturedOnce : Obligations.RefusalsAreCapturedOnce := by
  unfold Obligations.RefusalsAreCapturedOnce
  intro d org ofs st
  have hreply : RepliesOnly (d.refusalNoted org ofs st) (d.refuse org ofs st) := refuse_repliesOnly
  have hframe : { d.refusalNoted org ofs st with glb := d.glb, ctxs := d.ctxs } = d := refusalNoted_frame
  have hsec : (d.refusalNoted org ofs st).sec = d.sec := (congrArg Dev.sec hframe :)
  dsimp only
  rw [refuse_glb]
  refine ⟨?station, refuseCaptured_frame, ?sec, ?direct, fun hheld => if_pos hheld, refuseCaptured_fields,
    fun hpage => hreply.ctxs.trans (refusalNoted_ctxs hpage), ?page⟩
  case station =>
    exact (congrArg (fun x : Dev => { x with glb := d.glb, ctxs := d.ctxs, out := d.out, sec := d.sec }) hreply.station).trans
      (congrArg (fun x : Dev => { x with out := d.out, sec := d.sec }) hframe)
  case sec => rw [← hsec]; exact hreply.sec
  case direct =>
    intro horg
    rw [refuse_direct horg]
    exact ⟨hsec, (congrArg Dev.out hframe :)⟩
  case page =>
    intro c o hpage
    have hctx (k : Nat) : (d.refuse org ofs st).ctx k = (d.refusalNoted org ofs st).ctx k := ctx_of_ctxs hreply.ctxs k
    refine ⟨?_, fun k hk => ?_⟩
    · rw [hctx, refusalNoted_page hpage, onRegs, ctx_onCtx_self]
      rfl
    · rw [hctx, refusalNoted_page hpage, onRegs, ctx_onCtx_ne _ _ hk.symm]
      rfl

/-! ### Logged changes (R361, R363, R365, R367) -/

namespace Dev

variable {d : Dev}

/-- A checkpoint takes no entry out of the main area, and puts its own behind the others. -/
theorem main_prefix_colCheckpoint : d.col.main <+: d.colCheckpoint.col.main := by
  unfold colCheckpoint
  dsimp only
  split
  · exact List.prefix_rfl
  · change _ <+: (if _ then _ else _ : Dev).col.main
    split
    · rw [colPutReserved_main]
    · rw [colPutMain_col]
      exact List.prefix_append _ _

theorem main_prefix_colDue : d.col.main <+: d.colDue.col.main := by
  unfold colDue
  split
  · exact main_prefix_colCheckpoint
  · exact List.prefix_rfl

/-- The entry of a logged change is the next of the main area. -/
theorem main_prefix_log (origin ctx cls obj old new detail : Nat) :
    d.col.main ++ [d.entryOf (colBody d.now origin 0 ctx cls obj old new detail)] <+: (d.log origin ctx cls obj old new detail).col.main := by
  have hdue := main_prefix_colDue (d := d.colPutMain (colBody d.now origin 0 ctx cls obj old new detail))
  rwa [colPutMain_col] at hdue

theorem logRefused_refused : d.logRefused.col.refused = satAdd d.col.refused 1 := congrArg Colophon.refused (cause_col _)
theorem logRefused_main : d.logRefused.col.main = d.col.main := (congrArg Colophon.main (cause_col _) :)
theorem flag_logRefused : flag d.logRefused.err.irqStatus cLog = true := flag_cause _ (by decide)
theorem logRefused_recordsOnly : RecordsOnly d d.logRefused := (col_recordsOnly d _).trans (cause_recordsOnly _ _)

end Dev

/-- Settles O44: the three cases of a logged change, with the entry of the last. -/
theorem noChangeWithoutItsEntry : Obligations.NoChangeWithoutItsEntry := by
  unfold Obligations.NoChangeWithoutItsEntry
  intro d org ofs ctx cls obj old new detail make
  refine ⟨fun hdown => if_pos hdown, fun hup hfull => ⟨?refused, logRefused_refused, flag_logRefused, ?main⟩, fun hup hroom => ⟨?made, ?entry⟩⟩
  case refused => simp [logged, hup, hfull]
  case main => rw [refuse_col, logRefused_main]
  case made => simp [logged, hup, hroom]
  case entry => exact ⟨_, main_prefix_log .., sub_entryOf d (length_colBody ..)⟩

/-! ### The SVN (R348) -/

namespace Dev

variable {d : Dev} {image : Bytes}

/-- SVN advances behind its entry, where it lies below the image's and the main area has room. -/
theorem advanceSvn_advances (hbelow : d.fuses.svn < min (Image.svn image) 64) (hroom : d.colRoom 1 = true) : d.advanceSvn image =
    { d.log 8 255 6 5 d.fuses.svn (min (Image.svn image) 64) 0 with fuses := { d.fuses with svn := min (Image.svn image) 64 } } :=
  if_pos (by simp only [hroom, Bool.and_true, decide_eq_true_eq, gt_iff_lt]; exact hbelow)

theorem advanceSvn_stays (h : min (Image.svn image) 64 ≤ d.fuses.svn ∨ d.colRoom 1 = false) : d.advanceSvn image = d := by
  refine if_neg ?_
  rcases h with h | h
  · simp only [gt_iff_lt, h.not_gt, decide_false, Bool.false_and, Bool.false_eq_true, not_false_iff]
  · simp [h]

/-- An image that runs changes the fuses and the colophon by the advance of SVN alone. -/
theorem runImage_fuses (r : Bool) : (d.runImage image r).fuses = (d.advanceSvn image).fuses := rfl
theorem runImage_col (r : Bool) : (d.runImage image r).col = (d.advanceSvn image).col := rfl

end Dev

/-- An image whose SVN lies below the fuses' fails the checks of R347, the last at the latest. -/
theorem Image.fault_of_svn_lt {f : Fuses} {b : Bytes} (h : Image.svn b < f.svn) : (Image.fault f b).isSome = true := by
  unfold Image.fault
  rw [if_pos h]
  split
  · rfl
  · split
    · rfl
    · split
      · rfl
      · split <;> rfl

/-- Settles O47: an image that runs advances SVN, and SVN decides the last check. -/
theorem anImageThatRunsRaisesTheVersion : Obligations.AnImageThatRunsRaisesTheVersion := by
  unfold Obligations.AnImageThatRunsRaisesTheVersion
  intro d image r
  dsimp only
  rw [runImage_fuses, runImage_col]
  refine ⟨fun hbelow hroom => ?_, fun hstays => ?_, (advanceSvn_up d image).1,
    fun hold f hforward => Image.fault_of_svn_lt (hold.trans_le hforward.1)⟩
  · rw [advanceSvn_advances hbelow hroom]
    exact ⟨rfl, rfl⟩
  · rw [advanceSvn_stays hstays]
    exact ⟨rfl, rfl⟩

/-! ### Refused tokens (R359) -/

/-- The count and the lock-out of a refused token do not rest on what was logged before. -/
theorem Dev.tryToken_refused {d : Dev} {org : Origin} {t : Bytes} {st : Status} (h : d.tokenFault t = some st) :
    ∃ x, RecordsOnly d x ∧ d.tryToken org t = x.newChallenge.onSec fun s => { s with
      token := [], unlockStatus := st, failures := if d.sec.failures + 1 ≥ 3 then 0 else d.sec.failures + 1
      locked := decide (d.sec.failures + 1 ≥ 3), lockedAt := d.now } := by
  refine ⟨if st = St.logFull then d.logRefused else d, ?_, ?_⟩
  · split
    · exact logRefused_recordsOnly
    · exact .refl d
  · simp only [tryToken, h]

/-- Settles O29: a refused token is counted and answered with a new challenge. -/
theorem refusedTokensLockOut : Obligations.RefusedTokensLockOut := by
  unfold Obligations.RefusedTokensLockOut
  intro d org t st hfault
  obtain ⟨x, hrec, heq⟩ := tryToken_refused (org := org) hfault
  have hsec : x.sec = d.sec := (congrArg Dev.sec hrec.station :)
  have hfree : x.free = d.free := (congrArg Dev.free hrec.station :)
  have hfuses : x.fuses = d.fuses := (congrArg Dev.fuses hrec.station :)
  rw [heq]
  exact ⟨rfl, rfl, (congrArg Sec.debug hsec :), rfl, rfl, congrArg Config.entropy hfree, hrec.ctxs, hfuses⟩

/-! ### Drains and checkpoints (R364, R366) -/

namespace Dev

variable {d : Dev} {j : Job}

theorem drainDesc_eq {seqs : List Nat} {us : List Bytes} (hctx : j.ctx = 0) (hwhole : u32 j.bytes 24 % 64 = 0)
    (hlong : 128 ≤ u32 j.bytes 24) (hfit : d.colFit (u32 j.bytes 24 / 64) d.colWaiting = (seqs, us)) : d.drainDesc j =
      (if us.isEmpty then (d.colSend seqs).2 else (d.colSend seqs).2.emit (.hostWrite (u64 j.bytes 16) us.flatten)).settle j St.ok us.length
        (d.colSend seqs).1 := by
  unfold drainDesc
  refine (if_neg (by simp [hctx, hwhole, hlong])).trans ?_
  simp only [hfit, given]
  cases us <;> rfl

theorem drainDesc_refused (h : j.ctx ≠ 0 ∨ u32 j.bytes 24 % 64 ≠ 0 ∨ u32 j.bytes 24 < 128) :
    d.drainDesc j = d.settle j St.notPermitted 0 0 := if_pos (by simpa [or_assoc] using h)

theorem checkpointDue_eq (hsince : d.col.sinceCkpt ≠ 0) (hup : d.boot.restarting = false) (hopen : d.boot.shutDown = false) :
    d.checkpointDue = (d.reach (d.col.ckptAt + 60000000000)).colCheckpoint := if_neg (by simp [hsince, hup, hopen])

end Dev

/-- Settles O41: each command is its operation, whose equation is used. -/
theorem colophonCommandsComplete : Obligations.ColophonCommandsComplete := by
  unfold Obligations.ColophonCommandsComplete
  intro s ctx hp
  refine ⟨?checkpoint, ?drain, ?refused⟩
  case checkpoint => exact fun hsince hup hopen => becomes_of_live rfl hp (checkpointDue_eq hsince hup hopen)
  case drain =>
    rintro j seqs us hjob hhost hctx hwhole hlong hfit _ rfl
    exact becomes_of_job rfl hp hjob ((if_pos hhost).trans (congrArg cxlDueGo (drainDesc_eq hctx hwhole hlong hfit)))
  case refused =>
    intro j hjob hhost hbad
    exact becomes_of_job rfl hp hjob ((if_pos hhost).trans (congrArg cxlDueGo (drainDesc_refused hbad)))

end Sys2Proof.Machine
end

section
/-! PROOFS. What the entries of the power controller, the thermal alert and a power sample leave of the station, and the statements on
power, heat, boost, stop and idle states (R306 to R328, R410). -/

namespace Sys2Proof.Machine

namespace Dev

variable (d : Dev)

/-! ### Entries of the power controller (R319, R368) -/

theorem logSafety_recordsOnly (origin ctx cls obj old new detail : Nat) :
    RecordsOnly d (d.logSafety origin ctx cls obj old new detail) := by
  unfold logSafety
  dsimp only
  split
  · split
    · exact col_recordsOnly d _
    · exact .refl d
  · exact (colPutReserved_recordsOnly d _).trans (colDue_recordsOnly _)

theorem logPower_recordsOnly (origin obj old new detail : Nat) : RecordsOnly d (d.logPower origin obj old new detail) := by
  unfold logPower
  split
  · exact logSafety_recordsOnly ..
  · exact log_recordsOnly ..

theorem colRelease_recordsOnly (n : Nat) : RecordsOnly d (d.colRelease n) := col_recordsOnly d _

/-! ### The change of operating point (R313, R314) -/

/-- A change of operating point with its count, before its entry. -/
def pointChanged (c : OppChange) : Dev :=
  let d1 := (d.given (decide (c.target > c.from_)) (·.colRelease 1)).onPwr fun p => { p with opp := none, point := c.target }
  { d1 with pc := { d1.pc with oppChange := satAdd d1.pc.oppChange 1 } }

theorem pointChanged_recordsOnly (c : OppChange) : RecordsOnly
    { d with pwr := { d.pwr with opp := none, point := c.target }, pc := { d.pc with oppChange := satAdd d.pc.oppChange 1 } }
    (d.pointChanged c) := by
  unfold pointChanged
  cases decide (c.target > c.from_)
  · exact .refl _
  · exact colRelease_recordsOnly _ 1

variable {d}

/-- With no boundary waiting, a change of operating point is recorded and nothing else. -/
theorem oppDone_recordsOnly {c : OppChange} (h : d.work.pendingBoundary = false) : RecordsOnly
    { d with pwr := { d.pwr with opp := none, point := c.target }, pc := { d.pc with oppChange := satAdd d.pc.oppChange 1 } }
    (d.oppDone c) := by
  have hrec := (d.pointChanged_recordsOnly c).trans
    (logPower_recordsOnly _ 4 2 c.from_ c.target (min c.pauses 65535 + min c.pausedNs (2 ^ 32 - 1) * 65536))
  have hstays : d.oppDone c = _ := if_neg (ne_true_of_eq_false ((congrArg Work.pendingBoundary hrec.work).trans h))
  rw [hstays]
  exact hrec

/-- A power sample is credited in the learned records, and the next span of time begins. -/
theorem learn_pwr (inW : Nat) (rails : List RailSample) : ∃ l, d.learn inW rails =
    d.onPwr fun p => { p with learned := l, spans := [], sampleAt := d.now } := by
  unfold learn
  split
  · exact ⟨_, rfl⟩
  · exact ⟨_, rfl⟩

/-- The limiter changes its own level and its count (R321). -/
theorem limiterStep_limiter (b : Bool) : ∃ level n, d.given b (·.limiterStep) =
    { d with pwr := { d.pwr with limiter := level }, pc := { d.pc with limit := n } } := by
  cases b
  · exact ⟨_, _, rfl⟩
  · rw [given_true]
    unfold limiterStep
    dsimp only
    split
    · exact ⟨_, _, rfl⟩
    · exact ⟨_, _, rfl⟩

/-- What a station is shown to do with its learned records and its limiter changed, it does when a sample is credited. -/
theorem exists_of_learn {inW : Nat} {rails : List RailSample} {b : Bool} {p : Dev → Prop}
    (h : p ((d.learn inW rails).given b (·.limiterStep))) : ∃ l level n, p { d with
      pwr := { d.pwr with learned := l, spans := [], sampleAt := d.now, limiter := level }, pc := { d.pc with limit := n } } := by
  obtain ⟨l, hl⟩ := learn_pwr (d := d) inW rails
  obtain ⟨level, n, hn⟩ := limiterStep_limiter (d := d.learn inW rails) b
  rw [hn, hl] at h
  exact ⟨l, level, n, h⟩

/-- A droop that reaches a running core: its level, and the count of a stretch that begins (R310). -/
theorem droop_level {c level : Nat} (hclock : d.clocked = true)
    (hcore : c ∈ d.work.coreMap ∨ (d.passRuns = true ∧ d.healthy c = true)) :
    (d.droop c level).pwr.droop = d.pwr.droop.set 0 c (max (d.pwr.droop.get 0 c) level) ∧
    (d.droop c level).pc.stretch = if d.pwr.droop.get 0 c = 0 then satAdd d.pc.stretch 1 else d.pc.stretch := by
  have hreached : (d.clocked && (d.work.coreMap.contains c || (d.passRuns && d.healthy c))) = true := by
    simpa only [hclock, Bool.true_and, Bool.or_eq_true, Bool.and_eq_true, List.contains_iff_mem] using hcore
  unfold droop
  rw [hreached]
  by_cases hfirst : d.pwr.droop.get 0 c = 0
  all_goals
    simp only [hfirst, if_true, if_false, Bool.not_true, Bool.false_eq_true]
    split
    · split
      · exact ⟨rfl, rfl⟩
      · exact ⟨rfl, rfl⟩
    · exact ⟨rfl, rfl⟩

end Dev

open Dev

/-- Settles O16: behind the change itself only its entry is written. -/
theorem operatingPointTakesEffect : Obligations.OperatingPointTakesEffect := by
  unfold Obligations.OperatingPointTakesEffect
  intro d c hwait
  have hrec := oppDone_recordsOnly (c := c) hwait
  exact ⟨hrec.pwr, (congrArg Dev.pc hrec.station :),
    (congrArg (fun x : Dev => { x with pwr := d.pwr, pc := d.pc }) hrec.station :)⟩

/-- Settles O12: each command is its operation, whose branch the conditions choose. -/
theorem powerCommandsComplete : Obligations.PowerCommandsComplete := by
  unfold Obligations.PowerCommandsComplete
  intro s hp
  refine ⟨fun c ns hopp hnodroop => ⟨fun hrun hup => ?window, fun hpaused => ?resume⟩, fun c hopp hraise hheld => ⟨fun hnone => ?abandon,
    fun hwait => ?abandonStarts⟩, fun core level hclock hcore => ?droop, fun core => becomes_of_live rfl hp rfl,
    fun inMv10 inMa10 inW rails => ?sample⟩
  case window =>
    refine becomes_of_live rfl hp ?_
    have hmade : ¬ (c.target > c.from_ ∧ s.dev.boot.restarting = true) := fun ⟨h, hr⟩ => by simp [hup h] at hr
    simp [hopp, hrun, hnodroop, hmade]
  case resume =>
    refine becomes_of_live rfl hp ?_
    simp [hopp, hpaused, hnodroop]
  case abandon =>
    refine becomes_of_live rfl hp ?_
    simp [hopp, hraise, hheld, oppDrop, hnone]
  case abandonStarts =>
    refine becomes_of_live rfl hp ?_
    simp [hopp, hraise, hheld, oppDrop, hwait]
  case droop =>
    obtain ⟨hlevel, hcount⟩ := droop_level (level := level.val + 1) hclock hcore
    exact ⟨_, becomes_of_live rfl hp rfl, by rw [hlevel, Table.get_set_self], hcount⟩
  case sample =>
    obtain ⟨l, level, n, h⟩ := exists_of_learn (p := Becomes (.powerSample inMv10 inMa10 inW rails) s) (becomes_of_live rfl hp rfl)
    have hnow : min (s.dev.pwr.sampleAt + 50000) (2 ^ 64 - 1) ≤ (s.dev.reach (s.dev.pwr.sampleAt + 50000)).now := by
      rw [now_reach]
      omega
    exact ⟨_, h, rfl, rfl, rfl, rfl, rfl, rfl, rfl, hnow, rfl⟩

/-! ### Heat and boost (R312, R322, R323) -/

theorem RecordsOnly.heat {d t : Dev} (h : RecordsOnly d t) : t.heat = d.heat := (congrArg Dev.heat h.station :)
theorem RecordsOnly.now {d t : Dev} (h : RecordsOnly d t) : t.now = d.now := (congrArg Dev.now h.station :)

namespace Dev

variable {d : Dev}

/-- THERM_ALERT_N and its pin event are all that follows the heat. -/
theorem thermAlert_frame : { d.thermAlert with pins := d.pins, out := d.out } = d := by
  unfold thermAlert
  dsimp only
  split <;> rfl

theorem thermAlert_heat : d.thermAlert.heat = d.heat := (congrArg Dev.heat thermAlert_frame :)
theorem thermAlert_now : d.thermAlert.now = d.now := (congrArg Dev.now thermAlert_frame :)

end Dev

/-- Settles O13: the entries and the alert of a step leave the heat as the step made it. -/
theorem heatCommandsComplete : Obligations.HeatCommandsComplete := by
  unfold Obligations.HeatCommandsComplete
  intro s hp
  refine ⟨fun l => ?sample, fun hhot hmore hrun hroom => ?step, fun at_ hcool hsteps htj hraise => ?undo, fun hhot => ?stop,
    fun t0 hsince hcooler hhot hsixth => ?lateStop, fun hup => ⟨?flash, ?boost⟩⟩
  case sample =>
    exact ⟨_, becomes_of_live rfl hp rfl, (congrArg (·.heat.tj) thermAlert_frame :),
      (congrArg (·.mgmt.dieTemps) thermAlert_frame :), (congrArg (·.heat.steps) thermAlert_frame :), (congrArg Dev.pwr thermAlert_frame :)⟩
  case step =>
    have hgo : (decide (s.dev.heat.tj < 105) || decide (s.dev.heat.steps ≥ 6) || s.dev.pwr.stopped || s.dev.safetyFull) = false := by
      simp only [hrun, hroom, Bool.or_false, Bool.or_eq_false_iff, decide_eq_false_iff_not]
      omega
    refine ⟨_, becomes_of_live rfl hp (if_neg (ne_true_of_eq_false hgo)), ?_⟩
    dsimp only
    rw [thermAlert_heat, (logSafety_recordsOnly ..).heat]
    refine ⟨rfl, fun ⟨hlast, hidle⟩ => ?_⟩
    have hfifth : s.dev.heat.steps + 1 = 6 := hlast
    simp [hfifth, hidle]
  case undo =>
    have hgo : (decide (s.dev.heat.steps = 0) || decide (s.dev.heat.tj > 100) || s.dev.raiseRefused) = false := by
      simp only [hraise, Bool.or_false, Bool.or_eq_false_iff, decide_eq_false_iff_not]
      omega
    refine ⟨_, becomes_of_live rfl hp (by simp only [hcool]; exact if_neg (ne_true_of_eq_false hgo)), ?_⟩
    have hnow : min (at_ + 10000000000) (2 ^ 64 - 1) ≤ (s.dev.reach (at_ + 10000000000)).now := by
      rw [now_reach]
      omega
    dsimp only
    rw [thermAlert_heat, (log_recordsOnly ..).heat, thermAlert_now, (log_recordsOnly ..).now]
    exact ⟨rfl, hnow⟩
  case stop => exact becomes_of_live rfl hp (if_pos hhot)
  case lateStop =>
    refine becomes_of_live rfl hp ?_
    simp [hsince, hcooler, hhot, hsixth]
  case flash =>
    refine becomes_of_live rfl hp ?_
    simp [hup]
  case boost =>
    refine ⟨_, becomes_of_live rfl hp (if_neg (by simp [hup])), rfl, by rw [← one_mul s.dev.fuses.fracPct]; rfl, fun hover => if_pos ?_⟩
    exact decide_eq_true hover

/-! ### The coolant signal, the resume of a stop and idle states (R325 to R328, R410) -/

/-- RESUME ends a stop that may end (R327, R328). -/
theorem Dev.stopWrite_resumes {d : Dev} {v : Word} (hr : d.reaches (.fn 0) 0x1001C = true) (hs : d.sealedOff 0x1001C = false)
    (hv : flag v 31 = true) (hstop : d.pwr.stopped = true) (hmay : d.mayResume = true) : d.stopWrite (.fn 0) v = d.resumeStation := by
  rw [stopWrite, pfOnly_fn0 _ _ hr hs]
  simp [hv, hstop, hmay, accepted]

/-- Settles O14: each command is its operation, whose branch the conditions choose. -/
theorem stopAndIdleCommandsComplete : Obligations.StopAndIdleCommandsComplete := by
  unfold Obligations.StopAndIdleCommandsComplete
  intro s
  refine ⟨fun hhigh => ?low, fun hlow => ?high, fun hp => ⟨fun t0 hsince hstage => ?stop, fun t0 v hr hs hv hstop hcause hsince hlong => ?coolant,
    fun v hr hs hv hstop hcause htj => ?thermal, fun hrun hawake hidle => ?entry, fun hrun hup hsleeps => ⟨?wake, ?unannounced⟩⟩⟩
  case low =>
    change execCoolantFaultLow s = _
    simp [execCoolantFaultLow, hhigh]
  case high =>
    change execCoolantFaultHigh s = _
    simp [execCoolantFaultHigh, hlow]
  case stop =>
    have hin : [Stage.ready, .memory, .failed, .shutdown].contains s.dev.boot.stage = true := by
      simpa only [List.contains_iff_mem, List.mem_cons, List.not_mem_nil, or_false] using hstage
    refine becomes_of_live rfl hp ?_
    simp only [hsince, hin, if_true]
  case coolant =>
    have hmay : s.dev.mayResume = true := by simpa only [mayResume, hcause, hsince] using decide_eq_true hlong
    exact becomes_of_live rfl hp (stopWrite_resumes hr hs hv hstop hmay)
  case thermal =>
    have hmay : s.dev.mayResume = true := by simpa only [mayResume, hcause] using decide_eq_true htj
    exact becomes_of_live rfl hp (stopWrite_resumes hr hs hv hstop hmay)
  case entry =>
    refine becomes_of_live rfl hp (if_neg ?_)
    rcases hidle with hslack | ⟨hnone, hnorun⟩
    · simp [hrun, hawake, hslack]
    · simp [hrun, hawake, hnone, hnorun]
  case wake =>
    refine becomes_of_live rfl hp (if_neg ?_)
    simp [hrun, hup, hsleeps]
  case unannounced =>
    refine becomes_of_live rfl hp (if_neg ?_)
    simp [hrun, hup, hsleeps]

end Sys2Proof.Machine
end

section
/-! PROOFS. What a stop leaves: of the work, of the cores and their memories, and its entry of CLASS 3 (R327, R335, R368). -/

namespace Sys2Proof.Machine
namespace Dev

variable {d : Dev}

/-! ### The parts that a stop clears -/

theorem releaseGath_gath : d.releaseGath.work.gath = none := by
  unfold releaseGath
  split
  next h => exact h
  next => rfl

/-- What a change gives to every core that it is made on, each core of a list has after it was made on all of them. -/
theorem core_each_onCore (p : Core → Prop) {f : Core → Core} (hmade : ∀ x, p (f x)) {l : List Nat} {c : Nat} (hc : c ∈ l ∨ p (d.core c)) :
    p ((d.each l fun d c => d.onCore c f).core c) := by
  induction l generalizing d with
  | nil => exact hc.resolve_left List.not_mem_nil
  | cons a l ih =>
    refine ih ?_
    by_cases hac : a = c
    · subst hac
      exact .inr (by rw [core_onCore_self]; exact hmade _)
    · rw [core_onCore_ne _ _ hac]
      exact hc.imp_left fun h => (List.mem_cons.mp h).resolve_left (Ne.symm hac)

theorem core_dropLists (space c : Nat) : (d.dropLists space).core c = d.core c := rfl
theorem work_dropLists (space : Nat) : (d.dropLists space).work = d.work := rfl

theorem queues_coresOff {c : Nat} (hc : c < 8) : (d.coresOff.core c).q = {} := by
  have hin : c ∈ List.range 8 := List.mem_range.mpr hc
  unfold coresOff
  generalize List.range 8 = l at hin ⊢
  exact core_each_onCore (fun x => x.q = {}) (fun _ => rfl) (.inl hin)

theorem buf_clearBuffers {c : Nat} (hc : c < 8) : (d.clearBuffers.core c).buf = {} := by
  have hin : c ∈ List.range 8 := List.mem_range.mpr hc
  rw [clearBuffers, core_dropLists]
  generalize List.range 8 = l at hin ⊢
  exact core_each_onCore (fun x => x.buf = {}) (fun _ => rfl) (.inl hin)

theorem queues_clearBuffers (c : Nat) : (d.clearBuffers.core c).q = (d.core c).q := by
  rw [clearBuffers, core_dropLists]
  generalize List.range 8 = l
  refine each_keeps d (fun d => (d.core c).q) _ (fun d k => ?_) l
  by_cases hk : k = c
  · rw [hk, core_onCore_self]
  · rw [core_onCore_ne _ _ hk]

/-- Staging that is dropped and lanes that go off touch the ring agents and the links alone. -/
theorem dropStaging_keeps {β : Type} (part : Dev → β) (h : ∀ (d : Dev) c l, part { d with circ := c, lnk := l } = part d) :
    part d.dropStaging = part d := by
  unfold dropStaging
  refine (each_keeps _ part _ (fun d p => ?_) _).trans (h d _ d.lnk)
  exact h d d.circ _

theorem cordsOff_keeps {β : Type} (part : Dev → β) (h : ∀ (d : Dev) c l, part { d with circ := c, lnk := l } = part d) :
    part d.cordsOff = part d := by
  unfold cordsOff
  refine each_keeps _ part _ (fun d p => ?_) _
  exact h d d.circ _

theorem work_coresOff : d.coresOff.work = d.work := by
  unfold coresOff
  refine each_keeps d work _ (fun _ _ => ?_) _
  rfl

theorem work_clearBuffers : d.clearBuffers.work = d.work := by
  rw [clearBuffers, work_dropLists]
  generalize List.range 8 = l
  exact each_keeps d work _ (fun d k => onCore_work d k _) l

/-- The memories of the rails that go off in a stop. -/
def railsOff (d : Dev) : Dev := (((((d.coresOff).clearBuffers).clearCmem).clearSync).dropStaging).cordsOff

theorem railsOff_keeps {β : Type} (part : Dev → β) (h : ∀ (d : Dev) c l, part { d with circ := c, lnk := l } = part d) :
    part d.railsOff = part (((d.coresOff).clearBuffers).clearCmem).clearSync := by
  rw [railsOff, cordsOff_keeps part h, dropStaging_keeps part h]

theorem core_clearSync (c : Nat) : d.clearCmem.clearSync.core c = d.core c := rfl
theorem work_clearSync : d.clearCmem.clearSync.work = d.work := rfl

theorem work_railsOff : d.railsOff.work = d.work :=
  (railsOff_keeps work fun _ _ _ => rfl).trans (work_clearSync.trans <| work_clearBuffers.trans work_coresOff)

theorem cmem_railsOff : d.railsOff.cmem.bytes = [] :=
  (railsOff_keeps (fun x => x.cmem.bytes) fun _ _ _ => rfl).trans rfl

theorem sync_railsOff : d.railsOff.sync.words = [] :=
  (railsOff_keeps (fun x => x.sync.words) fun _ _ _ => rfl).trans rfl

theorem core_railsOff (c : Nat) : d.railsOff.core c = d.coresOff.clearBuffers.core c := by
  refine (railsOff_keeps (fun x => x.core c) fun _ _ _ => rfl).trans ?_
  rw [core_clearSync]

theorem emptied_railsOff {c : Nat} (hc : c < 8) : (d.railsOff.core c).buf = {} ∧ (d.railsOff.core c).q = {} := by
  rw [core_railsOff, queues_clearBuffers]
  exact ⟨buf_clearBuffers hc, queues_coresOff hc⟩

/-! ### What a stop leaves -/

/-- Nothing of the work and of the cores is left. -/
structure Cleared (t : Dev) : Prop where
  run : t.work.run = none
  active : t.work.active = none
  gath : t.work.gath = none
  coreMap : t.work.coreMap = []
  cmem : t.cmem.bytes = []
  sync : t.sync.words = []
  cores : ∀ c < 8, (t.core c).buf = {} ∧ (t.core c).q = {}

theorem Cleared.of_parts {t u : Dev} (h : Cleared t) (hwork : u.work = t.work) (hcmem : u.cmem = t.cmem) (hsync : u.sync = t.sync)
    (hcores : u.cores = t.cores) : Cleared u where
  run := (congrArg Work.run hwork).trans h.run
  active := (congrArg Work.active hwork).trans h.active
  gath := (congrArg Work.gath hwork).trans h.gath
  coreMap := (congrArg Work.coreMap hwork).trans h.coreMap
  cmem := (congrArg Cmem.bytes hcmem).trans h.cmem
  sync := (congrArg Sync.words hsync).trans h.sync
  cores c hc := by
    rw [core, hcores]
    exact h.cores c hc

theorem work_deactivate : d.deactivate.work = { d.work with
    active := none, run := none, starts := [], aborts := [], passesInFlight := [], pendingBoundary := false } := rfl

/-- Rails that go off after the binding and the gathering are gone leave nothing of the work and of the cores but the map. -/
theorem railsOff_cleared (f : Circ → Circ) (x : Dev) (hx : (((d.releaseGath).deactivate).onCirc f).railsOff = x) :
    Cleared (x.onWork fun w => { w with coreMap := [], dataCtx := none }) := by
  have hwork : x.work = d.releaseGath.deactivate.work := by
    rw [← hx, work_railsOff]
    rfl
  rw [work_deactivate] at hwork
  have hcmem : x.cmem.bytes = [] := by rw [← hx, cmem_railsOff]
  have hsync : x.sync.words = [] := by rw [← hx, sync_railsOff]
  have hcores : ∀ c < 8, (x.core c).buf = {} ∧ (x.core c).q = {} := fun c hc => by
    rw [← hx]
    exact emptied_railsOff hc
  exact ⟨(congrArg Work.run hwork :), (congrArg Work.active hwork :), (congrArg Work.gath hwork).trans releaseGath_gath, rfl,
    hcmem, hsync, hcores⟩

/-- The entry of a stop and what tells of it. -/
def stopTold (d : Dev) (cause obj : Nat) (st : Status) : Dev :=
  let d1 := d.logSafety 4 255 3 obj 0 0 st.toNat
  ((if cause = 0 then d1 else d1.cause cStop).thermAlert).platformEvent 0x304 cause

/-- What is held and lost in a stop before its entry is written. -/
def stopMade (d : Dev) (b : Bool) (cause : Nat) (st : Status) : Dev :=
  ((d.given b (·.colRelease 1)).onPwr fun p => { p with
      stopped := true, stopCause := cause, stopStatus := st, opp := none, limiter := 0, droop := [], fold := 0, idle := .s0 }).onWork
    fun w => { w with coreMap := [], dataCtx := none }

theorem stopStation_eq {cause obj : Nat} {st : Status} (hp : d.powered = true) (hs : d.pwr.stopped = false) : ∃ (y : Dev) (f : Circ → Circ)
    (b : Bool), d.stopStation cause obj st = (((((y.releaseGath).deactivate).onCirc f).railsOff).stopMade b cause st).stopTold cause obj st := by
  unfold stopStation
  rw [if_neg (by simp [hp, hs])]
  exact ⟨_, _, _, rfl⟩

theorem platformEvent_frame (sensor state : Nat) : { d.platformEvent sensor state with out := d.out } = d := by
  unfold platformEvent
  split
  · split <;> rfl
  · rfl

theorem stopTold_frame (cause obj : Nat) (st : Status) : { d.stopTold cause obj st with
    err := d.err, flash := d.flash, fns := d.fns, col := d.col, out := d.out, pins := d.pins } = d := by
  have hlog := logSafety_recordsOnly d 4 255 3 obj 0 0 st.toNat
  unfold stopTold
  dsimp only
  generalize hx : (if cause = 0 then d.logSafety 4 255 3 obj 0 0 st.toNat else (d.logSafety 4 255 3 obj 0 0 st.toNat).cause cStop) = x
  have hrec : RecordsOnly d x := by
    rw [← hx]
    split
    · exact hlog
    · exact hlog.trans (cause_recordsOnly _ _)
  have hevent := platformEvent_frame (d := x.thermAlert) 0x304 cause
  have halert := thermAlert_frame (d := x)
  calc _ = { x.thermAlert with err := d.err, flash := d.flash, fns := d.fns, col := d.col, out := d.out, pins := d.pins } :=
          (congrArg (fun y : Dev => { y with
            err := d.err, flash := d.flash, fns := d.fns, col := d.col, out := d.out, pins := d.pins }) hevent :)
    _ = { x with err := d.err, flash := d.flash, fns := d.fns, col := d.col, out := d.out, pins := d.pins } :=
          (congrArg (fun y : Dev => { y with
            err := d.err, flash := d.flash, fns := d.fns, col := d.col, out := d.out, pins := d.pins }) halert :)
    _ = d := (congrArg (fun y : Dev => { y with pins := d.pins }) hrec.station :)

theorem stopTold_col (cause obj : Nat) (st : Status) :
    (d.stopTold cause obj st).col = (d.logSafety 4 255 3 obj 0 0 st.toNat).col := by
  unfold stopTold
  dsimp only
  generalize d.logSafety 4 255 3 obj 0 0 st.toNat = x
  have hcause : (if cause = 0 then x else x.cause cStop).col = x.col := by
    split
    · rfl
    · exact cause_col _
  generalize (if cause = 0 then x else x.cause cStop) = y at hcause
  have hevent : (y.thermAlert.platformEvent 0x304 cause).col = y.thermAlert.col := (congrArg Dev.col (platformEvent_frame ..) :)
  have halert : y.thermAlert.col = y.col := (congrArg Dev.col thermAlert_frame :)
  exact hevent.trans (halert.trans hcause)

/-! ### The entry of a safety action (R368) -/

/-- A checkpoint takes no entry out of the reserved area. -/
theorem reserved_prefix_colCheckpoint : d.col.reserved <+: d.colCheckpoint.col.reserved := by
  unfold colCheckpoint
  dsimp only
  split
  · exact List.prefix_rfl
  · change _ <+: (if _ then _ else _ : Dev).col.reserved
    split
    · rw [colPutReserved_col]
      exact List.prefix_append _ _
    · rw [colPutMain_col]

theorem reserved_prefix_colDue : d.col.reserved <+: d.colDue.col.reserved := by
  unfold colDue
  split
  · exact reserved_prefix_colCheckpoint
  · exact List.prefix_rfl

/-- The entry of a safety action stands in the reserved area or is held, unless there is room in neither. -/
theorem logSafety_entry (origin ctx cls obj old new detail : Nat) :
    (∃ e ∈ (d.logSafety origin ctx cls obj old new detail).col.reserved,
      sub e 8 40 = colBody d.now origin 1 ctx cls obj old new detail) ∨
    colBody d.now origin 5 ctx cls obj old new detail ∈ (d.logSafety origin ctx cls obj old new detail).col.pendingSafety ∨
    ((d.boot.restarting = true ∨ colReserved ≤ (d.logSafety origin ctx cls obj old new detail).col.reserved.length) ∧
      heldSafety ≤ (d.logSafety origin ctx cls obj old new detail).col.pendingSafety.length) := by
  unfold logSafety
  dsimp only
  split
  case isTrue hshut =>
    split
    case isTrue => exact .inr (.inl (List.mem_append_right _ (List.mem_singleton_self _)))
    case isFalse hfull =>
      exact .inr (.inr ⟨by simpa only [Bool.or_eq_true, decide_eq_true_eq, ge_iff_le] using hshut, Nat.le_of_not_lt hfull⟩)
  case isFalse =>
    refine .inl ⟨_, reserved_prefix_colDue.subset ?_, sub_entryOf d (length_colBody ..)⟩
    rw [colPutReserved_col]
    exact List.mem_append_right _ (List.mem_singleton_self _)

theorem stopMade_pwr (b : Bool) (cause : Nat) (st : Status) : (d.stopMade b cause st).pwr = { d.pwr with
    stopped := true, stopCause := cause, stopStatus := st, opp := none, limiter := 0, droop := [], fold := 0, idle := .s0 } := by
  cases b <;> rfl

theorem stopMade_cleared {b : Bool} {cause : Nat} {st : Status} (h : Cleared (d.onWork fun w => { w with coreMap := [], dataCtx := none })) :
    Cleared (d.stopMade b cause st) := by
  cases b <;> exact h.of_parts rfl rfl rfl rfl

/-- Every stop is an entry and its telling on a station that was cleared and holds the stop. -/
theorem stopStation_told {cause obj : Nat} {st : Status} (hp : d.powered = true) (hs : d.pwr.stopped = false) : ∃ z : Dev,
    d.stopStation cause obj st = z.stopTold cause obj st ∧ Cleared z ∧ z.pwr.stopped = true ∧ z.pwr.stopCause = cause ∧
    z.pwr.stopStatus = st ∧ z.pwr.fold = 0 ∧ z.pwr.opp = none := by
  obtain ⟨y, f, b, heq⟩ := stopStation_eq (cause := cause) (obj := obj) (st := st) hp hs
  have hcleared := railsOff_cleared f _ (d := y) rfl
  revert heq hcleared
  generalize (((y.releaseGath).deactivate).onCirc f).railsOff = x
  intro heq hcleared
  exact ⟨_, heq, stopMade_cleared hcleared, by rw [stopMade_pwr]; exact ⟨rfl, rfl, rfl, rfl, rfl⟩⟩

end Dev

open Dev

/-- Settles O15: a stop clears the station, writes its entry and tells of it. -/
theorem stopEndsEverything : Obligations.StopEndsEverything := by
  unfold Obligations.StopEndsEverything
  intro d cause obj st hp hs
  obtain ⟨z, heq, hmade, hstopped, hcause, hstatus, hfold, hopp⟩ := stopStation_told (cause := cause) (obj := obj) (st := st) hp hs
  dsimp only
  rw [heq]
  have hframe := z.stopTold_frame cause obj st
  have hentry := z.logSafety_entry 4 255 3 obj 0 0 st.toNat
  rw [← z.stopTold_col cause] at hentry
  generalize z.stopTold cause obj st = t at hframe hentry ⊢
  have hleft : Cleared t := hmade.of_parts (congrArg Dev.work hframe :) (congrArg Dev.cmem hframe :) (congrArg Dev.sync hframe :)
    (congrArg Dev.cores hframe :)
  have hpwr : t.pwr = z.pwr := (congrArg Dev.pwr hframe :)
  have hnow : t.now = z.now := (congrArg Dev.now hframe :)
  have hboot : t.boot = z.boot := (congrArg Dev.boot hframe :)
  rw [hpwr, hnow, hboot]
  exact ⟨hstopped, hcause, hstatus, hfold, hopp, hleft.run, hleft.active, hleft.gath, hleft.coreMap, hleft.cmem, hleft.sync,
    hleft.cores, hentry⟩

end Sys2Proof.Machine
end

section
/-! PROOFS. What start-up and the finisher's restart do under the conditions of the statement on their commands (R345, R371 to R375, R386). -/

namespace Sys2Proof.Machine
namespace Dev

variable {d : Dev}

/-! ### Start-up (R372 to R375) -/

theorem planOnce_done (h : d.boot.planned = true ∨ d.boot.restarting = true) : d.planOnce = d := if_pos (by simpa using h)

theorem planOnce_due (hplanned : d.boot.planned = false) (hup : d.boot.restarting = false) : d.planOnce =
    ((d.reach (d.boot.trainAt + 190000000)).reapplyPlan).onBoot fun b => { b with planned := true } := if_neg (by simp [hplanned, hup])

/-- A station whose memory may end its training. -/
theorem memoryTrained_eq (ok : Bool) (hstage : d.boot.stage = .memory) (hrun : d.pwr.stopped = false) (htrained : d.boot.trained = false) :
    d.memoryTrained ok = if ok then ((d.reach (d.boot.trainAt + 180000000)).onBoot fun b => { b with trained := true }).planOnce
      else (d.reach (d.boot.trainAt + 180000000)).onBoot fun b => { b with stage := .failed } := by
  refine if_neg ?_
  rw [hstage, htrained, hrun]
  decide

theorem ready_eq (hstage : d.boot.stage = .memory) (hrun : d.pwr.stopped = false) (htrained : d.boot.trained = true)
    (hup : d.boot.restarting = false) : d.ready = (d.planOnce.reach (d.boot.trainAt + 210000000)).onBoot fun b =>
      { b with stage := .ready, readyMs := min ((d.planOnce.reach (d.boot.trainAt + 210000000)).now / 1000000) 65535 } := by
  refine if_neg ?_
  rw [hstage, htrained, hrun, hup]
  decide

/-! ### The finisher's restart (R371, R386) -/

theorem restartRead_eq (ok : Bool) (hdown : d.boot.restarting = true) (hrec : d.boot.recovery = false) : d.restartRead ok =
    match d.flashFault ok with
    | none => d.restartEnd d.flash.image false
    | some st => (d.enterRecovery st).onBoot fun b => { b with liveRecovery := true } := if_neg (by simp [hdown, hrec])

end Dev

open Dev

/-- A boot ROM that waited for the reference runs, on a station that has power (R411). -/
def Dev.bootWaiting (d : Dev) : Dev := d.live fun d => match d.boot.waiting with | some ok => d.coldBoot ok | none => d

theorem Dev.bootWaiting_quiet {d : Dev} (h : d.powered = false ∨ d.boot.waiting = none) : d.bootWaiting = d := by
  unfold bootWaiting live
  rcases h with hoff | hnone
  · rw [hoff]
    rfl
  · beta_reduce
    rw [hnone]
    exact ite_self d

theorem Dev.bootWaiting_boots {d : Dev} {ok : Bool} (hp : d.powered = true) (h : d.boot.waiting = some ok) :
    d.bootWaiting = d.coldBoot ok := by
  rw [bootWaiting, live_on _ _ hp, h]

theorem becomes_referenceClockReturn {s : State} {t : Dev}
    (h : ({ s.dev with pins := { s.dev.pins with refclk := true } }).bootWaiting = t) : Becomes .referenceClockReturn s t := by
  rw [← h]
  rfl

/-- Settles O45: each command is its operation, whose branch the conditions choose. -/
theorem startUpCommandsComplete : Obligations.StartUpCommandsComplete := by
  unfold Obligations.StartUpCommandsComplete
  intro s pos ok
  refine ⟨fun hoff => ?powerUp, fun hopen => ?close, fun hon => ?open_, rfl, rfl, rfl, fun hquiet => ?reference, fun b hp hwait => ?coldBoot,
    fun hp hstage hrun => ⟨fun htrained => ⟨?failed, fun hdone => ?trained, fun hplanned hup => ?planned⟩, fun htrained hup e he => ?ready⟩,
    fun hp hdown hrec => becomes_of_live rfl hp (restartRead_eq ok hdown hrec), fun dump hp hup => ⟨fun htrained => ?dump, fun htrained => ?noDump⟩⟩
  case powerUp =>
    change execPowerUp pos ok s = _
    simp [execPowerUp, hoff]
  case close =>
    change execHotswapClose pos ok s = _
    simp [execHotswapClose, hopen]
  case open_ =>
    change execHotswapOpen s = _
    simp [execHotswapOpen, hon]
  case reference => exact becomes_referenceClockReturn (bootWaiting_quiet hquiet)
  case coldBoot => exact becomes_referenceClockReturn (bootWaiting_boots hp hwait)
  case failed => exact becomes_of_live rfl hp (memoryTrained_eq false hstage hrun htrained)
  case trained => exact becomes_of_live rfl hp ((memoryTrained_eq true hstage hrun htrained).trans (planOnce_done hdone))
  case planned => exact becomes_of_live rfl hp ((memoryTrained_eq true hstage hrun htrained).trans (planOnce_due hplanned hup))
  case ready =>
    subst he
    exact becomes_of_live rfl hp (ready_eq hstage hrun htrained hup)
  case dump =>
    refine becomes_of_live rfl hp ?_
    simp [hup, htrained]
  case noDump =>
    refine becomes_of_live rfl hp ?_
    simp [hup, htrained]

end Sys2Proof.Machine
end

section
/-! PROOFS. A GO of the mailbox through BAR0, what the end of a command and of a shutdown leave, and the statement on the mailbox's commands
(R381 to R388). -/

namespace Sys2Proof.Machine
namespace Dev

variable {d : Dev}

/-! ### A command's GO and end (R381, R382) -/

/-- The mailbox takes a GO through BAR0: firmware serves it, no command runs, and no request over MCTP waits. -/
structure TakesGo (d : Dev) : Prop where
  working : d.boot.restarting = false
  image : d.boot.recovery = false
  running : d.boot.shutDown = false
  started : d.boot.stage ≠ .bootRom
  idle : d.mbx.busy = false
  direct : d.mbx.mctp = none

/-- MBX_CMD after a GO. -/
def commanded (d : Dev) (code arg : Nat) : Dev := d.onMbx fun m => { m with cmd := word (code * 65536 + arg) }

theorem commanded_eq {code arg : Nat} (hcode : code < 256) (harg : arg < 65536) :
    (d.onMbx fun m => { m with cmd := word (code % 256 * 65536 + arg % 65536) }) = d.commanded code arg := by
  rw [Nat.mod_eq_of_lt hcode, Nat.mod_eq_of_lt harg, commanded]

/-- A GO that names a command and an ARG of its range starts it. -/
theorem mbxGo_eq (h : d.TakesGo) {code arg : Nat} (hcode : code ∈ mbxCodes) (harg : argOk code arg = true) (hsmall : arg < 65536) (ok : Bool) :
    d.mbxGo code arg ok = if code = 0x10 then (d.commanded code arg).takeIn.2.mbxDo code arg (d.commanded code arg).takeIn.1 ok
      else (d.commanded code arg).mbxDo code arg [] ok := by
  have hbyte : code < 256 := by
    simp only [mbxCodes, List.mem_cons, List.not_mem_nil, or_false] at hcode
    omega
  have hallowed : (d.commanded code arg).mbxAllowed code = true := by
    change ((!d.boot.recovery || _ || _) && (!d.boot.shutDown || _)) = true
    rw [h.image, h.running]
    rfl
  have hknown : mbxCodes.contains code = true := List.contains_iff_mem.mpr hcode
  have hstarted : (d.boot.stage == Stage.bootRom) = false := by simpa using h.started
  unfold mbxGo
  simp only [h.working, h.idle, hstarted, commanded_eq hbyte hsmall, hknown, harg, hallowed, Bool.false_and, Bool.or_false,
    Bool.not_true, Bool.false_eq_true, if_false]

theorem mbxVia_bar0 (h : d.TakesGo) (hopen : d.fnOpen 0 = true) {code arg : Nat} (hcode : code ∈ mbxCodes) (harg : argOk code arg = true)
    (hsmall : arg < 65536) (hother : code ≠ 0x10) (ok : Bool) : d.mbxVia .bar0 code arg ok = (d.commanded code arg).mbxDo code arg [] ok :=
  (if_pos hopen).trans ((mbxGo_eq h hcode harg hsmall ok).trans (if_neg hother))

/-- The end of a command changes the mailbox, and its reply leaves. -/
theorem mbxEnd_frame (st : Status) (l : List Word) : { d.mbxEnd st l with mbx := d.mbx, out := d.out, sec := d.sec } = d := by
  unfold mbxEnd
  dsimp only
  split
  · exact (congrArg (fun x : Dev => { x with mbx := d.mbx }) (mgmtReply_repliesOnly ..).station :)
  · rfl

theorem mbxEnd_keeps {β : Type} (part : Dev → β) (h : ∀ (d : Dev) m o s, part { d with mbx := m, out := o, sec := s } = part d)
    (st : Status) (l : List Word) : part (d.mbxEnd st l) = part d := by
  have hframe := mbxEnd_frame (d := d) st l
  generalize d.mbxEnd st l = t at hframe ⊢
  rw [← h t d.mbx d.out d.sec, hframe]

theorem mbxEnd_ends (st : Status) (l : List Word) : (d.mbxEnd st l).mbx.busy = false ∧ (d.mbxEnd st l).mbx.status = st := by
  unfold mbxEnd
  dsimp only
  split
  · rw [show (mgmtReply _ _ _ _).mbx = _ from (congrArg Dev.mbx (mgmtReply_repliesOnly ..).station :)]
    exact ⟨rfl, rfl⟩
  · exact ⟨rfl, rfl⟩

/-- FW_END outside recovery with no FW_BEGIN under way judges the held image (R384, R385). -/
theorem fwEnd_held {ok : Bool} (hrun : d.mbx.run = none) (hpldm : d.boot.update ≠ some .pldm) (himage : d.boot.recovery = false) :
    d.fwEnd ok = match Image.fault d.fuses d.boot.held with
      | some st => (d.onBoot fun b => { b with held := [], update := none }).mbxEnd st []
      | none => ((d.onBoot fun b => { b with held := [], update := none }).flashImage d.boot.held ok).mbxEnd
          (if ok then St.ok else St.notPermitted) [] := by
  refine (if_neg (by simpa using hpldm)).trans ?_
  simp only [hrun, himage, Bool.false_eq_true, if_false] <;> rfl

/-- FW_BEGIN with no command under way and no update opens one (R384). -/
theorem mbxDo_fwBegin {arg : Nat} {ws : List Word} {ok : Bool} (hrun : d.mbx.run = none) (hnone : d.boot.update = none) :
    d.mbxDo 0x10 arg ws ok = (d.onBoot fun b => { b with update := some .mailbox, held := [] }).fwFeed [] ws := by
  simp only [mbxDo, hrun, hnone, Option.isSome_none, Bool.false_eq_true, if_false]

theorem mbxDo_dumpRead {arg : Nat} {ws : List Word} {ok : Bool} {b : Bytes} (hrun : d.mbx.run = none) (hdump : d.boot.dump = some b) :
    d.mbxDo 0x21 arg ws ok = d.dumpOn b := by
  simp only [mbxDo, hrun, hdump]

theorem logRead_direct {arg : Nat} (h : d.mbx.mctp = none) : d.logRead arg = logFill (outWords / 16 + 1) arg d :=
  if_neg (by simp [h])

/-! ### MBX_DATA (R381) -/

theorem mbxPush_eq {w : Word} (hroom : d.mbx.inFifo.length < inWords) (htaken : d.mbx.busy = true ∨ d.boot.update ≠ some .mailbox)
    (hnone : d.mbx.run = none) : d.mbxPush w = d.onMbx fun m => { m with inFifo := m.inFifo ++ [w] } := by
  refine (if_neg ?_).trans ?_
  · rcases htaken with hbusy | hother
    · simp [hroom, hbusy]
    · simp [hroom, hother]
  · have hrun : (d.onMbx fun m => { m with inFifo := m.inFifo ++ [w] }).mbx.run = none := hnone
    simp only [hrun]

theorem mbxPop_eq {w : Word} {rest : List (Word × Option Nat)} (hout : d.mbx.outFifo = (w, none) :: rest) (hnone : d.mbx.run = none) :
    d.mbxPop = (w, d.onMbx fun m => { m with outFifo := rest }) := by
  have hrun : (d.onMbx fun m => { m with outFifo := rest }).mbx.run = none := hnone
  simp only [mbxPop, hout, hrun]

/-! ### The finish of a shutdown (R388) -/

theorem dropLists_keeps {β : Type} (part : Dev → β) (h : ∀ (d : Dev) l, part { d with lists := l } = part d) (space : Nat) :
    part (d.dropLists space) = part d := h d _

theorem each_onCore_keeps {β : Type} (part : Dev → β) (h : ∀ (d : Dev) c, part { d with cores := c } = part d) (l : List Nat)
    (f : Core → Core) : part (d.each l fun d c => d.onCore c f) = part d :=
  each_keeps d part _ (fun d _ => h d _) l

/-- S3 loses what its rails hold; a part that is not among it stays. -/
theorem enterIdle_s3_keeps {β : Type} (part : Dev → β) (hcores : ∀ (d : Dev) c, part { d with cores := c } = part d)
    (hcmem : ∀ (d : Dev) c, part { d with cmem := c } = part d) (hsync : ∀ (d : Dev) s, part { d with sync := s } = part d)
    (hlists : ∀ (d : Dev) l, part { d with lists := l } = part d) (hlinks : ∀ (d : Dev) c l, part { d with circ := c, lnk := l } = part d) :
    part (d.enterIdle .s3) = part (d.onPwr fun p => { p with idle := .s3 }) := by
  unfold enterIdle
  dsimp only
  rw [cordsOff_keeps part hlinks, dropStaging_keeps part hlinks, clearSync, hsync, clearCmem, hcmem, dropLists_keeps part hlists,
    clearBuffers, dropLists_keeps part hlists, each_onCore_keeps part hcores,
    each_onCore_keeps part hcores]

theorem linkOut_frame (x : Dev) (p : Nat) (b : Bytes) :
    { x.linkOut p b with lnk := d.lnk, out := d.out } = { x with lnk := d.lnk, out := d.out } := by
  have h := (linkOut_sentOn x p b).station
  generalize x.linkOut p b = t at h
  exact (congrArg (fun y : Dev => { y with lnk := d.lnk, out := d.out }) h :)

/-- STOPPING leaves on every port: only the links and the outbox change. -/
theorem each_linkOut_frame (l : List Nat) (b : Bytes) :
    { (d.each l fun d p => d.linkOut p b) with lnk := d.lnk, out := d.out } = d :=
  each_keeps d (fun x => { x with lnk := d.lnk, out := d.out }) (fun d p => d.linkOut p b) (fun x p => linkOut_frame x p b) l

theorem flash_enterIdle_s3 : (d.enterIdle .s3).flash = d.flash :=
  enterIdle_s3_keeps flash (fun _ _ => rfl) (fun _ _ => rfl) (fun _ _ => rfl) (fun _ _ => rfl) (fun _ _ _ => rfl)

theorem pwr_enterIdle_s3 : (d.enterIdle .s3).pwr = { d.pwr with idle := .s3 } :=
  enterIdle_s3_keeps pwr (fun _ _ => rfl) (fun _ _ => rfl) (fun _ _ => rfl) (fun _ _ => rfl) (fun _ _ _ => rfl)

/-- S3 is entered, and SHUTDOWN ends. -/
def shutIn (d : Dev) : Dev := ((d.enterIdle .s3).onBoot fun b =>
  { b with shuttingDown := false, shuttingAbort := false, shutDown := true, stage := .shutdown }).mbxEnd St.ok []

theorem shutIn_boot : d.shutIn.boot = { (d.enterIdle .s3).boot with
    shuttingDown := false, shuttingAbort := false, shutDown := true, stage := .shutdown } := by
  rw [shutIn, mbxEnd_keeps boot fun _ _ _ _ => rfl]
  rfl

theorem shutIn_pwr : d.shutIn.pwr = { d.pwr with idle := .s3 } := by
  rw [shutIn, mbxEnd_keeps pwr fun _ _ _ _ => rfl, onBoot_pwr, pwr_enterIdle_s3]

theorem shutIn_flash : d.shutIn.flash = d.flash := by
  rw [shutIn, mbxEnd_keeps flash fun _ _ _ _ => rfl, onBoot_flash, flash_enterIdle_s3]

/-- The station that goes into S3: STOPPING has left, and flash has the last checkpoint, the boost counters and the clean mark. -/
def shutReady (d : Dev) : Dev :=
  let d1 := (d.each ((List.range 6).filter d.portUp) fun d p => d.linkOut p [7, St.abortedByHost]).colCheckpoint
  { d1 with flash := { d1.flash with boostSpent := d1.pc.boostSpent, boostEarned := d1.pc.boostEarned, clean := true } }

theorem shutReady_flash : d.shutReady.flash.clean = true ∧ d.shutReady.flash.boostSpent = d.pc.boostSpent := by
  have hpc : d.shutReady.pc = d.pc := (congrArg Dev.pc (colCheckpoint_recordsOnly _).station :).trans
    (congrArg Dev.pc (each_linkOut_frame _ _) :)
  exact ⟨rfl, (congrArg PwrCounters.boostSpent hpc :)⟩

/-- What a shutdown leaves when it ends. -/
theorem shutdownEnd_leaves (hbegun : d.boot.shuttingDown = true) (hmay : d.mayShut = true) (hup : d.boot.restarting = false) :
    d.shutdownEnd.boot.stage = .shutdown ∧ d.shutdownEnd.boot.shutDown = true ∧ d.shutdownEnd.pwr.idle = .s3 ∧
    d.shutdownEnd.flash.clean = true ∧ d.shutdownEnd.flash.boostSpent = d.pc.boostSpent ∧ d.shutdownEnd.mbx.busy = false ∧
    d.shutdownEnd.mbx.status = St.ok := by
  have heq : d.shutdownEnd = d.shutReady.shutIn := if_neg (by simp [hbegun, hmay, hup])
  rw [heq, shutIn_boot, shutIn_pwr, shutIn_flash]
  exact ⟨rfl, rfl, rfl, shutReady_flash.1, shutReady_flash.2, mbxEnd_ends _ _⟩

end Dev

open Dev

/-- Settles O26: a GO starts its command, and the conditions choose the command's branch. -/
theorem mailboxCommandsComplete : Obligations.MailboxCommandsComplete := by
  unfold Obligations.MailboxCommandsComplete
  intro s hp
  refine ⟨fun hwork himage hrun hstart hidle hdirect hopen => ?commands, fun hbegun hmay hup => ?finish, fun w hr hroom htaken hnone => ?push,
    fun w rest hr hout hnone => ?pop⟩
  case commands =>
    have hgo : s.dev.TakesGo := ⟨hwork, himage, hrun, hstart, hidle, hdirect⟩
    refine ⟨?info, fun hfree hnoUpdate => ?fwBegin, fun ok hfree hpldm => ?fwEnd, ?fwActivate, ?restart, fun arg harg => ?logRead,
      fun b hfree hdump => ?dumpRead, ?telemetry, fun arg harg => ?shutdown⟩
    case info => exact becomes_of_live rfl hp (mbxVia_bar0 hgo hopen (by decide) rfl (by decide) (by decide) true)
    case fwBegin =>
      refine becomes_of_live rfl hp ((if_pos hopen).trans ((mbxGo_eq hgo (by decide) rfl (by decide) true).trans ?_))
      exact mbxDo_fwBegin (d := (s.dev.commanded 0x10 0).takeIn.2) (arg := 0) (ok := true) hfree hnoUpdate
    case fwEnd =>
      refine becomes_of_live rfl hp ((mbxVia_bar0 hgo hopen (by decide) rfl (by decide) (by decide) ok).trans ?_)
      exact fwEnd_held hfree hpldm himage
    case fwActivate => exact becomes_of_live rfl hp (mbxVia_bar0 hgo hopen (by decide) rfl (by decide) (by decide) true)
    case restart => exact becomes_of_live rfl hp (mbxVia_bar0 hgo hopen (by decide) rfl (by decide) (by decide) true)
    case logRead =>
      have hsome : arg.toNat ≠ 0 := fun h => harg (BitVec.eq_of_toNat_eq h)
      have hrange : argOk 0x20 arg.toNat = true := by
        simp only [argOk, if_true, Bool.and_eq_true, decide_eq_true_eq]
        omega
      refine becomes_of_live rfl hp ((mbxVia_bar0 hgo hopen (by decide) hrange arg.isLt (by decide) true).trans ?_)
      exact logRead_direct (d := s.dev.commanded 0x20 arg.toNat) hdirect
    case dumpRead =>
      refine becomes_of_live rfl hp ((mbxVia_bar0 hgo hopen (by decide) rfl (by decide) (by decide) true).trans ?_)
      exact mbxDo_dumpRead (d := s.dev.commanded 0x21 0) hfree hdump
    case telemetry => exact becomes_of_live rfl hp (mbxVia_bar0 hgo hopen (by decide) rfl (by decide) (by decide) true)
    case shutdown =>
      have hrange : argOk 0x40 arg.toNat = true := decide_eq_true harg
      exact becomes_of_live rfl hp (mbxVia_bar0 hgo hopen (by decide) hrange arg.isLt (by decide) true)
  case finish => exact ⟨_, becomes_of_live rfl hp rfl, shutdownEnd_leaves hbegun hmay hup⟩
  case push =>
    refine becomes_of_live rfl hp ((pfOnly_fn0 _ _ hr ?_).trans (mbxPush_eq hroom htaken hnone))
    simp [sealedOff]
  case pop =>
    refine becomes_of_live rfl hp ((if_pos hr).trans ?_)
    simp only [mbxPop_eq hout hnone]

end Sys2Proof.Machine
end

section
/-! PROOFS. Requests that the firmware serves, and the statement on the commands of the management transports (R326, R377 to R380, R385, R387). -/

namespace Sys2Proof.Machine
namespace Dev

variable {d : Dev}

theorem serve_eq {f : Dev → Dev} (h : d.served = true) : d.serve f = f d.rouse := if_pos h

theorem serveOn_eq {c : Carrier} {f : Dev → Dev} (hc : d.carries c = true) (h : d.served = true) : d.serveOn c f = f d.rouse :=
  (if_pos hc).trans (serve_eq h)

theorem fwRuns_of_served (h : d.served = true) : d.fwRuns = true := (Bool.and_eq_true _ _ ▸ h : _ ∧ _).1

theorem hears_of_served {m : Mctp} (h : d.served = true) (hc : d.carries (.mctp m.medium) = true) : d.hears m = true := by
  rw [hears, fwRuns_of_served h, hc]
  rfl

/-- INFO over MCTP, which needs no session (R378, R382). -/
theorem mbxMctp_info {via : Mctp} {ws : List Word} {ok : Bool} (hbefore : d.hears via = true) (hafter : d.rouse.hears via = true)
    (hidle : d.rouse.mbx.busy = false) (hallowed : d.rouse.mbxAllowed 0x01 = true) : d.mbxMctp via 0x01 0 ws ok =
      (d.rouse.onMbx fun m => { m with mctp := some via }).mbxEnd St.ok ((wordsOf (padTo d.rouse.boot.header 192)).take 48) := by
  unfold mbxMctp
  rw [hbefore, given_true]
  generalize d.rouse = x at hafter hidle hallowed ⊢
  simp only [hafter, hidle, hallowed, Bool.not_true, Bool.false_and, Bool.false_eq_true, if_false]
  rfl

/-- A whole transfer that does not end the image is taken, and the next is asked for (R380). -/
theorem pldmData_more {data : Bytes} (hserved : d.served = true) (hupdate : d.rouse.boot.update = some .pldm)
    (happlied : d.rouse.boot.applied = false) (hlen : data.length = 1024)
    (hmore : (d.rouse.boot.held ++ data).length < 192 + Image.length (d.rouse.boot.held ++ data)) :
    d.pldmData d.rouse.boot.held.length data = (d.rouse.onBoot fun x => { x with held := d.rouse.boot.held ++ data }).pldmAsk := by
  refine (serve_eq hserved).trans ?_
  have hsome : data.isEmpty = false := by
    cases data with
    | nil => simp at hlen
    | cons b l => rfl
  have htaken : (d.rouse.boot.update != some UpdatePath.pldm) = false := by rw [hupdate]; decide
  have hbytes : ¬ data.length > pldmBytes := by rw [hlen, pldmBytes]; omega
  have hfull : ¬ data.length < pldmBytes := by rw [hlen, pldmBytes]; omega
  simp only [htaken, happlied, hsome, hbytes, hfull, hmore.not_ge, ne_eq, not_true_eq_false, decide_false, Bool.or_false, Bool.and_false,
    Bool.false_eq_true, if_false]

/-- The refresh of the sensors, and events that leave. -/
theorem refresh_frame (h : d.fwRuns = true) : { d.refresh with out := d.out } = { d with
    free := d.free + 120, mgmt := { d.mgmt with sensors := d.sensorValues, samples := 0, sumMa := 0, sumW := 0, railSums := [] } } := by
  simp only [refresh, h, Bool.not_true, Bool.false_eq_true, if_false]
  refine each_keeps _ (fun x => { x with out := d.out }) _ (fun x i => ?_) _
  split
  · rfl
  · exact (congrArg (fun y : Dev => { y with out := d.out }) (platformEvent_frame ..) :)

end Dev

open Dev

/-- Settles O27: each request is served on the station that it has waked. -/
theorem managementCommandsComplete : Obligations.ManagementCommandsComplete := by
  unfold Obligations.ManagementCommandsComplete
  intro s hp hserved
  refine ⟨fun req hcarry => ?read, fun via ofs v => becomes_of_live rfl hp rfl, fun via ws hidle hbefore hafter hallowed => ?mailbox,
    fun eid => ⟨?i3c, fun hhigh => ?vdm, fun m hcarry => ?receiver⟩, fun hnone => ?update, fun data hupdate happlied hlen hmore => ?data,
    fun hupdate happlied => ?activate, ?sensors⟩
  case read =>
    refine becomes_of_live rfl hp ?_
    simp [hears_of_served hserved hcarry]
  case mailbox => exact becomes_of_live rfl hp (mbxMctp_info hbefore hafter hidle hallowed)
  case i3c => exact becomes_of_live rfl hp (serveOn_eq (c := .mctp .i3c) rfl hserved)
  case vdm => exact becomes_of_live rfl hp (serveOn_eq (c := .mctp .vdm) hhigh hserved)
  case receiver => exact becomes_of_live rfl hp (serveOn_eq hcarry hserved)
  case update =>
    refine becomes_of_live rfl hp ((serve_eq hserved).trans ?_)
    simp [hnone]
  case data => exact becomes_of_live rfl hp (pldmData_more hserved hupdate happlied hlen hmore)
  case activate =>
    refine becomes_of_live rfl hp ((serve_eq hserved).trans ?_)
    simp [hupdate, happlied]
  case sensors =>
    have hframe := refresh_frame (fwRuns_of_served hserved)
    exact ⟨_, becomes_of_live rfl hp rfl, (congrArg (·.mgmt.sensors) hframe :), (congrArg (·.mgmt.samples) hframe :),
      (congrArg Dev.mem hframe :), (congrArg Dev.work hframe :), (congrArg Dev.cores hframe :)⟩

end Sys2Proof.Machine
end

section
/-! PROOFS. What the registers of a context read as, and the statement on the state after reset (R394). -/

namespace Sys2Proof.Machine
namespace Dev

/-- A register of a context's page reads as its offset in the page says. -/
theorem regAt_ctxOfs (d : Dev) {c o : Nat} (hc : c < 64) (ho : o < 0x1000) : d.regAt (ctxOfs c o) = d.readCtx c o := by
  simp only [regAt, pageOf_ctxOfs hc ho]

theorem ctx_reset (c : Nat) : Dev.reset.ctx c = {} := rfl

/-- After reset every context's page reads as that of the first. -/
theorem readCtx_reset (c o : Nat) : Dev.reset.readCtx c o = Dev.reset.readCtx 0 o := by
  simp only [readCtx, anchorAt, ring, ctx_reset]

theorem regAt_reset {c o : Nat} (hc : c < 64) (ho : o < 0x1000) : Dev.reset.regAt (ctxOfs c o) = Dev.reset.readCtx 0 o := by
  rw [regAt_ctxOfs _ hc ho, readCtx_reset]

end Dev

open Dev

/-- Settles O55: the registers outside the pages are evaluated, and those of the pages on the first page. -/
theorem resetIsAnUnpoweredStation : Obligations.ResetIsAnUnpoweredStation := by
  unfold Obligations.ResetIsAnUnpoweredStation
  refine ⟨rfl, rfl, Memory.wf_reset, rfl, rfl, rfl, rfl, by decide, by decide, fun c hc r hr => ?page, fun c hc n hn => ?ring, fun _ _ => rfl⟩
  case page =>
    have hfirst : ∀ r ∈ [(0x8, 0x807), (0xC, 0x3C000000), (0x10, 0x1F4), (0x14, 0x80000258)],
        r.1 < 0x1000 ∧ Dev.reset.readCtx 0 r.1 = word r.2 := by decide
    obtain ⟨hlt, hval⟩ := hfirst r hr
    exact (regAt_reset hc hlt).trans hval
  case ring =>
    have hfirst : ∀ n < 16, Dev.reset.readCtx 0 (0x110 + 64 * n) = 0x606 ∧ Dev.reset.readCtx 0 (0x114 + 64 * n) = 1 := by decide
    obtain ⟨hcfg, hmod⟩ := hfirst n hn
    have hofs (o : Nat) : 0x100000 + o + 4096 * c + 64 * n = ctxOfs c (o + 64 * n) := by
      rw [ctxOfs]
      omega
    rw [show 0x100110 = 0x100000 + 0x110 from rfl, hofs, show 0x100114 = 0x100000 + 0x114 from rfl, hofs]
    exact ⟨(regAt_reset hc (by omega)).trans hcfg, (regAt_reset hc (by omega)).trans hmod⟩

end Sys2Proof.Machine
end

section
/-! PROOFS. Requests of SPDM that come in their place, logged changes of CLASS 6, and the statement on security commands (R350 to R360, R387,
R409). -/

namespace Sys2Proof.Machine

theorem RecordsOnly.sec {d t : Dev} (h : RecordsOnly d t) : t.sec = d.sec := (congrArg Dev.sec h.station :)
/-- A reply leaves the keys and the state of the IDE stream. -/
theorem RepliesOnly.ide {d t : Dev} (h : RepliesOnly d t) : t.sec.ideNext = d.sec.ideNext ∧ t.sec.ideKey = d.sec.ideKey ∧
    t.sec.ideOn = d.sec.ideOn ∧ t.sec.ideSecure = d.sec.ideSecure :=
  ⟨(congrArg Sec.ideNext h.sec :), (congrArg Sec.ideKey h.sec :), (congrArg Sec.ideOn h.sec :), (congrArg Sec.ideSecure h.sec :)⟩

theorem RecordsPosted.sec {d t : Dev} (h : RecordsPosted d t) : t.sec = d.sec := (congrArg Dev.sec h.station :)

namespace Dev

variable {d : Dev}

/-! ### SPDM (R351, R387) -/

theorem not_restarting_of_served (h : d.served = true) : d.boot.restarting = false := by
  have hup := fwRuns_of_served h
  simp only [fwRuns, Bool.and_eq_true, Bool.not_eq_true'] at hup
  exact hup.1.1

/-- A request that comes in its place is answered on the station that it has waked. -/
theorem spdm_served {m : SpdmMsg} (h : d.served = true) (hc : d.carries m.carrier = true) (hplace : d.rouse.spdmPlace m = none) :
    d.spdm m = d.rouse.spdmAnswer m := by
  refine (if_neg (by simp [not_restarting_of_served h])).trans ((serveOn_eq hc h).trans ?_)
  simp only [spdmServe, hplace]

theorem spdm_busy {x : Option Nat} {r : SpdmReq} (h : d.boot.restarting = true) : d.spdm ⟨.doe, x, r⟩ = d.say .doe 5 (spdmError 3) :=
  if_pos (by simp [h])

/-- A request that may come in clear or in a session is in its place in both. -/
theorem spdmPlace_either {c : Carrier} {x : Option Nat} {r : SpdmReq} (hx : x = none ∨ d.inSession c x = true)
    (hclear : d.spdmPlace ⟨c, none, r⟩ = none) (hin : ∀ n, d.inSession c (some n) = true → d.spdmPlace ⟨c, some n, r⟩ = none) :
    d.spdmPlace ⟨c, x, r⟩ = none := by
  cases x with
  | none => exact hclear
  | some n => exact hin n (hx.resolve_left (Option.some_ne_none n))

theorem spdmPlace_session {c : Carrier} {n : Nat} {r : SpdmReq} (h : d.inSession c (some n) = true)
    (hr : r = .getDigests ∨ (∃ k, r = .getCertificate k) ∨ (∃ i, r = .getMeasurements i) ∨ r = .heartbeat ∨ r = .endSession) :
    d.spdmPlace ⟨c, some n, r⟩ = none := by
  rcases hr with rfl | ⟨k, rfl⟩ | ⟨i, rfl⟩ | rfl | rfl <;> simp [spdmPlace, h]

theorem keyExchange_opens {c : Carrier} (h : d.sec.sessions.length < 4) : d.keyExchange c =
    ({ d with sec := { d.sec with
        sessions := d.sec.sessions ++ [({ id := d.sec.sessionNo, carrier := c } : Session)], sessionNo := d.sec.sessionNo + 1 } }.tookFree).saySigned
      c none (spdmRsp 0x64 (leBytes 4 d.sec.sessionNo ++ Config.ephemeral d.free)) := if_neg h.not_ge

theorem measurementsAsked_one {i : Nat} {b : Bytes} (hzero : i ≠ 0) (hall : i ≠ 255) (h : d.measurementBlock i = some b) :
    d.measurementsAsked i = some [b] := by
  rw [measurementsAsked, if_neg hzero, if_neg hall, h]
  rfl

theorem spdmAnswer_measurement {c : Carrier} {x : Option Nat} {i : Nat} {b : Bytes} (hzero : i ≠ 0) (hall : i ≠ 255)
    (h : d.measurementBlock i = some b) : d.spdmAnswer ⟨c, x, .getMeasurements i⟩ =
      d.saySigned c x (spdmRsp 0x60 (0 :: 0 :: 1 :: leBytes 3 b.length ++ b)) := by
  simp only [spdmAnswer, measurementsAsked_one hzero hall h, if_neg hzero, List.flatten_cons, List.flatten_nil, List.append_nil,
    List.length_singleton]
  rfl

theorem spdmAnswer_endSession {c : Carrier} {n : Nat} : d.spdmAnswer ⟨c, some n, .endSession⟩ =
    (d.answer c (some n) 5 (spdmRsp 0x6C [])).onSec fun x => { x with sessions := x.sessions.filter fun y => y.id != n } := by
  have hother (y : Session) : (some y.id != some n) = (y.id != n) := by simp [bne]
  simp only [spdmAnswer, hother]

/-! ### Logged changes of CLASS 6 (R353, R358) -/

theorem loggedSec_made {origin ctx code old new detail : Nat} {make : Dev → Dev} (hup : d.boot.restarting = false)
    (hroom : d.colRoom 1 = true) : d.loggedSec origin ctx code old new detail make = (St.ok, make (d.log origin ctx 6 code old new detail)) := by
  rw [loggedSec, hup, hroom]
  rfl

theorem logged_made {org : Origin} {ofs ctx cls obj old new detail : Nat} {make : Dev → Dev} (hup : d.boot.restarting = false)
    (hroom : d.colRoom 1 = true) :
    d.logged org ofs ctx cls obj old new detail make = (make (d.log (originCode org) ctx cls obj old new detail)).accepted org := by
  rw [logged, hup, hroom]
  rfl

/-- SET_CONTEXT_KEY of an enabled context is made behind its entry (R353). -/
theorem newKey_made {c : Nat} {key : Bytes} (henable : (d.ctx c).regs.enable = true) (hup : d.boot.restarting = false)
    (hroom : d.colRoom 1 = true) : ∃ x, RecordsOnly d x ∧ d.col.main.length < x.col.main.length ∧
      d.newKey c key = (St.ok, x.onCtx c fun y => { y with key := some key }) := by
  refine ⟨_, log_recordsOnly .., main_length_lt_log .., (if_neg (by simp [henable])).trans (loggedSec_made hup hroom)⟩

theorem setKey_served {n c : Nat} {key : Bytes} {x : Session} (hx : d.sessionOf n = some x) (h : d.served = true)
    (hc : d.carries x.carrier = true) :
    d.setKey n c key = (d.rouse.newKey c key).2.saySealed x 0x7E [(d.rouse.newKey c key).1] := by
  simp only [setKey, hx]
  exact serveOn_eq hc h

/-- What a key that is set leaves, whatever the reply. -/
theorem setKey_leaves {c : Nat} {key : Bytes} {st : Status} {x t : Dev} {s : Session} (hrec : RecordsOnly d x)
    (hlonger : d.col.main.length < x.col.main.length)
    (ht : t = (x.onCtx c fun y => { y with key := some key }).saySealed s 0x7E [st]) :
    (t.ctx c).key = some key ∧ (t.ctx c).regs = (d.ctx c).regs ∧ d.col.main.length < t.col.main.length ∧ t.mem = d.mem := by
  have hreply : RepliesOnly (x.onCtx c fun y => { y with key := some key }) t := by
    rw [ht]
    exact saySealed_repliesOnly ..
  have hctx : t.ctx c = { x.ctx c with key := some key } := (ctx_of_ctxs hreply.ctxs c).trans (ctx_onCtx_self ..)
  rw [hctx, hreply.col, hreply.mem, onCtx_mem, hrec.mem, ctx_of_ctxs hrec.ctxs]
  exact ⟨rfl, rfl, hlonger, rfl⟩

/-! ### PCIe IDE (R358) -/

theorem drainRings_sec : d.drainRings.sec = d.sec := by
  unfold drainRings
  refine each_keeps d sec _ (fun d x => ?_) _
  exact ((flushRing_posted d x.1 x.2 _).trans (busyCheck_posted _ x.1)).sec

theorem settle_sec (j : Job) (st : Status) (result drain : Nat) : (d.settle j st result drain).sec = d.sec :=
  (postRecord_posted ..).sec

theorem finishRuns_sec : d.finishRuns.sec = d.sec := by
  refine each_keeps d sec _ (fun d j => ?_) _
  split
  · rfl
  · exact settle_sec ..

theorem ideState_sec (on secure : Bool) : (d.ideState on secure).sec = { d.sec with ideOn := on, ideSecure := secure } :=
  finishRuns_sec.trans drainRings_sec

theorem ide_served {n : Nat} {req : IdeReq} {x : Session} (hx : d.sessionOf n = some x) (hdoe : x.carrier = .doe) (h : d.served = true)
    (hc : d.carries .doe = true) : d.ide n req = (d.rouse.ideDo req).2.saySealed x 5 [(d.rouse.ideDo req).1] := by
  simp only [ide, hx, hdoe, if_true]
  exact serveOn_eq hc h

theorem ideDo_setKey {k : Bytes} (hup : d.boot.restarting = false) (hroom : d.colRoom 1 = true) :
    (d.ideDo (.setKey k)).2.sec = { d.sec with ideNext := some k } := by
  simp only [ideDo, loggedSec_made hup hroom, onSec, (log_recordsOnly ..).sec]

theorem ideDo_enable {k : Bytes} (hnext : d.sec.ideNext = some k) (hup : d.boot.restarting = false) (hroom : d.colRoom 1 = true) :
    (d.ideDo .enable).2.sec = { d.sec with ideKey := some k, ideNext := none, ideOn := true, ideSecure := true } := by
  have hset : (d.sec.ideKey.isNone && d.sec.ideNext.isNone) = false := by simp [hnext]
  simp only [ideDo, hset, Bool.false_eq_true, if_false, loggedSec_made hup hroom, ideState_sec, onSec, (log_recordsOnly ..).sec]
  rw [hnext]
  rfl

/-! ### Words of a token (R359) -/

/-- What a word of a token does where its origin may write it. -/
def tokenTaken (d : Dev) (org : Origin) (w : Word) : Dev :=
  if d.sec.locked then d.accepted org
  else
    let ws := d.sec.token ++ [w]
    let d1 := d.onSec fun x => { x with token := ws }
    (if ws.length < 24 then d1 else d1.tryToken org (ws.flatMap fun x => leBytes 4 x.toNat)).accepted org

theorem tokenTaken_part {org : Origin} {w : Word} (hlock : d.sec.locked = false) (hpart : d.sec.token.length < 23) :
    d.tokenTaken org w = ({ d with sec := { d.sec with token := d.sec.token ++ [w] } }).accepted org := by
  have hshort : (d.sec.token ++ [w]).length < 24 := by
    rw [List.length_append, List.length_singleton]
    omega
  simp only [tokenTaken, hlock, Bool.false_eq_true, if_false, if_pos hshort, onSec]

theorem tokenWord_jtag {w : Word} (h : d.sealedOff 0x90028 = false) : d.tokenWord .jtag w = d.tokenTaken .jtag w :=
  if_neg (ne_true_of_eq_false h)

theorem tokenWord_mgmt {m : Mctp} {w : Word} (hwakes : d.hears m = true) (hreach : d.rouse.reaches (.mgmt m) 0x90028 = true)
    (hsession : d.rouse.inSession (.mctp m.medium) m.session = true) (hopen : d.rouse.sealedOff 0x90028 = false) :
    d.tokenWord (.mgmt m) w = d.rouse.tokenTaken (.mgmt m) w := by
  have hwoken : d.wokenBy (.mgmt m) = d.rouse := by simp only [wokenBy, hwakes, given_true]
  have hhears : d.rouse.hears m = true := (Bool.and_eq_true _ _ ▸ hreach : _ ∧ _).2
  have hheard : d.rouse.unheard (.mgmt m) = false := by simp [unheard, hhears, hsession]
  have hwrite : d.tokenWord (.mgmt m) w = d.written (.mgmt m) 0x90028 fun d => d.tokenTaken (.mgmt m) w := rfl
  rw [hwrite, written_eq _ (by rwa [hwoken]) (by rwa [hwoken]) (by rwa [hwoken]), hwoken]

/-! ### Trust anchors (R355) -/

/-- An entry of a context takes a key, and CTX_ANCHOR_SEL its index. -/
def anchorPut (d : Dev) (c i : Nat) (k : Bytes) : Dev :=
  (d.onRegs c fun r => { r with anchorSel := word i }).onCtx c fun x => { x with anchors := x.anchors.set [] i k }

/-- What a change of an anchor leaves, behind its entry and before its reply. -/
theorem anchorPut_leaves {org : Origin} {c i : Nat} {k : Bytes} {x t : Dev} (hrec : RecordsOnly d x)
    (ht : t = (x.anchorPut c i k).accepted org) : (t.ctx c).anchors.get [] i = k ∧ t.mem = d.mem := by
  have hreply : RepliesOnly (x.anchorPut c i k) t := by
    rw [ht]
    exact accepted_repliesOnly _ org
  have hput : ((x.anchorPut c i k).ctx c).anchors.get [] i = k := by
    rw [anchorPut, ctx_onCtx_self, Table.get_set_self]
  exact ⟨by rw [ctx_of_ctxs hreply.ctxs, hput], hreply.mem.trans hrec.mem⟩

/-- A refusal leaves every anchor. -/
theorem refuse_anchors (org : Origin) (ofs c : Nat) (st : Status) : ((d.refuse org ofs st).ctx c).anchors = (d.ctx c).anchors := by
  rw [ctx_of_ctxs refuse_repliesOnly.ctxs]
  cases hpage : pageOf ofs with
  | none => rw [ctx_of_ctxs (refusalNoted_ctxs hpage)]
  | some p =>
    rw [refusalNoted_page hpage, onRegs]
    by_cases hc : p.1 = c
    · subst hc
      rw [ctx_onCtx_self]
      rfl
    · rw [ctx_onCtx_ne _ _ hc]
      rfl

theorem refuse_mem (org : Origin) (ofs : Nat) (st : Status) : (d.refuse org ofs st).mem = d.mem :=
  refuse_repliesOnly.mem.trans (congrArg Dev.mem refusalNoted_frame :)

/-- A write of CTX_ANCHOR_SEL that arrives. -/
structure ArrivesAnchor (d : Dev) (org : Origin) (c : Nat) : Prop where
  heard : (d.wokenBy org).unheard org = false
  reaches : (d.wokenBy org).reaches org (ctxOfs c 0x40) = true
  opens : (d.wokenBy org).sealedOff (ctxOfs c 0x40) = false
  working : (d.wokenBy org).boot.restarting = false
  room : (d.wokenBy org).colRoom 1 = true

section
variable {org : Origin} {c : Nat} {v : Word} (h : d.ArrivesAnchor org c)
include h

/-- REMOVE empties the entry (R355). -/
theorem anchorWrite_remove (hcommit : flag v 31 = false) (hremove : flag v 30 = true) :
    ∃ x, RecordsOnly (d.wokenBy org) x ∧ d.anchorWrite org c v = (x.anchorPut c (fld v 2 0) []).accepted org := by
  unfold anchorWrite
  dsimp only
  rw [written_eq _ h.heard h.reaches h.opens, hcommit, hremove]
  simp only [Bool.false_eq_true, if_false, if_true, logged_made h.working h.room]
  exact ⟨_, log_recordsOnly .., rfl⟩

/-- COMMIT installs the key of the DATA words, where it is one and no other entry holds it (R355). -/
theorem anchorWrite_commit (hcommit : flag v 31 = true) (hcurve : Config.onCurve ((d.wokenBy org).anchorKey c) = true)
    (hnew : ∀ i < 8, (d.wokenBy org).anchorAt c i ≠ anchorId ((d.wokenBy org).anchorKey c)) :
    ∃ x, RecordsOnly (d.wokenBy org) x ∧
      d.anchorWrite org c v = (x.anchorPut c (fld v 2 0) ((d.wokenBy org).anchorKey c)).accepted org := by
  have hother : (!Config.onCurve ((d.wokenBy org).anchorKey c) || (List.range 8).any fun e => e != fld v 2 0 &&
      (d.wokenBy org).anchorAt c e = anchorId ((d.wokenBy org).anchorKey c) && !(((d.wokenBy org).ctx c).anchors.get [] e).isEmpty) = false := by
    rw [hcurve]
    simpa using fun i hi _ he => absurd he (hnew i hi)
  unfold anchorWrite
  dsimp only
  rw [written_eq _ h.heard h.reaches h.opens, hcommit, hother]
  simp only [Bool.false_eq_true, if_false, if_true, logged_made h.working h.room]
  exact ⟨_, log_recordsOnly .., rfl⟩

/-- A key that is no point of the curve is refused (R355). -/
theorem anchorWrite_refused (hcommit : flag v 31 = true) (hcurve : Config.onCurve ((d.wokenBy org).anchorKey c) = false) :
    d.anchorWrite org c v = (d.wokenBy org).refuse org (ctxOfs c 0x40) St.notPermitted := by
  unfold anchorWrite
  dsimp only
  rw [written_eq _ h.heard h.reaches h.opens, hcommit, hcurve]
  rfl

end

end Dev

open Dev

/-- Settles O28: requests are served in their place, and a logged change differs from its station by the entry, the change and the reply. -/
theorem securityCommandsComplete : Obligations.SecurityCommandsComplete := by
  unfold Obligations.SecurityCommandsComplete
  intro s hp
  refine ⟨fun hserved c => ⟨fun hcarry hfew => ?keyExchange, fun hcarry => ⟨?version, ?capabilities, ?algorithms, ?challenge⟩,
    fun x hcarry hx => ⟨?digests, ?certificate, fun i b hzero hall hblock => ?measurements⟩, fun n hcarry hin => ⟨?heartbeat, ?endSession⟩,
    fun n x ctx key hx hcarry henable hup hroom => ?contextKey, fun n x k hx hdoe hcarry hup hroom => ⟨?ideKey, fun hnext => ?ideEnable⟩⟩,
    fun x r hdown => becomes_of_live rfl hp (spdm_busy hdown), fun hon => ?notSecure, fun w hopen hlock hpart => ?jtagWord,
    fun m w hwakes hreach hsession hopen hlock hpart => ?mgmtWord, fun hlock => ?expiry, becomes_of_live rfl hp rfl,
    fun mem a n b hlevel => ⟨?readMem, ?writeMem⟩, fun org ctx v hheard hreach hopen hup hroom => ⟨fun hcommit hremove => ?remove,
      fun hcommit hnew => ?commit⟩⟩
  case keyExchange => exact becomes_of_live rfl hp ((spdm_served hserved hcarry rfl).trans (keyExchange_opens hfew))
  case version => exact becomes_of_live rfl hp (spdm_served hserved hcarry rfl)
  case capabilities => exact becomes_of_live rfl hp (spdm_served hserved hcarry rfl)
  case algorithms => exact becomes_of_live rfl hp (spdm_served hserved hcarry rfl)
  case challenge => exact becomes_of_live rfl hp (spdm_served hserved hcarry rfl)
  case digests => exact becomes_of_live rfl hp (spdm_served hserved hcarry (spdmPlace_either hx rfl fun n hn => spdmPlace_session hn (by simp)))
  case certificate =>
    exact becomes_of_live rfl hp (spdm_served hserved hcarry (spdmPlace_either hx rfl fun n hn => spdmPlace_session hn (by simp)))
  case measurements =>
    exact becomes_of_live rfl hp ((spdm_served hserved hcarry (spdmPlace_either hx rfl fun n hn => spdmPlace_session hn (by simp))).trans
      (spdmAnswer_measurement hzero hall hblock))
  case heartbeat => exact becomes_of_live rfl hp (spdm_served hserved hcarry (spdmPlace_session hin (by simp)))
  case endSession =>
    exact becomes_of_live rfl hp ((spdm_served hserved hcarry (spdmPlace_session hin (by simp))).trans spdmAnswer_endSession)
  case contextKey =>
    obtain ⟨y, hrec, hlonger, hmade⟩ := newKey_made (key := key) henable hup hroom
    refine ⟨_, becomes_of_live rfl hp (setKey_served hx hserved hcarry), ?_⟩
    exact setKey_leaves hrec hlonger (by rw [hmade])
  case ideKey =>
    obtain ⟨hnext, hkey, hon, -⟩ := (saySealed_repliesOnly (s.dev.rouse.ideDo (.setKey k)).2 x 5 [(s.dev.rouse.ideDo (.setKey k)).1]).ide
    rw [ideDo_setKey hup hroom] at hnext hkey hon
    exact ⟨_, becomes_of_live rfl hp (ide_served hx hdoe hserved hcarry), hnext, hkey, hon⟩
  case ideEnable =>
    obtain ⟨hleft, hkey, hon, hsecure⟩ := (saySealed_repliesOnly (s.dev.rouse.ideDo .enable).2 x 5 [(s.dev.rouse.ideDo .enable).1]).ide
    rw [ideDo_enable hnext hup hroom] at hleft hkey hon hsecure
    exact ⟨_, becomes_of_live rfl hp (ide_served hx hdoe hserved hcarry), hkey, hleft, hon, hsecure⟩
  case notSecure => exact becomes_of_live rfl hp (if_pos hon)
  case jtagWord => exact becomes_of_live rfl hp ((tokenWord_jtag hopen).trans (tokenTaken_part hlock hpart))
  case mgmtWord => exact becomes_of_live rfl hp ((tokenWord_mgmt hwakes hreach hsession hopen).trans (tokenTaken_part hlock hpart))
  case expiry =>
    have hnow : min (s.dev.sec.lockedAt + 60000000000) (2 ^ 64 - 1) ≤ (s.dev.reach (s.dev.sec.lockedAt + 60000000000)).now := by
      rw [now_reach]
      omega
    exact ⟨_, becomes_of_live rfl hp (if_pos hlock), rfl, hnow⟩
  case readMem =>
    refine becomes_of_live rfl hp ?_
    simp [jtagDo, hlevel]
  case writeMem =>
    refine becomes_of_live rfl hp ?_
    simp [jtagDo, hlevel]
  case remove =>
    obtain ⟨x, hrec, hput⟩ := anchorWrite_remove ⟨hheard, hreach, hopen, hup, hroom⟩ hcommit hremove
    exact ⟨_, becomes_of_live rfl hp rfl, anchorPut_leaves hrec hput⟩
  case commit =>
    have harrives : s.dev.ArrivesAnchor org ctx.val := ⟨hheard, hreach, hopen, hup, hroom⟩
    by_cases hcurve : Config.onCurve ((s.dev.wokenBy org).anchorKey ctx.val) = true
    · obtain ⟨x, hrec, hput⟩ := anchorWrite_commit harrives hcommit hcurve hnew
      obtain ⟨hkey, hmem⟩ := anchorPut_leaves hrec hput
      exact ⟨_, becomes_of_live rfl hp rfl, hkey.trans (if_pos hcurve).symm, hmem⟩
    · have hrefused := anchorWrite_refused harrives hcommit (eq_false_of_ne_true hcurve)
      refine ⟨_, becomes_of_live rfl hp hrefused, ?_, refuse_mem ..⟩
      dsimp only
      rw [refuse_anchors]
      exact (if_neg hcurve).symm

end Sys2Proof.Machine
end
